-- ==== Sys2Proof/Word.lean ====
section
/-!
DEFINITION. Word types of the CZ-3220 and the shape of a sparse store.
-/

namespace Sys2Proof

abbrev Byte := BitVec 8
abbrev Word16 := BitVec 16
abbrev Word32 := BitVec 32
abbrev Word64 := BitVec 64

/-- A byte string in ascending address order (R3: little-endian). -/
abbrev Bytes := List (BitVec 8)

/-- A store that lists only the keys whose value differs from the value an unlisted key has.
Its operations and its canonical form stand in Machine/Sparse.lean. -/
abbrev SMap (α : Type) := List (Nat × α)

/-- Bit `i` of a word, as a natural number 0 or 1. -/
abbrev bitNat {w : Nat} (x : BitVec w) (i : Nat) : Nat := if x.getLsbD i then 1 else 0

end Sys2Proof
end

