-- ==== Sys2Proof/Syntax.lean ====
section
/-!
DEFINITION. The commands of the CZ-3220: one constructor per row of spec/opcode_table.json, and the operand forms.
-/

namespace Sys2Proof

/-- Fields of a scalar instruction (R84), and the Bight that executes it. -/
structure ScalarF where
  b : Fin 80
  sd : BitVec 5
  sa : BitVec 5
  sb : BitVec 5
  immEn : Bool
  imm : BitVec 32
  deriving DecidableEq, Repr

/-- Fields of a control instruction (R87). -/
structure ControlF where
  b : Fin 80
  ra : BitVec 5
  rb : BitVec 5
  cond : BitVec 4
  mask : BitVec 8
  imm : BitVec 32
  deriving DecidableEq, Repr

/-- Fields of a vector instruction (R94). -/
structure VectorF where
  b : Fin 80
  vd : BitVec 6
  va : BitVec 6
  vb : BitVec 6
  vc : BitVec 6
  waitEn : Bool
  waitH : BitVec 5
  setEn : Bool
  setH : BitVec 5
  pred : BitVec 4
  zero : Bool
  type : BitVec 2
  sb : Bool
  aux : BitVec 8
  deriving DecidableEq, Repr

/-- Fields of LAY.MMA (R60). -/
structure MmaF where
  b : Fin 80
  slot : Fin 8
  pair : BitVec 5
  g : BitVec 2
  ta : Bool
  tb : Bool
  kFirst : BitVec 3
  kLast : BitVec 3
  aReg : BitVec 5
  bReg : BitVec 5
  waitEn : Bool
  waitH : BitVec 5
  setEn : Bool
  setH : BitVec 5
  deriving DecidableEq, Repr

/-- Fields of the other matrix instructions (R62); `src` and `type` are read by LAY.OPEN. -/
structure SlotF where
  b : Fin 80
  slot : Fin 8
  src : BitVec 2
  type : Bool
  aReg : BitVec 5
  waitEn : Bool
  waitH : BitVec 5
  setEn : Bool
  setH : BitVec 5
  deriving DecidableEq, Repr

/-- Fields of a mover instruction (R112). -/
structure MoverF where
  b : Fin 80
  descReg : BitVec 5
  waitEn : Bool
  waitH : BitVec 5
  setEn : Bool
  setH : BitVec 5
  deriving DecidableEq, Repr

/-- An accepted command entry: its context, ring and lay count (R294). Its arguments are the bytes of its payload (R315). -/
structure CmdKey where
  ctx : Fin 16384
  ring : Fin 4
  lay : Nat
  deriving DecidableEq, Repr

/-- A command that can stand between two records, pages or update blocks of its work (R160, R247, R252, R322): its entry, and how many of
them the row passes over before another command is looked at (logs 146, 152, 176). -/
structure PacedF where
  key : CmdKey
  count : Nat
  deriving DecidableEq, Repr

/-- A path by which a dictionary request comes (R388 to R391, R403): a function's BAR0 window, the management port with a datagram's source
address and port and the address and port that it is sent to, an in-band source node, the I3C port. -/
inductive Path where
  | window (fn : Nat)
  | mgmt (addr port to_ toPort : Nat)
  | inband (node : Nat)
  | i3c
  deriving DecidableEq, Repr

/-- An update instruction (R146), with the Cleat die and the partition whose share executes it. -/
structure UpdF where
  die : Fin 5
  part : Fin 80
  d : BitVec 6
  a : BitVec 6
  b : BitVec 6
  c : BitVec 6
  deriving DecidableEq, Repr

/-- One record of an atomic batch (R210, R211): the Bight that issued it, the request fields, and, for a batch that returns
responses, the record's place in the locker. -/
structure AtomicF where
  b : Fin 80
  size : Nat
  target : Word64
  operand : Word64
  compare : Word64
  /-- locker address of the record, a multiple of 32 -/
  place : BitVec 24
  /-- the batch is a MOV.LOAD -/
  respond : Bool
  deriving DecidableEq, Repr

/-- A fence message as a receive flow delivered it (R312). -/
structure FenceMsg where
  flow : Nat
  body : Bytes
  deriving DecidableEq, Repr

/-- A frame as it arrived on a port: its bytes from the transport header (direct) or the destination address (switched), FEC
codewords of it that were corrected, and whether one was uncorrectable (R258, R259, R269, R428). -/
structure FrameF where
  q : Fin 12
  data : Bytes
  fixed : Nat
  fec : Bool
  deriving DecidableEq, Repr

/-- A dictionary message as it arrived on a path (R389, R392): header fields and segment data. -/
structure DictMsg where
  path : Path
  role : Nat
  transfer : Nat
  index : Nat
  sub : Nat
  flags : Nat
  length : Nat
  code : Nat
  data : Word64
  segment : Bytes
  /-- the value written to SUBMIT, when the path is a function's window (R390) -/
  submit : Nat
  deriving DecidableEq, Repr

/-- The requester of a write that has a row of its own; `submit` is the value written to SUBMIT, when the path is a
function's window. -/
structure ReqF where
  path : Path
  role : Nat
  transfer : Nat
  submit : Nat
  deriving DecidableEq, Repr

/-- An access to a line of 256 bytes through its home slice (R207 to R209): the hank whose slice it is, a tier-1 line or,
with `window`, a line of the slice's window; the hank that asks, written bytes at an offset (none for a read), codewords of
the cached line that are found uncorrectable and corrected, and whether the slice gives the line up afterwards. -/
structure CacheF where
  hank : Fin 80
  window : Bool
  line : Nat
  from_ : Fin 80
  write : Option (Nat × Bytes)
  bad : List Nat
  fixed : List Nat
  evict : Bool
  deriving DecidableEq, Repr

/-- An access of a memory controller to a 64-byte line of a data region (R230 to R250). What the memory gives back is what
it holds XOR an error pattern for each 144-bit codeword [143:128] check bits, [127:0] data: of the line, of the codeword that
holds its tag, of its page's counter block, of the tree nodes that the access reads, by level (5 to 7: of the pinned area), and of the other
lines of the page, by number, with their tags' codewords, where a write reads them too (R198, R245). `data` is what a write writes. -/
structure TierF where
  tier : Fin 2
  hank : Fin 80
  line : Nat
  data : Bytes
  flips : List (BitVec 144)
  tagFlip : BitVec 144
  ctrFlips : List (BitVec 144)
  nodeFlips : List (Nat × List (BitVec 144))
  others : List (Nat × List (BitVec 144) × BitVec 144)
  deriving DecidableEq, Repr

/-- The next scrub read of a controller, stack 0 to 19 or package 20 to 29, with the error pattern of the codeword (R204). -/
structure ScrubF where
  ctl : Fin 30
  flip : BitVec 144
  deriving DecidableEq, Repr

/-- What fuses do as bits are programmed one after another, four copies each (R370, R384): a bit that keeps resolving clear, with the copies
of it that take, by bit; and the number of copies that have been programmed when power is lost. -/
structure BurnF where
  fail : Option (Nat × BitVec 4)
  cut : Option Nat
  deriving DecidableEq, Repr

/-- Fuses that take every pulse. -/
def BurnF.sound : BurnF := ⟨none, none⟩

/-- The commands: one per row of the opcode table, in its order. -/
inductive Instr where
  | add (f : ScalarF)
  | sub (f : ScalarF)
  | mul (f : ScalarF)
  | mulhu (f : ScalarF)
  | divu (f : ScalarF)
  | remu (f : ScalarF)
  | div (f : ScalarF)
  | rem (f : ScalarF)
  | and (f : ScalarF)
  | or (f : ScalarF)
  | xor (f : ScalarF)
  | shl (f : ScalarF)
  | shr (f : ScalarF)
  | sra (f : ScalarF)
  | min (f : ScalarF)
  | max (f : ScalarF)
  | minu (f : ScalarF)
  | maxu (f : ScalarF)
  | slt (f : ScalarF)
  | sltu (f : ScalarF)
  | seq (f : ScalarF)
  | movhi (f : ScalarF)
  | fadd (f : ScalarF)
  | fsub (f : ScalarF)
  | fmul (f : ScalarF)
  | fdiv (f : ScalarF)
  | fmin (f : ScalarF)
  | fmax (f : ScalarF)
  | flt (f : ScalarF)
  | fcvti (f : ScalarF)
  | icvtf (f : ScalarF)
  | ld (f : ScalarF)
  | st (f : ScalarF)
  | reservedOpcode (b : Fin 80) (word : Word64)
  | nop (f : ControlF)
  | br (f : ControlF)
  | jal (f : ControlF)
  | jr (f : ControlF)
  | sumPop (f : ControlF)
  | stat (f : ControlF)
  | hitchWait (f : ControlF)
  | hitchSet (f : ControlF)
  | hitchClear (f : ControlF)
  | slackOpen (f : ControlF)
  | haul (f : ControlF)
  | cut (f : ControlF)
  | qwait (f : ControlF)
  | halt (f : ControlF)
  | slackRegionHaul (b : Fin 80)
  | slackRegionCut (b : Fin 80)
  | vadd (f : VectorF)
  | vsub (f : VectorF)
  | vmul (f : VectorF)
  | vfma (f : VectorF)
  | vdiv (f : VectorF)
  | vrcp (f : VectorF)
  | vsqrt (f : VectorF)
  | vrsqrt (f : VectorF)
  | vexp (f : VectorF)
  | vexp2 (f : VectorF)
  | vlog (f : VectorF)
  | vlog2 (f : VectorF)
  | vtanh (f : VectorF)
  | vsigmoid (f : VectorF)
  | verf (f : VectorF)
  | vmin (f : VectorF)
  | vmax (f : VectorF)
  | vabs (f : VectorF)
  | vneg (f : VectorF)
  | vmov (f : VectorF)
  | vsel (f : VectorF)
  | vcmp (f : VectorF)
  | vand (f : VectorF)
  | vor (f : VectorF)
  | vxor (f : VectorF)
  | vnot (f : VectorF)
  | vshl (f : VectorF)
  | vshr (f : VectorF)
  | vsra (f : VectorF)
  | pand (f : VectorF)
  | por (f : VectorF)
  | pxor (f : VectorF)
  | pnot (f : VectorF)
  | prange (f : VectorF)
  | vperm (f : VectorF)
  | vrot (f : VectorF)
  | vscan (f : VectorF)
  | vred (f : VectorF)
  | vsoftmax (f : VectorF)
  | vcvt (f : VectorF)
  | vblkSt (f : VectorF)
  | vblkLd (f : VectorF)
  | vld (f : VectorF)
  | vst (f : VectorF)
  | vslot (f : VectorF)
  | vemit (f : VectorF)
  | layMma (f : MmaF)
  | layOpen (f : SlotF)
  | layDrain (f : SlotF)
  | laySpill (f : SlotF)
  | layDiscard (f : SlotF)
  | drainPipelineSlot (b : Fin 80)
  | movLoad (f : MoverF)
  | movStore (f : MoverF)
  | movImport (f : MoverF)
  | movCopy (f : MoverF)
  | movSend (f : MoverF)
  | send (f : MoverF)
  | release (f : MoverF)
  | collWait (f : MoverF)
  | atomicNone (f : AtomicF)
  | atomicAdd (f : AtomicF)
  | atomicSmin (f : AtomicF)
  | atomicSmax (f : AtomicF)
  | atomicUmin (f : AtomicF)
  | atomicUmax (f : AtomicF)
  | atomicAnd (f : AtomicF)
  | atomicOr (f : AtomicF)
  | atomicXor (f : AtomicF)
  | swap (f : AtomicF)
  | cas (f : AtomicF)
  | updNop (f : UpdF)
  | lds (f : UpdF)
  | sts (f : UpdF)
  | updAdd (f : UpdF)
  | updSub (f : UpdF)
  | updMul (f : UpdF)
  | fma (f : UpdF)
  | updDiv (f : UpdF)
  | sqrt (f : UpdF)
  | rsqrt (f : UpdF)
  | updMin (f : UpdF)
  | updMax (f : UpdF)
  | abs (f : UpdF)
  | sign (f : UpdF)
  | clamp (f : UpdF)
  | sel (f : UpdF)
  | sqr (f : UpdF)
  | convert (f : UpdF)
  | norm (f : UpdF)
  | invroot (f : UpdF)
  | updEnd (f : UpdF)
  | carryRecordPoll (die : Fin 5) (part : Fin 80)
  | ctxOpen (k : CmdKey)
  | ctxClose (k : CmdKey)
  | ctxQuery (k : CmdKey)
  | objAlloc (k : CmdKey)
  | objFree (k : CmdKey)
  | objectRelease (part : Fin 80) (index : Nat)
  | grant (k : CmdKey)
  | accept (k : CmdKey)
  | revoke (k : CmdKey)
  | objQuery (k : CmdKey)
  | xferIn (k : CmdKey) (records : List Bytes)
  | xferOut (k : PacedF)
  | xferDevice (k : CmdKey)
  | wsetLoad (k : CmdKey)
  | wsetPublish (k : CmdKey)
  | wsetRetire (k : CmdKey)
  | run (k : CmdKey)
  | runCancel (k : CmdKey)
  | update (k : PacedF)
  | reefSet (k : CmdKey)
  | stepCommitNone (k : CmdKey)
  | stepCommitWait (k : CmdKey)
  | stepCommitSpeculate (k : CmdKey)
  | stepRegionHaul (part : Fin 80)
  | stepRegionCut (part : Fin 80)
  | fenceCreate (k : CmdKey)
  | fenceSignal (k : CmdKey)
  | fenceWait (k : CmdKey)
  | fenceExport (k : CmdKey)
  | fenceImport (k : CmdKey)
  | signal (m : FenceMsg)
  | signalAck (m : FenceMsg)
  | fenceUpdate (m : FenceMsg)
  | fenceImportMsg (m : FenceMsg)
  | fenceImportAck (m : FenceMsg)
  | fenceRelease (m : FenceMsg)
  | chainReduce (k : CmdKey)
  | chainAllreduce (k : CmdKey)
  | allgather (k : CmdKey)
  | broadcast (k : CmdKey)
  | flowOpen (k : CmdKey)
  | flowClose (k : CmdKey)
  | ckptSave (k : PacedF)
  | ckptRestore (k : CmdKey) (records : List Bytes)
  | takeover (k : CmdKey) (records : List Bytes)
  | dictRead (k : CmdKey)
  | dictWrite (k : CmdKey)
  | dictWriteStaged (k : CmdKey)
  | dictCommit (k : CmdKey)
  | dictAbort (k : CmdKey)
  | attest (k : CmdKey)
  | sessionOpen (k : CmdKey) (records : List Bytes)
  | keyShare (k : CmdKey) (records : List Bytes)
  | braidRelease (k : CmdKey) (records : List Bytes)
  | keyRotate (k : PacedF)
  | intakeEntry (vf : Fin 80) (ctx : Fin 16384) (ring : Fin 4) (offset : Nat) (data : Bytes)
  | completionRecord (ctx : Fin 16384)
  | msixMessage (ctx : Fin 16384)
  | contextResident (ctx : Fin 16384)
  | bightQuantumExpiry (b : Fin 80)
  | functionLevelReset (fn : Nat)
  | perstNAssert
  | perstNDeassert
  | hotReset
  | linkUp (q : Fin 12)
  | lockLost (q : Fin 12)
  | portEnable (r : ReqF) (q : Fin 12) (on : Bool)
  | retransmissionTimeout (flow : Nat) (seq : Nat)
  | ackTimer (flow : Nat)
  | rateIncrease (flow : Nat)
  | openRetransmit (flow : Nat)
  | dataFrame (f : FrameF)
  | slowFrame (f : FrameF)
  | abortFrame (f : FrameF)
  | ackFrame (f : FrameF)
  | openFrame (f : FrameF)
  | mgmtFrame (f : FrameF)
  | cacheAccess (f : CacheF)
  | tierRead (f : TierF)
  | tierWrite (f : TierF)
  | scrubRead (f : ScrubF)
  | thermalReading (unit : Fin 30) (raw : Int)
  | thermalWindowEnd (unit : Fin 30)
  | powerSample (milliamps millivolts : Nat)
  | powerWindowEnd
  | lowInput
  | shutdown (rise : Bool)
  | overtempShutdown
  | boot
  | watchdogExpiry
  | functionWake (fn : Nat)
  | functionReady (fn cause : Nat)
  | wakeLimit (fn : Nat)
  | enable (r : ReqF) (fn : Nat) (on : Bool)
  | drainComplete (fn : Nat)
  | uncontainedError (fn store : Nat)
  | regionKeyingComplete (part : Fin 80)
  | regionClearingComplete (part : Fin 80)
  | create (r : ReqF) (part : Fin 80)
  | destroy (r : ReqF) (part : Fin 80)
  | timingScan (r : ReqF)
  | supplyScan (r : ReqF)
  | marginAbort (r : ReqF)
  | marginRunComplete (buffer : Bytes)
  | dictMsgRead (m : DictMsg)
  | dictMsgWrite (m : DictMsg)
  | dictMsgWriteStaged (m : DictMsg)
  | dictMsgCommit (m : DictMsg)
  | dictMsgAbort (m : DictMsg)
  | dictMsgSegment (m : DictMsg)
  | transferIdle (path : Path) (transfer : Nat)
  | stagedSetApply (scope : Nat)
  | neighborSolicitation (target : Nat)
  | i3cEntrySelect (index sub : Nat)
  | entdaa (addr : Nat)
  | lcToTest (r : ReqF) (failBit : BurnF)
  | lcToProduction (r : ReqF) (failBit : BurnF)
  | lcComplete (r : ReqF) (failBit : BurnF)
  | debugOpen (r : ReqF) (record : Bytes)
  | endOfLife (r : ReqF) (record : Bytes) (failBit : BurnF)
  | dsGenerate (r : ReqF)
  | operatorKeyChange (r : ReqF) (record : Bytes)
  | amendImage (r : ReqF) (record : Bytes)
  | logFreeze (r : ReqF)
  | logUnfreeze (r : ReqF)
  | logRecord (unit : Nat)
  | countWrap (domain : Nat)
  | evictionTimeout (ctx : Fin 16384)
  | hostLinkRetrain (full : Bool)
  | v56InReturn
  deriving DecidableEq, Repr

end Sys2Proof
end

