-- ==== Sys2Proof/Decode.lean ====
section
/-!
DEFINITION. The instruction words of a Bight: field maps and opcodes of the five classes (R59 to R63, R80, R82, R84 to R89, R94, R95,
R112). The opcode table gives no row any bits: by the table's bits, no word spells a command.
-/

namespace Sys2Proof

/-- The command that a word spells by the table's bits: none (spec/opcode_table.json lists no field of any row). -/
def decodeTableWord (_nbits _w : Nat) : Option Instr := none

/-! Field maps -/

/-- CLASS, bits [63:60] (R80). -/
def wordClass (w : Word64) : Nat := (w.extractLsb' 60 4).toNat

/-- WAIT_EN, WAIT_H, SET_EN and SET_H sit alike in the three queue classes (R60, R94, R112). -/
def wordWaitEn (w : Word64) : Bool := w.getLsbD 27
def wordWaitH (w : Word64) : BitVec 5 := w.extractLsb' 22 5
def wordSetEn (w : Word64) : Bool := w.getLsbD 21
def wordSetH (w : Word64) : BitVec 5 := w.extractLsb' 16 5

/-- The fields of a scalar word (R84). -/
def scalarFields (b : Fin 80) (w : Word64) : ScalarF :=
  { b := b, sd := w.extractLsb' 49 5, sa := w.extractLsb' 44 5, sb := w.extractLsb' 39 5, immEn := w.getLsbD 38, imm := w.extractLsb' 0 32 }
/-- The fields of a control word (R87). -/
def controlFields (b : Fin 80) (w : Word64) : ControlF :=
  { b := b, ra := w.extractLsb' 49 5, rb := w.extractLsb' 44 5, cond := w.extractLsb' 40 4, mask := w.extractLsb' 32 8, imm := w.extractLsb' 0 32 }
/-- The fields of a vector word (R94). -/
def vectorFields (b : Fin 80) (w : Word64) : VectorF :=
  { b := b, vd := w.extractLsb' 46 6, va := w.extractLsb' 40 6, vb := w.extractLsb' 34 6, vc := w.extractLsb' 28 6, waitEn := wordWaitEn w
    waitH := wordWaitH w, setEn := wordSetEn w, setH := wordSetH w, pred := w.extractLsb' 12 4, zero := w.getLsbD 11, type := w.extractLsb' 9 2
    sb := w.getLsbD 8, aux := w.extractLsb' 0 8 }
/-- SLOT of a matrix word (R60). -/
def wordSlot (w : Word64) : Fin 8 := (w.extractLsb' 53 3).toFin
/-- The fields of LAY.MMA (R60). -/
def mmaFields (b : Fin 80) (w : Word64) : MmaF :=
  { b := b, slot := wordSlot w, pair := w.extractLsb' 48 5, g := w.extractLsb' 46 2, ta := w.getLsbD 45, tb := w.getLsbD 44
    kFirst := w.extractLsb' 41 3, kLast := w.extractLsb' 38 3, aReg := w.extractLsb' 33 5, bReg := w.extractLsb' 28 5, waitEn := wordWaitEn w
    waitH := wordWaitH w, setEn := wordSetEn w, setH := wordSetH w }
/-- The fields of the other matrix instructions (R62). -/
def slotFields (b : Fin 80) (w : Word64) : SlotF :=
  { b := b, slot := wordSlot w, src := w.extractLsb' 51 2, type := w.getLsbD 50, aReg := w.extractLsb' 33 5, waitEn := wordWaitEn w
    waitH := wordWaitH w, setEn := wordSetEn w, setH := wordSetH w }
/-- The fields of a mover word (R112). -/
def moverFields (b : Fin 80) (w : Word64) : MoverF :=
  { b := b, descReg := w.extractLsb' 51 5, waitEn := wordWaitEn w, waitH := wordWaitH w, setEn := wordSetEn w, setH := wordSetH w }

/-! Opcodes -/

/-- The scalar operations, OP in bits [59:54] (R85). -/
def scalarOp (op : Nat) (f : ScalarF) : Option Instr :=
  match op with
  | 0x00 => some (.add f) | 0x01 => some (.sub f) | 0x02 => some (.mul f) | 0x03 => some (.mulhu f)
  | 0x04 => some (.divu f) | 0x05 => some (.remu f) | 0x06 => some (.div f) | 0x07 => some (.rem f)
  | 0x08 => some (.and f) | 0x09 => some (.or f) | 0x0A => some (.xor f)
  | 0x0B => some (.shl f) | 0x0C => some (.shr f) | 0x0D => some (.sra f)
  | 0x0E => some (.min f) | 0x0F => some (.max f) | 0x10 => some (.minu f) | 0x11 => some (.maxu f)
  | 0x12 => some (.slt f) | 0x13 => some (.sltu f) | 0x14 => some (.seq f) | 0x15 => some (.movhi f)
  | 0x18 => some (.fadd f) | 0x19 => some (.fsub f) | 0x1A => some (.fmul f) | 0x1B => some (.fdiv f)
  | 0x1C => some (.fmin f) | 0x1D => some (.fmax f) | 0x1E => some (.flt f) | 0x1F => some (.fcvti f)
  | 0x20 => some (.icvtf f) | 0x28 => some (.ld f) | 0x29 => some (.st f)
  | _ => none

/-- The control operations, OP in bits [59:54] (R88). -/
def controlOp (op : Nat) (f : ControlF) : Option Instr :=
  match op with
  | 0x00 => some (.nop f) | 0x01 => some (.br f) | 0x02 => some (.jal f) | 0x03 => some (.jr f)
  | 0x08 => some (.sumPop f) | 0x0A => some (.stat f)
  | 0x10 => some (.hitchWait f) | 0x11 => some (.hitchSet f) | 0x12 => some (.hitchClear f)
  | 0x18 => some (.slackOpen f) | 0x19 => some (.haul f) | 0x1A => some (.cut f)
  | 0x1C => some (.qwait f) | 0x1F => some (.halt f)
  | _ => none

/-- The matrix instructions, OP in bits [59:56] (R59). -/
def matrixOp (op : Nat) (b : Fin 80) (w : Word64) : Option Instr :=
  match op with
  | 0x0 => some (.layMma (mmaFields b w)) | 0x1 => some (.layOpen (slotFields b w)) | 0x2 => some (.layDrain (slotFields b w))
  | 0x3 => some (.laySpill (slotFields b w)) | 0x4 => some (.layDiscard (slotFields b w))
  | _ => none

/-- The vector operations, OP in bits [59:52] (R95). -/
def vectorOp (op : Nat) (f : VectorF) : Option Instr :=
  match op with
  | 0x00 => some (.vadd f) | 0x01 => some (.vsub f) | 0x02 => some (.vmul f) | 0x03 => some (.vfma f)
  | 0x04 => some (.vdiv f) | 0x05 => some (.vrcp f) | 0x06 => some (.vsqrt f) | 0x07 => some (.vrsqrt f)
  | 0x08 => some (.vexp f) | 0x09 => some (.vexp2 f) | 0x0A => some (.vlog f) | 0x0B => some (.vlog2 f)
  | 0x0C => some (.vtanh f) | 0x0D => some (.vsigmoid f) | 0x0E => some (.verf f)
  | 0x10 => some (.vmin f) | 0x11 => some (.vmax f) | 0x12 => some (.vabs f) | 0x13 => some (.vneg f)
  | 0x14 => some (.vmov f) | 0x15 => some (.vsel f) | 0x16 => some (.vcmp f)
  | 0x18 => some (.vand f) | 0x19 => some (.vor f) | 0x1A => some (.vxor f) | 0x1B => some (.vnot f)
  | 0x1C => some (.vshl f) | 0x1D => some (.vshr f) | 0x1E => some (.vsra f)
  | 0x20 => some (.pand f) | 0x21 => some (.por f) | 0x22 => some (.pxor f) | 0x23 => some (.pnot f) | 0x24 => some (.prange f)
  | 0x28 => some (.vperm f) | 0x29 => some (.vrot f) | 0x30 => some (.vscan f) | 0x38 => some (.vred f) | 0x39 => some (.vsoftmax f)
  | 0x40 => some (.vcvt f) | 0x44 => some (.vblkSt f) | 0x45 => some (.vblkLd f) | 0x48 => some (.vld f) | 0x49 => some (.vst f)
  | 0x50 => some (.vslot f) | 0x58 => some (.vemit f)
  | _ => none

/-- The mover instructions, OP in bits [59:56] (R112). A MOV.FLOW is the kind that its descriptor names (R272): `kind` is that byte, and
a reserved kind stands as a SEND, whose check refuses it. -/
def moverOp (op kind : Nat) (f : MoverF) : Option Instr :=
  match op with
  | 0x0 => some (.movLoad f) | 0x1 => some (.movStore f) | 0x2 => some (.movImport f) | 0x3 => some (.movCopy f) | 0x4 => some (.movSend f)
  | 0x5 => some (match kind with | 1 => .release f | 2 => .collWait f | _ => .send f)
  | _ => none

/-- The instruction that a word spells, if its class and opcode are not reserved (R80, R82). -/
def wordInstr (b : Fin 80) (kind : Nat) (w : Word64) : Option Instr :=
  match wordClass w with
  | 0 => scalarOp (w.extractLsb' 54 6).toNat (scalarFields b w)
  | 1 => controlOp (w.extractLsb' 54 6).toNat (controlFields b w)
  | 2 => matrixOp (w.extractLsb' 56 4).toNat b w
  | 3 => vectorOp (w.extractLsb' 52 8).toNat (vectorFields b w)
  | 4 => moverOp (w.extractLsb' 56 4).toNat kind (moverFields b w)
  | _ => none

/-- The command that Bight `b` executes for a word: a reserved class or opcode is a command of its own (R82). Reserved fields are ignored
(R7). -/
def decodeWord (b : Fin 80) (kind : Nat) (w : Word64) : Instr := (wordInstr b kind w).getD (.reservedOpcode b w)

end Sys2Proof
end

