-- ==== Sys2Proof/Config.lean ====
section
/-!
DEFINITION. What an implementation fixes and what the spec leaves open: constants with no value that a proof could see.
The published standards of R8 stand here as functions without a body: a claim holds whatever they compute
(DESIGN CHOICE, logs 9 to 11, 14, 91, 106, 111).
-/

namespace Sys2Proof.Config

/-- Free value number `n`: a random draw of the DRBG (R348), or a value the spec leaves undefined. -/
opaque draw : Nat → BitVec 256

/-- VABS of the INT32 value 0x8000_0000, for which R95 and R98 state no result. -/
opaque absLeast : BitVec 32

/-- Cycles by which a local count has advanced since it was last read, for the `n`-th reading (R19). -/
opaque elapsed : Nat → Nat

/-- A 64-bit quantity that the spec leaves to the implementation or to time, by number: usage cycle counts (R313). -/
opaque freeWord : Nat → BitVec 64

/-- AES-256 of FIPS 197: key and block. -/
opaque aes256 : BitVec 256 → BitVec 128 → BitVec 128

/-- GHASH of SP 800-38D: subkey and blocks. -/
opaque ghash : BitVec 128 → List (BitVec 128) → BitVec 128

/-- Keystream byte `i` of AES-256-GCM under a key and a nonce (SP 800-38D). -/
opaque gcmStream : BitVec 256 → Bytes → Nat → BitVec 8

/-- Tag of AES-256-GCM: key, nonce, additional data, ciphertext. -/
opaque gcmTag : BitVec 256 → Bytes → Bytes → Bytes → BitVec 128

/-- SHA3-256 of FIPS 202. -/
opaque sha3 : Bytes → BitVec 256

/-- KMAC256 of SP 800-185 with a 256-bit output: key, input, customisation string. -/
opaque kmac : Bytes → Bytes → String → BitVec 256

/-- KMAC256 with a 128-bit output: key, input, customisation string. -/
opaque kmac128 : Bytes → Bytes → String → BitVec 128

/-- ML-KEM-768 of FIPS 203: encapsulation key from the randomness of KeyGen; shared secret of Decaps from that
randomness and a ciphertext; ciphertext and shared secret of Encaps from a key and randomness. -/
opaque kemEk : BitVec 256 → Bytes
opaque kemDecaps : BitVec 256 → Bytes → BitVec 256
opaque kemCt : Bytes → BitVec 256 → Bytes
opaque kemSs : Bytes → BitVec 256 → BitVec 256

/-- ML-DSA-44 of FIPS 204: public key of a seed, hedged signature from seed, message and randomness, verification. -/
opaque dsaPk : BitVec 256 → Bytes
opaque dsaSign : BitVec 256 → Bytes → BitVec 256 → Bytes
opaque dsaVerify : Bytes → Bytes → Bytes → Bool

/-- SERIAL, set in manufacture (R405). -/
opaque serial : BitVec 128

/-- M_ROM: the digest of the Kuane ROM image (R361). -/
opaque romMeasure : BitVec 256

/-- Digests of Lomnel's amendment key and debug key that the ROM holds (R364, R382). -/
opaque amendKeyDigest : BitVec 256
opaque debugKeyDigest : BitVec 256

/-- Digest of the key of Lomnel's Chezar product certificate (R362, R371). -/
opaque productKeyDigest : BitVec 256

/-- Verification of an ML-DSA-44 signature under the key that has a SHA3-256 digest: digest, message, signature. -/
opaque digestVerify : BitVec 256 → Bytes → Bytes → Bool

/-- The margining records that a run had made when it was aborted (R222). -/
opaque runRecords : Nat → Bytes

/-- BOWLINE cycles that a context has held its resident slot for, when asked for the n-th time: index of the free value, context (R299). -/
opaque slotAge : Nat → Nat → Nat

/-- Health tests in a row that the entropy source is about to fail, after the n-th free value (R348). -/
opaque badTests : Nat → Nat

/-- What the fuses do at the next programming that no command describes: a bit that keeps resolving clear with the copies of it that take, and
the copies programmed when power is lost (R370, R384). -/
opaque burnFail : Nat → Option (Nat × BitVec 4)
opaque burnCut : Nat → Option Nat

/-- The next error of an on-die store: its kind, and three places (R429). -/
opaque upset : Nat → Nat × Nat × Nat × Nat

/-- The provisional ID that the I3C target forms from SERIAL (R391). -/
opaque provisionalId : BitVec 128 → BitVec 48

/-- UNIT_REVISION of a function (R405). -/
opaque unitRevision : Nat → BitVec 32

/-- MGMT_MAC, set in manufacture (R405). -/
opaque mgmtMac : BitVec 48

/-- Whether ARITH_MHZ rounds a clock that is no whole number of MHz up, by power level (R405, R409). -/
opaque mhzUp : Nat → Bool

end Sys2Proof.Config
end

