-- ==== Sys2Proof/Machine/Sparse.lean ====
section
/-!
DEFINITION. Sparse stores: reading, writing, bulk writing, and the canonical form (keys strictly
rising, no value equal to what an unlisted key reads as).
-/

namespace Sys2Proof

variable {α : Type}

/-- The value at key `k`; an unlisted key reads as `d`. -/
def SMap.get (d : α) (m : SMap α) (k : Nat) : α :=
  match m.find? (fun e => e.1 == k) with
  | some e => e.2
  | none => d

/-- The value at key `k`, when one is listed. -/
def SMap.get? (m : SMap α) (k : Nat) : Option α :=
  (m.find? (fun e => e.1 == k)).map (fun e => e.2)

/-- Removes every entry of key `k`. -/
def SMap.del (m : SMap α) (k : Nat) : SMap α :=
  m.filter (fun e => e.1 != k)

/-- Inserts an entry before the first larger key. -/
def SMap.ins (m : SMap α) (k : Nat) (v : α) : SMap α :=
  match m with
  | [] => [(k, v)]
  | e :: t => if k < e.1 then (k, v) :: e :: t else e :: SMap.ins t k v

/-- Writes `v` at key `k`: writing the value an unlisted key reads as removes the entry. -/
def SMap.set [DecidableEq α] (d : α) (m : SMap α) (k : Nat) (v : α) : SMap α :=
  if v = d then m.del k else (m.del k).ins k v

/-- Writes an entry whatever its value (for stores whose entries have no default). -/
def SMap.put (m : SMap α) (k : Nat) (v : α) : SMap α := (m.del k).ins k v

/-- The entries `base .. base + n - 1` of a bulk write of `f`. -/
def SMap.gen [DecidableEq α] (d : α) (base n : Nat) (f : Nat → α) : SMap α :=
  (List.range n).filterMap (fun i => if f i = d then none else some (base + i, f i))

/-- Writes `f 0 .. f (n - 1)` at the keys `base .. base + n - 1` in one pass. -/
def SMap.setFn [DecidableEq α] (d : α) (m : SMap α) (base n : Nat) (f : Nat → α) : SMap α :=
  m.filter (fun e => e.1 < base) ++ SMap.gen d base n f ++ m.filter (fun e => base + n ≤ e.1)

/-- The values at the keys `base .. base + n - 1`, as one array for repeated reads. -/
def SMap.window (d : α) (m : SMap α) (base n : Nat) : Array α :=
  m.foldr (fun e a => if base ≤ e.1 ∧ e.1 < base + n then a.setIfInBounds (e.1 - base) e.2 else a) (Array.replicate n d)

/-- Removes the keys `base .. base + n - 1`. -/
def SMap.delRange (m : SMap α) (base n : Nat) : SMap α :=
  m.filter (fun e => e.1 < base || base + n ≤ e.1)

/-- Copies the keys `a .. a + n - 1` to `b .. b + n - 1`. -/
def SMap.copyRange (m : SMap α) (a b n : Nat) : SMap α :=
  m.filter (fun e => e.1 < b) ++ (m.filter (fun e => a ≤ e.1 && e.1 < a + n)).map (fun e => (e.1 - a + b, e.2)) ++ m.filter (fun e => b + n ≤ e.1)

/-- Applies `f` at key `k`. -/
def SMap.modify [DecidableEq α] (d : α) (m : SMap α) (k : Nat) (f : α → α) : SMap α :=
  m.set d k (f (m.get d k))

/-- The canonical form: keys strictly rising and no entry equal to the default. -/
def SMap.wf [DecidableEq α] (d : α) (m : SMap α) : Bool :=
  m.all (fun e => decide (e.2 ≠ d)) && decide (m.Pairwise (fun a b => a.1 < b.1))

/-- The number of `i < n` with `p i`. -/
def countFn (n : Nat) (p : Nat → Bool) : Nat := (List.range n).countP p

/-- The least `i < n` with `p i`. -/
def leastFn (n : Nat) (p : Nat → Bool) : Option Nat := (List.range n).find? p

/-- `f` over `0 .. n - 1`, from the left. -/
def foldFn {β : Type} (n : Nat) (b : β) (f : β → Nat → β) : β := (List.range n).foldl f b

/-- Byte `i` of a natural number. -/
def natByte (x i : Nat) : BitVec 8 := BitVec.ofNat 8 (x / 256 ^ i)

/-- The `n` bytes of a natural number, little-endian (R3). -/
def leBytes (n x : Nat) : Bytes := (List.range n).map (natByte x)

/-- The natural number that a byte string spells, little-endian (R3). -/
def leNat (bs : Bytes) : Nat :=
  match bs with
  | [] => 0
  | b :: t => b.toNat + 256 * leNat t

/-- `n` bytes of a string from offset `o`; bytes beyond the end read as 0. -/
def sliceB (bs : Bytes) (o n : Nat) : Bytes := (List.range n).map (fun i => bs.getD (o + i) 0)

/-- The field of `n` bytes at offset `o`, as a number. -/
def fieldN (bs : Bytes) (o n : Nat) : Nat := leNat (sliceB bs o n)

/-- Writes the bytes of `v` into a string at offset `o`. -/
def setField (bs : Bytes) (o : Nat) (v : Bytes) : Bytes :=
  bs.mapIdx (fun i b => if o ≤ i ∧ i < o + v.length then v.getD (i - o) 0 else b)

/-- Whether every byte of a field is zero (R7). -/
def zeroField (bs : Bytes) (o n : Nat) : Bool := (sliceB bs o n).all (fun b => b == 0)

end Sys2Proof
end

