-- ==== Sys2Proof/Machine/Fp.lean ====
section
/-!
DEFINITION. Exact values and FP32 arithmetic (R25, R28, R29, R35, R98).

A finite value of any format is a sign and a magnitude counted in units of 2^-149, the smallest FP32
subnormal: every element of every format, with its block scale, is a whole number of those units.
Each operation forms its exact result and rounds it once, to nearest with ties to even.
-/

namespace Sys2Proof.Machine

/-- An exact value: a NaN, an infinity, or a signed magnitude in units of 2^-149. -/
inductive XVal where
  | nan
  | inf (neg : Bool)
  | fin (neg : Bool) (mag : Nat)
  deriving DecidableEq, Repr

/-- 0x7FC0_0000, the canonical NaN of FP32 (R25, R28). -/
def fpNaN : Word32 := 0x7FC00000#32
/-- FP32 infinity of a sign. -/
def fpInf (neg : Bool) : Word32 := if neg then 0xFF800000#32 else 0x7F800000#32
/-- FP32 zero of a sign. -/
def fpZero (neg : Bool) : Word32 := if neg then 0x80000000#32 else 0#32
def fpOne : Word32 := 0x3F800000#32

def fpIsNaN (x : Word32) : Bool := decide ((x.toNat % 2 ^ 31) > 0x7F800000)
def fpIsInf (x : Word32) : Bool := decide ((x.toNat % 2 ^ 31) = 0x7F800000)
def fpIsZero (x : Word32) : Bool := decide ((x.toNat % 2 ^ 31) = 0)
def fpNeg? (x : Word32) : Bool := x.getLsbD 31
def fpFinite (x : Word32) : Bool := !fpIsNaN x && !fpIsInf x

/-- The exact value of an FP32 encoding (R26, R28). -/
def fpVal (x : Word32) : XVal :=
  let m := x.toNat % 2 ^ 31
  let e := m / 2 ^ 23
  let f := m % 2 ^ 23
  if m > 0x7F800000 then .nan
  else if m = 0x7F800000 then .inf (fpNeg? x)
  else if e = 0 then .fin (fpNeg? x) f
  else .fin (fpNeg? x) ((2 ^ 23 + f) * 2 ^ (e - 1))

/-- `n / d` rounded to the nearest integer, ties to even. -/
def rneDiv (n d : Nat) : Nat :=
  let q := n / d
  let r := n % d
  if 2 * r < d then q
  else if d < 2 * r then q + 1
  else if q % 2 = 0 then q else q + 1

/-- Floor of the base-2 logarithm of `n / d`, for `n` and `d` not 0. -/
def log2Ratio (n d : Nat) : Int :=
  let k : Int := (Nat.log2 n : Int) - Nat.log2 d
  if 0 ≤ k then (if n < d * 2 ^ k.toNat then k - 1 else k)
  else (if n * 2 ^ (-k).toNat < d then k - 1 else k)

/-- The magnitude encoding (exponent and fraction fields together) of `n / d` rounded to nearest even, in a
format with `F` fraction bits whose smallest normal exponent is `emin`. Carries run into the exponent. -/
def roundMag (F : Nat) (emin : Int) (n d : Nat) : Nat :=
  if n = 0 then 0 else
  let k := log2Ratio n d
  let q : Int := (if k < emin then emin else k) - F
  let r := if 0 ≤ q then rneDiv n (d * 2 ^ q.toNat) else rneDiv (n * 2 ^ (-q).toNat) d
  (q - (emin - F)).toNat * 2 ^ F + r

/-- The FP32 value nearest `± n / d`; a magnitude that rounds beyond the largest finite value is infinite. -/
def fpRound (neg : Bool) (n d : Nat) : Word32 :=
  let m := roundMag 23 (-126) n d
  let m' := if m > 0x7F800000 then 0x7F800000 else m
  BitVec.ofNat 32 (m' + if neg then 2 ^ 31 else 0)

/-- The signed integer of units that a sign and a magnitude stand for. -/
def signed (neg : Bool) (mag : Nat) : Int := if neg then -(mag : Int) else (mag : Int)

/-- The FP32 value nearest `v / d`; an exact zero takes the sign `z`. -/
def fpRoundInt (z : Bool) (v : Int) (d : Nat) : Word32 :=
  if v = 0 then fpZero z else fpRound (decide (v < 0)) v.natAbs d

/-- An exact value narrowed to FP32 (R35). -/
def fpOfX (x : XVal) : Word32 :=
  match x with
  | .nan => fpNaN
  | .inf n => fpInf n
  | .fin n m => fpRound n m (2 ^ 149)

def fpNegate (x : Word32) : Word32 := if fpIsNaN x then fpNaN else x ^^^ 0x80000000#32
def fpAbs (x : Word32) : Word32 := if fpIsNaN x then fpNaN else x &&& 0x7FFFFFFF#32

/-- IEEE 754 addition, RNE (R98). -/
def fpAdd (a b : Word32) : Word32 :=
  match fpVal a, fpVal b with
  | .nan, _ => fpNaN
  | _, .nan => fpNaN
  | .inf x, .inf y => if x = y then fpInf x else fpNaN
  | .inf x, .fin _ _ => fpInf x
  | .fin _ _, .inf y => fpInf y
  | .fin nx mx, .fin ny my =>
    fpRoundInt (nx && ny && decide (mx = 0) && decide (my = 0)) (signed nx mx + signed ny my) (2 ^ 149)

def fpSub (a b : Word32) : Word32 := if fpIsNaN b then fpNaN else fpAdd a (b ^^^ 0x80000000#32)

/-- IEEE 754 multiplication, RNE (R98). -/
def fpMul (a b : Word32) : Word32 :=
  match fpVal a, fpVal b with
  | .nan, _ => fpNaN
  | _, .nan => fpNaN
  | .inf x, .inf y => fpInf (x ^^ y)
  | .inf x, .fin y m => if m = 0 then fpNaN else fpInf (x ^^ y)
  | .fin x m, .inf y => if m = 0 then fpNaN else fpInf (x ^^ y)
  | .fin nx mx, .fin ny my => fpRound (nx ^^ ny) (mx * my) (2 ^ 298)

/-- Fused multiply-add with one rounding (R95, R98). -/
def fpFma (a b c : Word32) : Word32 :=
  match fpVal a, fpVal b, fpVal c with
  | .nan, _, _ => fpNaN
  | _, .nan, _ => fpNaN
  | _, _, .nan => fpNaN
  | .inf x, .inf y, z => fmaInf (x ^^ y) z
  | .inf x, .fin y m, z => if m = 0 then fpNaN else fmaInf (x ^^ y) z
  | .fin x m, .inf y, z => if m = 0 then fpNaN else fmaInf (x ^^ y) z
  | .fin _ _, .fin _ _, .inf z => fpInf z
  | .fin nx mx, .fin ny my, .fin nz mz =>
    fpRoundInt ((nx ^^ ny) && nz && decide (mx * my = 0) && decide (mz = 0))
      (signed (nx ^^ ny) (mx * my) + signed nz (mz * 2 ^ 149)) (2 ^ 298)
where
  /-- An infinite product added to `z`. -/
  fmaInf (p : Bool) (z : XVal) : Word32 :=
    match z with
    | .inf q => if p = q then fpInf p else fpNaN
    | _ => fpInf p

/-- IEEE 754 division, RNE (R98, R99). -/
def fpDiv (a b : Word32) : Word32 :=
  match fpVal a, fpVal b with
  | .nan, _ => fpNaN
  | _, .nan => fpNaN
  | .inf _, .inf _ => fpNaN
  | .inf x, .fin y _ => fpInf (x ^^ y)
  | .fin x _, .inf y => fpZero (x ^^ y)
  | .fin nx mx, .fin ny my =>
    if my = 0 then (if mx = 0 then fpNaN else fpInf (nx ^^ ny))
    else fpRound (nx ^^ ny) mx my

/-- Floor of the square root, bit by bit from bit `k - 1`. -/
def isqrtAux (k n r : Nat) : Nat :=
  match k with
  | 0 => r
  | k + 1 => if (r + 2 ^ k) * (r + 2 ^ k) ≤ n then isqrtAux k n (r + 2 ^ k) else isqrtAux k n r

def isqrt (n : Nat) : Nat := isqrtAux (Nat.log2 n / 2 + 1) n 0

/-- The correctly rounded square root (R99): a sticky half unit stands for a root that is not exact. -/
def fpSqrt (a : Word32) : Word32 :=
  match fpVal a with
  | .nan => fpNaN
  | .inf n => if n then fpNaN else fpInf false
  | .fin n m =>
    if m = 0 then fpZero n else if n then fpNaN else
    let x := m * 2 ^ 401
    let r := isqrt x
    fpRound false (2 * r + if r * r = x then 0 else 1) (2 ^ 276)

/-- The correctly rounded reciprocal square root (R98, R99). -/
def fpRsqrt (a : Word32) : Word32 :=
  match fpVal a with
  | .nan => fpNaN
  | .inf n => if n then fpNaN else fpZero false
  | .fin n m =>
    if m = 0 then fpInf n else if n then fpNaN else
    let x := 2 ^ 601 / m
    let r := isqrt x
    fpRound false (2 * r + if r * r * m = 2 ^ 601 then 0 else 1) (2 ^ 227)

def fpRcp (a : Word32) : Word32 := fpDiv fpOne a

/-- A total order key for numbers that puts -0 below +0 (R98). -/
def fpKey (x : Word32) : Int :=
  if fpNeg? x then -1 - ((x.toNat % 2 ^ 31 : Nat) : Int) else ((x.toNat % 2 ^ 31 : Nat) : Int)

/-- VMAX: any NaN gives the canonical NaN; +0 is larger than -0 (R46, R98). -/
def fpMax (a b : Word32) : Word32 :=
  if fpIsNaN a || fpIsNaN b then fpNaN else if fpKey a < fpKey b then b else a
/-- VMIN. -/
def fpMin (a b : Word32) : Word32 :=
  if fpIsNaN a || fpIsNaN b then fpNaN else if fpKey b < fpKey a then b else a

/-- a < b as FP32 values; false with a NaN; the two zeros are equal. -/
def fpLt (a b : Word32) : Bool :=
  !fpIsNaN a && !fpIsNaN b && !(fpIsZero a && fpIsZero b) && decide (fpKey a < fpKey b)
/-- a = b as FP32 values. -/
def fpEq (a b : Word32) : Bool :=
  !fpIsNaN a && !fpIsNaN b && ((fpIsZero a && fpIsZero b) || a == b)
def fpLe (a b : Word32) : Bool := fpLt a b || fpEq a b

/-- FP32 to INT32, RNE, saturating (R35); the flags are (saturated, NaN). -/
def fpToInt (x : Word32) : Word32 × Bool × Bool :=
  match fpVal x with
  | .nan => (0#32, false, true)
  | .inf n => (if n then 0x80000000#32 else 0x7FFFFFFF#32, true, false)
  | .fin n m =>
    let q := rneDiv m (2 ^ 149)
    if n then (if q > 2 ^ 31 then (0x80000000#32, true, false) else (BitVec.ofInt 32 (-(q : Int)), false, false))
    else (if q ≥ 2 ^ 31 then (0x7FFFFFFF#32, true, false) else (BitVec.ofNat 32 q, false, false))

/-- INT32 to FP32, RNE (R35). -/
def intToFp (x : Word32) : Word32 := fpRoundInt false x.toInt 1
/-- An unsigned integer to FP32, RNE (R164). -/
def natToFp (n : Nat) : Word32 := fpRound false n 1

end Sys2Proof.Machine
end

