-- ==== Sys2Proof/Machine/Func.lean ====
section
/-!
DEFINITION. The correctly rounded FP32 functions of R99, R79 and R164.

Each is computed in fixed point with 512 fraction bits and rounded once. The error of a fixed-point value is below
2^-460 of 1, far below the distance of any of these functions' values from a rounding boundary of FP32 (log 12);
the arguments whose exact value is representable or a tie are decided exactly beforehand.
-/

namespace Sys2Proof.Machine

/-- The fraction bits of a fixed-point value. -/
def fxP : Nat := 512
/-- Fixed-point product, floored. -/
def fxMul (a b : Int) : Int := a * b / 2 ^ 512
def fxDiv (a b : Int) : Int := a * 2 ^ 512 / b
def fxOne : Int := 2 ^ 512

/-- Units of 2^-149 as a fixed-point value (exact). -/
def fxOfUnits (u : Int) : Int := u * 2 ^ 363

/-- Horner form of the exponential series 1 + y (1 + y/2 (1 + y/3 ...)), terms `k .. n`. -/
def fxExpSeries (fuel k : Nat) (y : Int) : Int :=
  match fuel with
  | 0 => fxOne
  | fuel + 1 => fxOne + fxMul y (fxExpSeries fuel (k + 1) y) / (k : Int)

def fxSquares (n : Nat) (x : Int) : Int :=
  match n with
  | 0 => x
  | n + 1 => fxSquares n (fxMul x x)

/-- e^x for |x| at most about 210, by reduction by 2^10. -/
def fxExp (x : Int) : Int := fxSquares 10 (fxExpSeries 90 1 (x / 2 ^ 10))

/-- Sum of z^(2j+1) / (2j+1), the series of the inverse hyperbolic tangent. -/
def fxAtanhSeries (fuel k : Nat) (p zz : Int) : Int :=
  match fuel with
  | 0 => 0
  | fuel + 1 => p / (k : Int) + fxAtanhSeries fuel (k + 2) (fxMul p zz) zz

def fxAtanh (z : Int) : Int := fxAtanhSeries 200 1 z (fxMul z z)

def fxLn2 : Int := 2 * fxAtanh (fxOne / 3)

/-- ln of `m` units of 2^-149, `m` not 0: `m = y 2^k` with y in [1, 2). -/
def fxLn (m : Nat) : Int :=
  let k := Nat.log2 m
  let y : Int := (m : Int) * 2 ^ 512 / 2 ^ k
  ((k : Int) - 149) * fxLn2 + 2 * fxAtanh (fxDiv (y - fxOne) (y + fxOne))

/-- Arctangent of 1/n by its alternating series. -/
def fxAtanInv (fuel k n : Nat) (p : Int) (neg : Bool) : Int :=
  match fuel with
  | 0 => 0
  | fuel + 1 => (if neg then -(p / (k : Int)) else p / (k : Int))
      + fxAtanInv fuel (k + 2) n (p / ((n : Int) * n)) (!neg)

/-- π by Machin's formula. -/
def fxPi : Int :=
  16 * fxAtanInv 120 1 5 (fxOne / 5) false - 4 * fxAtanInv 40 1 239 (fxOne / 239) false

/-- The alternating series of erf: sum of (-1)^n x^(2n+1) / (n! (2n+1)); `t` is x^(2n+1) / n!. -/
def fxErfSeries (fuel n : Nat) (t xx : Int) (neg : Bool) : Int :=
  match fuel with
  | 0 => 0
  | fuel + 1 => (if neg then -(t / (2 * n + 1 : Int)) else t / (2 * n + 1 : Int))
      + fxErfSeries fuel (n + 1) (fxMul t xx / (n + 1 : Int)) xx (!neg)

def fxErf (x : Int) : Int :=
  let s : Int := isqrt (fxPi.toNat * 2 ^ 512)
  fxDiv (2 * fxErfSeries 320 0 x (fxMul x x) false) s

/-- Alternating cosine series; `t` is y^(2n) / (2n)!. -/
def fxCosSeries (fuel n : Nat) (t yy : Int) (neg : Bool) : Int :=
  match fuel with
  | 0 => 0
  | fuel + 1 => (if neg then -t else t)
      + fxCosSeries fuel (n + 1) (fxMul t yy / ((2 * n + 1 : Int) * (2 * n + 2))) yy (!neg)

/-- A fixed-point value rounded to FP32. -/
def fpOfFx (v : Int) : Word32 := fpRoundInt false v (2 ^ 512)

/-- e^x (R98, R99): beyond 89 every result overflows, below -104 every result is nearer 0 than 2^-149. -/
def fpExp (x : Word32) : Word32 :=
  match fpVal x with
  | .nan => fpNaN
  | .inf n => if n then fpZero false else fpInf false
  | .fin n m =>
    if !n && decide (89 * 2 ^ 149 < m) then fpInf false
    else if n && decide (104 * 2 ^ 149 < m) then fpZero false
    else fpOfFx (fxExp (fxOfUnits (signed n m)))

/-- 2^x (R99); whole arguments are exact. -/
def fpExp2 (x : Word32) : Word32 :=
  match fpVal x with
  | .nan => fpNaN
  | .inf n => if n then fpZero false else fpInf false
  | .fin n m =>
    if !n && decide (128 * 2 ^ 149 ≤ m) then fpInf false
    else if n && decide (151 * 2 ^ 149 < m) then fpZero false
    else if m % 2 ^ 149 = 0 then
      (if n then fpRound false 1 (2 ^ (m / 2 ^ 149)) else fpRound false (2 ^ (m / 2 ^ 149)) 1)
    else fpOfFx (fxExp (fxMul (fxOfUnits (signed n m)) fxLn2))

/-- Natural logarithm (R98, R99). -/
def fpLog (x : Word32) : Word32 :=
  match fpVal x with
  | .nan => fpNaN
  | .inf n => if n then fpNaN else fpInf false
  | .fin n m =>
    if m = 0 then fpInf true else if n then fpNaN
    else if m = 2 ^ 149 then fpZero false
    else fpOfFx (fxLn m)

/-- Base-2 logarithm (R98, R99); powers of two are exact. -/
def fpLog2 (x : Word32) : Word32 :=
  match fpVal x with
  | .nan => fpNaN
  | .inf n => if n then fpNaN else fpInf false
  | .fin n m =>
    if m = 0 then fpInf true else if n then fpNaN
    else if m = 2 ^ Nat.log2 m then fpRoundInt false ((Nat.log2 m : Int) - 149) 1
    else fpOfFx (fxDiv (fxLn m) fxLn2)

/-- tanh (R98, R99); a zero keeps its sign. -/
def fpTanh (x : Word32) : Word32 :=
  match fpVal x with
  | .nan => fpNaN
  | .inf n => if n then 0xBF800000#32 else fpOne
  | .fin n m =>
    if m = 0 then fpZero n
    else if 16 * 2 ^ 149 < m then (if n then 0xBF800000#32 else fpOne)
    else
      let e := fxExp (2 * fxOfUnits m)
      fpRoundInt n (let t := fxDiv (e - fxOne) (e + fxOne); if n then -t else t) (2 ^ 512)

/-- 1 / (1 + e^-x) (R98, R99). -/
def fpSigmoid (x : Word32) : Word32 :=
  match fpVal x with
  | .nan => fpNaN
  | .inf n => if n then fpZero false else fpOne
  | .fin n m =>
    if 104 * 2 ^ 149 < m then (if n then fpZero false else fpOne)
    else fpOfFx (fxDiv fxOne (fxOne + fxExp (-(fxOfUnits (signed n m)))))

/-- erf (R98, R99); a zero keeps its sign. -/
def fpErf (x : Word32) : Word32 :=
  match fpVal x with
  | .nan => fpNaN
  | .inf n => if n then 0xBF800000#32 else fpOne
  | .fin n m =>
    if m = 0 then fpZero n
    else if 5 * 2 ^ 149 < m then (if n then 0xBF800000#32 else fpOne)
    else fpRoundInt n (let t := fxErf (fxOfUnits m); if n then -t else t) (2 ^ 512)

/-- cos(πx) of R164; multiples of 1/2 are exact. The sign of an exact zero is +0; no result of R164 depends on it. -/
def fpCospi (x : Word32) : Word32 :=
  match fpVal x with
  | .nan => fpNaN
  | .inf _ => fpNaN
  | .fin _ m =>
    let r : Nat := m % (2 * 2 ^ 149)
    if r = 0 then fpOne
    else if r = 2 ^ 149 then 0xBF800000#32
    else if r % 2 ^ 148 = 0 then fpZero false
    else
      let y := fxMul (fxOfUnits r) fxPi
      fpOfFx (fxCosSeries 200 0 fxOne (fxMul y y) false)

/-- r^m for a whole number m, the exact power rounded once (R164); r^0 is 1.0 for every r. -/
def fpPown (r : Word32) (m : Nat) : Word32 :=
  if m = 0 then fpOne else
  match fpVal r with
  | .nan => fpNaN
  | .inf n => fpInf (n && decide (m % 2 = 1))
  | .fin n a => if a = 0 then fpZero (n && decide (m % 2 = 1))
      else fpRound (n && decide (m % 2 = 1)) (a ^ m) (2 ^ (149 * m))

end Sys2Proof.Machine
end

