-- ==== Sys2Proof/Machine/Formats.lean ====
section
/-!
DEFINITION. Number formats, square-block scaling, tile layout, the exact group sum and the reduction tree
(R25 to R48, R51 to R55).
-/

namespace Sys2Proof.Machine

/-- The eight formats of R25, in the order of their codes (R55). -/
inductive Fmt where
  | e2m1 | e3m2 | e4m3 | e5m2 | int8 | bf16 | fp16 | fp32
  deriving DecidableEq, Repr

/-- Format codes of R55. -/
def Fmt.ofCode (c : Nat) : Option Fmt :=
  match c with
  | 0 => some .e2m1 | 1 => some .e3m2 | 2 => some .e4m3 | 3 => some .e5m2
  | 4 => some .int8 | 5 => some .bf16 | 6 => some .fp16 | 7 => some .fp32
  | _ => none

/-- Width of an element in bits (R25). -/
def fmtWidth (f : Fmt) : Nat :=
  match f with
  | .e2m1 => 4 | .e3m2 => 6 | .e4m3 => 8 | .e5m2 => 8 | .int8 => 8 | .bf16 => 16 | .fp16 => 16 | .fp32 => 32

/-- E4M3, E5M2, E3M2, E2M1 and INT8 tensors are scaled. -/
def fmtScaled (f : Fmt) : Bool :=
  match f with
  | .bf16 => false | .fp16 => false | .fp32 => false | _ => true

/-- Fraction bits. -/
def fmtFrac (f : Fmt) : Nat :=
  match f with
  | .e2m1 => 1 | .e3m2 => 2 | .e4m3 => 3 | .e5m2 => 2 | .int8 => 0 | .bf16 => 7 | .fp16 => 10 | .fp32 => 23

/-- Exponent bias. -/
def fmtBias (f : Fmt) : Nat :=
  match f with
  | .e2m1 => 1 | .e3m2 => 3 | .e4m3 => 7 | .e5m2 => 15 | .int8 => 0 | .bf16 => 127 | .fp16 => 15 | .fp32 => 127

/-- The magnitude encoding of the largest finite value (R25). -/
def fmtMaxMag (f : Fmt) : Nat :=
  match f with
  | .e2m1 => 0x7 | .e3m2 => 0x1F | .e4m3 => 0x7E | .e5m2 => 0x7B | .int8 => 0x7F | .bf16 => 0x7F7F
  | .fp16 => 0x7BFF | .fp32 => 0x7F7FFFFF

/-- The largest finite value of a scaled format, in units of 2^-6 (R25). -/
def fmtMax64 (f : Fmt) : Nat :=
  match f with
  | .e2m1 => 6 * 64 | .e3m2 => 28 * 64 | .e4m3 => 448 * 64 | .e5m2 => 57344 * 64 | .int8 => 127 | _ => 0

/-- The magnitude encoding of infinity, for the formats that have one. -/
def fmtInfMag (f : Fmt) : Option Nat :=
  match f with
  | .e5m2 => some 0x7C | .bf16 => some 0x7F80 | .fp16 => some 0x7C00 | .fp32 => some 0x7F800000 | _ => none

/-- The canonical NaN encoding, for the formats that have one (R25). -/
def fmtNaN (f : Fmt) : Option Nat :=
  match f with
  | .e4m3 => some 0x7F | .e5m2 => some 0x7E | .bf16 => some 0x7FC0 | .fp16 => some 0x7E00
  | .fp32 => some 0x7FC00000 | _ => none

/-- Bytes of element data of a tile (R53). -/
def fmtDataBytes (f : Fmt) : Nat := 2048 * fmtWidth f
/-- Bytes of a tile record (R53). -/
def fmtRecord (f : Fmt) : Nat := fmtDataBytes f + if fmtScaled f then 256 else 0

/-- The exact value of the element encoding `e` under the scale byte `s` (R26, R28, R30). Unscaled formats ignore `s`. -/
def elemVal (f : Fmt) (e s : Nat) : XVal :=
  if fmtScaled f && s == 0xFF then .nan else
  let sh := if fmtScaled f then s + 22 else 149
  match f with
  | .int8 => if e < 128 then .fin false (e * 2 ^ (sh - 6)) else .fin true ((256 - e) * 2 ^ (sh - 6))
  | .fp32 => fpVal (BitVec.ofNat 32 e)
  | _ =>
    let half := 2 ^ (fmtWidth f - 1)
    let neg := decide (half ≤ e)
    let m := e % half
    let F := fmtFrac f
    let ex := m / 2 ^ F
    let fr := m % 2 ^ F
    match fmtInfMag f with
    | some i =>
      if m = i then .inf neg else if i < m then .nan
      else if ex = 0 then .fin neg (fr * 2 ^ (sh + 1 - fmtBias f - F))
      else .fin neg ((2 ^ F + fr) * 2 ^ (sh + ex - fmtBias f - F))
    | none =>
      if f = .e4m3 ∧ m = 0x7F then .nan
      else if ex = 0 then .fin neg (fr * 2 ^ (sh + 1 - fmtBias f - F))
      else .fin neg ((2 ^ F + fr) * 2 ^ (sh + ex - fmtBias f - F))

/-- A converted element: its encoding, and whether its own conversion saturated. -/
structure Enc where
  bits : Nat
  sat : Bool
  deriving DecidableEq, Repr

/-- Converts an exact value to a scaled format under the scale byte `s` (R31 step 6, R32). -/
def encScaled (f : Fmt) (s : Nat) (x : XVal) : Enc :=
  match x with
  | .nan => ⟨(fmtNaN f).getD 0, false⟩
  | .inf n =>
    match f with
    | .int8 => ⟨if n then 256 - 127 else 127, true⟩
    | _ =>
      let sg := if n then 2 ^ (fmtWidth f - 1) else 0
      match fmtInfMag f with
      | some i => ⟨sg + i, false⟩
      | none => ⟨sg + fmtMaxMag f, true⟩
  | .fin n m =>
    match f with
    | .int8 =>
      let q := rneDiv m (2 ^ (s + 16))
      let q' := if q > 127 then 127 else q
      ⟨if n && decide (q' ≠ 0) then 256 - q' else q', decide (q > 127)⟩
    | _ =>
      let sg := if n then 2 ^ (fmtWidth f - 1) else 0
      let mag := roundMag (fmtFrac f) (1 - (fmtBias f : Int)) m (2 ^ (s + 22))
      if mag > fmtMaxMag f then ⟨sg + fmtMaxMag f, true⟩ else ⟨sg + mag, false⟩

/-- Converts an exact value to FP32, BF16 or FP16 (R35). -/
def encPlain (f : Fmt) (x : XVal) : Nat :=
  match x with
  | .nan => (fmtNaN f).getD 0
  | .inf n => (if n then 2 ^ (fmtWidth f - 1) else 0) + (fmtInfMag f).getD 0
  | .fin n m =>
    let mag := roundMag (fmtFrac f) (1 - (fmtBias f : Int)) m (2 ^ 149)
    (if n then 2 ^ (fmtWidth f - 1) else 0) + (if mag > fmtMaxMag f then (fmtInfMag f).getD 0 else mag)

/-- The magnitude of a finite value; 0 for others (R31 step 2). -/
def finMag (x : XVal) : Nat := match x with | .fin _ m => m | _ => 0

/-- The scale byte of R31 for the values of one scaling unit: none when the unit is marked NaN (step 1).
Poisoned elements are left out of `xs` by the caller. -/
def chooseScale (f : Fmt) (xs : List XVal) : Option Nat :=
  if (fmtNaN f).isNone && xs.any (fun x => x == .nan) then none else
  let a := xs.foldl (fun a x => max a (finMag x)) 0
  if a = 0 then some 127
  else some ((leastFn 254 (fun s => decide (a * 64 ≤ fmtMax64 f * 2 ^ (22 + s)))).getD 254)

/-- Element number of (r, c) within a tile (R51). -/
def tileIndex (r c : Nat) : Nat := 256 * (8 * (r / 16) + c / 16) + 16 * (r % 16) + c % 16
/-- Row and column of element number `n` (R51). -/
def tileRow (n : Nat) : Nat := 16 * (n / 256 / 8) + n % 256 / 16
def tileCol (n : Nat) : Nat := 16 * (n / 256 % 8) + n % 16
/-- Scale-plane byte of an element (R52). -/
def scaleIndex (r c : Nat) : Nat := 16 * (r / 8) + c / 8

/-- First byte of element `n` and the number of bytes its bits touch (R27, R51). -/
def elemByte (w n : Nat) : Nat := w * n / 8
def elemSpan (w n : Nat) : Nat := (w * n + w - 1) / 8 + 1 - w * n / 8

/-- Element `n` of width `w` of a byte source (R27): the data is one little-endian bit stream. -/
def readElem (rd : Nat → Byte) (w n : Nat) : Nat :=
  leNat ((List.range (elemSpan w n)).map (fun i => rd (elemByte w n + i))) / 2 ^ (w * n % 8) % 2 ^ w

/-- Byte `i` of the data that elements `el` of width `w` form (R27). -/
def packByte (w : Nat) (el : Nat → Nat) (i : Nat) : Byte :=
  BitVec.ofNat 8 ((List.range 8).foldl
    (fun a t => a + (if (el ((8 * i + t) / w)).testBit ((8 * i + t) % w) then 2 ^ t else 0)) 0)

/-- The mark of a codeword, lane or element: clean, or poisoned with the cause of R251. -/
inductive Mark where
  | clean | poisoned | unknown | tagFail
  deriving DecidableEq, Repr

/-- The worse of two marks: TAG_FAIL, then INTEGRITY_UNKNOWN, then POISONED (R251, R319). -/
def Mark.worse (a b : Mark) : Mark :=
  match a, b with
  | .tagFail, _ => .tagFail
  | _, .tagFail => .tagFail
  | .unknown, _ => .unknown
  | _, .unknown => .unknown
  | .poisoned, _ => .poisoned
  | _, .poisoned => .poisoned
  | .clean, .clean => .clean

/-- Whether a mark is poison. -/
def Mark.isBad (m : Mark) : Bool :=
  match m with
  | .clean => false | .poisoned => true | .unknown => true | .tagFail => true

/-- A 32-bit lane with its poison mark (R83, R431). -/
structure Lane where
  val : Word32
  mark : Mark
  deriving DecidableEq, Repr

/-- The lane that an unlisted key reads as. -/
def Lane.zero : Lane := ⟨0#32, .clean⟩
/-- A lane that is not poisoned. -/
def Lane.ok (v : Word32) : Lane := ⟨v, .clean⟩
/-- Whether a lane is poisoned. -/
def Lane.poison (l : Lane) : Bool := l.mark.isBad

/-- A source element: its exact value and its mark. -/
abbrev Src := XVal × Mark

/-- A lane as a source element. -/
def Lane.src (l : Lane) : Src := (fpVal l.val, l.mark)

/-- The exact values of the unpoisoned elements among the element numbers `ps`. -/
def unpoisoned (xs : Array Src) (ps : List Nat) : List XVal :=
  ps.filterMap (fun n => match xs[n]? with
    | some (v, m) => if m.isBad then none else some v
    | none => none)

/-- The element numbers of the scaling unit of block (I, J): 0 the block, 1 the 8-row band, 2 the 8-column band
(R33, R77 step 6). -/
def unitOf (scope I J : Nat) : List Nat :=
  let rs := if scope = 2 then List.range 128 else (List.range 8).map (fun i => 8 * I + i)
  let cs := if scope = 1 then List.range 128 else (List.range 8).map (fun j => 8 * J + j)
  rs.flatMap (fun r => cs.map (fun c => tileIndex r c))

/-- A tile written under R31, R32 and R35: scale bytes, encodings and poison. -/
structure TileOut where
  fmt : Fmt
  /-- scale of each 8 x 8 block, 256 entries; none marks a NaN block -/
  scales : Array (Option Nat)
  /-- encoding of each element, 16,384 entries in the order of R51 -/
  elems : Array Enc
  /-- mark of each element -/
  marks : Array Mark
  deriving DecidableEq, Repr

/-- Encodes one unpoisoned element under its block's scale. -/
def convertElem (f : Fmt) (s : Option Nat) (x : XVal) : Enc :=
  if fmtScaled f then (match s with
    | none => ⟨0, false⟩
    | some s => encScaled f s x)
  else ⟨encPlain f x, false⟩

/-- The 16,384 source elements of a tile in the order of R51. -/
def tileSrc (src : Nat → Nat → Src) : Array Src :=
  Array.ofFn (fun n : Fin 16384 => src (tileRow n.val) (tileCol n.val))

/-- The scale bytes of a tile: one choice per scaling unit (R31, R33). -/
def tileScales (f : Fmt) (scope : Nat) (xs : Array Src) : Array (Option Nat) :=
  if fmtScaled f then
    (if scope = 1 then
      let u := Array.ofFn (fun I : Fin 16 => chooseScale f (unpoisoned xs (unitOf 1 I.val 0)))
      Array.ofFn (fun b : Fin 256 => (u[b.val / 16]?).getD none)
    else if scope = 2 then
      let u := Array.ofFn (fun J : Fin 16 => chooseScale f (unpoisoned xs (unitOf 2 0 J.val)))
      Array.ofFn (fun b : Fin 256 => (u[b.val % 16]?).getD none)
    else Array.ofFn (fun b : Fin 256 => chooseScale f (unpoisoned xs (unitOf 0 (b.val / 16) (b.val % 16)))))
  else #[]

/-- Converts a tile under the scale of each of its blocks. A poisoned element is written with its data bits as 0 and its mark
(R31, R431). -/
def convertUnder (f : Fmt) (scales : Array (Option Nat)) (xs : Array Src) : TileOut :=
  { fmt := f
    scales := scales
    elems := Array.ofFn (fun n : Fin 16384 => match xs[n.val]? with
      | some (v, m) =>
        if m.isBad then ⟨0, false⟩
        else convertElem f ((scales[scaleIndex (tileRow n.val) (tileCol n.val)]?).getD none) v
      | none => ⟨0, false⟩)
    marks := xs.map (fun e => e.2) }

/-- Converts a tile whose bands, if any, lie within it (R77 step 6, R95). -/
def convertTile (f : Fmt) (scope : Nat) (src : Nat → Nat → Src) : TileOut :=
  let xs := tileSrc src
  convertUnder f (tileScales f scope xs) xs

/-- The encoding of element `n`. -/
def TileOut.enc (t : TileOut) (n : Nat) : Nat := ((t.elems[n]?).map (fun e => e.bits)).getD 0

/-- The bytes of the tile record: element data, then the scale plane (R51, R52). -/
def tileByte (t : TileOut) (i : Nat) : Byte :=
  if i < fmtDataBytes t.fmt then packByte (fmtWidth t.fmt) t.enc i
  else BitVec.ofNat 8 (((t.scales[i - fmtDataBytes t.fmt]?).getD none).getD 0xFF)

/-- The mark that the record gives each of its 16-byte codewords (R431). -/
def tileMarks (t : TileOut) : Array Mark :=
  foldFn 16384 (Array.replicate (fmtRecord t.fmt / 16) Mark.clean) (fun a n =>
    let k := (t.marks[n]?).getD .clean
    if k.isBad then
      (List.range (elemSpan (fmtWidth t.fmt) n)).foldl
        (fun a i => a.modify ((elemByte (fmtWidth t.fmt) n + i) / 16) (fun w => w.worse k)) a
    else a)

/-- Whether any element saturated; whether any block was marked NaN. -/
def tileSat (t : TileOut) : Bool := t.elems.any (fun e => e.sat)
def tileNaN (t : TileOut) : Bool :=
  (fmtScaled t.fmt && t.scales.any (fun s => s.isNone))

/-- A tile read from a store (R51 to R53): the exact value, the encoding and the mark of each element. -/
structure TileIn where
  vals : Array XVal
  raw : Array Nat
  marks : Array Mark
  /-- the scale bytes of the 256 blocks and their marks; empty for unscaled formats -/
  scales : Array Nat
  scaleMarks : Array Mark
  deriving DecidableEq, Repr

/-- The tile that record bytes `win` with codeword marks `cw` hold. A poisoned scale byte makes every element of its
block poisoned (R30). -/
def decodeTile (f : Fmt) (win : Array Byte) (cw : Array Mark) : TileIn :=
  let rd := fun i => (win[i]?).getD 0
  let mk := fun i => (cw[i / 16]?).getD .clean
  let w := fmtWidth f
  let D := fmtDataBytes f
  let raw := Array.ofFn (fun n : Fin 16384 => readElem rd w n.val)
  let sc := fun n => D + scaleIndex (tileRow n) (tileCol n)
  { raw := raw
    vals := Array.ofFn (fun n : Fin 16384 => elemVal f ((raw[n.val]?).getD 0) (if fmtScaled f then (rd (sc n.val)).toNat else 0))
    marks := Array.ofFn (fun n : Fin 16384 =>
      ((mk (elemByte w n.val)).worse (mk (elemByte w n.val + elemSpan w n.val - 1))).worse
        (if fmtScaled f then mk (sc n.val) else .clean))
    scales := if fmtScaled f then Array.ofFn (fun b : Fin 256 => (rd (D + b.val)).toNat) else #[]
    scaleMarks := if fmtScaled f then Array.ofFn (fun b : Fin 256 => mk (D + b.val)) else #[] }

/-- Whether an exact value is finite. -/
def XVal.isFin (x : XVal) : Bool := match x with | .fin _ _ => true | _ => false
/-- The exact value of element (r, c). -/
def TileIn.exact (t : TileIn) (r c : Nat) : XVal := (t.vals[tileIndex r c]?).getD (.fin false 0)
/-- Element (r, c) as FP32 with its mark (R35). -/
def TileIn.lane (t : TileIn) (r c : Nat) : Lane :=
  ⟨fpOfX (t.exact r c), (t.marks[tileIndex r c]?).getD .clean⟩

/-! The exact group sum -/

/-- The exact product, its magnitude in units of 2^-298 (R37). -/
def xMul (a b : XVal) : XVal :=
  match a, b with
  | .nan, _ => .nan
  | _, .nan => .nan
  | .inf x, .inf y => .inf (x ^^ y)
  | .inf x, .fin y m => if m = 0 then .nan else .inf (x ^^ y)
  | .fin x m, .inf y => if m = 0 then .nan else .inf (x ^^ y)
  | .fin x m, .fin y n => .fin (x ^^ y) (m * n)

/-- The sum of one group: a NaN, an infinity, or V' in units of 2^-300. -/
inductive GSum where
  | nan
  | inf (neg : Bool)
  | val (v : Int)
  deriving DecidableEq, Repr

/-- `m` truncated to a multiple of 2^(L - 95), `L` being the leading bit of the largest product (R39 step 4). -/
def truncTo (L m : Nat) : Nat := m / 2 ^ (L - 95) * 2 ^ (L - 95)

/-- The group sum of R39. -/
def groupSum (ps : List XVal) : GSum :=
  if ps.any (fun p => p == .nan) || (ps.any (fun p => p == .inf true) && ps.any (fun p => p == .inf false)) then .nan
  else if ps.any (fun p => p == .inf true) then .inf true
  else if ps.any (fun p => p == .inf false) then .inf false
  else
    let big := ps.foldl (fun a p => max a (finMag p)) 0
    if big = 0 then .val 0 else
    let L := Nat.log2 big
    let t := ps.any (fun p => decide (truncTo L (finMag p) ≠ finMag p))
    let v : Int := ps.foldl (fun a p => match p with | .fin n m => a + signed n (truncTo L m) | _ => a) 0
    if t && decide (v ≠ 0) then .val (4 * v + (if v < 0 then -(2 ^ (L - 95) : Int) else 2 ^ (L - 95)))
    else .val (4 * v)

/-- An accumulator after one group sum, with the flags NAN_SEEN and INF_SEEN it reports (R40). -/
def accAdd (acc : Word32) (g : GSum) : Word32 × Bool × Bool :=
  match g, fpVal acc with
  | .nan, _ => (fpNaN, true, false)
  | _, .nan => (fpNaN, true, false)
  | .inf p, .inf q => if p = q then (acc, false, false) else (fpNaN, true, false)
  | .inf p, .fin _ _ => (fpInf p, false, false)
  | .val _, .inf _ => (acc, false, false)
  | .val v, .fin n m =>
    if v = 0 then (acc, false, false) else
    let r := fpRoundInt false (signed n m * 2 ^ 151 + v) (2 ^ 300)
    (r, false, fpIsInf r)

/-- Whether an INT32 accumulator has saturated: its contents alone say so, since a handover carries nothing else, so that a sum
that reaches an end of the range has saturated there (R42, R43, R67; DEDUCED, log 22). -/
def accStuck (acc : Word32) : Bool := acc == 0x7FFFFFFF#32 || acc == 0x80000000#32

/-- An INT32 accumulator after one product, with SATURATED (R42): once it has saturated it stays there. -/
def accInt (acc : Word32) (p : Int) : Word32 × Bool :=
  if accStuck acc then (acc, true) else
  let v := acc.toInt + p
  if 0x7FFFFFFF ≤ v then (0x7FFFFFFF#32, true)
  else if v ≤ -0x80000000 then (0x80000000#32, true)
  else (BitVec.ofInt 32 v, false)

/-- An INT32 accumulator under the scales of its bands, as FP32 (R42, R35). -/
def int32ToFp (acc : Word32) (sa sb : Nat) : Word32 :=
  if sa = 0xFF || sb = 0xFF then fpNaN
  else fpRoundInt false (acc.toInt * 2 ^ (sa + sb)) (2 ^ 266)

/-! Reductions -/

/-- Combines two elements of which either may be absent (R44). -/
def combineOpt {α : Type} (f : α → α → α) (a b : Option α) : Option α :=
  match a, b with
  | some x, some y => some (f x y)
  | some x, none => some x
  | none, y => y

/-- One level of the tree of R45. -/
def pairUp {α : Type} (f : α → α → α) (xs : List (Option α)) : List (Option α) :=
  match xs with
  | a :: b :: t => combineOpt f a b :: pairUp f t
  | l => l

/-- `levels` levels of the tree; the result stands at position 0 (R45). -/
def treeReduce {α : Type} (f : α → α → α) (levels : Nat) (xs : List (Option α)) : Option α :=
  match levels with
  | 0 => (xs.head?).getD none
  | n + 1 => treeReduce f n (pairUp f xs)

/-- The results of `n` registers combined in ascending register number (R45). -/
def reduceRegs {α : Type} (f : α → α → α) (n : Nat) (elem : Nat → Nat → Option α) : Option α :=
  (List.range n).foldl
    (fun acc j => combineOpt f acc (treeReduce f 9 ((List.range 512).map (elem j)))) none

end Sys2Proof.Machine
end

