-- ==== Sys2Proof/Machine/BightState.lean ====
section
/-!
DEFINITION. The state of one Bight and of what its instructions leave waiting (R64, R83, R92, R102 to R111, R431).
-/

namespace Sys2Proof.Machine

/-- Addressed bytes and the poison marks of their 16-byte codewords. An unlisted byte reads as 0 and an unlisted codeword is clean
(DESIGN CHOICE, log 16). -/
structure Mem where
  bytes : SMap Byte
  marks : SMap Mark
  deriving DecidableEq, Repr

/-- A memory with nothing listed. -/
def Mem.empty : Mem := ⟨[], []⟩

/-- Bytes on their way between stores, and the poisoned ones of the codewords that held them, counted from that of the first byte;
`skew` bytes of that codeword lie before the first byte. -/
structure Blob where
  data : Bytes
  bad : List (Nat × Mark)
  skew : Nat
  deriving DecidableEq, Repr

/-- States of an accumulation slot (R64). -/
inductive SlotState where
  | free | opened | draining
  deriving DecidableEq, Repr

/-- An accumulation slot (R64, R67, R68). `cells` is keyed by the element order of R51. -/
structure Slot where
  state : SlotState
  /-- TYPE: true for INT32 -/
  int : Bool
  cells : SMap Lane
  /-- recorded scale of each row band, 16 bytes, and of each column band -/
  rowScale : Vector Byte 16
  colScale : Vector Byte 16
  /-- a LAY.MMA has entered the slot since it opened -/
  entered : Bool
  deriving DecidableEq, Repr

/-- A FREE slot. -/
def Slot.empty : Slot :=
  { state := .free, int := false, cells := [], rowScale := Vector.replicate 16 127#8
    colScale := Vector.replicate 16 127#8, entered := false }

/-- A reserved summary FIFO entry (R102, R104). -/
structure SumEntry where
  id : Nat
  filled : Bool
  value : Word64
  flags : Byte
  /-- bound to the open slack region (R106) -/
  bound : Bool
  deriving DecidableEq, Repr

/-- The queue or core that executes an instruction (R80). -/
inductive Engine where
  | halyard | matrix | vector | mover
  deriving DecidableEq, Repr

/-- A set that waits until its hitch has been consumed (R92): the hitch, and the program-order number of the
instruction that makes it with its engine (none for a set from outside the Bight); `owner` is the Bight and program-order number
of a MOV.SEND that makes it and has not completed. -/
structure WaitingSet where
  hitch : BitVec 5
  seq : Option (Nat × Engine)
  owner : Option (Nat × Nat)
  deriving DecidableEq, Repr

/-- The architectural state of a Bight that a region saves and a cut restores (R83). -/
structure BightArch where
  sregs : Vector Word64 32
  /-- keyed 512 * register + lane -/
  vregs : SMap Lane
  pregs : Vector (BitVec 512) 16
  hitches : BitVec 32
  hitchSets : List WaitingSet
  pc : Word64
  fifo : List SumEntry
  fifoNext : Nat
  slots : Vector Slot 8
  locker : Mem
  halyard : Word16
  serve : Word16
  lay : Word16
  fairlead : Word16
  deriving DecidableEq, Repr

/-- Every item zero (R83). -/
def BightArch.zero : BightArch :=
  { sregs := Vector.replicate 32 0#64, vregs := [], pregs := Vector.replicate 16 0#512, hitches := 0#32
    hitchSets := [], pc := 0#64, fifo := [], fifoNext := 0, slots := Vector.replicate 8 Slot.empty
    locker := Mem.empty, halyard := 0#16, serve := 0#16, lay := 0#16, fairlead := 0#16 }

/-- What a drain adds to one statistics record (R117 to R119). -/
structure StatSum where
  record : Nat
  nonzero : Nat
  zeros : Nat
  nonfinite : Nat
  poisoned : Nat
  underflow : Nat
  saturated : Nat
  maxExp : Nat
  hist : List Nat
  deriving DecidableEq, Repr

/-- An effect that a region holds (R182, R183, R185). `part` is the partition, `addr` a partition address. -/
inductive HeldEffect where
  /-- bytes for partition memory -/
  | store (part addr : Nat) (blob : Blob)
  /-- bytes for another Bight's locker, then its hitch -/
  | send (ctx dest addr : Nat) (blob : Blob)
  | sendHitch (ctx dest : Nat) (hitch : BitVec 5) (owner : Nat × Nat)
  /-- a message for a flow; `owner` is the Bight and program-order number of its SEND -/
  | flow (flow : Nat) (blob : Blob) (owner : Option (Nat × Nat))
  /-- delivered messages freed on a flow, by the RELEASE `owner` -/
  | freed (flow count : Nat) (owner : Nat × Nat)
  /-- one atomic record without a returned value -/
  | atomic (part addr size op : Nat) (operand compare : Nat)
  /-- a merge of drain statistics -/
  | stat (part : Nat) (sum : StatSum)
  /-- a shard of a weight load, checked: whether its chunk was valid (R329) -/
  | shard (part load shard : Nat) (valid : Bool)
  /-- contribution of a collective: the command's context, ring and lay count -/
  | coll (ctx ring lay : Nat)
  /-- ABORT frames of a collective that ended while its contribution was held -/
  | abort (part coll cause : Nat) (flows : List Nat)
  /-- a data record for host memory, as its command has formed it -/
  | record (addr : Nat) (data : Bytes)
  deriving DecidableEq, Repr

/-- A held effect with the command that made it, the hank whose buffer it stands in and the bytes it takes there (R184, R185). -/
structure HeldItem where
  ctx : Nat
  ring : Nat
  lay : Nat
  hank : Nat
  size : Nat
  effect : HeldEffect
  /-- its instruction stands in the open slack region of that hank's Bight (R107) -/
  local_ : Bool
  deriving DecidableEq, Repr

/-- An open slack region of a Bight (R106, R107). -/
structure Region where
  /-- number of the bound entry -/
  bound : Nat
  cond : BitVec 4
  mask : Byte
  expect : Byte
  /-- value of s[RA] at SLACK.OPEN -/
  ra : Word64
  rb : BitVec 5
  resume : Word64
  /-- the Bight as at SLACK.OPEN, with what instructions from before the region have done since -/
  snap : BightArch
  /-- vector registers, slots and locker granules saved so far -/
  savedV : List Nat
  savedS : List Nat
  savedG : List Nat
  items : List HeldItem
  /-- program-order number of the first instruction in the region -/
  first : Nat
  deriving DecidableEq, Repr

/-- A slot in DRAINING, waiting for the drain pipeline (R64, R72, R76, R90). -/
structure DrainItem where
  seq : Nat
  slot : Fin 8
  spill : Bool
  /-- spill destination -/
  addr : Nat
  desc : Bytes
  /-- the descriptor held a poisoned byte (R432), and its worst mark -/
  descMark : Mark
  setH : Option (BitVec 5)
  deriving DecidableEq, Repr

/-- The RUN a Bight is executing (R81, R331). -/
structure RunRef where
  ctx : Nat
  ring : Nat
  lay : Nat
  part : Nat
  rank : Nat
  /-- partition address and size of the program object -/
  prog : Nat
  size : Nat
  /-- the RUN belongs to the step region Σ (R178) -/
  spec : Bool
  /-- for an imported program: the partition that holds it (R208) -/
  home : Nat
  /-- summary entry 0 is the step record's (R180) -/
  step : Bool := false
  deriving DecidableEq, Repr

/-- One Bight. -/
structure Bight where
  arch : BightArch
  region : Option Region
  drains : List DrainItem
  run : Option RunRef
  /-- the context whose RUN it executed last (R301) -/
  turn : Nat
  /-- causes of the poison its work has read since RUN start (R251, R432) -/
  seen : List Mark
  /-- granule last loaded poisoned, for POISON_CONSUMED -/
  seenAt : Option Nat
  /-- next program-order number -/
  nextSeq : Nat
  /-- dispatch is stopped for a switch or an eviction (R300, R301) -/
  stopped : Bool
  /-- its RUN ends: what is dispatched completes, and nothing more is dispatched (R322) -/
  ending : Bool := false
  deriving DecidableEq, Repr

/-- A Bight that runs nothing. -/
def Bight.idle : Bight :=
  { arch := BightArch.zero, region := none, drains := [], run := none, turn := 0, seen := [], seenAt := none
    nextSeq := 0, stopped := false }

/-- What a dispatched instruction captured (R90). -/
structure Cap where
  seq : Nat
  regs : List Word64
  desc : Bytes
  descMark : Mark
  /-- the summary entry it reserved -/
  entry : Option Nat
  /-- issued, and in flight until its messages are acknowledged or its collective completes (R273) -/
  flying : Bool
  /-- the message number it sent, and whether a byte of it was poisoned -/
  msg : Option Nat
  sentBad : Bool
  /-- its flow was lost before the last acknowledgement -/
  lost : Bool
  deriving DecidableEq, Repr

/-- Address ranges, register numbers and slots that a dispatched instruction reads and writes (R65, R91, R101). -/
structure Foot where
  rd : List (Nat × Nat)
  wr : List (Nat × Nat)
  memRd : List (Nat × Nat)
  memWr : List (Nat × Nat)
  slots : List Nat
  vregs : List Nat
  deriving DecidableEq, Repr

/-- Nothing read or written. -/
def Foot.none : Foot := ⟨[], [], [], [], [], []⟩

/-- A command whose wait is not over. `bight` is set for a Bight instruction, with its engine; `cap` once it is dispatched. -/
structure Held where
  cmd : Instr
  bight : Option Nat
  eng : Engine
  cap : Option Cap
  foot : Foot
  waitH : Option (BitVec 5)
  /-- number of its arrival: a smaller one is older -/
  ord : Nat
  /-- the regions, by tier and hank, at whose controllers a request of it stands (R197, R217) -/
  asks : List (Nat × Nat) := []
  deriving DecidableEq, Repr

end Sys2Proof.Machine
end

