-- ==== Sys2Proof/Machine/Ops.lean ====
section
/-!
DEFINITION. The named operations over addressed bytes and over the registers of a Bight.
-/

namespace Sys2Proof.Machine

/-! Addressed bytes with poison marks -/

/-- One byte. -/
def Mem.byte (m : Mem) (a : Nat) : Byte := m.bytes.get 0 a
/-- The mark of a 16-byte codeword. -/
def Mem.mark (m : Mem) (cw : Nat) : Mark := m.marks.get .clean cw
/-- The mark of the codeword that holds a byte. -/
def Mem.markAt (m : Mem) (a : Nat) : Mark := m.mark (a / 16)
/-- Whether a byte lies in a poisoned codeword. -/
def Mem.bad (m : Mem) (a : Nat) : Bool := (m.markAt a).isBad

/-- `n` bytes from address `a`. -/
def Mem.read (m : Mem) (a n : Nat) : Bytes := (m.bytes.window 0 a n).toList
/-- The codeword numbers that `n` bytes from `a` touch. -/
def cwRange (a n : Nat) : List Nat := if n = 0 then [] else (List.range ((a + n - 1) / 16 + 1 - a / 16)).map (a / 16 + ·)
/-- The worst mark over `n` bytes from `a`. -/
def Mem.worst (m : Mem) (a n : Nat) : Mark := (cwRange a n).foldl (fun w c => w.worse (m.mark c)) .clean
/-- The poisoned codewords of `n` bytes read from `a`, counted from that of `a`. -/
def chunkMarks (mk : Nat → Mark) (a n : Nat) : List (Nat × Mark) :=
  (cwRange a n).filterMap (fun c => if (mk c).isBad then some (c - a / 16, mk c) else none)

/-- `n` bytes from `a` with their marks. -/
def Mem.blob (m : Mem) (a n : Nat) : Blob := ⟨m.read a n, chunkMarks m.mark a n, a % 16⟩

/-- The worst mark of a blob. -/
def Blob.worst (b : Blob) : Mark := b.bad.foldl (fun w e => w.worse e.2) .clean
/-- The mark of codeword `j`. -/
def Blob.word (b : Blob) (j : Nat) : Mark := b.bad.foldl (fun w e => if e.1 = j then w.worse e.2 else w) .clean
/-- The mark of byte `i`. -/
def Blob.markAt (b : Blob) (i : Nat) : Mark := b.word ((i + b.skew) / 16)
/-- The mark of bytes 16i to 16i + 15. -/
def Blob.mark (b : Blob) (i : Nat) : Mark := if b.skew = 0 then b.word i else (b.word i).worse (b.word (i + 1))
/-- Unpoisoned bytes. -/
def Blob.ofBytes (bs : Bytes) : Blob := ⟨bs, [], 0⟩
/-- Bytes whose 16-byte chunks `bad` marks. -/
def Blob.chunks (bs : Bytes) (bad : List (Nat × Mark)) : Blob := ⟨bs, bad, 0⟩
/-- Bytes all of which carry a mark. -/
def Blob.marked (bs : Bytes) (m : Mark) : Blob := .chunks bs ((List.range ((bs.length + 15) / 16)).map (fun i => (i, m)))
/-- The poisoned bytes of a blob as zeros. -/
def Blob.zeroed (b : Blob) : Bytes := if b.bad.isEmpty then b.data else b.data.mapIdx (fun i x => if (b.markAt i).isBad then 0 else x)
/-- `n` bytes of a blob from a multiple of 16. -/
def Blob.slice (b : Blob) (o n : Nat) : Blob :=
  ⟨(b.data.drop o).take n,
   b.bad.filterMap (fun e => if o / 16 ≤ e.1 ∧ e.1 < (o + n + b.skew + 15) / 16 then some (e.1 - o / 16, e.2) else none), b.skew⟩

/-- The mark of codeword `c` after a write of `n` bytes at `a`: the write's own mark where it carries one, clean
where it replaces the whole codeword, and as before elsewhere (R431, R433). -/
def newMark (m : Mem) (a n : Nat) (pz : Nat → Mark) (c : Nat) : Mark :=
  if pz c ≠ .clean then pz c
  else if a ≤ 16 * c ∧ 16 * c + 16 ≤ a + n then .clean
  else m.mark c

/-- Writes `n` bytes `f 0 ..` at `a`; `pz` gives the mark that the written data gives each codeword. -/
def Mem.write (m : Mem) (a n : Nat) (f : Nat → Byte) (pz : Nat → Mark) : Mem :=
  if n = 0 then m else
  { bytes := m.bytes.setFn 0 a n f
    marks := m.marks.setFn .clean (a / 16) ((a + n - 1) / 16 + 1 - a / 16) (fun i => newMark m a n pz (a / 16 + i)) }

/-- Writes an unpoisoned byte string. -/
def Mem.put (m : Mem) (a : Nat) (bs : Bytes) : Mem := m.write a bs.length (fun i => bs.getD i 0) (fun _ => .clean)

/-- The mark that the bytes of a blob written at `a` give codeword `c`. -/
def Blob.markOver (b : Blob) (a c : Nat) : Mark :=
  if b.bad.isEmpty then .clean else
  (List.range 16).foldl (fun w i => if a ≤ 16 * c + i ∧ 16 * c + i < a + b.data.length then w.worse (b.markAt (16 * c + i - a)) else w) .clean

/-- Writes a blob. -/
def Mem.putBlob (m : Mem) (a : Nat) (b : Blob) : Mem :=
  let arr := b.data.toArray
  m.write a b.data.length (fun i => (arr[i]?).getD 0) (b.markOver a)

/-- Sets bytes to zero and clears the marks of the codewords wholly within (R206, R307). -/
def Mem.zeroRange (m : Mem) (a n : Nat) : Mem := m.write a n (fun _ => 0) (fun _ => .clean)

/-- Marks every codeword that `n` bytes from `a` touch. -/
def Mem.poisonRange (m : Mem) (a n : Nat) (k : Mark) : Mem :=
  (cwRange a n).foldl (fun m c => { m with marks := m.marks.set .clean c k }) m

/-- Drops everything that a store holds in a range: it reads as zero and clean. -/
def Mem.dropRange (m : Mem) (a n : Nat) : Mem := ⟨m.bytes.delRange a n, m.marks.delRange (a / 16) (n / 16)⟩

/-- Copies `n` bytes and their marks; both addresses and `n` are multiples of 16. -/
def Mem.copyRange (m : Mem) (a b n : Nat) : Mem := ⟨m.bytes.copyRange a b n, m.marks.copyRange (a / 16) (b / 16) (n / 16)⟩

/-- The canonical form of addressed bytes. -/
def Mem.wf (m : Mem) : Bool := m.bytes.wf 0 && m.marks.wf .clean

/-! Scalar registers, predicates, lanes -/

/-- s0 reads as 0 (R83). -/
def BightArch.s (a : BightArch) (r : BitVec 5) : Word64 := if r = 0 then 0#64 else a.sregs[r.toNat]
/-- Writes to s0 are discarded (R83). -/
def BightArch.setS (a : BightArch) (r : BitVec 5) (v : Word64) : BightArch :=
  if r = 0 then a else { a with sregs := a.sregs.set r.toNat v }

/-- p0 reads as all ones (R83). -/
def BightArch.p (a : BightArch) (r : BitVec 4) : BitVec 512 := if r = 0 then BitVec.allOnes 512 else a.pregs[r.toNat]
/-- Writes to p0 are discarded (R83). -/
def BightArch.setP (a : BightArch) (r : BitVec 4) (v : BitVec 512) : BightArch :=
  if r = 0 then a else { a with pregs := a.pregs.set r.toNat v }

/-- A lane of vector register `r`, taken modulo 64 (R94). -/
def BightArch.lane (a : BightArch) (r l : Nat) : Lane := a.vregs.get Lane.zero (512 * (r % 64) + l)
/-- The entries of one vector register, as a store of its own for repeated reads. -/
def BightArch.vreg (a : BightArch) (r : Nat) : SMap Lane :=
  (a.vregs.filter (fun e => 512 * (r % 64) ≤ e.1 && e.1 < 512 * (r % 64) + 512)).map (fun e => (e.1 - 512 * (r % 64), e.2))
/-- Writes all lanes of a vector register. -/
def BightArch.setV (a : BightArch) (r : Nat) (f : Nat → Lane) : BightArch :=
  { a with vregs := a.vregs.setFn Lane.zero (512 * (r % 64)) 512 f }
/-- Writes `n` consecutive registers, numbers taken modulo 64 (R94). -/
def BightArch.setVs (a : BightArch) (r n : Nat) (f : Nat → Nat → Lane) : BightArch :=
  (List.range n).foldl (fun a i => a.setV (r + i) (f i)) a

/-! Hitches (R92) -/

/-- Whether a hitch is 1. -/
def BightArch.hitch (a : BightArch) (h : BitVec 5) : Bool := a.hitches.getLsbD h.toNat
/-- Writes a hitch. -/
def BightArch.putHitch (a : BightArch) (h : BitVec 5) (v : Bool) : BightArch :=
  { a with hitches := (a.hitches &&& ~~~(1#32 <<< h.toNat)) ||| (if v then 1#32 <<< h.toNat else 0#32) }
/-- A set: makes the hitch 1, or waits behind a hitch that is already 1. -/
def BightArch.setHitch (a : BightArch) (h : BitVec 5) (seq : Option (Nat × Engine)) (owner : Option (Nat × Nat) := none) : BightArch :=
  if a.hitch h then { a with hitchSets := a.hitchSets ++ [⟨h, seq, owner⟩] } else a.putHitch h true
/-- Makes a hitch 0 and lets the first set that waits for it proceed. -/
def BightArch.dropHitch (a : BightArch) (h : BitVec 5) : BightArch :=
  match a.hitchSets.find? (fun w => w.hitch == h) with
  | some w => { a with hitchSets := a.hitchSets.erase w }
  | none => a.putHitch h false
/-- Sets a hitch when the instruction names one. -/
def BightArch.setHitchOpt (a : BightArch) (h : Option (BitVec 5)) (seq : Nat) (eng : Engine) : BightArch :=
  match h with
  | some h => a.setHitch h (some (seq, eng))
  | none => a

/-! Status words: sticky bits (R93) -/

def BightArch.orHalyard (a : BightArch) (w : Word16) : BightArch := { a with halyard := a.halyard ||| w }
def BightArch.orServe (a : BightArch) (w : Word16) : BightArch := { a with serve := a.serve ||| w }
def BightArch.orLay (a : BightArch) (w : Word16) : BightArch := { a with lay := a.lay ||| w }
def BightArch.orFairlead (a : BightArch) (w : Word16) : BightArch := { a with fairlead := a.fairlead ||| w }

/-! Summary FIFO (R102, R104) -/

/-- Reserves the next entry; its number is `fifoNext` before the call. -/
def BightArch.reserve (a : BightArch) : BightArch :=
  { a with fifo := a.fifo ++ [⟨a.fifoNext, false, 0#64, 0#8, false⟩], fifoNext := a.fifoNext + 1 }
/-- An entry filled with a value and a flag byte. -/
def SumEntry.fill (e : SumEntry) (v : Word64) (f : Byte) : SumEntry := { e with filled := true, value := v, flags := f }
/-- Fills entry `id`. -/
def BightArch.fill (a : BightArch) (id : Nat) (v : Word64) (f : Byte) : BightArch :=
  { a with fifo := a.fifo.map (fun e => if e.id == id then e.fill v f else e) }
/-- Fills the entry an instruction reserved, when it reserved one. -/
def BightArch.fillOpt (a : BightArch) (id : Option Nat) (v : Word64) (f : Byte) : BightArch :=
  match id with
  | some i => a.fill i v f
  | none => a
/-- The record of an instruction that took no effect: value 0, NONE (R104). -/
def BightArch.fillNone (a : BightArch) (id : Option Nat) : BightArch := a.fillOpt id 0#64 0x80#8

/-! Slots -/

def BightArch.slot (a : BightArch) (n : Fin 8) : Slot := a.slots[n]
def BightArch.setSlot (a : BightArch) (n : Fin 8) (x : Slot) : BightArch := { a with slots := a.slots.set n x }
/-- Element (r, c) of a slot. -/
def Slot.cell (x : Slot) (r c : Nat) : Lane := x.cells.get Lane.zero (tileIndex r c)

end Sys2Proof.Machine
end

