-- ==== Sys2Proof/Machine/Flags.lean ====
section
/-!
DEFINITION. Status bits and record flags (R70, R93, R100, R102, R103).
-/

namespace Sys2Proof.Machine

/-! Bit masks of the status words. Bits 0 to 3 have the same meaning in SERVE, LAY and FAIRLEAD_STATUS and in a flag byte. -/

def stNaN : Word16 := 0x0001#16
def stInf : Word16 := 0x0002#16
def stSat : Word16 := 0x0004#16
def stPoison : Word16 := 0x0008#16

/-- HALYARD_STATUS (R93). -/
def hsBadEncoding : Word16 := 0x0001#16
def hsPcFault : Word16 := 0x0002#16
def hsDivZero : Word16 := 0x0004#16
def hsSumUnderflow : Word16 := 0x0008#16
def hsSlackUnbound : Word16 := 0x0010#16

/-- SERVE_STATUS (R93). -/
def ssEmpty : Word16 := 0x0010#16
def ssBadEncoding : Word16 := 0x0020#16

/-- LAY_STATUS (R70). -/
def lsBadEncoding : Word16 := 0x0010#16
def lsSlotNotOpen : Word16 := 0x0020#16
def lsSlotReopened : Word16 := 0x0040#16
def lsTypeMismatch : Word16 := 0x0080#16

/-- FAIRLEAD_STATUS (R93). -/
def fsBadEncoding : Word16 := 0x0010#16
def fsAddrFault : Word16 := 0x0020#16

/-- A status mask when a condition holds. -/
def stIf (c : Bool) (m : Word16) : Word16 := if c then m else 0#16

/-- The four shared bits. -/
def stOf (nan inf sat poison : Bool) : Word16 :=
  stIf nan stNaN ||| stIf inf stInf ||| stIf sat stSat ||| stIf poison stPoison

/-- The flag byte of a record from the same four conditions and EMPTY (R102). -/
def flagByte (nan inf sat poison empty : Bool) : Byte :=
  (stOf nan inf sat poison ||| stIf empty 0x0010#16).setWidth 8

/-- NONE, the flag byte of a record that no reduction filled (R102). -/
def flagNone : Byte := 0x80#8

end Sys2Proof.Machine
end

