-- ==== Sys2Proof/Machine/Operands.lean ====
section
/-!
DEFINITION. Operand forms: second scalar operand, locker addresses, descriptor fields, vector operands, predication
(R56, R84, R94, R96, R461).
-/

namespace Sys2Proof.Machine

/-- IMM sign-extended to 64 bits (R84). -/
def immExt (imm : BitVec 32) : Word64 := imm.signExtend 64

/-- The second operand of a scalar instruction: s[SB], or the extended IMM when IMM_EN is 1 (R84, R85). -/
def scalarB (f : ScalarF) (a : BightArch) : Word64 := if f.immEn then immExt f.imm else a.s f.sb

/-- A locker address formed from a value: bits [23:8], with bits [7:0] read as zero (R56, R461). -/
def lockerAddr (v : Nat) : Nat := v / 256 % 65536 * 256

/-- The size of the locker. -/
def lockerBytes : Nat := 16777216

/-- Whether `n` bytes from a locker address stay within the locker (R461). -/
def inLocker (a n : Nat) : Bool := decide (a + n ≤ lockerBytes)

/-- The locker address of scalar LD and ST: (a + IMM)[23:3] x 8 (R85). -/
def ldAddr (f : ScalarF) (a : BightArch) : Nat := (a.s f.sa + immExt f.imm).toNat % 16777216 / 8 * 8

/-- An FP32 value as the 64-bit register result (R85). -/
def fpReg (x : Word32) : Word64 := x.setWidth 64
/-- The FP32 value in bits [31:0] of a register (R85). -/
def regFp (x : Word64) : Word32 := x.setWidth 32

/-- The wait and the set that an instruction names. -/
def optHitch (en : Bool) (h : BitVec 5) : Option (BitVec 5) := if en then some h else none

/-- The lanes that PRED selects (R94, R96). -/
def activeLane (a : BightArch) (pred : BitVec 4) (l : Nat) : Bool := (a.p pred).getLsbD l

/-- The second vector operand: v[VB], or the broadcast scalar captured at dispatch (R94). -/
def vecB (f : VectorF) (regs : List Word64) (a : BightArch) (l : Nat) : Lane :=
  if f.sb then Lane.ok ((regs.getD 1 0#64).setWidth 32) else a.lane f.vb.toNat l

/-- The destination lane of a masked write: the result when active, else kept or zeroed (R96). -/
def maskLane (f : VectorF) (a : BightArch) (res : Nat → Lane) (l : Nat) : Lane :=
  if activeLane a f.pred l then res l
  else if f.zero then Lane.zero else a.lane f.vd.toNat l

/-- The destination predicate of a masked write (R96). -/
def maskPred (f : VectorF) (a : BightArch) (res : Nat → Bool) : BitVec 512 :=
  BitVec.ofBoolListLE ((List.range 512).map (fun l =>
    if activeLane a f.pred l then res l
    else if f.zero then false else (a.p (f.vd.setWidth 4)).getLsbD l)) |>.setWidth 512

end Sys2Proof.Machine
end

