-- ==== Sys2Proof/Machine/Serving.lean ====
section
/-!
DEFINITION. The operations of the Serving unit on the state of one Bight (R44 to R48, R69, R94 to R104).
-/

namespace Sys2Proof.Machine

/-- What a vector instruction did: the new state, the mark of the poison it consumed, and whether it had no effect. -/
structure VRes where
  arch : BightArch
  seen : Mark
  deriving DecidableEq, Repr

/-! Lane operations -/

/-- A lane computed from one source lane; its mark is the source's (R97). -/
def lane1 (f : Word32 → Word32) (a : Lane) : Lane := ⟨f a.val, a.mark⟩
/-- A lane computed from two. -/
def lane2 (f : Word32 → Word32 → Word32) (a b : Lane) : Lane := ⟨f a.val b.val, a.mark.worse b.mark⟩
/-- A lane computed from three. -/
def lane3 (f : Word32 → Word32 → Word32 → Word32) (a b c : Lane) : Lane := ⟨f a.val b.val c.val, (a.mark.worse b.mark).worse c.mark⟩

/-- TYPE 3 is reserved in the instructions that read TYPE (R94). -/
def typeBad (f : VectorF) : Bool := f.type == 3#2
/-- TYPE 0. -/
def typeFp (f : VectorF) : Bool := f.type == 0#2
/-- TYPE 1. -/
def typeSigned (f : VectorF) : Bool := f.type == 1#2

def maxS (a b : Word32) : Word32 := if a.toInt < b.toInt then b else a
def minS (a b : Word32) : Word32 := if b.toInt < a.toInt then b else a
def maxU (a b : Word32) : Word32 := if a.toNat < b.toNat then b else a
def minU (a b : Word32) : Word32 := if b.toNat < a.toNat then b else a

/-- VMAX and VMIN of a TYPE (R98). -/
def vMax (t : BitVec 2) (a b : Word32) : Word32 := if t = 0#2 then fpMax a b else if t = 1#2 then maxS a b else maxU a b
def vMin (t : BitVec 2) (a b : Word32) : Word32 := if t = 0#2 then fpMin a b else if t = 1#2 then minS a b else minU a b
def vAdd (t : BitVec 2) (a b : Word32) : Word32 := if t = 0#2 then fpAdd a b else a + b
def vSub (t : BitVec 2) (a b : Word32) : Word32 := if t = 0#2 then fpSub a b else a - b
def vMul (t : BitVec 2) (a b : Word32) : Word32 := if t = 0#2 then fpMul a b else a * b
def vFma (t : BitVec 2) (a b c : Word32) : Word32 := if t = 0#2 then fpFma a b c else a * b + c
/-- VABS. The magnitude of the least INT32 value, for which the spec states no result, is a free value; an unsigned element is its
own magnitude (DESIGN CHOICE, log 135). -/
def vAbs (t : BitVec 2) (a : Word32) : Word32 :=
  if t = 0#2 then fpAbs a else if t = 1#2 then (if a = 0x80000000#32 then Config.absLeast else if a.toInt < 0 then -a else a) else a
/-- VNEG: of an integer, zero minus it, wrapping (R98; DESIGN CHOICE, log 135). -/
def vNeg (t : BitVec 2) (a : Word32) : Word32 := if t = 0#2 then fpNegate a else -a

/-- The comparison that AUX[2:0] selects, of two elements of a TYPE; none for a reserved code (R95). -/
def vCmp (t : BitVec 2) (code : Nat) (a b : Word32) : Option Bool :=
  let lt := if t = 0#2 then fpLt a b else if t = 1#2 then decide (a.toInt < b.toInt) else decide (a.toNat < b.toNat)
  let gt := if t = 0#2 then fpLt b a else if t = 1#2 then decide (b.toInt < a.toInt) else decide (b.toNat < a.toNat)
  let eq := if t = 0#2 then fpEq a b else a == b
  match code with
  | 0 => some eq
  | 1 => some (!eq)
  | 2 => some lt
  | 3 => some (lt || eq)
  | 4 => some gt
  | 5 => some (gt || eq)
  | _ => none

/-! Common forms -/

/-- A reserved code: no effect but BAD_ENCODING, and NONE into an entry it reserved (R82, R94, R104). -/
def vecBad (cap : Cap) (a : BightArch) : VRes := ⟨(a.orServe ssBadEncoding).fillNone cap.entry, .clean⟩

/-- The worst mark among active lanes. -/
def activeMark (f : VectorF) (a : BightArch) (res : Nat → Lane) : Mark :=
  (List.range 512).foldl (fun w l => if activeLane a f.pred l then w.worse (res l).mark else w) .clean

/-- A masked write of result lanes with the flags of R100, each by what any active lane holds, poisoned or not. `fp` says that the lanes are read as floating point; `sat` and
`nan` are reported by the conversion of a lane; `consumes` is false for a carrier of poison (R432). -/
def vecWrite (f : VectorF) (a : BightArch) (fp consumes : Bool) (res : Nat → Lane) (sat nan : Nat → Bool) : VRes :=
  let arr := Array.ofFn (fun l : Fin 512 => res l.val)
  let get := fun l => (arr[l]?).getD Lane.zero
  let act := activeLane a f.pred
  let any := fun (p : Nat → Bool) => (List.range 512).any (fun l => act l && p l)
  let st := stOf
    (any (fun l => (fp && fpIsNaN (get l).val) || nan l)) (any (fun l => fp && fpIsInf (get l).val)) (any sat)
    (any (fun l => (get l).poison))
  ⟨(a.setV f.vd.toNat (maskLane f a get)).orServe st, if consumes then activeMark f a get else .clean⟩

/-- No conversion report. -/
def never (_ : Nat) : Bool := false

/-- va op vb, with a TYPE. -/
def vecBin (op : BitVec 2 → Word32 → Word32 → Word32) (f : VectorF) (cap : Cap) (a : BightArch) : VRes :=
  if typeBad f then vecBad cap a else
  vecWrite f a (typeFp f) true (fun l => lane2 (op f.type) (a.lane f.va.toNat l) (vecB f cap.regs a l)) never never

/-- op va, with a TYPE. -/
def vecUn (op : BitVec 2 → Word32 → Word32) (f : VectorF) (cap : Cap) (a : BightArch) : VRes :=
  if typeBad f then vecBad cap a else
  vecWrite f a (typeFp f) true (fun l => lane1 (op f.type) (a.lane f.va.toNat l)) never never

/-- va op vb, whatever TYPE holds. -/
def vecBin0 (fp : Bool) (op : Word32 → Word32 → Word32) (f : VectorF) (cap : Cap) (a : BightArch) : VRes :=
  vecWrite f a fp true (fun l => lane2 op (a.lane f.va.toNat l) (vecB f cap.regs a l)) never never

/-- op va, whatever TYPE holds. -/
def vecUn0 (fp : Bool) (op : Word32 → Word32) (f : VectorF) (a : BightArch) : VRes :=
  vecWrite f a fp true (fun l => lane1 op (a.lane f.va.toNat l)) never never

def vecFma (f : VectorF) (cap : Cap) (a : BightArch) : VRes :=
  if typeBad f then vecBad cap a else
  vecWrite f a (typeFp f) true
    (fun l => lane3 (vFma f.type) (a.lane f.va.toNat l) (vecB f cap.regs a l) (a.lane f.vc.toNat l)) never never

/-- VMOV: v[VA], or the scalar when SB = 1 (R95). TYPE is not read: for NAN_SEEN and INF_SEEN the result lanes of VMOV, VSEL, VPERM,
VROT and VLD are read as FP32, those of the bitwise and shift operations as integers (DESIGN CHOICE, log 136). -/
def vecMov (f : VectorF) (cap : Cap) (a : BightArch) : VRes :=
  vecWrite f a true false (fun l => if f.sb then vecB f cap.regs a l else a.lane f.va.toNat l) never never

def vecSel (f : VectorF) (cap : Cap) (a : BightArch) : VRes :=
  vecWrite f a true false
    (fun l => if (a.p (f.vc.setWidth 4)).getLsbD l then a.lane f.va.toNat l else vecB f cap.regs a l) never never

/-- A masked write of a predicate (R96). -/
def predWrite (f : VectorF) (a : BightArch) (res : Nat → Bool) : BightArch := a.setP (f.vd.setWidth 4) (maskPred f a res)

def vecCmp (f : VectorF) (cap : Cap) (a : BightArch) : VRes :=
  if typeBad f || decide (5 < f.aux.toNat % 8) then vecBad cap a else
  let x := fun l => a.lane f.va.toNat l
  let y := fun l => vecB f cap.regs a l
  let bad := fun l => ((x l).mark.worse (y l).mark)
  let m := (List.range 512).foldl (fun w l => if activeLane a f.pred l then w.worse (bad l) else w) .clean
  ⟨(predWrite f a (fun l => !(bad l).isBad && (vCmp f.type (f.aux.toNat % 8) (x l).val (y l).val).getD false)).orServe
      (stIf m.isBad stPoison), m⟩

def vShl (a b : Word32) : Word32 := a <<< (b.toNat % 32)
def vShr (a b : Word32) : Word32 := a >>> (b.toNat % 32)
def vSra (a b : Word32) : Word32 := a.sshiftRight (b.toNat % 32)

/-- p[VA] op p[VB] (R95). -/
def predBin (op : Bool → Bool → Bool) (f : VectorF) (a : BightArch) : VRes :=
  ⟨predWrite f a (fun l => op ((a.p (f.va.setWidth 4)).getLsbD l) ((a.p (f.vb.setWidth 4)).getLsbD l)), .clean⟩

/-- PRANGE: lane l is 1 exactly when s[VA] <= l < s[VB], unsigned. -/
def predRange (f : VectorF) (cap : Cap) (a : BightArch) : VRes :=
  ⟨predWrite f a (fun l => decide ((cap.regs.getD 0 0#64).toNat ≤ l) && decide (l < (cap.regs.getD 1 0#64).toNat)), .clean⟩

/-- VPERM. The index lane's poison passes to the result. -/
def vecPerm (f : VectorF) (cap : Cap) (a : BightArch) : VRes :=
  vecWrite f a true false (fun l =>
    let i := vecB f cap.regs a l
    let x := a.lane f.va.toNat (i.val.toNat % 512)
    ⟨x.val, x.mark.worse i.mark⟩) never never

/-- VROT: va[(l + s[VB]) mod 512]. -/
def vecRot (f : VectorF) (cap : Cap) (a : BightArch) : VRes :=
  vecWrite f a true false (fun l => a.lane f.va.toNat ((l + (cap.regs.getD 1 0#64).toNat) % 512)) never never

/-! Reductions -/

/-- A NaN becomes canonical (R28). -/
def canon (x : Word32) : Word32 := if fpIsNaN x then fpNaN else x

/-- The running results of VSCAN over the active lanes, newest first. -/
def scanList (op : Word32 → Word32 → Word32) (fp : Bool) (f : VectorF) (a : BightArch) (ls : List Nat) (prev : Option Lane) : List (Option Lane) :=
  match ls with
  | [] => []
  | l :: t =>
    if activeLane a f.pred l then
      let x := a.lane f.va.toNat l
      let r : Lane := match prev with
        | some p => lane2 op p x
        | none => if fp then lane1 canon x else x
      some r :: scanList op fp f a t (some r)
    else none :: scanList op fp f a t prev

/-- VSCAN: 0 sum, 1 max, 2 min. -/
def vecScan (f : VectorF) (cap : Cap) (a : BightArch) : VRes :=
  if typeBad f then vecBad cap a else
  match (match f.vc.toNat with | 0 => some (vAdd f.type) | 1 => some (vMax f.type) | 2 => some (vMin f.type) | _ => none) with
  | none => vecBad cap a
  | some op =>
    let arr := (scanList op (typeFp f) f a (List.range 512) none).toArray
    vecWrite f a (typeFp f) true (fun l => ((arr[l]?).getD none).getD Lane.zero) never never

/-- The reductions of R103, by VC[3:0]. -/
inductive RedKind where
  | sum | product | max | min | argmax | argmin | mean | count | any | all | and | or | xor
  deriving DecidableEq, Repr

def redKind (c : Nat) : Option RedKind :=
  match c with
  | 0 => some .sum | 1 => some .product | 2 => some .max | 3 => some .min | 4 => some .argmax | 5 => some .argmin
  | 6 => some .mean | 7 => some .count | 8 => some .any | 9 => some .all | 10 => some .and | 11 => some .or | 12 => some .xor
  | _ => none

/-- The result of an empty reduction (R47). `t` is the TYPE, 2 for a predicate source. -/
def redEmpty (k : RedKind) (t : BitVec 2) : Word32 :=
  match k with
  | .sum => 0#32
  | .product => if t = 0#2 then fpOne else 1#32
  | .max => if t = 0#2 then fpInf true else if t = 1#2 then 0x80000000#32 else 0#32
  | .min => if t = 0#2 then fpInf false else if t = 1#2 then 0x7FFFFFFF#32 else 0xFFFFFFFF#32
  | .mean => if t = 0#2 then fpNaN else 0#32
  | .argmax => 0xFFFFFFFF#32
  | .argmin => 0xFFFFFFFF#32
  | .count => 0#32
  | .any => 0#32
  | .all => 1#32
  | .and => 0xFFFFFFFF#32
  | .or => 0#32
  | .xor => 0#32

/-- The key by which argmax orders elements: a NaN above every number, +0 above -0 (R46). -/
def argKey (t : BitVec 2) (x : Word32) (nanHigh : Bool) : Int :=
  if t = 0#2 then (if fpIsNaN x then (if nanHigh then 2 ^ 40 else -(2 ^ 40)) else fpKey x)
  else if t = 1#2 then x.toInt else (x.toNat : Int)

/-- The non-zero test of count, any and all (R46). -/
def redNonzero (t : BitVec 2) (x : Word32) : Bool := if t = 0#2 then !fpIsZero x else x != 0#32

/-- The combination of two present elements for the plain reductions (R46). -/
def redOp (k : RedKind) (t : BitVec 2) : Word32 → Word32 → Word32 :=
  match k with
  | .product => vMul t
  | .max => vMax t
  | .min => vMin t
  | .and => fun a b => a &&& b
  | .or => fun a b => a ||| b
  | .xor => fun a b => a ^^^ b
  | _ => vAdd t

/-- The quotient of an integer mean: exact sum over count, truncated (R46). -/
def intMean (t : BitVec 2) (xs : List Word32) : Word32 :=
  if t = 1#2 then BitVec.ofInt 32 ((xs.foldl (fun (a : Int) (x : Word32) => a + x.toInt) 0).tdiv xs.length)
  else BitVec.ofNat 32 ((xs.foldl (fun (a : Nat) (x : Word32) => a + x.toNat) 0) / xs.length)

/-- The reduction of present elements `elem register lane` over `n` registers (R44 to R47): value and whether it is empty. -/
def reduceVal (k : RedKind) (t : BitVec 2) (n : Nat) (elem : Nat → Nat → Option Word32) : Word32 × Bool :=
  let all := (List.range n).flatMap (fun j => (List.range 512).filterMap (elem j))
  if all.isEmpty then (redEmpty k t, true) else
  let plain := fun (op : Word32 → Word32 → Word32) (g : Word32 → Word32) =>
    (reduceRegs op n (fun j l => (elem j l).map g)).getD 0#32
  let arg := fun (better : Int → Int → Bool) (hi : Bool) =>
    let c := fun (x y : Int × Nat) => if better y.1 x.1 then y else x
    match reduceRegs c n (fun j l => (elem j l).map (fun v => (argKey t v hi, 512 * j + l))) with
    | some r => BitVec.ofNat 32 r.2
    | none => 0xFFFFFFFF#32
  let one := fun (b : Bool) => if b then 1#32 else 0#32
  ((match k with
    | .argmax => arg (fun x y => decide (y < x)) true
    | .argmin => arg (fun x y => decide (x < y)) false
    | .mean => if t = 0#2 then fpDiv (plain fpAdd canon) (natToFp all.length) else intMean t all
    | .count => BitVec.ofNat 32 (all.countP (redNonzero t))
    | .any => one (all.any (redNonzero t))
    | .all => one (all.all (redNonzero t))
    | k => plain (redOp k t) (if t = 0#2 then canon else id)), false)

/-- Whether the kind yields a floating-point result of TYPE 0. -/
def redFp (k : RedKind) (t : BitVec 2) : Bool :=
  t == 0#2 && (match k with | .sum => true | .product => true | .max => true | .min => true | .mean => true | _ => false)

/-- The flag byte of R103: each condition of it on its own, by the values that the lanes hold. An empty reduction has no NaN in it, and its
result may be infinite (R47). -/
def redFlags (k : RedKind) (t : BitVec 2) (vals : List Word32) (v : Word32) (empty poison : Bool) : Byte :=
  if empty then flagByte false (redFp k t && fpIsInf v) false false true else
  flagByte ((t == 0#2 && vals.any fpIsNaN) || (redFp k t && fpIsNaN v))
    ((t == 0#2 && vals.any fpIsInf) || (redFp k t && fpIsInf v)) false poison false

/-- Whether a kind is reserved for the TYPE: and, or, xor are integer only (R103). -/
def redBad (k : RedKind) (t : BitVec 2) : Bool :=
  t == 0#2 && (match k with | .and => true | .or => true | .xor => true | _ => false)

/-- VRED (R103). -/
def vecRed (f : VectorF) (cap : Cap) (a : BightArch) : VRes :=
  let pred := f.aux.getLsbD 6
  if typeBad f && !pred then vecBad cap a else
  match redKind (f.vc.toNat % 16) with
  | none => vecBad cap a
  | some k =>
    let t := if pred then 2#2 else f.type
    if redBad k t then vecBad cap a else
    let n := if pred then 1 else f.aux.toNat % 64 + 1
    let act := activeLane a f.pred
    let lanes := Array.ofFn (fun i : Fin (n * 512) => a.lane (f.va.toNat + i.val / 512) (i.val % 512))
    let src := fun (j l : Nat) => if pred then Lane.ok (if (a.p (f.va.setWidth 4)).getLsbD l then 1#32 else 0#32)
      else (lanes[j * 512 + l]?).getD Lane.zero
    let elem := fun (j l : Nat) => if act l then some (src j l).val else none
    let present := (List.range n).flatMap (fun j => ((List.range 512).filter act).map (src j))
    let m := present.foldl (fun w x => w.worse x.mark) .clean
    let r := reduceVal k t n elem
    let fl := redFlags k t (present.map (fun x => x.val)) r.1 r.2 m.isBad
    ⟨((a.setV f.vd.toNat (fun _ => ⟨r.1, m⟩)).orServe (fl.setWidth 16)).fillOpt cap.entry (r.1.setWidth 64) fl, m⟩

/-- VSOFTMAX of a row (R48, R103). Masked lanes are +0.0 whatever ZERO holds. -/
def vecSoftmax (f : VectorF) (cap : Cap) (a : BightArch) : VRes :=
  let n := f.aux.toNat % 64 + 1
  let act := activeLane a f.pred
  let lanes := Array.ofFn (fun i : Fin (n * 512) => a.lane (f.va.toNat + i.val / 512) (i.val % 512))
  let src := fun (j l : Nat) => (lanes[j * 512 + l]?).getD Lane.zero
  let elem := fun (j l : Nat) => if act l then some (src j l).val else none
  let present := (List.range n).flatMap (fun j => ((List.range 512).filter act).map (src j))
  let m := present.foldl (fun w x => w.worse x.mark) .clean
  let r := reduceVal .max 0#2 n elem
  let mx := r.1
  let out := fun (g : Nat → Nat → Word32) (st : Byte) =>
    (⟨((a.setVs f.vd.toNat n (fun j l => if act l then ⟨g j l, m⟩ else Lane.zero)).orServe (st.setWidth 16)).fillOpt
        cap.entry (mx.setWidth 64) st, m⟩ : VRes)
  let fl := redFlags .max 0#2 (present.map (fun x => x.val)) mx false m.isBad
  if r.2 then out (fun _ _ => 0#32) 0x10#8
  else if mx == fpInf true then out (fun _ _ => 0#32) (fl ||| 0x10#8)
  else if fpIsNaN mx || mx == fpInf false then
    out (fun _ _ => fpNaN) (fl ||| 0x01#8)
  else
    let ex := lanes.map (fun x => fpExp (fpSub x.val mx))
    let e := fun (j l : Nat) => (ex[j * 512 + l]?).getD 0#32
    let sum := (reduceRegs fpAdd n (fun j l => if act l then some (e j l) else none)).getD 0#32
    out (fun j l => fpDiv (e j l) sum) fl

/-! Conversions and the locker -/

/-- The 16-bit value of BF16 or FP16 in bits [15:0], as FP32 (R35). -/
def halfToFp (f : Fmt) (x : Word32) : Word32 := fpOfX (elemVal f (x.toNat % 65536) 0)

/-- VCVT: AUX[3:0]. -/
def vecCvt (f : VectorF) (cap : Cap) (a : BightArch) : VRes :=
  let x := fun l => a.lane f.va.toNat l
  let half := fun (fm : Fmt) =>
    vecWrite f a false true (fun l => lane1 (fun v => BitVec.ofNat 32 (encPlain fm (fpVal v))) (x l)) never
      (fun l => fpIsNaN (x l).val)
  let withInf := fun (fm : Fmt) (r : VRes) =>
    ({ r with arch := r.arch.orServe (stIf ((List.range 512).any (fun l => activeLane a f.pred l &&
        fpIsInf (halfToFp fm (BitVec.ofNat 32 (encPlain fm (fpVal (x l).val)))))) stInf) } : VRes)
  match f.aux.toNat % 16 with
  | 0 => vecWrite f a false true (fun l => lane1 (fun v => (fpToInt v).1) (x l)) (fun l => (fpToInt (x l).val).2.1)
      (fun l => (fpToInt (x l).val).2.2)
  | 1 => vecUn0 true intToFp f a
  | 2 => withInf .bf16 (half .bf16)
  | 3 => vecUn0 true (halfToFp .bf16) f a
  | 4 => withInf .fp16 (half .fp16)
  | 5 => vecUn0 true (halfToFp .fp16) f a
  | _ => vecBad cap a

/-- The format that AUX[2:0] names (R55). -/
def auxFmt (f : VectorF) : Fmt := (Fmt.ofCode (f.aux.toNat % 8)).getD .fp32

/-- The tile record at a locker address. -/
def lockerTile (a : BightArch) (fm : Fmt) (addr : Nat) : TileIn :=
  decodeTile fm (a.locker.bytes.window 0 addr (fmtRecord fm)) (a.locker.marks.window .clean (addr / 16) (fmtRecord fm / 16))

/-- Writes a tile record to the locker. -/
def putTile (a : BightArch) (addr : Nat) (t : TileOut) : BightArch :=
  let mk := tileMarks t
  { a with locker := a.locker.write addr (fmtRecord t.fmt) (tileByte t) (fun c => (mk[c - addr / 16]?).getD .clean) }

/-- The locker address of a vector instruction (R461). -/
def vecAddr (cap : Cap) : Nat := lockerAddr (cap.regs.getD 0 0#64).toNat

/-- Element (r, c) of 32 registers in the layout of R69. -/
def blkLane (f : VectorF) (a : BightArch) (r c : Nat) : Lane := a.lane (f.vd.toNat + r / 4) (128 * (r % 4) + c)

/-- VBLK.ST. The elements that it writes count as result lanes for the flags of R100; those of VST, which writes bits, do not (DESIGN
CHOICE, log 172). An OUT_SCOPE of 1 or 2 applies to INT8 only, and 3 is reserved (R74, R76, R95). -/
def vecBlkSt (f : VectorF) (cap : Cap) (a : BightArch) : VRes :=
  let fm := auxFmt f
  let scope := f.aux.toNat / 8 % 4
  if scope = 3 || !inLocker (vecAddr cap) (fmtRecord fm) then vecBad cap a else
  let regs := Array.ofFn (fun i : Fin 16384 => a.lane (f.vd.toNat + i.val / 512) (i.val % 512))
  let src := fun (r c : Nat) => ((regs[512 * (r / 4) + 128 * (r % 4) + c]?).getD Lane.zero)
  let t := convertTile fm (if fm = .int8 then scope else 0) (fun r c => (src r c).src)
  let clean := fun (p : Word32 → Bool) => regs.any (fun x => !x.poison && p x.val)
  let nan := tileNaN t || ((fmtNaN fm).isSome && clean fpIsNaN)
  let inf := (fmtInfMag fm).isSome && t.elems.any (fun e => some (e.bits % 2 ^ (fmtWidth fm - 1)) == fmtInfMag fm)
  ⟨(putTile a (vecAddr cap) t).orServe (stOf nan inf (tileSat t) (t.marks.any Mark.isBad)), .clean⟩

/-- VBLK.LD. -/
def vecBlkLd (f : VectorF) (cap : Cap) (a : BightArch) : VRes :=
  let fm := auxFmt f
  if !inLocker (vecAddr cap) (fmtRecord fm) then vecBad cap a else
  let t := lockerTile a fm (vecAddr cap)
  let arr := Array.ofFn (fun n : Fin 16384 => t.lane (n.val / 128) (n.val % 128))
  let get := fun (j l : Nat) => (arr[512 * j + l]?).getD Lane.zero
  ⟨(a.setVs f.vd.toNat 32 get).orServe (stOf (arr.any (fun x => fpIsNaN x.val)) (arr.any (fun x => fpIsInf x.val)) false (arr.any Lane.poison)), .clean⟩

/-- VLD: lane l from bytes 4l to 4l + 3. -/
def vecLd (f : VectorF) (cap : Cap) (a : BightArch) : VRes :=
  let addr := vecAddr cap
  if !inLocker addr 2048 then vecBad cap a else
  let w := a.locker.bytes.window 0 addr 2048
  let byte := fun i => (w[i]?).getD 0
  vecWrite f a true false (fun l =>
    ⟨(byte (4 * l + 3) ++ byte (4 * l + 2) ++ byte (4 * l + 1) ++ byte (4 * l) : BitVec 32), a.locker.mark (addr / 16 + l / 4)⟩) never never

/-- VST: active lanes only, without a flag (log 172); a codeword with a poisoned stored lane is poisoned as a whole (R96, R431). -/
def vecSt (f : VectorF) (cap : Cap) (a : BightArch) : VRes :=
  let addr := vecAddr cap
  if !inLocker addr 2048 then vecBad cap a else
  let w := a.locker.bytes.window 0 addr 2048
  let act := activeLane a f.pred
  let lane := fun l => a.lane f.vd.toNat l
  let data := fun i => if act (i / 4) then natByte (lane (i / 4)).val.toNat (i % 4) else (w[i]?).getD 0
  let mk := fun c =>
    let ls := (List.range 4).map (fun j => 4 * (c - addr / 16) + j)
    let own := ls.foldl (fun w l => if act l then w.worse (lane l).mark else w) .clean
    if own.isBad then own else if ls.all act then .clean else a.locker.mark c
  ⟨{ a with locker := a.locker.write addr 2048 data mk }, .clean⟩

/-- VSLOT: the slot as 32 registers; a FREE slot reads as +0.0 and sets SLOT_NOT_OPEN (R69). -/
def vecSlot (f : VectorF) (a : BightArch) : VRes :=
  let x := a.slot ⟨f.aux.toNat % 8, Nat.mod_lt _ (by decide)⟩
  match x.state with
  | .free => ⟨(a.setVs f.vd.toNat 32 (fun _ _ => Lane.zero)).orLay lsSlotNotOpen, .clean⟩
  | _ =>
    let w := x.cells.window Lane.zero 0 16384
    let get := fun (j l : Nat) => (w[tileIndex (4 * j + l / 128) (l % 128)]?).getD Lane.zero
    ⟨(a.setVs f.vd.toNat 32 get).orServe (stOf (!x.int && w.any (fun y => fpIsNaN y.val)) (!x.int && w.any (fun y => fpIsInf y.val)) false (w.any Lane.poison)), .clean⟩

/-- VEMIT: a record of one lane; no status bit (R95). -/
def vecEmit (f : VectorF) (cap : Cap) (a : BightArch) : VRes :=
  if typeBad f then vecBad cap a else
  let x := a.lane f.va.toNat (if f.sb then (cap.regs.getD 1 0#64).toNat % 512 else 0)
  ⟨a.fillOpt cap.entry (x.val.setWidth 64)
      (flagByte (typeFp f && fpIsNaN x.val) (typeFp f && fpIsInf x.val) false x.poison false), .clean⟩

end Sys2Proof.Machine
end

