-- ==== Sys2Proof/Machine/LayArray.lean ====
section
/-!
DEFINITION. The Lay array on the state of one Bight: LAY.MMA, LAY.OPEN, LAY.DISCARD, slot images, and a slot entering
DRAINING (R36 to R42, R56 to R70).
-/

namespace Sys2Proof.Machine

/-! LAY.MMA -/

/-- The operand formats that PAIR selects; none for 22 to 31 (R61). -/
def pairFmts (p : Nat) : Option (Fmt × Fmt) :=
  if p < 16 then
    match Fmt.ofCode (p / 4), Fmt.ofCode (p % 4) with
    | some a, some b => some (a, b)
    | _, _ => none
  else match p with
    | 16 => some (.int8, .int8)
    | 17 => some (.bf16, .bf16)
    | 18 => some (.bf16, .fp16)
    | 19 => some (.fp16, .bf16)
    | 20 => some (.fp16, .fp16)
    | 21 => some (.fp32, .fp32)
    | _ => none

/-- Locker addresses of A and B (R56). -/
def mmaA (cap : Cap) : Nat := lockerAddr (cap.regs.getD 0 0#64).toNat
def mmaB (cap : Cap) : Nat := lockerAddr (cap.regs.getD 1 0#64).toNat

/-- A code that R63 gives no effect, or an operand range outside the locker (R461). -/
def mmaBad (f : MmaF) (cap : Cap) : Bool :=
  f.g == 3#2 || decide (f.kLast.toNat < f.kFirst.toNat) ||
  match pairFmts f.pair.toNat with
  | none => true
  | some (fa, fb) => !inLocker (mmaA cap) (fmtRecord fa) || !inLocker (mmaB cap) (fmtRecord fb)

/-- The stored element number of A(i, k) and of B(k, j) (R57). -/
def idxA (ta : Bool) (i k : Nat) : Nat := if ta then tileIndex k i else tileIndex i k
def idxB (tb : Bool) (k j : Nat) : Nat := if tb then tileIndex j k else tileIndex k j

/-- The stored scale block of A's row band I, or B's column band J, at k-block kb (R57). -/
def blkA (ta : Bool) (I kb : Nat) : Nat := if ta then 16 * kb + I else 16 * I + kb
def blkB (tb : Bool) (kb J : Nat) : Nat := if tb then 16 * J + kb else 16 * kb + J

/-- The k values of an instruction (R60). -/
def mmaKs (f : MmaF) : List Nat := (List.range (16 * (f.kLast.toNat + 1 - f.kFirst.toNat))).map (16 * f.kFirst.toNat + ·)

/-- The mark of A's elements in row i over the k range, and of B's in column j. For INT8 the loader reads one scale per band. -/
def rowMark (x : TileIn) (int : Bool) (idx : Nat → Nat) (blk : Nat) (raw : Nat → Mark) (ks : List Nat) : Mark :=
  if int then ks.foldl (fun w k => w.worse (raw (idx k))) ((x.scaleMarks[blk]?).getD .clean)
  else ks.foldl (fun w k => w.worse ((x.marks[idx k]?).getD .clean)) .clean

/-- Signed value of an INT8 element. -/
def int8Val (e : Nat) : Int := if e < 128 then (e : Int) else (e : Int) - 256

/-- One element of an FP32 slot after the groups of an instruction (R38 to R40): value, NAN_SEEN, INF_SEEN. -/
def mmaFp (acc : Word32) (groups : List (List XVal)) : Word32 × Bool × Bool :=
  groups.foldl (fun r g =>
    let n := accAdd r.1 (groupSum g)
    (n.1, r.2.1 || n.2.1, r.2.2 || n.2.2)) (acc, false, false)

/-- One element of an INT32 slot after the products of an instruction (R42): value, SATURATED. -/
def mmaInt (acc : Word32) (ps : List Int) : Word32 × Bool :=
  ps.foldl (fun r p => let n := accInt r.1 p; (n.1, r.2 || n.2)) (acc, false)

/-- Marks of the codewords that hold each element, without its scale. -/
def elemMarks (a : BightArch) (fm : Fmt) (addr : Nat) (n : Nat) : Mark :=
  (a.locker.mark (addr / 16 + elemByte (fmtWidth fm) n / 16)).worse
    (a.locker.mark (addr / 16 + (elemByte (fmtWidth fm) n + elemSpan (fmtWidth fm) n - 1) / 16))

/-- An accumulated element: its lane and NaN, infinity, saturation reports. -/
structure MmaOut where
  lane : Lane
  nan : Bool
  inf : Bool
  sat : Bool
  deriving DecidableEq, Repr

/-- Accumulates into an open slot whose TYPE matches (R40, R42, R67, R68). A poisoned element reports POISON alone, neither NaN nor
infinity nor saturation (DESIGN CHOICE, log 24). -/
def mmaInto (f : MmaF) (cap : Cap) (fa fb : Fmt) (a : BightArch) (x : Slot) : VRes :=
  let A := lockerTile a fa (mmaA cap)
  let B := lockerTile a fb (mmaB cap)
  let int := decide (f.pair = 16#5)
  let ks := mmaKs f
  let kb := 2 * f.kFirst.toNat
  let rm := Array.ofFn (fun i : Fin 128 => rowMark A int (idxA f.ta i.val) (blkA f.ta (i.val / 8) kb) (elemMarks a fa (mmaA cap)) ks)
  let cm := Array.ofFn (fun j : Fin 128 => rowMark B int (fun k => idxB f.tb k j.val) (blkB f.tb kb (j.val / 8)) (elemMarks a fb (mmaB cap)) ks)
  let old := x.cells.window Lane.zero 0 16384
  let gs := 4 * 2 ^ f.g.toNat
  let va := fun i k => (A.vals[idxA f.ta i k]?).getD (.fin false 0)
  let vb := fun k j => (B.vals[idxB f.tb k j]?).getD (.fin false 0)
  let ia := fun i k => int8Val ((A.raw[idxA f.ta i k]?).getD 0)
  let ib := fun k j => int8Val ((B.raw[idxB f.tb k j]?).getD 0)
  let out := Array.ofFn (fun n : Fin 16384 =>
    let i := tileRow n.val
    let j := tileCol n.val
    let o := (old[n.val]?).getD Lane.zero
    let m := (o.mark.worse ((rm[i]?).getD .clean)).worse ((cm[j]?).getD .clean)
    if int then
      let r := mmaInt o.val (ks.map (fun k => ia i k * ib k j))
      (⟨⟨r.1, m⟩, false, false, r.2⟩ : MmaOut)
    else
      let groups := (List.range (ks.length / gs)).map (fun g => (List.range gs).map (fun t =>
        let k := 16 * f.kFirst.toNat + gs * g + t
        xMul (va i k) (vb k j)))
      let r := mmaFp o.val groups
      ⟨⟨r.1, m⟩, r.2.1, r.2.2, false⟩)
  let seen := (rm.foldl Mark.worse .clean).worse (cm.foldl Mark.worse .clean)
  let st := stOf (out.any (fun e => !e.lane.poison && e.nan)) (out.any (fun e => !e.lane.poison && e.inf))
    (out.any (fun e => !e.lane.poison && e.sat)) seen.isBad
  let scale := fun (t : TileIn) b => BitVec.ofNat 8 ((t.scales[b]?).getD 127)
  let x := { x with cells := SMap.gen Lane.zero 0 16384 (fun n => ((out[n]?).map (fun e => e.lane)).getD Lane.zero), entered := true,
                    rowScale := if x.entered || !int then x.rowScale else Vector.ofFn (fun I => scale A (blkA f.ta I.val kb)),
                    colScale := if x.entered || !int then x.colScale else Vector.ofFn (fun J => scale B (blkB f.tb kb J.val)) }
  ⟨(a.setSlot f.slot x).orLay st, seen⟩

/-- An opened slot of a TYPE with every element zero. -/
def Slot.zero (int : Bool) : Slot := { Slot.empty with state := .opened, int := int }

/-- LAY.MMA on a slot that is not DRAINING (R60, R63, R66). -/
def layMma (f : MmaF) (cap : Cap) (a : BightArch) : VRes :=
  if mmaBad f cap then ⟨a.orLay lsBadEncoding, .clean⟩ else
  match pairFmts f.pair.toNat with
  | none => ⟨a.orLay lsBadEncoding, .clean⟩
  | some (fa, fb) =>
    let int := decide (f.pair = 16#5)
    let x := a.slot f.slot
    match x.state with
    | .opened =>
      if x.int = int then mmaInto f cap fa fb a x
      else ⟨a.orLay lsTypeMismatch, .clean⟩
    | _ => mmaInto f cap fa fb (a.orLay lsSlotNotOpen) (Slot.zero int)

/-! Slot images (R67) -/

/-- The slot that an image at a locker address holds; a poisoned element stays poisoned. -/
def loadImage (int : Bool) (m : Mem) (addr : Nat) : Slot :=
  let w := m.bytes.window 0 addr 65536
  let byte := fun i => (w[i]?).getD 0
  { Slot.zero int with
    cells := SMap.gen Lane.zero 0 16384 (fun n =>
      ⟨(byte (4 * n + 3) ++ byte (4 * n + 2) ++ byte (4 * n + 1) ++ byte (4 * n) : BitVec 32), m.mark (addr / 16 + n / 4)⟩) }

/-- The worst mark of a slot's elements. -/
def Slot.worst (x : Slot) : Mark := x.cells.foldl (fun w e => w.worse e.2.mark) .clean

/-- Writes the image of a slot. -/
def putImage (m : Mem) (addr : Nat) (x : Slot) : Mem :=
  let w := x.cells.window Lane.zero 0 16384
  let lane := fun n => (w[n]?).getD Lane.zero
  m.write addr 65536 (fun i => natByte (lane (i / 4)).val.toNat (i % 4))
    (fun c => (List.range 4).foldl (fun k j => k.worse (lane (4 * (c - addr / 16) + j)).mark) .clean)

/-- The address of an image or a descriptor, from A_REG (R56). -/
def slotAddr (cap : Cap) : Nat := lockerAddr (cap.regs.getD 0 0#64).toNat

/-- LAY.OPEN on a slot that is not DRAINING (R62, R63, R66, R67, R461). Loading an image consumes its poison. -/
def layOpen (f : SlotF) (cap : Cap) (a : BightArch) : VRes :=
  if 2 ≤ f.src.toNat ∨ (f.src = 1#2 ∧ !inLocker (slotAddr cap) 65536) then ⟨a.orLay lsBadEncoding, .clean⟩
  else
    let a' := if (a.slot f.slot).state = .opened then a.orLay lsSlotReopened else a
    if f.src = 1#2 then
      let x := loadImage f.type a.locker (slotAddr cap)
      ⟨(a'.setSlot f.slot x).orLay (stIf x.worst.isBad stPoison), x.worst⟩
    else ⟨a'.setSlot f.slot (Slot.zero f.type), .clean⟩

/-- LAY.DISCARD on a slot that is not DRAINING. -/
def layDiscard (f : SlotF) (a : BightArch) : VRes :=
  if (a.slot f.slot).state = .free then ⟨a, .clean⟩ else ⟨a.setSlot f.slot Slot.empty, .clean⟩

/-- The slot enters DRAINING (R64). -/
def layEnterDrain (f : SlotF) (a : BightArch) : BightArch :=
  a.setSlot f.slot { a.slot f.slot with state := .draining }

end Sys2Proof.Machine
end

