-- ==== Sys2Proof/Machine/Drain.lean ====
section
/-!
DEFINITION. The drain pipeline on the state of one Bight: descriptor, stages, functions, dropout, statistics
(R71 to R79, R116 to R121, R128 to R130).
-/

namespace Sys2Proof.Machine

/-! Functions and derivatives (R78, R79) -/

def cC1 : Word32 := 0x3F3504F3#32
def cC2 : Word32 := 0x3ECC422A#32
def cC3 : Word32 := 0x3F4C422A#32
def cC4 : Word32 := 0x3D372713#32
def cC5 : Word32 := 0x3E095D4F#32
def cHalf : Word32 := 0x3F000000#32
def cMinusHalf : Word32 := 0xBF000000#32

/-- z > 0; false for both zeros and for NaN. -/
def fpPos (z : Word32) : Bool := fpLt 0#32 z

/-- The plain function that an ACT code selects: 0x0A to 0x0C apply theirs to the gate. -/
def actBase (act : Nat) : Nat :=
  match act with
  | 0x0A => 5 | 0x0B => 3 | 0x0C => 4 | n => n

/-- Whether an ACT code is gated. -/
def actGated (act : Nat) : Bool := decide (0x0A ≤ act) && decide (act ≤ 0x0C)

/-- A result of FP32 operations: its value, whether one of them gave a NaN, and whether one gave an infinity from finite
operands (R70, R77: NaN and infinity that arise in a stage). -/
structure Fx where
  v : Word32
  nan : Bool
  inf : Bool
  deriving DecidableEq, Repr

/-- An operand that no operation of the drain formed. -/
def Fx.of (v : Word32) : Fx := ⟨v, false, false⟩
/-- The result `r` of one operation on `xs`, with what arose before it. -/
def Fx.op (r : Word32) (xs : List Fx) : Fx :=
  ⟨r, xs.any (fun x => x.nan) || fpIsNaN r, xs.any (fun x => x.inf) || (fpIsInf r && xs.all (fun x => fpFinite x.v))⟩
def Fx.mul (a b : Fx) : Fx := .op (fpMul a.v b.v) [a, b]
def Fx.add (a b : Fx) : Fx := .op (fpAdd a.v b.v) [a, b]
def Fx.sub (a b : Fx) : Fx := .op (fpSub a.v b.v) [a, b]
def Fx.fma (a b c : Fx) : Fx := .op (fpFma a.v b.v c.v) [a, b, c]
/-- One operation of R99. -/
def Fx.fn (f : Word32 → Word32) (a : Fx) : Fx := .op (f a.v) [a]
/-- A change of sign, which forms nothing new. -/
def Fx.neg (a : Fx) : Fx := { a with v := fpNegate a.v }
/-- `z` where it is greater than zero, else +0.0. -/
def Fx.pos (z : Fx) : Fx := if fpPos z.v then z else { z with v := 0#32 }

/-- h of GELU_ERF and of GELU_TANH, and t of the latter. -/
def geluErfH (z : Fx) : Fx := .fma (.of cHalf) ((z.mul (.of cC1)).fn fpErf) (.of cHalf)
def geluTanhT (z : Fx) : Fx := ((z.mul (.fma (.of cC4) (z.mul z) (.of fpOne))).mul (.of cC3)).fn fpTanh

/-- f of R79, with what arises in it. -/
def actFx (act : Nat) (leak : Word32) (z : Fx) : Fx :=
  if fpIsNaN z.v then .op fpNaN [z] else
  match actBase act with
  | 1 => z.pos
  | 2 => if fpPos z.v then z else z.mul (.of leak)
  | 3 => z.mul (geluErfH z)
  | 4 => z.mul (.fma (.of cHalf) (geluTanhT z) (.of cHalf))
  | 5 => z.mul (z.fn fpSigmoid)
  | 6 => z.fn fpSigmoid
  | 7 => z.fn fpTanh
  | 8 => .add { z with v := fpMax z.v 0#32 } ((Fx.add (.of fpOne) (Fx.fn fpExp { z with v := fpNegate (fpAbs z.v) })).fn fpLog)
  | 9 => z.pos.mul z.pos
  | _ => z

/-- d of R79, with what arises in it. -/
def actDx (act : Nat) (leak : Word32) (z : Fx) : Fx :=
  if fpIsNaN z.v then .op fpNaN [z] else
  let const := fun (v : Word32) => ({ z with v := v } : Fx)
  match actBase act with
  | 1 => const (if fpPos z.v then fpOne else 0#32)
  | 2 => const (if fpPos z.v then fpOne else leak)
  | 3 =>
    let p := ((z.mul z).mul (.of cMinusHalf)).fn fpExp
    .fma z (p.mul (.of cC2)) (geluErfH z)
  | 4 =>
    let t := geluTanhT z
    let m := Fx.fma t.neg t (.of fpOne)
    let k := Fx.fma (.of cC5) (z.mul z) (.of fpOne)
    .fma z (((m.mul k).mul (.of cC3)).mul (.of cHalf)) (.fma (.of cHalf) t (.of cHalf))
  | 5 =>
    let s := z.fn fpSigmoid
    .fma s (z.mul (Fx.sub (.of fpOne) s)) s
  | 6 => let s := z.fn fpSigmoid; s.mul (Fx.sub (.of fpOne) s)
  | 7 => let t := z.fn fpTanh; .fma t.neg t (.of fpOne)
  | 8 => z.fn fpSigmoid
  | 9 => z.pos.add z.pos
  | _ => const fpOne

/-- The values of f and d. -/
def actF (act : Nat) (leak z : Word32) : Word32 := (actFx act leak (.of z)).v
def actD (act : Nat) (leak z : Word32) : Word32 := (actDx act leak (.of z)).v

/-! The dropout generator (R128 to R130) -/

/-- State of Philox-4x32: counter words and key words. -/
structure Philox where
  c0 : Word32
  c1 : Word32
  c2 : Word32
  c3 : Word32
  k0 : Word32
  k1 : Word32
  deriving DecidableEq, Repr

/-- High and low words of a product (R129). -/
def mulHi (a b : Word32) : Word32 := BitVec.ofNat 32 (a.toNat * b.toNat / 2 ^ 32)

/-- One round. -/
def philoxRound (p : Philox) : Philox :=
  { c0 := mulHi 0xCD9E8D57#32 p.c2 ^^^ p.c1 ^^^ p.k0
    c1 := 0xCD9E8D57#32 * p.c2
    c2 := mulHi 0xD2511F53#32 p.c0 ^^^ p.c3 ^^^ p.k1
    c3 := 0xD2511F53#32 * p.c0
    k0 := p.k0 + 0x9E3779B9#32
    k1 := p.k1 + 0xBB67AE85#32 }

/-- Ten rounds. The key that round 10 leaves is not used. -/
def philox (p : Philox) : Philox := foldFn 10 p (fun p _ => philoxRound p)

/-- Output word 0 to 3. -/
def Philox.word (p : Philox) (w : Nat) : Word32 :=
  match w with
  | 0 => p.c0 | 1 => p.c1 | 2 => p.c2 | _ => p.c3

/-! The drain descriptor (R74 to R76) -/

abbrev DrainDesc := Bytes

def ddFlag (d : DrainDesc) (i : Nat) : Bool := (fieldN d 5 1).testBit i
def ddAct (d : DrainDesc) : Nat := fieldN d 0 1
def ddMode (d : DrainDesc) : Nat := fieldN d 1 1
def ddWord (d : DrainDesc) (o : Nat) : Word32 := BitVec.ofNat 32 (fieldN d o 4)
def ddAddr (d : DrainDesc) (o : Nat) : Nat := lockerAddr (fieldN d o 8)
def ddGated (d : DrainDesc) : Bool := actGated (ddAct d)
def ddDeriv (d : DrainDesc) : Bool := ddMode d == 1
/-- A formed code of R55, for a descriptor byte. -/
def ddFmt (d : DrainDesc) (o : Nat) : Fmt := (Fmt.ofCode (fieldN d o 1)).getD .fp32
/-- Rows or columns that hold tensor elements (R75). -/
def ddValid (d : DrainDesc) (o : Nat) : Nat := let v := fieldN d o 2; if v = 0 ∨ 128 < v then 128 else v
/-- OUT_SCOPE applies to INT8 only (R76). -/
def ddScope (d : DrainDesc) : Nat := if ddFmt d 2 = .int8 then fieldN d 3 1 else 0
/-- Whether OUT2 is written. -/
def ddTwo (d : DrainDesc) : Bool := ddGated d && ddDeriv d
/-- Whether Z is written; whether it is read. -/
def ddZOut (d : DrainDesc) : Bool := ddFlag d 4 && !ddDeriv d
def ddZIn (d : DrainDesc) : Bool := ddDeriv d

/-- An undefined code (R76). -/
def ddUndefined (d : DrainDesc) : Bool :=
  decide (0x0C < ddAct d) || decide (1 < ddMode d) || decide (7 < fieldN d 2 1) || decide (2 < fieldN d 3 1) ||
  decide (7 < fieldN d 4 1) || decide (7 < fieldN d 6 1)

/-- The locker ranges that a drain reads and writes. -/
def ddReads (d : DrainDesc) : List (Nat × Nat) :=
  (if ddFlag d 0 then [(ddAddr d 0x18, 512)] else []) ++ (if ddZIn d then [(ddAddr d 0x28, fmtRecord (ddFmt d 4))] else []) ++
  (if ddGated d then [(ddAddr d 0x30, fmtRecord (ddFmt d 6))] else [])
def ddWrites (d : DrainDesc) : List (Nat × Nat) :=
  (if ddFlag d 5 then [(ddAddr d 0x20, fmtRecord (ddFmt d 2))] else []) ++
  (if ddZOut d then [(ddAddr d 0x28, fmtRecord (ddFmt d 4))] else []) ++
  (if ddTwo d then [(ddAddr d 0x38, fmtRecord (ddFmt d 2))] else [])

/-- Whether every range lies within the locker (R461). -/
def allInLocker (rs : List (Nat × Nat)) : Bool := rs.all (fun r => inLocker r.1 r.2)

/-- Whether the element of tile row `i` and column `j` is kept (R128, R130). -/
def ddKept (d : DrainDesc) (i j : Nat) : Bool :=
  let seed := BitVec.ofNat 64 (fieldN d 0x40 8)
  let col := ddWord d 0x5C + BitVec.ofNat 32 j
  let p := philox { c0 := ddWord d 0x58 + BitVec.ofNat 32 i, c1 := col / 4#32, c2 := ddWord d 0x48, c3 := ddWord d 0x4C
                    k0 := seed.setWidth 32, k1 := (seed >>> 32).setWidth 32 ^^^ BitVec.ofNat 32 (fieldN d 0x50 2) }
  decide ((p.word (col.toNat % 4)).toNat < (ddWord d 0x54).toNat)

/-! Stages 1 to 4 for one element -/

/-- An element after stage 4. -/
structure DrainElem where
  valid : Bool
  kept : Bool
  z : Lane
  y : Lane
  y2 : Lane
  /-- a NaN arose in a stage of an unpoisoned value; an infinity did -/
  nan : Bool
  inf : Bool
  deriving DecidableEq, Repr

/-- An element outside the valid rows and columns. -/
def DrainElem.outside : DrainElem := ⟨false, true, Lane.zero, Lane.zero, Lane.zero, false, false⟩

/-- What a drain reads apart from its slot. -/
structure DrainSrc where
  slot : Slot
  cells : Array Lane
  bias : Array Lane
  z : TileIn
  gate : TileIn

/-- A value of the drain with its mark. -/
structure FxLane where
  x : Fx
  mark : Mark
  deriving DecidableEq, Repr

/-- An element of a stored tile as stage 3 reads it: its conversion may overflow (R35, R77). -/
def FxLane.stored (t : TileIn) (r c : Nat) : FxLane :=
  ⟨⟨(t.lane r c).val, false, fpIsInf (t.lane r c).val && (t.exact r c).isFin⟩, (t.lane r c).mark⟩
/-- A lane that the drain reads. -/
def FxLane.of (l : Lane) : FxLane := ⟨.of l.val, l.mark⟩
/-- Its lane. -/
def FxLane.lane (l : FxLane) : Lane := ⟨l.x.v, l.mark⟩
def FxLane.map (f : Fx → Fx) (a : FxLane) : FxLane := ⟨f a.x, a.mark⟩
def FxLane.map2 (f : Fx → Fx → Fx) (a b : FxLane) : FxLane := ⟨f a.x b.x, a.mark.worse b.mark⟩

/-- The slot element as FP32 (R42, R77): the conversion of an INT32 element may overflow. -/
def slotFp (x : Slot) (l : Lane) (r c : Nat) : FxLane :=
  if x.int then
    ⟨.op (int32ToFp l.val ((x.rowScale.toArray[r / 8]?).getD 127#8).toNat ((x.colScale.toArray[c / 8]?).getD 127#8).toNat) [], l.mark⟩
  else .of l

/-- Stages 1 to 4 (R77). Poisoned values report neither NaN nor infinity (DESIGN CHOICE, log 24). -/
def drainElem (d : DrainDesc) (s : DrainSrc) (n : Nat) : DrainElem :=
  let i := tileRow n
  let j := tileCol n
  if ddValid d 0x14 ≤ i ∨ ddValid d 0x16 ≤ j then DrainElem.outside else
  let acc := slotFp s.slot ((s.cells[n]?).getD Lane.zero) i j
  let x1 := acc.map (fun v => v.mul (.of (ddWord d 8)))
  let x2 := if ddFlag d 0 then x1.map2 Fx.add (.of ((s.bias[if ddFlag d 1 then i else j]?).getD Lane.zero)) else x1
  let leak := ddWord d 0x10
  let g := FxLane.stored s.gate i j
  let u := FxLane.stored s.z i j
  let y :=
    if ddGated d then
      (if ddDeriv d then x2.map2 (fun x g => x.mul (actFx (ddAct d) leak g)) g
       else x2.map2 (fun x g => (actFx (ddAct d) leak g).mul x) g)
    else if ddDeriv d then x2.map2 (fun x z => x.mul (actDx (ddAct d) leak z)) u
    else x2.map (actFx (ddAct d) leak)
  let y2 := if ddTwo d then (x2.map2 Fx.mul u).map2 (fun x g => x.mul (actDx (ddAct d) leak g)) g else .of Lane.zero
  let kept := !ddFlag d 2 || ddKept d i j
  let drop := fun (l : FxLane) => if ddFlag d 2 then (if kept then l.map (fun v => v.mul (.of (ddWord d 0xC))) else .of Lane.zero) else l
  let values := [x2, y, y2, drop y, drop y2]
  { valid := true, kept := kept, z := x2.lane, y := (drop y).lane, y2 := (drop y2).lane
    nan := values.any (fun l => !l.mark.isBad && l.x.nan)
    inf := values.any (fun l => !l.mark.isBad && l.x.inf) }

/-! Statistics (R117, R118) -/

/-- floor(log2 |y|) + 149 of a finite non-zero value. -/
def expOf (x : XVal) : Nat := Nat.log2 (finMag x)

/-- The scaling unit of element (r, c) under a scope. -/
def unitIndex (scope r c : Nat) : Nat := if scope = 1 then r / 8 else if scope = 2 then c / 8 else 16 * (r / 8) + c / 8

/-- Largest magnitude among the finite values of each scaling unit (R118), also of a unit that step 1 of R31 marks NaN, where the
spec names no such magnitude (DESIGN CHOICE, log 133). -/
def unitMax (scope : Nat) (xs : Array Src) : Array Nat :=
  foldFn 16384 (Array.replicate 256 0) (fun a n =>
    match xs[n]? with
    | some (v, m) => if m.isBad then a else a.modify (unitIndex scope (tileRow n) (tileCol n)) (fun w => max w (finMag v))
    | none => a)

/-- What one element adds to a record. -/
inductive StatKind where
  | none | poisoned | nonfinite | zero | nonzero
  deriving DecidableEq, Repr

def statKind (e : DrainElem) (y : Lane) : StatKind :=
  if !e.valid || !e.kept then .none
  else if y.poison then .poisoned
  else if !fpFinite y.val then .nonfinite
  else if fpIsZero y.val then .zero
  else .nonzero

/-- Whether an output element is a zero of the output format, as step 1 of R31 also writes one (log 26). -/
def outZero (t : TileOut) (n : Nat) : Bool :=
  t.enc n % 2 ^ (fmtWidth t.fmt - 1) == 0 && !(t.fmt == .int8 && t.enc n != 0)

/-- The contribution of a tile to a record. -/
def statOf (rec_ scope : Nat) (es : Array DrainElem) (sel : DrainElem → Lane) (t : TileOut) : StatSum :=
  let xs := es.map (fun e => (sel e).src)
  let um := unitMax scope xs
  let kind : Nat → StatKind := fun n => match es[n]? with | some e => statKind e (sel e) | none => .none
  let count := fun (p : Nat → Bool) => countFn 16384 p
  let sat := fun n => ((t.elems[n]?).map (fun e => e.sat)).getD false
  let ex := fun n => expOf (((xs[n]?).map (fun e => e.1)).getD (.fin false 0))
  let bin := fun n => min 31 (Nat.log2 ((um[unitIndex scope (tileRow n) (tileCol n)]?).getD 0) - ex n)
  let hist := foldFn 16384 (Array.replicate 32 0) (fun a n => if kind n = .nonzero then a.modify (bin n) (· + 1) else a)
  { record := rec_
    nonzero := count (fun n => kind n == .nonzero)
    zeros := count (fun n => kind n == .zero)
    nonfinite := count (fun n => kind n == .nonfinite)
    poisoned := count (fun n => kind n == .poisoned)
    underflow := count (fun n => kind n == .nonzero && outZero t n)
    saturated := count (fun n => (kind n == .nonzero || kind n == .nonfinite) && sat n)
    maxExp := foldFn 16384 0 (fun a n => if kind n = .nonzero then max a (ex n + 1) else a)
    hist := hist.toList }

/-! A whole drain -/

/-- Outcome of a drain: the Bight, the contributions it makes, the mark of the poison it consumed. -/
structure DrainRes where
  arch : BightArch
  stats : List StatSum
  seen : Mark
  deriving DecidableEq, Repr

/-- What stage 6 reports for a tile of sources `xs`: a block marked NaN (R31), a finite value that became infinite (R35),
saturation (R32). -/
def tileFlags (t : TileOut) (xs : Array Src) : Word16 :=
  let past := fun n => match fmtInfMag t.fmt, xs[n]? with
    | some i, some (.fin _ _, m) => !m.isBad && t.enc n % 2 ^ (fmtWidth t.fmt - 1) == i
    | _, _ => false
  stOf (tileNaN t) ((List.range 16384).any past) (tileSat t) false

/-- An empty tile, where a descriptor names none. -/
def TileIn.none : TileIn := ⟨#[], #[], #[], #[], #[]⟩

/-- A LAY.DRAIN whose descriptor is in order (R77). Poison of an element that stage 4 drops neither arises nor counts as consumed
(DESIGN CHOICE, log 27); OUT, then Z, then OUT2 are written, so that of overlapping records the later one stays (DESIGN CHOICE,
log 131). -/
def drainTile (d : DrainDesc) (a : BightArch) (slot : Slot) : DrainRes :=
  let w := a.locker.bytes.window 0 (ddAddr d 0x18) 512
  let src : DrainSrc :=
    { slot := slot, cells := slot.cells.window Lane.zero 0 16384
      bias := Array.ofFn (fun i : Fin 128 =>
        let b := fun k => (w[4 * i.val + k]?).getD 0
        (⟨(b 3 ++ b 2 ++ b 1 ++ b 0 : BitVec 32), a.locker.mark (ddAddr d 0x18 / 16 + i.val / 4)⟩ : Lane))
      z := if ddZIn d then lockerTile a (ddFmt d 4) (ddAddr d 0x28) else TileIn.none
      gate := if ddGated d then lockerTile a (ddFmt d 6) (ddAddr d 0x30) else TileIn.none }
  let es := Array.ofFn (fun n : Fin 16384 => drainElem d src n.val)
  let xs := fun (sel : DrainElem → Lane) => es.map (fun e => (sel e).src)
  let tile := fun (f : Fmt) (scope : Nat) (sel : DrainElem → Lane) => convertUnder f (tileScales f scope (xs sel)) (xs sel)
  let out := tile (ddFmt d 2) (ddScope d) (fun e => e.y)
  let out2 := if ddTwo d then some (tile (ddFmt d 2) (ddScope d) (fun e => e.y2)) else none
  let z := if ddZOut d then some (tile (ddFmt d 4) 0 (fun e => e.z)) else none
  let stat := fieldN d 0x52 2
  let en := ddFlag d 3
  let sums := (if en && decide (stat < 8192) then [statOf stat (ddScope d) es (fun e => e.y) out] else []) ++
    (match out2 with
     | some t => if en && decide (stat + 1 < 8192) then [statOf (stat + 1) (ddScope d) es (fun e => e.y2) t] else []
     | none => [])
  let range := en && (decide (8192 ≤ stat) || (ddTwo d && decide (8192 ≤ stat + 1)))
  let seen := es.foldl (fun w e => ((w.worse e.y.mark).worse e.y2.mark).worse (if ddZOut d then e.z.mark else .clean)) .clean
  let st := stOf (es.any (fun e => e.nan)) (es.any (fun e => e.inf)) false seen.isBad ||| tileFlags out (xs (fun e => e.y)) |||
    (match out2 with | some t => tileFlags t (xs (fun e => e.y2)) | none => 0#16) |||
    (match z with | some t => tileFlags t (xs (fun e => e.z)) | none => 0#16) |||
    stIf range lsBadEncoding
  let a := if ddFlag d 5 then putTile a (ddAddr d 0x20) out else a
  let a := match z with | some t => putTile a (ddAddr d 0x28) t | none => a
  let a := match out2 with | some t => putTile a (ddAddr d 0x38) t | none => a
  ⟨a.orLay st, sums, seen⟩

/-- The drain pipeline takes the slot of one item: outputs, FREE, then SET_H (R64, R76, R77, R119). A descriptor that is poisoned
and out of order too leaves POISON alone (DESIGN CHOICE, log 132). -/
def drainSlot (x : DrainItem) (a : BightArch) : DrainRes :=
  let slot := a.slot x.slot
  let r : DrainRes :=
    if x.spill then
      (if inLocker x.addr 65536 then ⟨{ a with locker := putImage a.locker x.addr slot }, [], .clean⟩
       else ⟨a.orLay lsBadEncoding, [], .clean⟩)
    else if x.descMark.isBad then ⟨a.orLay stPoison, [], x.descMark⟩
    else if ddUndefined x.desc || !allInLocker (ddReads x.desc ++ ddWrites x.desc) || !inLocker x.addr 128 then
      ⟨a.orLay lsBadEncoding, [], .clean⟩
    else drainTile x.desc a slot
  { r with arch := (r.arch.setSlot x.slot Slot.empty).setHitchOpt x.setH x.seq .matrix }

end Sys2Proof.Machine
end

