-- ==== Sys2Proof/Machine/CleatState.lean ====
section
/-!
DEFINITION. The state of a Cleat die's share: the descriptor and block in progress and its registers (R137 to R159).
-/

namespace Sys2Proof.Machine

/-- What one die holds for one partition. Lanes of registers and streams are keyed 256 * number + lane. -/
structure Cleat where
  /-- the update descriptor in progress, with its constants and program -/
  desc : Bytes
  /-- k0 to k15 -/
  ks : List Word32
  /-- partition addresses of stream W read and written -/
  rbase : Nat
  wbase : Nat
  /-- tile of the tensor and panel of the update block -/
  tile : Nat
  panel : Nat
  /-- √T, as NORM delivers it -/
  norm : Lane
  regs : SMap Lane
  /-- the block's streams as they stood before the update -/
  streams : SMap Lane
  stores : SMap Lane
  /-- streams that the program has stored -/
  stored : List Nat
  /-- the register that CONVERT took, when it ran -/
  conv : Bool
  outs : SMap Lane
  /-- scale bytes of the output tile -/
  scales : SMap Nat
  ended : Bool
  /-- counts of the status record (R159) -/
  elements : Nat
  nanOut : Nat
  infOut : Nat
  saturated : Nat
  poisoned : Nat
  fallback : Nat
  /-- causes of the poison read, and whether a poisoned element was written (R160) -/
  causes : List Mark
  wrote : Bool
  deriving DecidableEq, Repr

/-- A share that has run nothing (DESIGN CHOICE, log 4). -/
def Cleat.blank : Cleat :=
  { desc := [], ks := [], rbase := 0, wbase := 0, tile := 0, panel := 0, norm := Lane.zero, regs := [], streams := [], stores := []
    stored := [], conv := false, outs := [], scales := [], ended := false, elements := 0, nanOut := 0, infOut := 0, saturated := 0
    poisoned := 0, fallback := 0, causes := [], wrote := false }

end Sys2Proof.Machine
end

