-- ==== Sys2Proof/Machine/DictState.lean ====
section
/-!
DEFINITION. The state of the Hygrim object dictionary (R385 to R405).
-/

namespace Sys2Proof.Machine

/-- States of a staging set (R397, R398). -/
inductive StageState where
  | empty | opened | preparing | armed | applied | aborted
  deriving DecidableEq, Repr

/-- One staging set: entries as index * 256 + sub-index with their values. -/
structure StageSet where
  state : StageState
  entries : List (Nat × Nat)
  step : Nat
  refusing : Nat
  abort : Nat
  /-- the markers are placed (R399) -/
  placed : Bool
  deriving DecidableEq, Repr

def StageSet.none : StageSet := ⟨.empty, [], 0, 0xFFFF, 0, false⟩

/-- Selectors of one path (R403). -/
structure Selectors where
  path : Path
  flow : Nat
  stage : Nat
  ctx : Nat
  logFirst : Nat
  deriving DecidableEq, Repr

/-- An open transfer of a path (R393). -/
structure Transfer where
  path : Path
  id : Nat
  role : Nat
  /-- 1 READ, 2 WRITE, 3 WRITE_STAGED -/
  kind : Nat
  index : Nat
  sub : Nat
  length : Nat
  /-- snapshot of a read, or bytes received so far -/
  data : Bytes
  /-- next segment number -/
  next : Nat
  deriving DecidableEq, Repr

/-- A bank of the configuration flash (R401). -/
structure Bank where
  /-- it is not erased -/
  written : Bool
  seqNo : Nat
  vals : SMap Nat
  /-- AMEND_IMAGE -/
  image : Option Bytes
  tag : BitVec 256
  deriving DecidableEq, Repr

/-- The dictionary areas of a function's BAR0 window (R390): the message last submitted, the response to it, and RESPONSE_COUNT. -/
structure Window where
  request : Bytes
  response : Bytes
  count : Nat
  deriving DecidableEq, Repr

/-- Areas that have held nothing. -/
def Window.empty : Window := ⟨[], [], 0⟩

/-- A response, as sent on its path. -/
structure Reply where
  path : Path
  data : Bytes
  deriving DecidableEq, Repr

/-- The dictionary. Values are little-endian numbers keyed index * 256 + sub-index. -/
structure Dict where
  /-- values in force that differ from the defaults -/
  vals : SMap Nat
  /-- keyed by scope: partition number, or 0xFFFF -/
  sets : SMap StageSet
  selects : List Selectors
  transfers : List Transfer
  /-- last SUBMIT accepted on each function -/
  submits : SMap Nat
  /-- keyed by function, 80 for the physical one -/
  windows : SMap Window
  replies : List Reply
  /-- Neighbor Advertisements sent: solicited address and link-layer address -/
  adverts : List (Nat × Nat)
  banks : Vector Bank 2
  i3cAddr : Option Nat
  i3cSel : Option (Nat × Nat)
  /-- in-band sources with the highest SEQ accepted, most recently used first (R389) -/
  inband : List (Nat × Nat)
  deriving DecidableEq, Repr

def Bank.none : Bank := ⟨false, 0, [], Option.none, 0#256⟩
def Dict.empty : Dict :=
  { vals := [], sets := [], selects := [], transfers := [], submits := [], windows := [], replies := [], adverts := []
    banks := Vector.replicate 2 Bank.none, i3cAddr := none, i3cSel := none, inband := [] }

end Sys2Proof.Machine
end

