-- ==== Sys2Proof/Machine/FabricState.lean ====
section
/-!
DEFINITION. The state of the Hawser fabric: ports, flow contexts, open collectives (R253 to R282, R463).
-/

namespace Sys2Proof.Machine

/-- Link states of a port (R255). -/
inductive LinkState where
  | disabled | training | up | lost
  deriving DecidableEq, Repr

/-- A Hawser port. Its settings are dictionary entries 0x1110 + q. -/
structure Port where
  link : LinkState
  /-- failure count of R256 -/
  fails : Nat
  deriving DecidableEq, Repr

/-- A frame of the transport: header fields and plaintext payload (R260). `kind` is the type code of R261. -/
structure Frame where
  kind : Nat
  first : Bool
  last : Bool
  coll : Bool
  seq : Nat
  collId : Nat
  msg : Nat
  offset : Nat
  poison : Nat
  payload : Bytes
  /-- the context whose work sends it, when that is not the flow's own (R313) -/
  by_ : Option Nat := none
  deriving DecidableEq, Repr

/-- States of a flow context (R264). -/
inductive FlowState where
  | free | opening | open | closing | lost | alarmed
  deriving DecidableEq, Repr

/-- A flow context (R264 to R271) with what stands behind it: keys, frames and messages in progress. -/
structure Flow where
  state : FlowState
  port : Nat
  /-- 0 send, 1 receive -/
  role : Nat
  target : Nat
  peerFlow : Nat
  peerNode : Nat
  part : Nat
  peerPart : Nat
  peerIp : Bytes
  nextHop : Bytes
  /-- context, ring and lay count of the FLOW_OPEN; `noCtx` once that context has closed (R302) -/
  ctx : Nat
  opener : Option (Nat × Nat)
  seq : Nat
  acked : Nat
  msg : Nat
  credit : Nat
  winBase : Nat
  slotBytes : Nat
  slots : Nat
  destBight : Nat
  destHitch : Nat
  rate : Nat
  retx : Nat
  dropped : Nat
  tagFails : Nat
  kFwd : Option (BitVec 256)
  kRev : Option (BitVec 256)
  nLocal : Bytes
  nPeer : Option Bytes
  /-- send: frames sent and not acknowledged; frames that have not been sent, oldest first (their SEQ is not yet assigned) -/
  unacked : List Frame
  queue : List Frame
  /-- collective payload bytes sent so far -/
  sentBytes : Nat
  lastAck : Option Nat
  /-- a CE echo was met in the current rate window; RATE was reduced in it (R271) -/
  ceMet : Bool
  ceCut : Bool
  /-- receive: frames accepted above EXPECT; SEQs that have failed the check once -/
  early : List Frame
  failed : List Nat
  /-- frames of the message being received, and whether it ran past its slot (R463) -/
  building : Nat
  oversize : Bool
  sinceAck : Nat
  ce : Bool
  /-- collective: payload bytes consumed, and at the last ACK; frames held for a COLL_ID not yet begun (R274) -/
  consumed : Nat
  consumedAck : Nat
  staged : List Frame
  deriving DecidableEq, Repr

/-- A FREE context. -/
def Flow.empty : Flow :=
  { state := .free, port := 0, role := 0, target := 0, peerFlow := 0, peerNode := 0, part := 0, peerPart := 0
    peerIp := [], nextHop := [], ctx := 0, opener := none, seq := 0, acked := 0, msg := 0, credit := 0, winBase := 0
    slotBytes := 0, slots := 0, destBight := 0, destHitch := 0, rate := 0, retx := 0, dropped := 0, tagFails := 0
    kFwd := none, kRev := none, nLocal := [], nPeer := none, unacked := [], queue := [], sentBytes := 0, lastAck := none
    ceMet := false, ceCut := false, early := [], failed := [], building := 0, oversize := false, sinceAck := 0, ce := false
    consumed := 0, consumedAck := 0, staged := [] }

/-- A collective plan (R274). -/
structure Plan where
  collId : Nat
  kind : Nat
  op : Nat
  n : Nat
  pos : Nat
  root : Nat
  chunk : Nat
  elems : Nat
  src : Nat
  dst : Nat
  upTx : Nat
  upRx : Nat
  downTx : Nat
  downRx : Nat
  fanRx : Nat
  fans : List Nat
  deriving DecidableEq, Repr

/-- An open collective of a partition (R274 to R281). -/
structure Coll where
  part : Nat
  ctx : Nat
  ring : Nat
  lay : Nat
  plan : Plan
  /-- the contribution, with the marks that it carries -/
  own : Blob
  /-- its frames are on their way, not held in a step region -/
  started : Bool
  /-- bytes received in the reduce phase, and in the result phase -/
  reduced : Nat
  resulted : Nat
  /-- gather: (origin, bytes received) -/
  gathered : List (Nat × Nat)
  /-- result elements so far: NaN seen, infinity seen, poison seen, and element 0 -/
  nan : Bool
  inf : Bool
  bad : Bool
  first : Word32
  /-- the worst mark read from its own contribution (R275) -/
  seen : Mark
  /-- result bytes that came on a receive flow which the plan ignores: (flow, bytes) (R276) -/
  passed : List (Nat × Nat) := []
  /-- a flow that it needs left OPEN while the step region held it: the status and the ABORT cause that it ends with at the haul (R282) -/
  lost : Option (Nat × Nat) := none
  deriving DecidableEq, Repr

/-- A frame as a port sent it, oldest first in the list that holds it. -/
structure Wire where
  port : Nat
  data : Bytes
  deriving DecidableEq, Repr

/-- The fabric. Flows are keyed by flow number. -/
structure Fabric where
  ports : Vector Port 12
  flows : SMap Flow
  colls : List Coll
  wire : List Wire
  deriving DecidableEq, Repr

def Port.off : Port := ⟨.disabled, 0⟩
def Fabric.empty : Fabric := { ports := Vector.replicate 12 Port.off, flows := [], colls := [], wire := [] }

end Sys2Proof.Machine
end

