-- ==== Sys2Proof/Machine/LogState.lean ====
section
/-!
DEFINITION. The state of the Logline and of the local counts (R19, R439 to R445).
-/

namespace Sys2Proof.Machine

/-- A Logline record (R440). -/
structure LogRec where
  localCount : BitVec 48
  domain : Byte
  flags : Byte
  seq : Word32
  event : Word16
  unit : Byte
  partition : Byte
  location : Word32
  arg0 : Word32
  arg1 : Word64
  deriving DecidableEq, Repr

/-- A record waiting in a pre-ring, with the mark "made unfrozen" of R444. Its SEQ is not yet assigned. -/
structure PreRec where
  body : LogRec
  unfrozen : Bool
  deriving DecidableEq, Repr

/-- The Logline. Pre-rings and drop counts are keyed by unit number, F_D by domain number. -/
structure Log where
  /-- oldest first, at most 65,536 -/
  ring : List LogRec
  nextSeq : Word32
  frozen : Bool
  /-- LOG_CAUSE -/
  cause : Byte
  /-- records accepted after the trigger -/
  after : Nat
  /-- records dropped while frozen -/
  dropped : Nat
  pre : SMap (List PreRec)
  lost : SMap Nat
  frozenAt : SMap (BitVec 48)
  /-- error counters, keyed by dictionary index * 256 + sub-index -/
  counters : SMap Nat
  /-- start of the window of the last record and corrected errors since it, per store and domain (R442); `noWindow` once that window is past -/
  firsts : SMap (Nat × Nat)
  /-- granules (exporter partition, granule) whose poison was reported (R438), with the start of that window -/
  shared : SMap Nat
  /-- the unit whose pre-ring the Bowline die took a record from last (R439) -/
  turn : Nat
  deriving DecidableEq, Repr

def Log.empty : Log :=
  { ring := [], nextSeq := 0#32, frozen := false, cause := 0#8, after := 0, dropped := 0, pre := [], lost := []
    frozenAt := [], counters := [], firsts := [], shared := [], turn := 0 }

end Sys2Proof.Machine
end

