-- ==== Sys2Proof/Machine/MemState.lean ====
section
/-!
DEFINITION. The state of the memory tiers, the Splice cache and the Seizing engines (R191 to R209, R226 to R248).
-/

namespace Sys2Proof.Machine

/-- A key set of a region (R226). -/
structure KeySet where
  kData : BitVec 256
  h : BitVec 128
  kTree : BitVec 256
  deriving DecidableEq, Repr

/-- One region: tier and hank (R226 to R248). Its tree nodes hold the MACs of what they cover, so that none is kept but the root. -/
structure Seize where
  keys : Option KeySet
  /-- a rotation in progress: the new key set, and how many pages stand under it (R247) -/
  rot : Option (KeySet × Nat)
  /-- keyed: usable by its partition (R241) -/
  keyed : Bool
  /-- MAJOR of each page -/
  majors : SMap Nat
  /-- minor counter of each line -/
  minors : SMap Nat
  /-- unknown ranges: level and node number (level 0: one page), at most 16 -/
  unknown : List (Nat × Nat)
  /-- the whole region is listed -/
  unknownAll : Bool
  /-- the counter blocks and nodes of levels 1 to 4 that the Thimble cache holds, keyed by `thimbleKey`: whether each is dirty
  (R237, R238); levels 5 to 7 are pinned while `keys` is there (R236) -/
  held : SMap Bool
  /-- the entries of the root register (R234) -/
  root : Vector (BitVec 64) 8
  /-- pages that have met the end of their MAJOR: read-only until rotated (R246) -/
  stuck : List Nat
  /-- what the memory holds with a tag or MAC that fails: lines (level 0xFF), counter blocks and nodes, by level and index (R250) -/
  failed : List (Nat × Nat)
  /-- what an uncontained error lost, to be listed at the next wake of its function: level and number (R430) -/
  doubt : List (Nat × Nat)
  deriving DecidableEq, Repr

/-- A region that was never keyed: counters and root are 0 (DESIGN CHOICE, log 171). -/
def Seize.empty : Seize :=
  { keys := none, rot := none, keyed := false, majors := [], minors := [], unknown := [], unknownAll := false, held := []
    root := Vector.replicate 8 0#64, stuck := [], failed := [], doubt := [] }

/-- A tier-1 line in its home slice (R205 to R209). -/
structure CacheLine where
  present : Bool
  dirty : Bool
  /-- the stack holds another value of the line than the slice does -/
  apart : Bool
  deriving DecidableEq, Repr

/-- A line that is not cached. -/
def CacheLine.none : CacheLine := ⟨false, false, false⟩

/-- A line as the Seizing engine or a slice delivered it to a requester: its codewords' marks and bytes. The data bits of a
poisoned codeword are not defined to any reader (R201): it delivers none. -/
structure Delivery where
  /-- 0 tier 1, 1 tier 2, 2 window -/
  kind : Nat
  hank : Nat
  offset : Nat
  words : List (Mark × Bytes)
  deriving DecidableEq, Repr

/-- A read-only copy of an imported line in the slice of hank `to_` (R208): the exporting hank, the line, and its sixteen codewords. -/
structure Copy where
  to_ : Nat
  from_ : Nat
  line : Nat
  words : List (Mark × Bytes)
  deriving DecidableEq, Repr

/-- A write that stands in the queues of memory controllers that accept no request (R217, R424), with its age. -/
structure Posted where
  ord : Nat
  part : Nat
  addr : Nat
  blob : Blob
  deriving DecidableEq, Repr

/-- The memory system, as plaintext; the ciphertext, tags and MACs that the memories hold are computed from it (R230, R232, R235). -/
structure MemSys where
  /-- keyed by `physKey`: what a reader of tier 1 (through its home slice), tier 2 or a slice meets, and the stack's own value of
  the lines that stand apart -/
  data : Mem
  /-- keyed by hank * 2^26 + line -/
  cache : SMap CacheLine
  /-- read-only copies of imported lines, the oldest first -/
  copies : List Copy
  /-- keyed by tier * 80 + hank -/
  regions : SMap Seize
  /-- next codeword of each controller's scrub: stack 0 to 19, package 20 to 29 -/
  scrubAt : SMap Nat
  /-- the last line delivered to a requester -/
  delivered : Option Delivery
  /-- writes that wait, oldest first -/
  posted : List Posted
  /-- failed checks whose alarm is yet to be raised: tier, hank, level and index (R250; DESIGN CHOICE, log 177) -/
  alarms : List (Nat × Nat × Nat × Nat)
  deriving DecidableEq, Repr

def MemSys.empty : MemSys :=
  { data := Mem.empty, cache := [], copies := [], regions := [], scrubAt := [], delivered := none, posted := [], alarms := [] }

end Sys2Proof.Machine
end

