-- ==== Sys2Proof/Machine/CtxState.lean ====
section
/-!
DEFINITION. The state of a context: rings, accepted commands, batches, records (R288 to R304, R313 to R317).
-/

namespace Sys2Proof.Machine

/-- A descriptor of an UPDATE part-way through its update blocks (R145, R160): how many have landed, and the memory as it stood before
they began. -/
structure UdPart where
  blocks : Nat
  before : MemSys
  deriving DecidableEq, Repr

/-- How far an UPDATE has come (R144, R160, R176). -/
structure UdProg where
  /-- descriptors finished, and the address of the next -/
  finished : Nat
  next : Nat
  /-- causes read, and whether a poisoned element was written -/
  causes : List Mark
  wrote : Bool
  /-- a one-sided descriptor was processed -/
  oneSided : Bool
  /-- the running sum of the next descriptor once its pass A is done (R151, R152) -/
  sum : Option (Word32 × Mark)
  /-- the next descriptor is part-way -/
  part : Option UdPart
  /-- update blocks of one row (log 176) -/
  pace : Nat
  /-- the next descriptor has begun -/
  begun : Bool := false
  /-- a status, carry or total record could not be written for a failed check (R250) -/
  failed : Bool := false
  deriving DecidableEq, Repr

/-- The cause that decides an UPDATE's status (R160, R250, R251). -/
def UdProg.mark (u : UdProg) : Mark :=
  if u.failed then .tagFail else if u.wrote then u.causes.foldl Mark.worse .clean else .clean

/-- What a command that has begun and not completed has done so far. -/
inductive Progress where
  /-- not begun -/
  | waiting
  /-- begun; nothing more is kept -/
  | begun
  /-- RUN: the hanks not yet taken, those executing, the OR of the status words, the causes of poison read, and whether
  it belongs to the step region (R296, R301, R331) -/
  | run (ready active : List Nat) (status : Word64) (causes : List Mark) (spec : Bool)
  /-- XFER_DEVICE on a flow: first message number and message count sent (R327) -/
  | sending (first count : Nat)
  /-- XFER_IN: records and bytes taken (R327), and whether a write could not be performed (R250) -/
  | moving (records bytes : Nat) (worst : Mark)
  /-- XFER_IN with SHARD: records taken, the chunk so far, and whether a write could not be performed (R250, R329) -/
  | chunk (records : Nat) (sofar : Bytes) (worst : Mark)
  /-- CKPT_RESTORE and TAKEOVER: the ranges of the manifest, records taken, the image so far, bytes written to the ranges, and whether a write
  could not be performed (R250, R336) -/
  | restoring (ranges : List (Nat × Nat × Nat)) (records : Nat) (image : Bytes) (wrote : Nat) (worst : Mark)
  /-- XFER_OUT: first SEQ, records written, and the worst mark met (R327) -/
  | outgoing (first records : Nat) (worst : Mark)
  /-- CKPT_SAVE: first SEQ, records written, and those still to write: place in the run, and payload (R335) -/
  | saving (first records : Nat) (left : List (Nat × Bytes))
  /-- KEY_ROTATE: regions rotated, whether the rotation of the first of `todo` has begun, the hanks whose regions it is to rotate, those
  whose rotation by another command it waits for, and the worst mark met (R247, R252) -/
  | rotating (done : Nat) (begun : Bool) (todo others : List Nat) (worst : Mark)
  /-- STEP_COMMIT after selection: version checked (0 for none) (R175) -/
  | commit (version : Nat)
  /-- UPDATE that has passed its checks -/
  | update (u : UdProg)
  /-- FENCE_SIGNAL or FENCE_IMPORT sent to a remote home with a request number (R312) -/
  | request (number : Nat)
  /-- finished inside the open step region, with the status and RESULT that its completion is to carry (R182) -/
  | finished (status : Nat) (result : Bytes)
  /-- over while its context was not resident: it completes, with this status and RESULT, when that is resident again (R298) -/
  | ready (status : Nat) (result : Bytes)
  deriving DecidableEq, Repr

/-- An accepted command that has not retired (R294, R315). -/
structure Cmd where
  lay : Nat
  ring : Nat
  /-- the 96 plaintext payload bytes -/
  payload : Bytes
  irq : Bool
  plain : Bool
  /-- instance number of its batch -/
  batch : Nat
  /-- the handles of live objects and fences that it named at acceptance: it holds a reference on each (R306) -/
  refs : List Nat
  progress : Progress
  /-- RUN: it has been stopped, and ends with this status once what its Bights have dispatched has completed (R322) -/
  ending : Option Nat := none
  /-- OBJ_SHARE ACCEPT: the exporter's object, by partition and handle, on which it holds a reference (R306) -/
  far : Option (Nat × Nat) := none
  deriving DecidableEq, Repr

/-- One ring (R293, R294). -/
structure Ring where
  expect : Nat
  tail : BitVec 128
  /-- 16,384 bytes of slots -/
  storage : SMap Byte
  /-- accepted commands that have not retired, ascending lay count -/
  cmds : List Cmd
  deriving DecidableEq, Repr

def Ring.empty : Ring := { expect := 1, tail := 0#128, storage := [], cmds := [] }

/-- A pin on a weight-set version (R169): the holder's partition and set index, and the version number. -/
structure Pin where
  part : Nat
  wset : Nat
  version : Nat
  deriving DecidableEq, Repr

/-- One batch of a context (R169, R315). -/
structure Batch where
  id : Nat
  number : Nat
  closed : Bool
  pins : List Pin
  /-- it is the speculative batch of the open step region -/
  spec : Bool
  /-- its step region was hauled: entry 0 of its later RUNs is filled from the start (R180, R190) -/
  hauled : Bool
  /-- its step region was cut or refused: every command of it completes with CUT (R188, R434, R460) -/
  cut : Bool
  deriving DecidableEq, Repr

/-- A completion, event or rejection record before it is written (R291, R303). -/
structure CompRec where
  kind : Nat
  lay : Nat
  ring : Nat
  status : Nat
  result : Bytes
  irq : Bool
  plain : Bool
  deriving DecidableEq, Repr

/-- Counts of the usage record that a context keeps (R313); cycle counts are free values when read. -/
structure Usage where
  fabricTx : Nat
  fabricRx : Nat
  hostIn : Nat
  hostOut : Nat
  completed : Nat
  rejected : Nat
  deriving DecidableEq, Repr

def Usage.zero : Usage := ⟨0, 0, 0, 0, 0, 0⟩

/-- A context (R292 to R304, R355). -/
structure Context where
  opened : Bool
  part : Nat
  isBase : Bool
  /-- owner of the session it was opened under -/
  owner : Option Nat
  hankMask : BitVec 80
  msix : Nat
  compEntries : Nat
  compBase : Nat
  /-- K_CTX -/
  key : Option (BitVec 256)
  /-- granules of its area, numbers in the partition's tier-1 space (R298, R324) -/
  area : List Nat
  resident : Bool
  /-- it holds a pool slot -/
  pool : Bool
  want : Bool
  lastUse : Nat
  rings : Vector Ring 4
  consumed : Nat
  seq0 : Nat
  seq1 : Nat
  seq2 : Nat
  /-- records written to host memory so far, and records not yet written -/
  outbox : List CompRec
  usage : Usage
  poisonSeen : Bool
  /-- a one-sided update has completed since the last STEP_COMMIT (R176) -/
  oneSided : Bool
  batches : List Batch
  batchNext : Nat
  /-- intake waits for a SESSION_OPEN to complete (R355) -/
  intakeHeld : Bool
  /-- CTX_CLOSE has stopped its intake; it closes once its last record is written (R324) -/
  closing : Bool
  /-- it is stopped so that another context may take its slot (R300); an eviction of it has timed out -/
  evictFor : Option Nat
  spared : Bool
  deriving DecidableEq, Repr

def Context.closed : Context :=
  { opened := false, part := 0, isBase := false, owner := none, hankMask := 0#80, msix := 0xFFFF, compEntries := 64
    compBase := 0, key := none, area := [], resident := false, pool := false, want := false, lastUse := 0
    rings := Vector.replicate 4 Ring.empty, consumed := 0, seq0 := 0, seq1 := 0, seq2 := 0, outbox := []
    usage := Usage.zero, poisonSeen := false, oneSided := false, batches := []
    batchNext := 0, intakeHeld := false, closing := false, evictFor := none, spared := false }

/-- One entry of an MSI-X table (R284): the message's address and data, and the vector's mask bit. -/
structure MsixEntry where
  addr : Nat
  data : Nat
  masked : Bool
  deriving DecidableEq, Repr

def MsixEntry.zero : MsixEntry := ⟨0, 0, false⟩

/-- BAR4 of a function: its MSI-X table, by vector, and the vectors whose pending bit is set (R284). The table as reset leaves it is a
DESIGN CHOICE (log 162). With it stand the vectors of which a message was sent in the current interval, and those whose message is
deferred to the end of it (R304). -/
structure Bar4 where
  table : SMap MsixEntry
  pending : List Nat
  sent : List Nat := []
  due : List Nat := []
  deriving DecidableEq, Repr

def Bar4.empty : Bar4 := { table := [], pending := [] }

/-- A write that the module made to host memory (R289, R291). -/
structure HostWrite where
  addr : Nat
  data : Bytes
  deriving DecidableEq, Repr

end Sys2Proof.Machine
end

