-- ==== Sys2Proof/Machine/PartState.lean ====
section
/-!
DEFINITION. The state of a partition: objects, fences, weight sets, loads, step region, sessions and keys
(R165 to R190, R305 to R312, R328, R341 to R366).
-/

namespace Sys2Proof.Machine

/-- States of a partition (R343). -/
inductive PState where
  | absent | keying | joining | active | frozen | destroying
  deriving DecidableEq, Repr

/-- A memory object, or the import of another partition's object (R305 to R307, R325). -/
structure Obj where
  gen : Nat
  /-- for an import: exporting partition and object index -/
  source : Option (Nat × Nat)
  /-- 0 tier 1, 1 tier 2, 2 Splice window -/
  space : Nat
  /-- first granule, in the space -/
  first : Nat
  granules : Nat
  owner : Nat
  /-- the allocation's reference is held -/
  live : Bool
  /-- partitions that may accept it -/
  grants : List Nat
  /-- read-only since a grant, as a mirror, or as a listed program (R325, R352) -/
  readOnly : Bool
  /-- it was granted (SHARED_READ_ONLY) -/
  shared : Bool
  mirror : Option Nat
  /-- stored digest verdict (R352) -/
  listed : Bool
  deriving DecidableEq, Repr

/-- An export grant of a fence (R311), or an import that a remote or local partition holds. -/
structure FencePeer where
  node : Nat
  part : Nat
  sendFlow : Nat
  recvFlow : Nat
  deriving DecidableEq, Repr

/-- The importer's side of a fence import (R311, R312). -/
structure FenceImport where
  token : Word64
  homePart : Nat
  homeIndex : Nat
  remote : Bool
  sendFlow : Nat
  recvFlow : Nat
  view : Nat
  detached : Bool
  deriving DecidableEq, Repr

/-- A fence (R308 to R312). -/
structure Fence where
  gen : Nat
  value : Nat
  stale : Nat
  owner : Nat
  live : Bool
  grants : List FencePeer
  importers : List FencePeer
  source : Option FenceImport
  deriving DecidableEq, Repr

/-- One entry of a version directory (R166). -/
structure DirEntry where
  addr : Nat
  bytes : Nat
  rows : Nat
  cols : Nat
  fmt : Nat
  shared : Bool
  deriving DecidableEq, Repr

/-- States of a version (R173). -/
inductive VState where
  | provisional | current | superseded
  deriving DecidableEq, Repr

/-- An unreleased version. -/
structure Version where
  num : Nat
  dir : Nat
  entries : List DirEntry
  state : VState
  deriving DecidableEq, Repr

/-- A weight set, or the import of another partition's set (R165 to R174, R325). -/
structure WSet where
  gen : Nat
  source : Option (Nat × Nat)
  owner : Nat
  versions : List Version
  retiring : Bool
  grants : List Nat
  shared : Bool
  deriving DecidableEq, Repr

/-- An open weight load (R328, R329). -/
structure Load where
  id : Nat
  ctx : Nat
  ring : Nat
  lay : Nat
  dir : Nat
  entries : List DirEntry
  bitmap : Nat
  shards : Nat
  retries : Nat
  /-- corrupt chunks of each shard -/
  fails : SMap Nat
  deriving DecidableEq, Repr

/-- A completion that the step region defers: its command has finished, and stands in its ring until the region resolves (R182, R187).
`charged` says that the completion is held, and takes buffer space; one that finds none is not made yet, and stalls its engine until the
region resolves (R185, R186). -/
structure Deferred where
  ctx : Nat
  ring : Nat
  lay : Nat
  charged : Bool
  deriving DecidableEq, Repr

/-- What a RUN of the step region found on a hank when it started there, and the locker granules saved since (R182). -/
structure Kept where
  ctx : Nat
  hank : Nat
  ring : Nat
  lay : Nat
  /-- locker, hitches and the sets that wait for them -/
  arch : BightArch
  granules : List Nat
  deriving DecidableEq, Repr

/-- The open step region Σ (R177, R178, R182, R435). -/
structure Sigma where
  ctx : Nat
  ring : Nat
  lay : Nat
  step : Nat
  /-- instance number of the speculative batch, when one of its commands has been accepted, and its number -/
  batch : Nat
  wset : Nat
  version : Nat
  coll : Nat
  items : List HeldItem
  deferred : List Deferred
  poison : Bool
  /-- the RUNs of the batch as they started on their hanks, oldest first -/
  lockers : List Kept
  /-- data-record bytes that its commands have read, counted apart (R182) -/
  hostIn : Nat
  /-- program objects, by index, that its RUNs have found listed: read-only for work of the region, and for all once it is hauled (R181, R352) -/
  listed : List Nat := []
  deriving DecidableEq, Repr

/-- The kept outcome of a collective (R462): identifier, completion status, finite-check value and poison flag. -/
structure Outcome where
  coll : Nat
  status : Nat
  value : Nat
  flags : Nat
  /-- element 0 of the result -/
  element : Nat
  /-- the collective completed without a result (R281) -/
  ended : Bool := false
  /-- result bytes still to come on receive flows that the plan ignored: (flow, next offset, end) (R276) -/
  late : List (Nat × Nat × Nat) := []
  /-- the COLL that it is of, while that may still be cut: context, ring, lay count (R188) -/
  by_ : Option (Nat × Nat × Nat) := none
  deriving DecidableEq, Repr

/-- An owner session (R355). -/
structure Session where
  owner : Nat
  /-- the owner's public key, as SESSION_OPEN presented it -/
  pk : Bytes
  kSess : BitVec 256
  /-- k, the successful context openings counted so far -/
  openings : Nat
  /-- the k in force for its context 0 (SESSION_EPOCH) -/
  epoch : Nat
  ctx0 : Nat
  deriving DecidableEq, Repr

/-- A share that is held (R356). -/
structure Share where
  owner : Nat
  share : BitVec 256
  dataKey : BitVec 256
  deriving DecidableEq, Repr

/-- Counted authorisations of one (JOB_ID, STEP, RECIPIENT) (R358). -/
structure AuthCount where
  job : Nat
  step : Nat
  recipient : BitVec 256
  owners : List Nat
  deriving DecidableEq, Repr

/-- A release record in force (R359). -/
structure Release where
  job : Nat
  step : Nat
  record : Bytes
  deriving DecidableEq, Repr

/-- A partition, by its number. -/
structure Partition where
  state : PState
  /-- the 64-byte configuration record and the braid policy record (R341, R350) -/
  config : Bytes
  policy : Bytes
  /-- ascending -/
  hanks : List Nat
  base : Nat
  objs : SMap Obj
  objNext : Nat
  objGens : SMap Nat
  fences : SMap Fence
  fenceNext : Nat
  fenceGens : SMap Nat
  wsets : SMap WSet
  wsetNext : Nat
  wsetGens : SMap Nat
  loads : List Load
  sigma : Option Sigma
  outcomes : List Outcome
  sessions : List Session
  /-- draw index and encapsulation key of the pending session key pair (R353) -/
  ekPair : Option (Nat × Bytes)
  shares : List Share
  kModel : Option (BitVec 256)
  auths : List AuthCount
  releases : List Release
  /-- LAST_ALARM, 18 bytes -/
  lastAlarm : Bytes
  /-- Reef tables, current and pending, as read; highest STEP of an update begun (R162, R163) -/
  reefCur : Option Bytes
  reefPend : Option Bytes
  stepBegun : Option Nat
  /-- the last STEP_COMMIT that completed OK or HAULED (R398) -/
  stepDone : Option Nat
  /-- request numbers of fence messages used so far (R312) -/
  requestNext : Nat
  deriving DecidableEq, Repr

def Partition.absent : Partition :=
  { state := .absent, config := List.replicate 64 0, policy := [0], hanks := [], base := 0, objs := [], objNext := 0
    objGens := [], fences := [], fenceNext := 0, fenceGens := [], wsets := [], wsetNext := 0, wsetGens := [], loads := []
    sigma := none, outcomes := [], sessions := [], ekPair := none, shares := [], kModel := none, auths := []
    releases := [], lastAlarm := List.replicate 18 0, reefCur := none, reefPend := none, stepBegun := none
    stepDone := none, requestNext := 0 }

/-- Whether a partition's virtual function is enabled (R343). -/
def Partition.enabled (P : Partition) : Bool := P.state == .joining || P.state == .active || P.state == .frozen

end Sys2Proof.Machine
end

