-- ==== Sys2Proof/Machine/PlatState.lean ====
section
/-!
DEFINITION. The state of power, temperature, functions, margining, amendments, debug and the entropy source
(R215 to R222, R348, R364, R381 to R383, R406 to R425, R457).
-/

namespace Sys2Proof.Machine

/-- States of a function (R419). -/
inductive FnState where
  | off | waking | ready | degraded | draining | failed
  deriving DecidableEq, Repr

/-- A function. Its ENABLE is dictionary entry 0x1200 + f. -/
structure Fn where
  state : FnState
  /-- ENABLE_PENDING (R425) -/
  pending : Bool
  /-- FAIL_CAUSE (R420) -/
  cause : Nat
  deriving DecidableEq, Repr

def Fn.off : Fn := ⟨.off, false, 0⟩

/-- The temperature of a stack or package: level (4 is CRITICAL), sum and count of the window's readings, and the last
window's sum and count (R215 to R218). -/
structure Therm where
  level : Nat
  sum : Int
  count : Nat
  lastSum : Int
  lastCount : Nat
  deriving DecidableEq, Repr

def Therm.zero : Therm := ⟨0, 0, 0, 0, 0⟩

/-- The power control (R409 to R411). Powers are in microwatts. -/
structure Power where
  level : Nat
  /-- windows in a row that were below 95 % of the limit -/
  below : Nat
  sum : Nat
  count : Nat
  /-- a sample of the current window exceeded 7,700 W -/
  spike : Bool
  /-- V56_IN has fallen below 51.0 V and not returned to 52.0 V -/
  low : Bool
  /-- the last sample -/
  millivolts : Nat
  microwatts : Nat
  deriving DecidableEq, Repr

def Power.zero : Power := ⟨0, 0, 0, 0, false, false, 0, 0⟩

/-- The margining run: MARGIN_STATUS, whether it is a supply scan, the target of the run, the record buffer (R219 to R222). -/
structure Margin where
  status : Nat
  supply : Bool
  target : Nat
  buffer : Bytes
  deriving DecidableEq, Repr

def Margin.idle : Margin := ⟨0, false, 0, []⟩

/-- An error of an on-die store, as it is met (R429): nothing; a codeword of a locker, by hank and granule of 16 bytes; a lane of a vector
register, by hank, register and lane; an element of an accumulation slot, by hank, slot and cell; the first payload codeword of a frame that
a receive flow has staged; a word of an instruction cache, of an update program store or of a captured descriptor, which is read again from
memory, by unit; a record of the Logline ring. -/
inductive Upset where
  | none
  | locker (hank granule : Nat)
  | lane (hank reg lane : Nat)
  | slot (hank slot cell : Nat)
  | staged (flow : Nat)
  | copy (unit : Nat)
  | ring (place : Nat)
  deriving DecidableEq, Repr

/-- Power, temperature, functions, margining. -/
structure Plat where
  /-- the standby rails are in regulation: PWRGD -/
  powered : Bool
  /-- an over-temperature shutdown holds the module off until the input power is cycled (R457) -/
  latched : Bool
  fns : SMap Fn
  /-- stacks 0 to 19, packages 20 to 29 -/
  therm : SMap Therm
  power : Power
  margin : Margin
  /-- PERST_N is asserted -/
  perst : Bool
  /-- the host link is trained below x16 or below 64.0 GT/s (R420) -/
  reduced : Bool
  /-- functions whose WAKING ends in OFF (R419) -/
  offBound : List Nat
  /-- values of 0x2010 that a stack or package uses until its next WAKING (R398, R427), keyed 8 * unit + sub-index -/
  kept : SMap Nat
  /-- the next error of an on-die store (R429; the model's own, log 189) -/
  upset : Upset
  deriving DecidableEq, Repr

def Plat.dark : Plat :=
  { powered := false, latched := false, fns := [], therm := [], power := Power.zero, margin := Margin.idle, perst := true, reduced := false, offBound := [], kept := [], upset := .none }

/-- Amendments, debug, the device nonce and the entropy source. -/
structure Trust where
  /-- AMEND_IMAGE, the image in force, and an image whose install has yet to bring it into force (R363, R364) -/
  flash : Option Bytes
  inForce : Option Bytes
  installing : Option Bytes
  /-- AMEND_STATE -/
  amendState : Nat
  /-- DEVICE_NONCE, and failed record checks since the last reset of the Bowline die (R381) -/
  nonce : BitVec 256
  fails : Nat
  /-- the debug byte, and the facilities that are open -/
  debug : Bool
  scope : Nat
  /-- ENTROPY_STATE -/
  entropy : Nat
  /-- health tests failed in a row, and those that the source is about to fail (R348; the latter the model's own, log 190) -/
  retries : Nat
  badTests : Nat
  /-- LC_RESULT -/
  result : Nat
  /-- the AK certificate -/
  akCert : Bytes
  deriving DecidableEq, Repr

def Trust.blank : Trust :=
  { flash := none, inForce := none, installing := none, retries := 0, badTests := 0, amendState := 0, nonce := 0#256, fails := 0, debug := false, scope := 0, entropy := 0, result := 0, akCert := [] }

end Sys2Proof.Machine
end

