-- ==== Sys2Proof/Machine/State.lean ====
section
/-!
DEFINITION. The state of the module, the ways a step can stop, and the state before power is applied.
-/

namespace Sys2Proof.Machine

/-- Why a step stops with a fault. -/
inductive Fault where
  /-- The command names a line, codeword, page or slot that the spec says does not exist (R191, R193, R227). Raised by
  the memory commands. Safe: no value is made up for it. -/
  | noSuchAddress
  deriving DecidableEq, Repr

/-- Why a command has no meaning here. -/
inductive Refusal where
  /-- The command has no meaning in this model yet. Raised by arms of `exec` only. Safe. -/
  | notModelled (mnemonic : String)
  deriving DecidableEq, Repr

/-- A Bight's state saved in a context area (R298, R300, R302), keyed by context * 80 + hank. -/
abbrev Saved := SMap Bight

/-- Everything but the queue of waiting commands and the fuses. -/
structure Sys where
  bights : Vector Bight 80
  saved : Saved
  ctxs : SMap Context
  parts : Vector Partition 80
  mem : MemSys
  log : Log
  fab : Fabric
  dict : Dict
  /-- keyed by Cleat die * 80 + partition -/
  cleats : SMap Cleat
  plat : Plat
  trust : Trust
  /-- local counts and their wraps since cold reset, keyed by domain number (R19, R440) -/
  counts : SMap (BitVec 48)
  wraps : SMap Nat
  /-- commands taken up whose wait is not over, oldest first -/
  waiting : List Held
  /-- the waiting command being tried again, with what it captured: set by `step` only -/
  replay : Option Held
  /-- index of the next free value (DESIGN CHOICE, log 9) -/
  free : Nat
  /-- number of the next use of a context, by which R299 orders them, and of the next held command -/
  useNext : Nat
  /-- writes to host memory, MSI-X messages as (partition, vector), operator events: oldest first -/
  hostOut : List HostWrite
  msixOut : List (Nat × Nat)
  /-- BAR4 of each function, 80 for the physical one (R284) -/
  bar4 : SMap Bar4
  opEvents : List CompRec
  /-- operator events written to host memory so far -/
  opCount : Nat
  deriving DecidableEq, Repr

/-- The OTP fuses (R347, R364, R368, R372, R379). A programmed bit never clears. -/
structure Fuses where
  /-- the four copies of the life-cycle word -/
  lc : Vector (BitVec 64) 4
  /-- the device secret and its marker -/
  ds : BitVec 256
  dsMark : BitVec 16
  /-- anti-rollback thermometer -/
  thermo : BitVec 64
  /-- the four copies of the done-word -/
  done : Vector (BitVec 64) 4
  /-- analog trim and the other fields that the wipe programs to all ones -/
  trimWiped : Bool
  /-- what they do at the next programming that no command describes (R370, R384; the model's own, log 191) -/
  ahead : BurnF
  deriving DecidableEq, Repr

/-- The machine. -/
structure State where
  /-- commands that wait, first in first out -/
  pending : List Instr
  fuses : Fuses
  sys : Sys
  deriving DecidableEq, Repr

/-- Unprogrammed fuses. -/
def Fuses.blank : Fuses :=
  { lc := Vector.replicate 4 0#64, ds := 0#256, dsMark := 0#16, thermo := 0#64, done := Vector.replicate 4 0#64
    trimWiped := false, ahead := BurnF.sound }

/-- The units before power is applied. -/
def Sys.cold : Sys :=
  { bights := Vector.replicate 80 Bight.idle, saved := [], ctxs := [], parts := Vector.replicate 80 Partition.absent
    mem := MemSys.empty, log := Log.empty, fab := Fabric.empty, dict := Dict.empty, cleats := [], plat := Plat.dark, trust := Trust.blank, counts := [], wraps := [], waiting := [], replay := none, free := 0, useNext := 0
    hostOut := [], msixOut := [], bar4 := [], opEvents := [], opCount := 0 }

/-- The machine before power is applied (DESIGN CHOICE, log 1). -/
def State.reset : State := { pending := [], fuses := Fuses.blank, sys := Sys.cold }

/-- Lifts an effect on the units to the machine: the fuses and the queue stay as they are. -/
def State.onSys (s : State) (f : Sys → Sys) : Host.Outcome State Fault Refusal := .next { s with sys := f s.sys }

end Sys2Proof.Machine
end

