-- ==== Sys2Proof/Machine/Logline.lean ====
section
/-!
DEFINITION. Accessors of the units, readiness of functions, free values, local counts, making a Logline record, error counters
(R19, R348, R413, R415, R440 to R446).
-/

namespace Sys2Proof.Machine

/-! Accessors -/

def Sys.bight (s : Sys) (b : Nat) : Bight := (s.bights[b]?).getD Bight.idle
def Sys.setBight (s : Sys) (b : Nat) (x : Bight) : Sys := { s with bights := s.bights.setIfInBounds b x }
def Sys.part (s : Sys) (p : Nat) : Partition := (s.parts[p]?).getD Partition.absent
def Sys.setPart (s : Sys) (p : Nat) (x : Partition) : Sys := { s with parts := s.parts.setIfInBounds p x }
/-- A context; a number never used is a closed context. -/
def Sys.ctx (s : Sys) (c : Nat) : Context := s.ctxs.get Context.closed c
def Sys.setCtx (s : Sys) (c : Nat) (x : Context) : Sys := { s with ctxs := s.ctxs.set Context.closed c x }

/-! Free values -/

/-- The next free value (R348; see notes/assumptions). -/
def Sys.drawn (s : Sys) : BitVec 256 := Config.draw s.free
/-- The state after a free value was taken. -/
def Sys.took (s : Sys) (n : Nat) : Sys := { s with free := s.free + n }
/-- `n` bytes of free values. -/
def freeBytes (from_ n : Nat) : Bytes := (List.range n).map (fun i => (Config.draw (from_ + i)).setWidth 8)

/-! Domains (R440) -/

def domArith (d : Nat) : Nat := d
def domSplice (d : Nat) : Nat := 0x10 + d
def domMemc (s : Nat) : Nat := 0x20 + s
def domLink (w : Nat) : Nat := 0x40 + w
def domHost : Nat := 0xB0
def domBowline : Nat := 0xB1
def domMgmt : Nat := 0xB2
def domCleat (c : Nat) : Nat := 0xC0 + c
def domSlow (p : Nat) : Nat := 0xD0 + p

/-- Every domain number of R440. -/
def domains : List Nat :=
  (List.range 10).map domArith ++ (List.range 10).map domSplice ++ (List.range 20).map domMemc
    ++ (List.range 6).map domLink ++ (List.range 48).map (0x50 + ·) ++ (List.range 48).map (0x80 + ·)
    ++ [domHost, domBowline, domMgmt] ++ (List.range 5).map domCleat ++ (List.range 10).map domSlow

/-! Units are numbered as functions (R405) -/

def fnBowline : Nat := 0
def fnHost : Nat := 1
def fnStrand (d : Nat) : Nat := 0x10 + d
def fnStack (s : Nat) : Nat := 0x20 + s
def fnHawser (w : Nat) : Nat := 0x40 + w
def fnCleat (c : Nat) : Nat := 0x50 + c
def fnPackage (p : Nat) : Nat := 0x60 + p

/-! Functions (R413, R415) -/

def Sys.fn (s : Sys) (f : Nat) : Fn := s.plat.fns.get Fn.off f
def Sys.setFn (s : Sys) (f : Nat) (x : Fn) : Sys := { s with plat := { s.plat with fns := s.plat.fns.set Fn.off f x } }
def Sys.fnReady (s : Sys) (f : Nat) : Bool := (s.fn f).state == .ready
/-- The functions that hold a hank. -/
def hankFns (h : Nat) : List Nat := [fnStrand (h / 8), fnStack (h / 4), fnCleat (h / 16), fnPackage (h / 8)]
def Sys.hankReady (s : Sys) (h : Nat) : Bool := (hankFns h).all s.fnReady

/-! Local counts (R19) -/

/-- The unit that a domain belongs to. -/
def domainUnit (d : Nat) : Nat :=
  if d < 0x10 then fnStrand d else if d < 0x20 then fnStrand (d - 0x10) else if d < 0x40 then fnStack (d - 0x20)
  else if d < 0x50 then fnHawser (d - 0x40) else if d < 0x80 then fnHawser ((d - 0x50) / 8) else if d < 0xB0 then fnHawser ((d - 0x80) / 8)
  else if d = domHost then fnHost else if d < 0xC0 then fnBowline else if d < 0xD0 then fnCleat (d - 0xC0) else fnPackage (d - 0xD0)

/-- Whether the clock of a domain runs: that of a function in OFF is gated, and its count stops (R19, R416; DEDUCED, log 140). -/
def Sys.clockRuns (s : Sys) (d : Nat) : Bool := (s.fn (domainUnit d)).state != .off
/-- The count that the last reading left. -/
def Sys.count (s : Sys) (d : Nat) : BitVec 48 := s.counts.get 0#48 d
/-- Reads a local count. It has advanced by a free number of cycles since it was last read, but not past its last value: the cycle in
which it returns to 0 is an event of its own (COUNT_WRAP). -/
def Sys.readCount (s : Sys) (d : Nat) : Sys :=
  let n := if s.clockRuns d then Config.elapsed s.free % (2 ^ 48 - (s.count d).toNat) else 0
  { s with counts := s.counts.set 0#48 d (s.count d + BitVec.ofNat 48 n), free := s.free + 1 }
/-! Windows (R447, R448) -/

/-- The windows of 2^30 cycles of a domain follow one another from count 0 on (DESIGN CHOICE, log 178): the start of the one that a stamp
lies in. -/
def windowStart (stamp : Nat) : Nat := stamp / 2 ^ 30 * 2 ^ 30
/-- No window starts here. -/
def noWindow : Nat := 2 ^ 48
/-- The count of a domain starts again at 0: the windows that it had are past. -/
def Sys.closeWindows (s : Sys) (d : Nat) : Sys :=
  { s with log := { s.log with
      firsts := s.log.firsts.map (fun e => if e.1 / 8 = d then (e.1, (noWindow, e.2.2)) else e)
      shared := if d = domBowline then [] else s.log.shared } }

/-- The domains of a function leave reset: their counts are 0. -/
def Sys.zeroCounts (s : Sys) (f : Nat) : Sys :=
  (domains.filter (fun d => domainUnit d == f)).foldl (fun s d => { s.closeWindows d with counts := s.counts.set 0#48 d 0#48 }) s

/-! Making a record -/

/-- What a record says, without stamp and SEQ. -/
structure LogItem where
  domain : Nat
  unit : Nat
  /-- 0xFF for none -/
  part : Nat
  /-- 0xFFFF_FFFF for none -/
  location : Nat
  event : Nat
  arg0 : Nat
  arg1 : Nat
  /-- made inside a step or slack region -/
  slack : Bool
  /-- the unit that makes it, where that is another than the one it is about -/
  maker : Option Nat := none

/-- No location, no partition. -/
def locNone : Nat := 0xFFFFFFFF
def partNone : Nat := 0xFF

/-- A record from its parts (R440). -/
def LogItem.toRec (i : LogItem) (stamp : BitVec 48) : LogRec :=
  { localCount := stamp, domain := BitVec.ofNat 8 i.domain, flags := if i.slack then 1#8 else 0#8, seq := 0#32
    event := BitVec.ofNat 16 i.event, unit := BitVec.ofNat 8 i.unit, partition := BitVec.ofNat 8 i.part
    location := BitVec.ofNat 32 i.location, arg0 := BitVec.ofNat 32 i.arg0, arg1 := BitVec.ofNat 64 i.arg1 }

/-- Records that the last 16 entries of a pre-ring take (R443). -/
def eventReserved (e : Word16) : Bool := e == 0x0102#16 || e == 0x0201#16 || e == 0x0603#16

/-- Puts a record into a pre-ring, or drops and counts it (R443). -/
def Log.push (l : Log) (unit : Nat) (r : PreRec) : Log :=
  let q := l.pre.get [] unit
  if q.length < 240 || (eventReserved r.body.event && decide (q.length < 256)) then
    { l with pre := l.pre.set [] unit (q ++ [r]) }
  else { l with lost := l.lost.set 0 unit (l.lost.get 0 unit + 1) }

/-- A record stamped `stamp` joins its unit's pre-ring, marked as made unfrozen before the freeze reaches its domain (R444). -/
def Sys.logAt (s : Sys) (i : LogItem) (stamp : BitVec 48) : Sys :=
  { s with log := s.log.push (i.maker.getD i.unit) ⟨i.toRec stamp, (s.log.frozenAt.get? i.domain).isNone⟩ }

/-- Makes a record, stamped with the local count of its domain (R446). -/
def Sys.logRec (s : Sys) (i : LogItem) : Sys :=
  let s := s.readCount i.domain
  s.logAt i (s.count i.domain)

/-- A record of the Bowline die. -/
def Sys.logBowline (s : Sys) (part location event arg0 arg1 : Nat) : Sys :=
  s.logRec { domain := domBowline, unit := fnBowline, part := part, location := location, event := event, arg0 := arg0, arg1 := arg1, slack := false }

/-! Error counters (R405), by index and sub-index -/

def errKey (index sub : Nat) : Nat := index * 256 + sub
def errCorrected : Nat := errKey 0x7100 1
def errPoisoned : Nat := errKey 0x7100 2
def errUncontained : Nat := errKey 0x7100 3
def errAlarms : Nat := errKey 0x7100 4
def errReencrypt : Nat := errKey 0x7100 5
def errNotScrubbed : Nat := errKey 0x7100 6
def errRotate : Nat := errKey 0x7100 7
def errEntropy : Nat := errKey 0x7100 8

/-- Adds to an error counter. -/
def Sys.bump (s : Sys) (key n : Nat) : Sys :=
  { s with log := { s.log with counters := s.log.counters.set 0 key (s.log.counters.get 0 key + n) } }

/-- A corrected error of a store in a domain: counted, with a record for the first of its window (R428, R442, R448). -/
def Sys.corrected (s : Sys) (domain unit store loc : Nat) : Sys :=
  let s := (s.bump errCorrected 1).readCount domain
  let key := domain * 8 + store
  let now := windowStart (s.count domain).toNat
  let (start, n) := (s.log.firsts.get? key).getD (noWindow, 0)
  if start ≠ noWindow ∧ start = now then { s with log := { s.log with firsts := s.log.firsts.put key (start, n + 1) } }
  else
    let s := s.logAt { domain := domain, unit := unit, part := partNone, location := loc, event := 0x0103, arg0 := store, arg1 := n + 1, slack := false } (s.count domain)
    { s with log := { s.log with firsts := s.log.firsts.put key (now, 0) } }

/-! The entropy source (R348) -/

/-- One health test of the entropy source; how many it is about to fail is a free value (log 190). It fails for good, until a reset, with
the third failure in a row. -/
def Sys.healthTest (s : Sys) : Sys :=
  let t := s.trust
  if t.entropy = 2 then s
  else if t.badTests = 0 then { s.took 1 with trust := { t with entropy := 0, retries := 0, badTests := Config.badTests s.free } }
  else if t.retries < 2 then { s with trust := { t with entropy := 1, retries := t.retries + 1, badTests := t.badTests - 1 } }
  else
    (({ s with trust := { t with entropy := 2, retries := 0, badTests := t.badTests - 1 } } : Sys).bump errEntropy 1).logBowline partNone locNone 0x0706 0 0

/-- A draw waits while the source retries. -/
def Sys.entropySettled (s : Sys) : Sys := foldFn 3 s (fun s _ => if s.trust.entropy = 1 then s.healthTest else s)
/-- Whether a command that draws must be refused. -/
def Sys.noEntropy (s : Sys) : Bool := s.trust.entropy == 2

/-! The ring (R439, R443, R444) -/

/-- Writes a record with the next SEQ over the oldest one. -/
def Log.append (l : Log) (r : LogRec) : Log :=
  let ring := l.ring ++ [{ r with seq := l.nextSeq }]
  { l with ring := ring.drop (ring.length - 65536), nextSeq := l.nextSeq + 1#32 }

/-- LOG_CAUSE of a trigger event; 0 for another event. -/
def triggerCause (e : Word16) : Byte := if e = 0x0102#16 then 1#8 else if e = 0x0201#16 then 2#8 else if e = 0x0808#16 then 3#8 else 0#8

/-- The freeze reaches every domain, each of which notes its local count. -/
def Sys.noteFreeze (s : Sys) : Sys :=
  domains.foldl (fun s d => let s := s.readCount d; { s with log := { s.log with frozenAt := s.log.frozenAt.put d (s.count d) } }) s

/-- Whether a frozen ring accepts a record. -/
def Log.glows (l : Log) (r : PreRec) : Bool :=
  decide (l.after < 4096) && (r.unfrozen || (match l.frozenAt.get? r.body.domain.toNat with
    | some t => decide ((r.body.localCount - t).toNat < 4096)
    | none => true))

/-- Takes one record into the ring. -/
def Sys.takeRecord (s : Sys) (r : PreRec) : Sys :=
  let l := s.log
  if l.frozen then
    (if l.glows r then { s with log := { l.append { r.body with flags := r.body.flags ||| 4#8 } with after := l.after + 1 } }
     else { s with log := { l with dropped := l.dropped + 1 } })
  else
    let cause := triggerCause r.body.event
    if cause = 0#8 then { s with log := l.append r.body }
    else
      let l := l.append { r.body with flags := r.body.flags ||| 2#8 }
      ({ s with log := { l with frozen := true, cause := cause, after := 0 } } : Sys).noteFreeze

end Sys2Proof.Machine
end

