-- ==== Sys2Proof/Machine/Tree.lean ====
section
/-!
DEFINITION. The arithmetic of the Seizing engines: where a region offset lies, the layout of codewords on their carriers, keystream,
tags, counter blocks, the counter tree and its root, and what the Thimble cache holds (R194, R196, R202, R227 to R238).
-/

namespace Sys2Proof.Machine

/-! Where data and protection area lie (R194, R196, R227) -/

/-- The channel pair of a tier-1 offset, the segment in its sequence, and the byte within that (R194). -/
def channelPair (o : Nat) : Nat := o / 256 % 4
def pairSegment (o : Nat) : Nat := o / 256 / 4
/-- The two channels of pair `m` of channel group `g` of a stack. -/
def pairChannels (g m : Nat) : Nat × Nat := (8 * g + m, 8 * g + m + 4)
/-- The sub-channel of a tier-2 offset in region `r` of a package (R196), and the segment in its sequence. -/
def subChannel (r o : Nat) : Nat := 2 * r + o / 256 % 2
def subSegment (o : Nat) : Nat := o / 256 / 2
/-- The byte within a segment. -/
def segmentByte (o : Nat) : Nat := o % 256

/-! Codewords on their carriers (R202) -/

/-- Word `w` of a codeword [143:128] check bits, [127:0] data: 64 data bits, then 8 check bits. -/
def carrierWord (c : BitVec 144) (w : Nat) : BitVec 72 := (c.extractLsb' (128 + 8 * w) 8) ++ (c.extractLsb' (64 * w) 64)

/-- The symbol that nibble `n` of a 72-bit word carries: 16 of data, then 2 of check. -/
def laneSymbol (w n : Nat) : Nat := if n < 16 then 16 * w + n else 32 + 2 * w + (n - 16)

/-- HBM4E: data-line nibble `n`, or check-line nibble `n - 16`, of channel `8g + m + 4w` in one beat. -/
def hbmSymbol (w n : Nat) : Nat := laneSymbol w n
/-- LPDDR6: a burst half holds a codeword, six beats of twelve lines a word; line nibble `q` of beat `b` of the half. -/
def lpddrSymbol (b q : Nat) : Nat := laneSymbol (b / 6) (3 * (b % 6) + q)
/-- SRAM words and internal paths: bit or lane `l` of 144. -/
def flatSymbol (l : Nat) : Nat := laneSymbol (l / 72) (l % 72 / 4)

/-! Keystream and tags (R229 to R233) -/

/-- The counter value of R229. -/
def ctrValue (tier hank line major minor purpose j : Nat) : BitVec 128 :=
  BitVec.ofNat 128 (major * 2 ^ 64 + minor * 2 ^ 57 + tier * 2 ^ 56 + hank * 2 ^ 49 + line * 2 ^ 21 + purpose * 4 + j)

/-- The address block of R231. -/
def addrBlock (tier hank level index : Nat) : BitVec 128 := BitVec.ofNat 128 (tier * 2 ^ 79 + hank * 2 ^ 72 + level * 2 ^ 64 + index)

/-- The four 16-byte blocks of 64 bytes. -/
def blocksOf (bs : Bytes) : List (BitVec 128) := (List.range 4).map (fun i => BitVec.ofNat 128 (fieldN bs (16 * i) 16))

/-- The counters of a line. -/
def Seize.major (z : Seize) (line : Nat) : Nat := z.majors.get 0 (line / 64)
def Seize.minor (z : Seize) (line : Nat) : Nat := z.minors.get 0 line

/-- The key set that a page stands under (R247). -/
def Seize.keysAt (z : Seize) (page : Nat) : Option KeySet :=
  match z.rot with
  | some (k, n) => if page < n then some k else z.keys
  | none => z.keys

/-- The ciphertext blocks of a line whose plaintext is `bs` (R230). -/
def Seize.cipher (z : Seize) (k : KeySet) (tier hank line : Nat) (bs : Bytes) : List (BitVec 128) :=
  (blocksOf bs).mapIdx (fun j b => b ^^^ Config.aes256 k.kData (ctrValue tier hank line (z.major line) (z.minor line) 0 j))

/-- The tag of ciphertext blocks (R232). -/
def Seize.tag (z : Seize) (k : KeySet) (tier hank line : Nat) (c : List (BitVec 128)) : BitVec 64 :=
  (Config.ghash k.h (c ++ [addrBlock tier hank 0xFF line]) ^^^
    Config.aes256 k.kData (ctrValue tier hank line (z.major line) (z.minor line) 1 0)).setWidth 64

/-! The counter tree (R228, R234 to R236) -/

/-- The MAC of a counter block or node (R235). -/
def macOf (k : KeySet) (tier hank level index : Nat) (c : List (BitVec 128)) : BitVec 64 :=
  (Config.aes256 k.kTree (Config.ghash k.h (c ++ [addrBlock tier hank level index]))).setWidth 64

/-- Items of a level: counter blocks at level 0, nodes at levels 1 to 7. -/
def levelCount (level : Nat) : Nat :=
  match level with
  | 0 => 3417600 | 1 => 427200 | 2 => 53400 | 3 => 6675 | 4 => 835 | 5 => 105 | 6 => 14 | 7 => 2 | _ => 0

/-- The counter block of a page (R228). -/
def Seize.counterBlock (z : Seize) (page : Nat) : List (BitVec 128) :=
  let minors := foldFn 64 0 (fun a q => a + z.minor (64 * page + q) * 2 ^ (7 * q))
  blocksOf (leBytes 8 (z.majors.get 0 page) ++ leBytes 56 minors)

/-- The contents of a counter block or node: a node holds its children's MACs, and 0 where it has none (R234). The entry of a child that
the cache holds dirty is that child's MAC when it was last written out; nothing reads a node whose child is held (R238), so it is not kept. -/
def Seize.treeItem (z : Seize) (k : KeySet) (tier hank level index : Nat) : List (BitVec 128) :=
  match level with
  | 0 => z.counterBlock index
  | level + 1 => blocksOf ((List.range 8).flatMap (fun c =>
      if 8 * index + c < levelCount level then
        leBytes 8 (macOf k tier hank level (8 * index + c) (z.treeItem k tier hank level (8 * index + c))).toNat
      else List.replicate 8 0))

/-- The root: the MACs of the two level-7 nodes, and 0 (R234). It is set when the region is keyed; the level-7 nodes never leave the
pinned area, so that no later MAC of theirs is written into it (R236, R238). -/
def Seize.rootOf (z : Seize) (k : KeySet) (tier hank : Nat) : Vector (BitVec 64) 8 :=
  Vector.ofFn (fun c => if c.val < 2 then macOf k tier hank 7 c.val (z.treeItem k tier hank 7 c.val) else 0#64)

/-! The Thimble cache (R237, R238) -/

/-- The key of an item of levels 0 to 4 in the cache; parents come before their children. -/
def thimbleKey (level index : Nat) : Nat := (4 - level) * 2 ^ 32 + index
def thimbleLevel (k : Nat) : Nat := 4 - k / 2 ^ 32
def thimbleIndex (k : Nat) : Nat := k % 2 ^ 32

/-- Whether an item is on die: pinned, or held by the cache. -/
def Seize.holds (z : Seize) (level index : Nat) : Bool := decide (5 ≤ level) || (z.held.get? (thimbleKey level index)).isSome

/-- Takes an item into the cache; one that it holds already stays dirty. -/
def Seize.hold (z : Seize) (level index : Nat) (dirty : Bool) : Seize :=
  { z with held := z.held.put (thimbleKey level index) (dirty || (z.held.get? (thimbleKey level index)).getD false) }

/-- The items on the path of a page that the cache does not hold, highest level first. -/
def Seize.missing (z : Seize) (page : Nat) : List (Nat × Nat) :=
  ([4, 3, 2, 1, 0].map (fun l => (l, page / 8 ^ l))).filter (fun e => !z.holds e.1 e.2)

/-- The whole path of a page is held; its counter block is dirty when it was written. -/
def Seize.holdPath (z : Seize) (page : Nat) (dirty : Bool) : Seize :=
  let z := (z.missing page).foldl (fun z e => z.hold e.1 e.2 false) z
  if dirty then z.hold 0 page true else z

/-- Whether a child of a held item is held. -/
def Seize.heldChild (z : Seize) (k : Nat) : Bool :=
  z.held.any (fun e => thimbleLevel e.1 + 1 == thimbleLevel k && thimbleIndex e.1 / 8 == thimbleIndex k)

/-- Evicts an item: the MAC of a dirty one goes into its parent's entry, which makes the parent dirty. -/
def Seize.evict (z : Seize) (k : Nat) : Seize :=
  let up := thimbleKey (thimbleLevel k + 1) (thimbleIndex k / 8)
  let z' := { z with held := z.held.del k }
  if (z.held.get? k).getD false && decide (thimbleLevel k < 4) then { z' with held := z'.held.put up true } else z'

/-- The last item that may be evicted: it has no child in the cache, and the access to `page` does not need it. -/
def Seize.victim (z : Seize) (page : Option Nat) : Option Nat :=
  (z.held.reverse.find? (fun e => !z.heldChild e.1 && !page.any (fun p => p / 8 ^ thimbleLevel e.1 == thimbleIndex e.1))).map (fun e => e.1)

/-- Writes back what is dirty and gives everything up, children before parents (R238). -/
def Seize.flush (z : Seize) : Seize := { z with held := [] }

/-- Items that the cache of a controller holds for its regions (R237). -/
def thimbleItems (tier : Nat) : Nat := if tier = 0 then 16384 else 4096

/-! Failing items (R250) -/

/-- Whether a counter block or node that a line needs fails its MAC in memory, and is not held. A page that a rotation has passed stands
under a new tree. -/
def Seize.pathFails (z : Seize) (line : Nat) : Option (Nat × Nat) :=
  z.failed.find? (fun e => e.1 != 0xFF && e.2 == line / 64 / 8 ^ e.1 && !z.holds e.1 e.2 && !z.rot.any (fun r => decide (line / 64 < r.2)))

/-- What a write of a line meets that keeps it from being performed: a counter block or node on its path, or a line of its page that would
have to be encrypted anew first (R245, R250, R252). -/
def Seize.writeFails (z : Seize) (line : Nat) : Option (Nat × Nat) :=
  match z.pathFails line with
  | some e => some e
  | none => if z.minor line = 127 ∧ z.major line ≠ 2 ^ 64 - 1 ∧ !z.stuck.contains (line / 64) then
      z.failed.find? (fun e => e.1 == 0xFF && e.2 / 64 == line / 64) else none

/-- Which item a failing read of a line ends at. -/
def Seize.failAt (z : Seize) (line : Nat) : Option (Nat × Nat) :=
  match z.pathFails line with
  | some e => some e
  | none => if z.failed.contains (0xFF, line) then some (0xFF, line) else none

/-- Whether a read of a line from memory ends in a failed tag or MAC. -/
def Seize.fails (z : Seize) (line : Nat) : Bool := (z.failAt line).isSome

/-- Notes what failed. -/
def Seize.fail (z : Seize) (level index : Nat) : Seize :=
  if z.failed.contains (level, index) then z else { z with failed := z.failed ++ [(level, index)] }

/-- A line has been written anew. -/
def Seize.mended (z : Seize) (line : Nat) : Seize := { z with failed := z.failed.filter (· != (0xFF, line)) }

end Sys2Proof.Machine
end

