-- ==== Sys2Proof/Machine/Memory.lean ====
section
/-!
DEFINITION. Partition addresses, reads and writes of partition memory, and the counters of the Seizing engines
(R191 to R193, R203, R206 to R208, R240 to R248, R305).
-/

namespace Sys2Proof.Machine

/-- U: the data bytes of one hank in one tier (R192). -/
def unitBytes : Nat := 13998489600
/-- Granules of 2 MiB in a data region (R193). -/
def unitGranules : Nat := 6675
def granuleBytes : Nat := 2097152
/-- Step of the windows in space 0x2 (R191), and size of a slice (R205). -/
def windowStep : Nat := 67108864
def sliceBytes : Nat := 134217728

/-- S and W in bytes (R205, R341). -/
def Partition.slackBytes (P : Partition) : Nat := fieldN P.config 0x18 1 * 1048576
def Partition.windowBytes (P : Partition) : Nat := fieldN P.config 0x19 1 * 1048576

/-- Bits [63:60] of a partition address, and the offset (R191). -/
def addrSpace (a : Nat) : Nat := a / 2 ^ 60 % 16
def addrOffset (a : Nat) : Nat := a % 2 ^ 60
/-- A partition address. -/
def mkAddr (space off : Nat) : Nat := space * 2 ^ 60 + off

/-- The key of a byte in the data store: 0 tier 1 as its home slice serves it, 1 tier 2, 2 Splice slice, 3 what the stack holds of a
line that stands apart; hank; offset in the region or slice. -/
def physKey (kind hank off : Nat) : Nat := (kind * 80 + hank) * 2 ^ 34 + off
def keyKind (k : Nat) : Nat := k / 2 ^ 34 / 80
def keyHank (k : Nat) : Nat := k / 2 ^ 34 % 80
def keyOff (k : Nat) : Nat := k % 2 ^ 34

/-- The place of a partition address (R191, R192, R206); none outside the spaces. -/
def Partition.place (P : Partition) (a : Nat) : Option Nat :=
  let o := addrOffset a
  match addrSpace a with
  | 0 => (P.hanks[o / unitBytes]?).map (fun h => physKey 0 h (o % unitBytes))
  | 1 => (P.hanks[o / unitBytes]?).map (fun h => physKey 1 h (o % unitBytes))
  | 2 => if o % windowStep < P.windowBytes then
      (P.hanks[o / windowStep]?).map (fun h => physKey 2 h (sliceBytes - P.windowBytes + o % windowStep))
    else none
  | _ => none

/-- Bytes from an address to the end of its hank's part of the space. -/
def chunkRoom (P : Partition) (a : Nat) : Nat :=
  if addrSpace a = 2 then P.windowBytes - addrOffset a % windowStep else unitBytes - addrOffset a % unitBytes

/-- The places of `n` bytes from `a`, as runs of key and length; none when any byte has no place. -/
def placeRuns (P : Partition) (fuel a n : Nat) : Option (List (Nat × Nat)) :=
  match fuel with
  | 0 => if n = 0 then some [] else none
  | fuel + 1 =>
    if n = 0 then some [] else
    match P.place a with
    | none => none
    | some k =>
      let l := min n (chunkRoom P a)
      (placeRuns P fuel (a + l) (n - l)).map (fun t => (k, l) :: t)

/-- The statistics area (R116, R206): window offsets W - 4 MiB to W - 1 of hank h(0). -/
def Partition.statBase (P : Partition) : Nat := P.windowBytes - 4194304

/-- The object of a partition that holds granule `g` of a space: not an import. -/
def Partition.objAt (P : Partition) (space g : Nat) : Option (Nat × Obj) :=
  P.objs.find? (fun e => e.2.source.isNone && e.2.space == space && decide (e.2.first ≤ g) && decide (g < e.2.first + e.2.granules))

/-- Whether every byte from offset `o` up to `e` of a space belongs to an object or to the statistics area (R305). -/
def covered (P : Partition) (space fuel o e : Nat) : Bool :=
  match fuel with
  | 0 => decide (e ≤ o)
  | fuel + 1 =>
    if e ≤ o then true else
    match P.objAt space (o / granuleBytes) with
    | some x => covered P space fuel ((x.2.first + x.2.granules) * granuleBytes) e
    | none =>
      if space = 2 ∧ P.statBase ≤ o ∧ o < P.windowBytes then covered P space fuel P.windowBytes e else false

/-- Whether a range is memory of the partition (R191, R305). An empty range is. -/
def Partition.owns (P : Partition) (a n : Nat) : Bool :=
  n == 0 ||
  (decide (addrOffset a + n ≤ 2 ^ 60) && decide (addrSpace a ≤ 2) &&
    covered P (addrSpace a) (P.objs.length + 2) (addrOffset a) (addrOffset a + n) &&
    (placeRuns P (P.hanks.length + 1) a n).isSome)

/-- Whether two ranges of bytes have a byte in common. -/
def rangesMeet (a n b m : Nat) : Bool := decide (n ≠ 0) && decide (m ≠ 0) && decide (a < b + m) && decide (b < a + n)

/-- The address of an object's first byte. -/
def Obj.addr (o : Obj) : Nat := mkAddr o.space (o.first * granuleBytes)
def Obj.bytes (o : Obj) : Nat := o.granules * granuleBytes

/-- The read-only ranges of a partition: directories and extents of unreleased versions (R168), shared and mirror objects
(R325), listed programs (R352). -/
def Partition.readOnlyRanges (P : Partition) : List (Nat × Nat) :=
  P.wsets.flatMap (fun e => if e.2.source.isNone then
      e.2.versions.flatMap (fun v => (v.dir, 64 + 32 * v.entries.length) :: v.entries.map (fun x => (x.addr, x.bytes)))
    else [])
    ++ P.objs.filterMap (fun e => if e.2.source.isNone && e.2.readOnly then some (e.2.addr, e.2.bytes) else none)

/-- Whether a range touches a read-only extent. -/
def Partition.touchesReadOnly (P : Partition) (a n : Nat) : Bool :=
  P.readOnlyRanges.any (fun r => rangesMeet a n r.1 r.2)

/-- Whether the partition may write a range. -/
def Partition.mayWrite (P : Partition) (a n : Nat) : Bool := P.owns a n && !P.touchesReadOnly a n

/-! Logline locations (R440) -/

/-- The space that LOCATION gives an object's: tier 2 has a number of its own. -/
def locSpace (space : Nat) : Nat := if space = 1 then 0xE else space
/-- LOCATION of a place within a partition: space and 2 MiB granule. -/
def Partition.location (P : Partition) (k : Nat) : Nat :=
  let j := (P.hanks.findIdx? (· == keyHank k)).getD 0
  match keyKind k with
  | 0 => (j * unitGranules + keyOff k / granuleBytes) % 2 ^ 28
  | 1 => 0xE * 2 ^ 28 + (j * unitGranules + keyOff k / granuleBytes) % 2 ^ 28
  | _ => 2 * 2 ^ 28 + (j * 32 + (keyOff k - (sliceBytes - P.windowBytes)) / granuleBytes) % 2 ^ 28

/-- The partition that holds a hank. -/
def Sys.holder (s : Sys) (hank : Nat) : Option Nat :=
  (List.range 80).find? (fun p => (s.part p).hanks.contains hank)
/-- The number of that partition, or 0xFF. -/
def Sys.holderByte (s : Sys) (hank : Nat) : Nat := (s.holder hank).getD partNone

/-- Domain and unit of the controller of a tier and hank (R12, R13, R440). -/
def tierDomain (tier hank : Nat) : Nat := if tier = 0 then domMemc (hank / 4) else domSlow (hank / 8)
def tierUnit (tier hank : Nat) : Nat := if tier = 0 then fnStack (hank / 4) else fnPackage (hank / 8)

/-- A record of a memory controller about a place. -/
def Sys.logTier (s : Sys) (tier hank off event arg0 arg1 : Nat) : Sys :=
  s.logRec { domain := tierDomain tier hank, unit := tierUnit tier hank, part := s.holderByte hank,
             location := (s.part ((s.holder hank).getD 0)).location (physKey tier hank off), event := event, arg0 := arg0, arg1 := arg1, slack := false }

/-! Events to a base context (R303) -/

/-- An EVENT record of a context. -/
def eventRec (code : Nat) (args : Bytes) : CompRec :=
  { kind := 1, lay := 0, ring := 0, status := 0, result := (leBytes 2 code ++ args ++ List.replicate 20 0).take 20, irq := false, plain := false }

/-- Sends an event to the base context of a partition. -/
def Sys.event (s : Sys) (p code : Nat) (args : Bytes) : Sys :=
  let c := (s.part p).base
  let x := s.ctx c
  if x.opened ∧ x.part = p then s.setCtx c { x with outbox := x.outbox ++ [eventRec code args] } else s

/-! Seizing regions -/

def regionKey (tier hank : Nat) : Nat := tier * 80 + hank
def Sys.region (s : Sys) (tier hank : Nat) : Seize := s.mem.regions.get Seize.empty (regionKey tier hank)
def Sys.setRegion (s : Sys) (tier hank : Nat) (z : Seize) : Sys :=
  { s with mem := { s.mem with regions := s.mem.regions.set Seize.empty (regionKey tier hank) z } }

/-- Whether a page stands in a listed unknown range (R248). -/
def Seize.listed (z : Seize) (page : Nat) : Bool := z.unknownAll || z.unknown.any (fun e => page / 8 ^ e.1 == e.2)

/-- Lists the pages that node `i` of a level covers; a seventeenth range lists the whole region (R248). -/
def Seize.list (z : Seize) (level i : Nat) : Seize :=
  if z.unknownAll || z.unknown.contains (level, i) then z
  else if z.unknown.length < 16 then { z with unknown := z.unknown ++ [(level, i)] }
  else { z with unknown := [], unknownAll := true }

/-- A tier-1 line of 256 bytes in its home slice (R207). -/
def cacheKey (hank line : Nat) : Nat := hank * 2 ^ 26 + line
def MemSys.line (m : MemSys) (hank line : Nat) : CacheLine := m.cache.get CacheLine.none (cacheKey hank line)
def MemSys.setLine (m : MemSys) (hank line : Nat) (c : CacheLine) : MemSys :=
  { m with cache := m.cache.set CacheLine.none (cacheKey hank line) c }

/-- The slice's line and the stack's value of it stand apart from now on: the stack keeps what both held. -/
def MemSys.split (m : MemSys) (hank line : Nat) : MemSys :=
  let c := m.line hank line
  if c.apart then m else
  { (m.setLine hank line { c with present := true, apart := true }) with
    data := m.data.copyRange (physKey 0 hank (256 * line)) (physKey 3 hank (256 * line)) 256 }

/-- The slice gives a line up: readers meet again what the stack holds. -/
def MemSys.drop (m : MemSys) (hank line : Nat) : MemSys :=
  let d := if (m.line hank line).apart then
      (m.data.copyRange (physKey 3 hank (256 * line)) (physKey 0 hank (256 * line)) 256).dropRange (physKey 3 hank (256 * line)) 256
    else m.data
  { (m.setLine hank line CacheLine.none) with data := d }

/-- Where the bytes of a 64-byte line stand as its memory holds them. -/
def Sys.memKey (s : Sys) (tier hank line : Nat) : Nat :=
  physKey (if tier = 0 && (s.mem.line hank (line / 4)).apart then 3 else tier) hank (64 * line)

/-- Before a memory's own value of a line changes: a slice that holds the line keeps its copy. -/
def Sys.forMemory (s : Sys) (tier hank line : Nat) : Sys :=
  if tier = 0 && (s.mem.line hank (line / 4)).present then { s with mem := s.mem.split hank (line / 4) } else s

/-- Marks what a memory holds of a line, from byte `o` of it. -/
def Sys.poisonLine (s : Sys) (tier hank line o n : Nat) (m : Mark) : Sys :=
  let s := s.forMemory tier hank line
  { s with mem := { s.mem with data := s.mem.data.poisonRange (s.memKey tier hank line + o) n m } }

/-- What became of a line's write. -/
inductive LineOut where
  | done | reencrypted
  /-- the page meets the end of its MAJOR, or has met it before -/
  | exhausted | refused
  | discarded
  /-- a counter block or node fails -/
  | failed (level index : Nat)
  deriving DecidableEq, Repr

/-- Whether the line was written. -/
def LineOut.wrote (o : LineOut) : Bool := match o with | .done => true | .reencrypted => true | _ => false

/-- The largest MAJOR (R244). -/
def majorEnd : Nat := 2 ^ 64 - 1

/-- Advances the counters for a write of one line: its page's counter block is verified and then dirty in the cache (R240, R245, R246,
R248, R250). -/
def Seize.advance (z : Seize) (line : Nat) : Seize × LineOut :=
  let page := line / 64
  let m := z.minor line
  if z.listed page then (z, .discarded)
  else match z.writeFails line with
    | some e => (z, .failed e.1 e.2)
    | none =>
      if z.stuck.contains page then (z, .refused)
      else if m < 127 then ({ z with minors := z.minors.set 0 line (m + 1) }.holdPath page true, .done)
      else if z.major line = majorEnd then ({ z with stuck := page :: z.stuck }, .exhausted)
      else
        ({ z with
            majors := z.majors.set 0 page (z.major line + 1)
            minors := (z.minors.delRange (64 * page) 64).set 0 line 1 }.holdPath page true, .reencrypted)

/-- A page meets the end of its MAJOR: the record, the count, and the owner's event (R246). -/
def Sys.exhaust (s : Sys) (tier hank page : Nat) : Sys :=
  let s := (s.logTier tier hank (4096 * page) 0x0301 hank page).bump errRotate 1
  match s.holder hank with
  | some p => s.event p 0x0005 (leBytes 1 tier ++ leBytes 1 hank ++ leBytes 2 0 ++ leBytes 8 page)
  | none => s

/-- A failed check whose alarm the engine has yet to raise (R250). -/
def Sys.noteFail (s : Sys) (tier hank level index : Nat) : Sys :=
  if s.mem.alarms.contains (tier, hank, level, index) then s
  else { s with mem := { s.mem with alarms := s.mem.alarms ++ [(tier, hank, level, index)] } }

/-- The records, counts and events that the write of a line leaves (R245, R246, R248). -/
def Sys.lineEffects (s : Sys) (tier hank line : Nat) (o : LineOut) : Sys :=
  match o with
  | .done => s
  | .failed _ _ => s
  | .reencrypted => s.bump errReencrypt 1
  | .discarded => s.logTier tier hank (64 * line) 0x0303 hank (line / 64)
  | .refused => s.poisonLine tier hank line 0 64 .poisoned
  | .exhausted => (s.poisonLine tier hank line 0 64 .poisoned).exhaust tier hank (line / 64)

/-- Hanks of a memory controller: those of a stack, or of a package. -/
def ctlOf (tier hank : Nat) : List Nat := if tier = 0 then (List.range 4).map (hank / 4 * 4 + ·) else (List.range 8).map (hank / 8 * 8 + ·)

/-- Brings a controller's Thimble cache within its size: items leave, from the back of its regions, but for those that `page` of `hank`
needs. `fuel` bounds the evictions. -/
def Sys.fitThimble (fuel tier hank page : Nat) (s : Sys) : Sys :=
  match fuel with
  | 0 => s
  | fuel + 1 =>
    if ((ctlOf tier hank).map (fun h => (s.region tier h).held.length)).sum ≤ thimbleItems tier then s else
    match (ctlOf tier hank).findSome? (fun h => ((s.region tier h).victim (if h = hank then some page else none)).map (fun k => (h, k))) with
    | some (h, k) => (s.setRegion tier h ((s.region tier h).evict k)).fitThimble fuel tier hank page
    | none => s

/-- Advances the counters of one line and records what happened. -/
def Sys.writeLine (s : Sys) (tier hank line : Nat) : Sys × LineOut :=
  let (z, o) := (s.region tier hank).advance line
  let z := if o.wrote then z.mended line else z
  (((s.setRegion tier hank z).fitThimble 8 tier hank (line / 64)).lineEffects tier hank line o, o)

/-- Writes a blob's bytes from index `i`, `n` of them, at a key, without counters. -/
def Sys.poke (s : Sys) (k n i : Nat) (arr : Array Byte) (mk : Nat → Mark) : Sys :=
  { s with mem := { s.mem with data := s.mem.data.write k n (fun j => (arr[i + j]?).getD 0) mk } }

/-- The aligned pieces of `w` bytes that `n` bytes from an offset touch. -/
def piecesOf (w o n : Nat) : List Nat := if n = 0 then [] else (List.range ((o + n - 1) / w + 1 - o / w)).map (o / w + ·)

/-- The bytes of piece `l` that `n` bytes from `o` cover: first and end. -/
def pieceSpan (w o n l : Nat) : Nat × Nat := (max o (w * l), min (o + n) (w * l + w))

/-- Whether `n` bytes from `o` cover piece `l` wholly. -/
def pieceWhole (w o n l : Nat) : Bool := decide (o ≤ w * l) && decide (w * l + w ≤ o + n)

/-- What fails as 256 bytes are read from memory, a segment or the fill of a line (R198, R207, R250). -/
def Seize.segmentFailures (z : Seize) (seg : Nat) : List (Nat × Nat) :=
  if z.failed.isEmpty then [] else ((List.range 4).filterMap (fun i => z.failAt (4 * seg + i))).eraseDups
def Seize.segmentFails (z : Seize) (seg : Nat) : Bool := !(z.segmentFailures seg).isEmpty
/-- Those failures, as the engine notes them. -/
def Sys.noteSegment (s : Sys) (tier hank seg : Nat) : Sys :=
  ((s.region tier hank).segmentFailures seg).foldl (fun s e => s.noteFail tier hank e.1 e.2) s

/-- Writes one run of bytes to a tier-1 line at its home slice (R207). A line that the slice does not hold is filled first, unless the
write replaces all of it: a listed page fills poisoned (R248), and where the fill fails its check nothing is written (R250). -/
def Sys.writeSlice (s : Sys) (h l k n i : Nat) (whole : Bool) (arr : Array Byte) (mk : Nat → Mark) : Sys :=
  let fills := !(s.mem.line h l).present && !whole
  if fills && (s.region 0 h).segmentFails l then s.noteSegment 0 h l else
  let s : Sys := { s with mem := s.mem.split h l }
  let s : Sys := if fills && (s.region 0 h).listed (l / 16) then
      { s with mem := { s.mem with data := s.mem.data.poisonRange (physKey 0 h (256 * l)) 256 .unknown } } else s
  let s := s.poke k n i arr mk
  { s with mem := s.mem.setLine h l ⟨true, true, true⟩ }

/-- Writes one run of bytes: each line at its home slice for tier 1 (R207), segment by segment and line by line for tier 2 (R198, R240),
the slice for a window. A tier-2 segment that is not replaced whole is read first; where that read fails its check, nothing of it is
written (R250). -/
def Sys.pokeRun (s : Sys) (k n i : Nat) (arr : Array Byte) (mk : Nat → Mark) : Sys :=
  let h := keyHank k
  let o := keyOff k
  match keyKind k with
  | 0 => (piecesOf 256 o n).foldl (fun s l =>
      let (a, e) := pieceSpan 256 o n l
      s.writeSlice h l (physKey 0 h a) (e - a) (i + (a - o)) (pieceWhole 256 o n l) arr mk) s
  | 1 => (piecesOf 256 o n).foldl (fun s g =>
      let (b, f) := pieceSpan 256 o n g
      if !pieceWhole 256 o n g && (s.region 1 h).segmentFails g then s.noteSegment 1 h g else
      (piecesOf 64 b (f - b)).foldl (fun s l =>
        let (a, e) := pieceSpan 64 o n l
        match s.writeLine 1 h l with
        | (s, .failed level index) => s.noteFail 1 h level index
        | (s, out) => if out.wrote then s.poke (physKey 1 h a) (e - a) (i + (a - o)) arr mk else s) s) s
  | _ => s.poke k n i arr mk

/-- Writes a blob over runs of places. -/
def Sys.pokeRuns (s : Sys) (runs : List (Nat × Nat)) (arr : Array Byte) (b : Blob) : Sys :=
  (runs.foldl (fun (acc : Sys × Nat) r =>
    let base := r.1 - acc.2
    (acc.1.pokeRun r.1 r.2 acc.2 arr (fun c => b.markOver base c), acc.2 + r.2)) (s, 0)).1

/-- Whether some part of a write of `n` bytes at a place cannot be performed: a read made for it, or its counter block, fails its check (R250). -/
def Sys.runFails (s : Sys) (k n : Nat) : Bool :=
  let h := keyHank k
  let o := keyOff k
  let z := s.region (keyKind k) h
  if z.failed.isEmpty then false else
  match keyKind k with
  | 0 => (piecesOf 256 o n).any (fun l => !(s.mem.line h l).present && !pieceWhole 256 o n l && z.segmentFails l)
  | 1 => (piecesOf 256 o n).any (fun g => !pieceWhole 256 o n g && z.segmentFails g) || (piecesOf 64 o n).any (fun l => (z.writeFails l).isSome)
  | _ => false

/-- What a write to partition memory tells its command: TAG_FAIL when part of it was not performed (R250, R251). -/
def Sys.writeMark (s : Sys) (p a n : Nat) : Mark :=
  let P := s.part p
  match placeRuns P (P.hanks.length + 1) a n with
  | some runs => if runs.any (fun r => s.runFails r.1 r.2) then .tagFail else .clean
  | none => .clean

/-! Requests that wait (R197, R217, R223, R424) -/

/-- The age of the command that is being performed: that of the command tried again, or a new one. -/
def Sys.ordNow (s : Sys) : Nat := (s.replay.map (fun h => h.ord)).getD s.useNext

/-- Whether a function still serves what it has accepted. -/
def Sys.fnServes (s : Sys) (f : Nat) : Bool := (s.fn f).state == .ready || (s.fn f).state == .draining
/-- Whether the memory of a tier is CRITICAL (R216, R217). -/
def Sys.tierCritical (s : Sys) (tier hank : Nat) : Bool :=
  (s.plat.therm.get Therm.zero (if tier = 0 then hank / 4 else 20 + hank / 8)).level == 4
/-- Whether a Cleat die reaches the package network: one of its attachment Strand dies is there (R414). -/
def Sys.cleatReaches (s : Sys) (c : Nat) : Bool := s.fnServes (fnStrand (2 * c)) || s.fnServes (fnStrand (2 * c + 1))
/-- Whether the controller of a tier serves what stands in its queue. Tier 2 is reached through its Cleat die (R197, R414). -/
def Sys.tierServes (s : Sys) (tier hank : Nat) : Bool :=
  s.fnServes (tierUnit tier hank) && (tier == 0 || (s.fnServes (fnCleat (hank / 16)) && s.cleatReaches (hank / 16))) && !s.tierCritical tier hank
/-- Whether a controller keeps the request at hand in its queue: one that is DRAINING takes no new request (R422). -/
def Sys.tierWaits (s : Sys) (tier hank : Nat) : Bool :=
  !s.tierServes tier hank ||
    ((s.fn (tierUnit tier hank)).state == .draining && !s.replay.any (fun w => w.asks.contains (tier, hank)))
/-- Whether a slice serves: its Strand die is there. -/
def Sys.sliceServes (s : Sys) (hank : Nat) : Bool := s.fnServes (fnStrand (hank / 8))
/-- Whether an earlier request of a region stands in its controller's queue: requests are served in the order in which they came (R197). -/
def Sys.behind (s : Sys) (tier hank : Nat) : Bool := s.waiting.any (fun w => decide (w.ord < s.ordNow) && w.asks.contains (tier, hank))

/-- Whether some tier-1 line of a run is not held by its home slice. -/
def Sys.runMisses (s : Sys) (r : Nat × Nat) : Bool := (piecesOf 256 (keyOff r.1) r.2).any (fun l => !(s.mem.line (keyHank r.1) l).present)
/-- Whether a request for a run of bytes has to wait. -/
def Sys.runWaits (s : Sys) (r : Nat × Nat) : Bool :=
  let h := keyHank r.1
  match keyKind r.1 with
  | 0 => !s.sliceServes h || ((s.tierWaits 0 h || s.behind 0 h) && s.runMisses r)
  | 1 => s.tierWaits 1 h || s.behind 1 h
  | _ => !s.sliceServes h

/-- The runs of a range of partition memory; none where it has a byte without a place. -/
def Sys.runsOf (s : Sys) (p a n : Nat) : List (Nat × Nat) := (placeRuns (s.part p) ((s.part p).hanks.length + 1) a n).getD []
/-- The regions that a request for a range stands at. -/
def Sys.asksOf (s : Sys) (p a n : Nat) : List (Nat × Nat) := ((s.runsOf p a n).map (fun r => (keyKind r.1, keyHank r.1))).eraseDups
/-- Whether an older write to a range stands in a queue. -/
def Sys.behindPosted (s : Sys) (p a n : Nat) : Bool :=
  s.mem.posted.any (fun e => decide (e.ord < s.ordNow) && e.part == p && rangesMeet a n e.addr e.blob.data.length)

/-- Whether an access to partition memory has to wait: for a memory that accepts no request, where that is tier 2, a window, or a tier-1
line that its home slice does not hold, or behind an earlier request (R197, R207, R217, R223, R424). -/
def Sys.memWaits (s : Sys) (p a n : Nat) : Bool := (s.runsOf p a n).any s.runWaits || s.behindPosted p a n

/-- Performs a write to partition memory. -/
def Sys.writeNow (s : Sys) (p a : Nat) (b : Blob) : Sys := s.pokeRuns (s.runsOf p a b.data.length) b.data.toArray b

/-- Writes a blob to partition memory; a write to a memory that accepts no request stands in its queue. The caller has checked the range. -/
def Sys.writePart (s : Sys) (p a : Nat) (b : Blob) : Sys :=
  if s.memWaits p a b.data.length then
    { s with mem := { s.mem with posted := s.mem.posted ++ [⟨s.useNext, p, a, b⟩] }, useNext := s.useNext + 1 }
  else s.writeNow p a b

/-- Whether a write that stands in a queue still has to wait. -/
def Sys.postedWaits (s : Sys) (e : Posted) : Bool :=
  (s.runsOf e.part e.addr e.blob.data.length).any (fun r =>
    let h := keyHank r.1
    (match keyKind r.1 with
     | 0 => !s.sliceServes h || (!s.tierServes 0 h && s.runMisses r)
     | 1 => !s.tierServes 1 h
     | _ => !s.sliceServes h) || s.waiting.any (fun w => decide (w.ord < e.ord) && w.asks.contains (keyKind r.1, h)))

/-- Performs the writes that stood in queues and need wait no longer, oldest first. -/
def Sys.flushPosted (s : Sys) : Sys :=
  let (s, kept) := s.mem.posted.foldl (fun (acc : Sys × List Posted) e =>
    if acc.1.postedWaits e || acc.2.any (fun o => o.part == e.part && rangesMeet o.addr o.blob.data.length e.addr e.blob.data.length) then (acc.1, acc.2 ++ [e])
    else (acc.1.writeNow e.part e.addr e.blob, acc.2)) (s, [])
  { s with mem := { s.mem with posted := kept } }

/-- The cause of a poison mark as a reader of a store finds it: the mark holds none (R201, R249). -/
def Mark.asRead (m : Mark) : Mark := if m.isBad then .poisoned else .clean

/-- The mark of a codeword of a line that a reader takes from its memory: INTEGRITY_UNKNOWN in a listed range (R248), TAG_FAIL where a
check fails (R250), else that of the stored mark (R249). -/
def Seize.readMark (z : Seize) (line : Nat) (m : Mark) : Mark :=
  if z.listed (line / 64) then .unknown else if z.fails line then .tagFail else m.asRead

/-- The mark that a reader meets at codeword `c` of the data store. What a slice holds is not read from memory; its poison in a listed range
has that cause (R248). -/
def Sys.readMark (s : Sys) (c : Nat) : Mark :=
  let k := 16 * c
  let h := keyHank k
  let o := keyOff k
  match keyKind k with
  | 0 =>
    if (s.mem.line h (o / 256)).present then
      (if (s.mem.data.mark c).isBad && (s.region 0 h).listed (o / 4096) then .unknown else (s.mem.data.mark c).asRead)
    else (s.region 0 h).readMark (o / 64) (s.mem.data.mark c)
  | 1 => (s.region 1 h).readMark (o / 64) (s.mem.data.mark c)
  | _ => (s.mem.data.mark c).asRead

/-- What the data store holds of partition memory, before a mirror is asked. -/
def Sys.readRaw (s : Sys) (p a n : Nat) : Blob :=
  let P := s.part p
  match placeRuns P (P.hanks.length + 1) a n with
  | some runs =>
    (runs.foldl (fun (acc : Blob × Nat) r =>
      (⟨acc.1.data ++ s.mem.data.read r.1 r.2,
        acc.1.bad ++ (chunkMarks s.readMark r.1 r.2).map (fun e => ((acc.2 + a % 16) / 16 + e.1, e.2)), a % 16⟩, acc.2 + r.2)) (⟨[], [], a % 16⟩, 0)).1
  | none => .ofBytes (List.replicate n 0)

/-- The address in the mirror of a byte of an object granted with MIRROR (R325). -/
def Partition.mirrorAddr (P : Partition) (a : Nat) : Option Nat :=
  match P.objAt (addrSpace a) (addrOffset a / granuleBytes) with
  | some (_, o) => (o.mirror.bind (fun j => P.objs.get? j)).map (fun m => m.addr + (a - o.addr))
  | none => none

/-- The mirror's copy of `n` bytes within one line, when every codeword of its line is clean (R437). -/
def Sys.fromMirror (s : Sys) (p a n : Nat) : Option Bytes :=
  match (s.part p).mirrorAddr a with
  | none => none
  | some m => if (s.readRaw p (m / 64 * 64) 64).worst.isBad then none else some (s.readRaw p m n).data

/-- Reads partition memory. The caller has checked the range. A line of a mirrored object that stands in an unknown range is
served from the mirror (R437). -/
def Sys.readPart (s : Sys) (p a n : Nat) : Blob :=
  let b := s.readRaw p a n
  (b.bad.filter (fun e => e.2 == Mark.unknown)).foldl (fun (b : Blob) e =>
    let o := 16 * e.1 - b.skew
    let l := min (16 * e.1 + 16 - b.skew) n - o
    match s.fromMirror p (a + o) l with
    | some d => { b with data := b.data.take o ++ d ++ b.data.drop (o + l), bad := b.bad.filter (fun x => x.1 != e.1) }
    | none => b) b

/-- The items that fail as a range is read from memory: tier, hank, level and index (R250). -/
def Sys.failsIn (s : Sys) (p a n : Nat) : List (Nat × Nat × Nat × Nat) :=
  ((s.runsOf p a n).flatMap (fun r =>
    let t := keyKind r.1
    let h := keyHank r.1
    let z := s.region t h
    if 2 ≤ t ∨ z.failed.isEmpty then [] else
    (piecesOf 64 (keyOff r.1) r.2).filterMap (fun l =>
      if z.listed (l / 64) || (t == 0 && (s.mem.line h (l / 4)).present) then none else (z.failAt l).map (fun e => (t, h, e.1, e.2))))).eraseDups

/-- The lines of a range that stand in a listed range and are served from a mirror: tier, hank, line, the mirror's place and the object
(R437). -/
def Sys.servedIn (s : Sys) (p a n : Nat) : List (Nat × Nat × Nat × Nat × Nat) :=
  (s.runsOf p a n).foldl (fun (acc : List (Nat × Nat × Nat × Nat × Nat) × Nat) r =>
    let t := keyKind r.1
    let h := keyHank r.1
    let z := s.region t h
    if 2 ≤ t ∨ (z.unknown.isEmpty && !z.unknownAll) then (acc.1, acc.2 + r.2) else
    (acc.1 ++ (piecesOf 64 (keyOff r.1) r.2).filterMap (fun l =>
      let at_ := a + acc.2 + 64 * l - keyOff r.1
      if !z.listed (l / 64) || (t == 0 && (s.mem.line h (l / 4)).present) || (s.fromMirror p at_ 1).isNone then none
      else match (s.part p).mirrorAddr at_, (s.part p).objAt (addrSpace at_) (addrOffset at_ / granuleBytes) with
        | some m, some (i, o) => ((s.part p).place m).map (fun k => (t, h, l, k, o.gen * 2 ^ 32 + i))
        | _, _ => none), acc.2 + r.2)) ([], 0) |>.1

/-- What a read of a range leaves beside its data: alarms of failed checks, and a record for each line that a mirror serves (R250, R437, R442). -/
def Sys.noteRead (s : Sys) (p a n : Nat) : Sys :=
  let s := (s.failsIn p a n).foldl (fun s e => s.noteFail e.1 e.2.1 e.2.2.1 e.2.2.2) s
  (s.servedIn p a n).foldl (fun s e => s.logTier e.1 e.2.1 (64 * e.2.2.1) 0x0104 (tierUnit (keyKind e.2.2.2.1) (keyHank e.2.2.2.1)) e.2.2.2.2) s

/-! Copies of imported lines (R208) -/

/-- The copy of a line in the slice of a hank. -/
def Sys.copyOf (s : Sys) (to_ from_ line : Nat) : Option Copy := s.mem.copies.find? (fun e => e.to_ == to_ && e.from_ == from_ && e.line == line)

/-- Sixteen codewords of a tier-1 line as its home slice or its memory delivers them; a poisoned one delivers no bytes (R201, R208). -/
def Sys.lineCopy (s : Sys) (to_ from_ line : Nat) : Copy :=
  { to_ := to_, from_ := from_, line := line
    words := (List.range 16).map (fun i =>
      let k := physKey 0 from_ (256 * line + 16 * i)
      (s.readMark (k / 16), if (s.readMark (k / 16)).isBad then [] else s.mem.data.read k 16)) }

/-- A slice takes a copy of a line that it reads, but for one whose fill stands in a listed range or fails its check. -/
def Sys.takeCopy (s : Sys) (to_ from_ line : Nat) : Sys :=
  if (s.copyOf to_ from_ line).isSome || (!(s.mem.line from_ line).present && ((s.region 0 from_).listed (line / 16) || (s.region 0 from_).segmentFails line)) then s
  else { s with mem := { s.mem with copies := s.mem.copies ++ [s.lineCopy to_ from_ line] } }

/-- The tier-1 lines of a range of partition `q`: hank and line. -/
def Sys.tier1Lines (s : Sys) (q a n : Nat) : List (Nat × Nat) :=
  (s.runsOf q a n).flatMap (fun r => if keyKind r.1 = 0 then (piecesOf 256 (keyOff r.1) r.2).map (fun l => (keyHank r.1, l)) else [])

/-- Hank `h` reads `n` bytes that its partition imports from `q`: each tier-1 line is copied into the hank's slice. -/
def Sys.noteCopies (s : Sys) (h q a n : Nat) : Sys := (s.tier1Lines q a n).foldl (fun s e => s.takeCopy h e.1 e.2) s

/-- Replaces codeword `j` of a blob. -/
def Blob.setWord (b : Blob) (j : Nat) (w : Mark × Bytes) : Blob :=
  { b with
    data := if w.1.isBad then b.data else b.data.mapIdx (fun i x => if (i + b.skew) / 16 = j then w.2.getD ((i + b.skew) % 16) 0 else x)
    bad := b.bad.filter (fun e => e.1 != j) ++ (if w.1.isBad then [(j, w.1)] else []) }

/-- What hank `h` reads of bytes imported from `q`: the lines that its slice holds come from there. -/
def Sys.withCopies (s : Sys) (h q a : Nat) (b : Blob) : Blob :=
  if !s.mem.copies.any (fun e => e.to_ == h) then b else
  (List.range ((b.skew + b.data.length + 15) / 16)).foldl (fun b j =>
    match (s.part q).place (a / 16 * 16 + 16 * j) with
    | some k => if keyKind k ≠ 0 then b else
      (match s.copyOf h (keyHank k) (keyOff k / 256) with
       | some e => b.setWord j (e.words.getD (keyOff k / 16 % 16) (.clean, []))
       | none => b)
    | none => b) b

/-- A poisoned read of a shared object: the exporter's base context hears of each granule once in a window of 2^30 BOWLINE
cycles, until the exporter frees the object (R438, R448). -/
def Sys.sharedPoison (s : Sys) (q a : Nat) (b : Blob) : Sys :=
  match (s.part q).objAt (addrSpace a) (addrOffset a / granuleBytes) with
  | none => s
  | some (i, o) =>
    if b.bad.isEmpty || !o.shared || !o.live then s else
    ((b.bad.map (fun e => (a / 16 * 16 + 16 * e.1 - o.addr) / granuleBytes)).eraseDups).foldl (fun s g =>
      let s := s.readCount domBowline
      let now := windowStart (s.count domBowline).toNat
      let key := ((q * 2 ^ 32 + i) * 2 ^ 24 + o.gen) * 2 ^ 20 + g
      if s.log.shared.get? key = some now then s
      else ({ s with log := { s.log with shared := s.log.shared.put key now } }).event q 0x0006
        (leBytes 8 (o.gen * 2 ^ 32 + i) ++ leBytes 4 g) |>.logBowline q
          (((s.part q).place (o.addr + g * granuleBytes)).elim locNone (s.part q).location) 0x0105 g (o.gen * 2 ^ 32 + i)) s

/-- A page reads as zero, in its memory and through its slice. -/
def MemSys.zeroPage (m : MemSys) (tier hank page : Nat) : MemSys :=
  let d := m.data.dropRange (physKey tier hank (4096 * page)) 4096
  if tier = 0 then { m with data := d.dropRange (physKey 3 hank (4096 * page)) 4096, cache := m.cache.delRange (cacheKey hank (16 * page)) 16 }
  else { m with data := d }

/-- What is left failing when a page has been written anew. -/
def Seize.mendPage (z : Seize) (page : Nat) : Seize := { z with failed := z.failed.filter (fun e => !(e.1 == 0xFF && e.2 / 64 == page)) }

/-- Scrubs one page: MAJOR advances, minors become 0, the page reads as zero. A page at its end, listed, or whose counters fail is left
and reported; one at its end is read-only from now on (R242, R246, R250). -/
def Sys.scrubPage (s : Sys) (tier hank page : Nat) : Sys × Bool :=
  let z := s.region tier hank
  let s := match z.pathFails (64 * page) with | some e => if z.listed page then s else s.noteFail tier hank e.1 e.2 | none => s
  if z.listed page || (z.pathFails (64 * page)).isSome || z.stuck.contains page then (s.bump errNotScrubbed 1, false)
  else if z.majors.get 0 page = majorEnd then
    (((s.setRegion tier hank { z with stuck := page :: z.stuck }).exhaust tier hank page).bump errNotScrubbed 1, false)
  else
    let z := { z with majors := z.majors.set 0 page (z.majors.get 0 page + 1), minors := z.minors.delRange (64 * page) 64 }
    (({ s with mem := s.mem.zeroPage tier hank page }).setRegion tier hank ((z.mendPage page).holdPath page true), true)

/-- Scrubs one granule of a partition's space (R242, R307), with the number of pages skipped. -/
def Sys.scrubGranule (s : Sys) (p space g : Nat) : Sys × Nat :=
  match (s.part p).place (mkAddr space (g * granuleBytes)) with
  | none => (s, 0)
  | some k =>
    if keyKind k = 2 then ({ s with mem := { s.mem with data := s.mem.data.zeroRange k granuleBytes } }, 0)
    else
      let (s, n) := (List.range 512).foldl (fun (acc : Sys × Nat) i =>
        match acc.1.scrubPage (keyKind k) (keyHank k) (keyOff k / 4096 + i) with
        | (s, true) => (s, acc.2)
        | (s, false) => (s, acc.2 + 1)) (s, 0)
      (s.fitThimble 1024 (keyKind k) (keyHank k) (keyOff k / 4096 + 511), n)

/-- Scrubs granules `first .. first + n - 1`, with SCRUB_SKIPPED when pages were left (R242, R442). -/
def Sys.scrubGranules (s : Sys) (p space first n handle : Nat) : Sys :=
  let (s, skipped) := (List.range n).foldl (fun (acc : Sys × Nat) i =>
    let (s, k) := acc.1.scrubGranule p space (first + i)
    (s, acc.2 + k)) (s, 0)
  if skipped = 0 then s else s.logBowline p (locSpace space * 2 ^ 28 + first % 2 ^ 28) 0x0304 skipped handle

end Sys2Proof.Machine
end

