-- ==== Sys2Proof/Machine/Rotate.lean ====
section
/-!
DEFINITION. Key sets of regions: drawing one, keying a region, and rotating one page after page (R226, R234, R241, R247, R252).
-/

namespace Sys2Proof.Machine

/-- A drawn key set (R226). -/
def drawKeys (n : Nat) : KeySet := { kData := Config.draw n, h := (Config.draw (n + 1)).setWidth 128, kTree := Config.draw (n + 2) }

/-- A region as keying begins it: counters at 0, its tree and root built under a key set (R241). -/
def Seize.keying (k : KeySet) (t h : Nat) : Seize := { Seize.empty with keys := some k, root := Seize.empty.rootOf k t h }

/-- Keeps the entries of a store whose address satisfies `keep`. -/
def Mem.keepIf (m : Mem) (keep : Nat → Bool) : Mem := ⟨m.bytes.filter (fun e => keep e.1), m.marks.filter (fun e => keep (16 * e.1))⟩

/-- Pages of a region (R227). -/
def pageCount : Nat := 3417600

/-- A rotation of a region begins: its new key set is drawn (R247). -/
def Sys.startRotation (s : Sys) (t h : Nat) : Sys := (s.setRegion t h { s.region t h with rot := some (drawKeys s.free, 0) }).took 3

/-- The pages of a region that stand under the new set already. -/
def Seize.rotated (z : Seize) : Nat := (z.rot.map (fun r => r.2)).getD 0

/-- The pages `a .. a + n - 1` stand under the new set: their counters are 0, and their counter blocks have entered the new tree. -/
def Seize.rotatePages (z : Seize) (a n : Nat) : Seize :=
  let within := fun (page : Nat) => decide (a ≤ page) && decide (page < a + n)
  { z with
    majors := z.majors.delRange a n
    minors := z.minors.delRange (64 * a) (64 * n)
    held := z.held.filter (fun e => !(thimbleLevel e.1 == 0 && within (thimbleIndex e.1)))
    stuck := z.stuck.filter (fun p => !within p)
    failed := z.failed.filter (fun e => !(e.1 == 0xFF && within (e.2 / 64)))
    rot := z.rot.map (fun r => (r.1, a + n)) }

/-- What of a failing item lies in the pages `a .. a + n - 1`: first line and number of lines. -/
def failedLines (a n : Nat) (e : Nat × Nat) : Nat × Nat :=
  let r := if e.1 = 0xFF then (e.2, 1) else (64 * (e.2 * 8 ^ e.1), 64 * 8 ^ e.1)
  let lo := max r.1 (64 * a)
  (lo, min (r.1 + r.2) (64 * (a + n)) - lo)

/-- The items that fail as a rotation reads the pages `a .. a + n - 1` (R250). -/
def Seize.failedIn (z : Seize) (a n : Nat) : List (Nat × Nat) := z.failed.filter (fun e => (failedLines a n e).2 != 0)

/-- The lines of failing items are written poisoned, and their alarms are noted. -/
def Sys.poisonFailed (s : Sys) (t h a n : Nat) : Sys :=
  ((s.region t h).failedIn a n).foldl (fun s e =>
    let s := s.noteFail t h e.1 e.2
    let r := failedLines a n e
    (List.range r.2).foldl (fun s i => s.poisonLine t h (r.1 + i) 0 64 .poisoned) s) s

/-- The listed pages among `a .. a + n - 1` are written as zeros without poison; a slice keeps a line of theirs only where it is dirty. -/
def MemSys.zeroListed (m : MemSys) (z : Seize) (t h a n : Nat) : MemSys :=
  let gone := fun (page : Nat) => decide (a ≤ page) && decide (page < a + n) && z.listed page
  let dirty := fun (o : Nat) => t == 0 && (m.line h (o / 256)).dirty
  { m with
    data := m.data.keepIf (fun k => !(keyHank k == h && gone (keyOff k / 4096) && (keyKind k == t && !dirty (keyOff k) || t == 0 && keyKind k == 3)))
    cache := if t = 0 then m.cache.filter (fun e => !(e.1 / 2 ^ 26 == h && gone (e.1 % 2 ^ 26 / 16) && !e.2.dirty)) else m.cache }

/-- A rotation passes over the next `n` pages of its region: each is read under the old set and written under the new one. Poisoned lines
keep their mark; lines whose check fails are poisoned; lines in an unknown range are zeros (R247). -/
def Sys.rotatePages (s : Sys) (t h n : Nat) : Sys :=
  let a := (s.region t h).rotated
  let s := s.poisonFailed t h a n
  let z := s.region t h
  ({ s with mem := s.mem.zeroListed z t h a n }).setRegion t h (z.rotatePages a n)

/-- The last page is done: the new set is the region's, the old one is zeroised, the list of unknown ranges is empty. -/
def Seize.finishRotation (z : Seize) (t h : Nat) : Seize :=
  match z.rot with
  | none => z
  | some (k, _) => { z with keys := some k, rot := none, held := [], root := z.rootOf k t h, unknown := [], unknownAll := false, stuck := [], failed := [] }
def Sys.finishRotation (s : Sys) (t h : Nat) : Sys := s.setRegion t h ((s.region t h).finishRotation t h)

/-- The rest of a rotation that runs. -/
def Sys.restOfRotation (s : Sys) (t h : Nat) : Sys := (s.rotatePages t h (pageCount - (s.region t h).rotated)).finishRotation t h

/-- What the rest of a rotation will meet (R250). -/
def Sys.restMark (s : Sys) (t h : Nat) : Mark :=
  if ((s.region t h).failedIn (s.region t h).rotated (pageCount - (s.region t h).rotated)).isEmpty then .clean else .tagFail

/-- A whole rotation. -/
def Sys.rotate (s : Sys) (t h : Nat) : Sys := (s.startRotation t h).restOfRotation t h

end Sys2Proof.Machine
end

