-- ==== Sys2Proof/Machine/Command.lean ====
section
/-!
DEFINITION. Command entries of Kuane: finding an accepted command, when it may begin, its reserved fields, batches and
pins, and its completion (R169 to R175, R178, R296, R303, R306, R315 to R320, R343).
-/

namespace Sys2Proof.Machine

/-! Statuses (R318) -/

def stOK : Nat := 0x00
def stDEFERRED : Nat := 0x01
def stHAULED : Nat := 0x02
def stCUT : Nat := 0x03
def stBAD_OPCODE : Nat := 0x10
def stRESERVED_SET : Nat := 0x11
def stBAD_HANDLE : Nat := 0x12
def stBAD_RANGE : Nat := 0x13
def stBAD_DESCRIPTOR : Nat := 0x14
def stBAD_PROGRAM : Nat := 0x15
def stBAD_FLOW : Nat := 0x16
def stBAD_PLAN : Nat := 0x17
def stBAD_SCHEDULE : Nat := 0x18
def stBAD_VALUE : Nat := 0x19
def stBAD_HANK : Nat := 0x1A
def stBAD_CONTEXT : Nat := 0x1B
def stNOT_READY : Nat := 0x20
def stBUSY : Nat := 0x21
def stDRAINING : Nat := 0x22
def stSTALE_VALUE : Nat := 0x23
def stEXHAUSTED : Nat := 0x24
def stREQUIRES_QUIESCE : Nat := 0x25
def stCANCELLED : Nat := 0x26
def stNO_MEMORY : Nat := 0x30
def stNO_CONTEXT : Nat := 0x31
def stNO_FLOW : Nat := 0x32
def stNO_FENCE : Nat := 0x33
def stNO_WEIGHT_SET : Nat := 0x34
def stQUOTA : Nat := 0x35
def stPOISONED : Nat := 0x40
def stINTEGRITY_UNKNOWN : Nat := 0x41
def stTAG_FAIL : Nat := 0x42
def stSHARD_MISSING : Nat := 0x43
def stSHARD_CORRUPT : Nat := 0x44
def stPEER_LOST : Nat := 0x45
def stDENIED : Nat := 0x50
def stATTEST_TRANSITION : Nat := 0x51
def stALARM : Nat := 0x52
def stBAD_SIGNATURE : Nat := 0x53
def stNO_SESSION : Nat := 0x54

/-- The status of poison that a command consumed (R251), OK when it consumed none. -/
def markStatus (m : Mark) : Nat :=
  match m with
  | .clean => stOK | .poisoned => stPOISONED | .unknown => stINTEGRITY_UNKNOWN | .tagFail => stTAG_FAIL

/-- The worst of several causes (R251, R319). -/
def worstMark (ms : List Mark) : Mark := ms.foldl Mark.worse .clean

/-- The status of a command that is ended with `st`, given the status of the poison that it consumed: the first in the order of R319. -/
def endStatus (st m : Nat) : Nat :=
  if st = stALARM ∨ st = stCUT ∨ m = stOK ∨ (st = stPEER_LOST ∧ m = stPOISONED) then st else m

/-! Fields of a command entry (R315) -/

def Cmd.field (c : Cmd) (o n : Nat) : Nat := fieldN c.payload o n
def Cmd.opcode (c : Cmd) : Nat := c.field 0 1
def Cmd.cflags (c : Cmd) : Nat := c.field 1 1
def Cmd.batchEnd (c : Cmd) : Bool := (c.cflags).testBit 0
def Cmd.ordered (c : Cmd) : Bool := (c.cflags).testBit 1
def Cmd.batchNumber (c : Cmd) : Nat := c.field 4 4
def Cmd.begunB (c : Cmd) : Bool := c.progress != .waiting

/-! Finding and changing an accepted command -/

def Sys.ring (s : Sys) (c r : Nat) : Ring := ((s.ctx c).rings[r]?).getD Ring.empty
def Context.setRing (x : Context) (r : Nat) (g : Ring) : Context := { x with rings := x.rings.setIfInBounds r g }
def Sys.setRing (s : Sys) (c r : Nat) (g : Ring) : Sys := s.setCtx c ((s.ctx c).setRing r g)

/-- The accepted command with a lay count that has not retired. -/
def Sys.cmdAt (s : Sys) (c r l : Nat) : Option Cmd := (s.ring c r).cmds.find? (fun x => x.lay == l)
def Sys.cmdOf (s : Sys) (k : CmdKey) : Option Cmd := s.cmdAt k.ctx.val k.ring.val k.lay

/-- Changes one command in place. -/
def Sys.setCmd (s : Sys) (c r : Nat) (x : Cmd) : Sys :=
  let g := s.ring c r
  s.setRing c r { g with cmds := g.cmds.map (fun y => if y.lay == x.lay then x else y) }
def Sys.setProgress (s : Sys) (c r : Nat) (x : Cmd) (p : Progress) : Sys := s.setCmd c r { x with progress := p }

/-- Every accepted command of a context that has not retired. -/
def Context.cmds (x : Context) : List Cmd := x.rings.toList.flatMap (fun g => g.cmds)

/-- The contexts of a partition, ascending. -/
def Sys.ctxsOf (s : Sys) (p : Nat) : List Nat :=
  s.ctxs.filterMap (fun e => if e.2.opened ∧ e.2.part = p then some e.1 else none)

/-! Handles (R305) -/

def handleKind (h : Nat) : Nat := h / 2 ^ 56 % 256
def handleGen (h : Nat) : Nat := h / 2 ^ 32 % 2 ^ 24
def handleIndex (h : Nat) : Nat := h % 2 ^ 32
def mkHandle (kind gen index : Nat) : Nat := kind * 2 ^ 56 + gen * 2 ^ 32 + index

/-- The memory object a handle names, when its allocation (or import) still stands, or the command holds a reference on it
from before it was freed (R307). -/
def Partition.objOf (P : Partition) (refs : List Nat) (h : Nat) : Option Obj :=
  if handleKind h = 0 then
    match P.objs.get? (handleIndex h) with
    | some o => if o.gen = handleGen h ∧ (o.live ∨ refs.contains h) then some o else none
    | none => none
  else none
def Partition.fenceOf (P : Partition) (refs : List Nat) (h : Nat) : Option Fence :=
  if handleKind h = 1 then
    match P.fences.get? (handleIndex h) with
    | some f => if f.gen = handleGen h ∧ (f.live ∨ refs.contains h) then some f else none
    | none => none
  else none
def Partition.wsetOf (P : Partition) (h : Nat) : Option WSet :=
  if handleKind h = 2 then
    match P.wsets.get? (handleIndex h) with
    | some w => if w.gen = handleGen h then some w else none
    | none => none
  else none

/-- The number of the next object of a kind: the least unused whose generation has not wrapped. -/
def nextIndex (used : Nat → Bool) (gens : SMap Nat) (next top maxGen : Nat) : Option Nat :=
  match (List.range next).find? (fun i => !used i && decide (gens.get 0 i ≤ maxGen)) with
  | some i => some i
  | none => if next < top then some next else none

def Partition.nextObj (P : Partition) : Option Nat := nextIndex (fun i => (P.objs.get? i).isSome) P.objGens P.objNext (2 ^ 32) (2 ^ 24 - 1)
def Partition.nextFence (P : Partition) : Option Nat := nextIndex (fun i => (P.fences.get? i).isSome) P.fenceGens P.fenceNext 65536 255
def Partition.nextWset (P : Partition) : Option Nat := nextIndex (fun i => (P.wsets.get? i).isSome) P.wsetGens P.wsetNext (2 ^ 32) (2 ^ 24 - 1)

/-- The partition and object whose memory a handle reaches: an import stands for its exporter's object (R208, R325). -/
def Sys.memoryOf (s : Sys) (p : Nat) (refs : List Nat) (h : Nat) : Option (Nat × Obj) :=
  match (s.part p).objOf refs h with
  | none => none
  | some o =>
    match o.source with
    | none => some (p, o)
    | some (q, i) => ((s.part q).objs.get? i).map (fun x => (q, x))

/-! Batches and pins (R169, R177) -/

def Context.batch (x : Context) (id : Nat) : Option Batch := x.batches.find? (fun b => b.id == id)
def Context.setBatch (x : Context) (b : Batch) : Context :=
  { x with batches := x.batches.map (fun y => if y.id == b.id then b else y) }

/-- Versions of a set that some batch pins. -/
def Sys.pinned (s : Sys) (q w v : Nat) : Bool :=
  s.ctxs.any (fun e => e.2.batches.any (fun b => b.pins.any (fun p => p.part == q && p.wset == w && p.version == v)))

/-- Releases superseded versions that have lost their last pin, and a retiring set whose current version has (R173, R174). -/
def Sys.releaseVersions (s : Sys) (q : Nat) : Sys :=
  let P := s.part q
  let keep (i : Nat) (w : WSet) : WSet :=
    { w with versions := w.versions.filter (fun v =>
        match v.state with
        | .superseded => s.pinned q i v.num
        | .current => !w.retiring || s.pinned q i v.num
        | .provisional => true) }
  let ws := P.wsets.filterMap (fun e =>
    let w := keep e.1 e.2
    if w.source.isNone && w.retiring && w.versions.isEmpty then none else some (e.1, w))
  let gone := P.wsets.filter (fun e => !(ws.any (fun x => x.1 == e.1)))
  s.setPart q { P with wsets := ws, wsetGens := gone.foldl (fun g e => g.put e.1 (e.2.gen + 1)) P.wsetGens }

/-- Drops batches that have closed and whose commands have all retired, with their pins (R169). -/
def Sys.dropBatches (s : Sys) (c : Nat) : Sys :=
  let x := s.ctx c
  let live (b : Batch) : Bool := !b.closed || x.cmds.any (fun k => k.batch == b.id)
  let gone := x.batches.filter (fun b => !live b)
  let s := s.setCtx c { x with batches := x.batches.filter live }
  (gone.flatMap (fun b => b.pins.map (fun p => p.part))).foldl (fun s q => s.releaseVersions q) s

/-- The set that a weight-set handle reaches: partition and index of the holder (R173, R325). -/
def Sys.setHolder (s : Sys) (p h : Nat) : Option (Nat × Nat × WSet) :=
  match (s.part p).wsetOf h with
  | none => none
  | some w =>
    match w.source with
    | none => some (p, handleIndex h, w)
    | some (q, i) => ((s.part q).wsets.get? i).map (fun x => (q, i, x))

/-- The version a batch would pin now: the provisional one for the batch of Σ, of a set that its own partition holds, else the current one
(R169, R173, R177). -/
def pinTarget (own : Bool) (b : Batch) (w : WSet) : Option Version :=
  match (if b.spec && own then w.versions.find? (fun v => v.state == .provisional) else none) with
  | some v => some v
  | none => w.versions.find? (fun v => v.state == .current)

/-- The version that a command's batch uses of a set: the one it has pinned, else the one it pins now. -/
def Sys.pin (s : Sys) (c : Nat) (batch q i : Nat) (w : WSet) : Option (Version × Sys) :=
  let x := s.ctx c
  match x.batch batch with
  | none => none
  | some b =>
    match b.pins.find? (fun p => p.part == q && p.wset == i) with
    | some p => (w.versions.find? (fun v => v.num == p.version)).map (fun v => (v, s))
    | none =>
      (pinTarget (q == x.part) b w).map (fun v =>
        (v, s.setCtx c (x.setBatch { b with pins := b.pins ++ [⟨q, i, v.num⟩] })))

/-! Slack buffer space (R184 to R186) -/

/-- Buffer bytes of a held payload (R185). -/
def heldSize (n : Nat) : Nat := (n + 255) / 256 * 256 + 256

/-- Buffer bytes of the items that stand in a hank's buffer. -/
def itemBytes (b : Nat) (is : List HeldItem) : Nat := is.foldl (fun a i => if i.hank = b then a + i.size else a) 0

/-- Buffer bytes that a step region takes on a hank. Deferred completions stand with the partition's first hank (DESIGN CHOICE, log 143). -/
def Sigma.bytesOn (z : Sigma) (first : Option Nat) (b : Nat) : Nat :=
  itemBytes b z.items + 256 * ((z.lockers.filter (fun k => k.hank == b)).map (fun k => k.granules.length)).sum
    + (if first = some b then 256 * z.deferred.countP (fun d => d.charged) else 0)

/-- Buffer bytes in use on a hank (R184, R185). -/
def Sys.slackUsed (s : Sys) (b : Nat) : Nat :=
  (match (s.bight b).region with
   | some g => 2048 * g.savedV.length + 65536 * g.savedS.length + 256 * g.savedG.length + itemBytes b g.items
   | none => 0) +
  (match s.holder b with
   | some p => (match (s.part p).sigma with
     | some z => z.bytesOn (s.part p).hanks.head? b
     | none => 0)
   | none => 0)

/-- Whether `n` more bytes fit a hank's buffer (R184, R186). -/
def Sys.slackFits (s : Sys) (b n : Nat) : Bool :=
  n == 0 || (match s.holder b with
    | some p => decide (s.slackUsed b + n ≤ (s.part p).slackBytes)
    | none => true)

/-! Completion (R303) -/

/-- A command's completion record. -/
def doneRec (k : Cmd) (status : Nat) (result : Bytes) : CompRec :=
  { kind := 0, lay := k.lay, ring := k.ring, status := status, result := (result ++ List.replicate 20 0).take 20, irq := k.irq, plain := k.plain }

/-- Whether a command of context `c` stands in the step region of its partition (R178). -/
def Sys.inSigma (s : Sys) (c : Nat) (k : Cmd) : Bool :=
  match (s.part (s.ctx c).part).sigma with
  | some g => g.ctx == c && g.batch == k.batch && ((s.ctx c).batch k.batch).any (fun b => b.spec)
  | none => false

/-- Adds a record to a context's outbox. -/
def Sys.emit (s : Sys) (c : Nat) (r : CompRec) : Sys := s.setCtx c { s.ctx c with outbox := (s.ctx c).outbox ++ [r] }

/-- A command of the open step region finishes: its completion is deferred, and it keeps its place and its pins (R169, R175, R182). A
completion that finds no buffer space is not made: its engine stalls, and the command counts as finished for none behind it until the
region resolves (R186). -/
def Sys.defer (s : Sys) (c : Nat) (k : Cmd) (status : Nat) (result : Bytes) : Sys :=
  let s := s.setProgress c k.ring k (.finished status result)
  let P := s.part (s.ctx c).part
  match P.sigma with
  | some z =>
    let fits := P.hanks.head?.all (fun h => s.slackFits h 256)
    s.setPart (s.ctx c).part { P with sigma := some { z with deferred := z.deferred ++ [⟨c, k.ring, k.lay, fits⟩] } }
  | none => s

/-- Retires a command: it leaves its ring, and its batch drops its pins when it was the last (R169, R306). -/
def Sys.retire (s : Sys) (c r l : Nat) : Sys :=
  let g := s.ring c r
  (s.setRing c r { g with cmds := g.cmds.filter (fun y => y.lay != l) }).dropBatches c

/-- Retires a command whose record has been made. -/
def Sys.leave (s : Sys) (c : Nat) (k : Cmd) : Sys :=
  let s := s.retire c k.ring k.lay
  { s.setCtx c { s.ctx c with lastUse := s.useNext } with useNext := s.useNext + 1 }

/-- Completes a command with a status and a result; one of the open step region only finishes (R182). -/
def Sys.finish (s : Sys) (c : Nat) (k : Cmd) (status : Nat) (result : Bytes) : Sys :=
  if s.inSigma c k then s.defer c k status result else (s.emit c (doneRec k status result)).leave c k

/-- A command whose work an event ends: a context runs commands only while it is resident, so that it completes then (R298). -/
def Sys.conclude (s : Sys) (c : Nat) (k : Cmd) (status : Nat) (result : Bytes) : Sys :=
  if (s.ctx c).resident then s.finish c k status result else s.setProgress c k.ring k (.ready status result)

/-- Completes the commands of a context that were over before it became resident (R298). -/
def Sys.finishReady (s : Sys) (c : Nat) : Sys :=
  (s.ctx c).cmds.foldl (fun s k => match k.progress with
    | .ready st r => s.finish c k st r
    | _ => s) s

/-! Reserved fields (R7, R315, R316) -/

/-- The argument bytes that a command's table names: offset and size. -/
def usedFields (op mode : Nat) : List (Nat × Nat) :=
  match op with
  | 0x01 => [(8, 10), (0x12, 2), (0x14, 4), (0x18, 8)]
  | 0x02 => [(8, 2)]
  | 0x03 => [(8, 2), (0x10, 8)]
  | 0x10 => [(8, 1), (0x0A, 2), (0x0C, 4)]
  | 0x11 => [(8, 8)]
  | 0x12 => [(8, 8), (0x10, 1), (0x11, 1), (0x12, 2), (0x18, 8)]
  | 0x13 => [(8, 8)]
  | 0x20 => [(8, 8), (0x10, 8), (0x18, 8), (0x20, 8), (0x28, 4), (0x2C, 1)]
  | 0x21 => [(8, 8), (0x10, 8), (0x18, 8), (0x20, 8)]
  | 0x22 => [(8, 8), (0x10, 8), (0x18, 8), (0x20, 8), (0x28, 8), (0x30, 4), (0x34, 4)]
  | 0x28 => [(8, 8), (0x10, 8), (0x18, 8), (0x20, 4), (0x24, 1)]
  | 0x29 => [(8, 8), (0x10, 8)]
  | 0x2A => [(8, 8)]
  | 0x30 => [(8, 8), (0x10, 4), (0x14, 10), (0x1E, 1), (0x20, 64)]
  | 0x31 => [(8, 2), (0x0A, 1), (0x10, 8)]
  | 0x38 => [(8, 8), (0x10, 4)]
  | 0x39 => [(8, 8)]
  | 0x3A => [(8, 8), (0x10, 1), (0x14, 4), (0x18, 8), (0x20, 8), (0x28, 8), (0x30, 4)]
  | 0x40 => [(8, 8)]
  | 0x41 => [(8, 8), (0x10, 8)]
  | 0x42 => [(8, 8), (0x10, 8)]
  | 0x43 => [(8, 8), (0x10, 4), (0x14, 2), (0x18, 4), (0x1C, 4)]
  | 0x44 => [(8, 8), (0x10, 4), (0x14, 4)]
  | 0x48 => [(8, 8)]
  | 0x49 => [(8, 4), (0x0C, 1), (0x0D, 1), (0x0E, 1), (0x0F, 1), (0x10, 1), (0x12, 2), (0x14, 4), (0x18, 4), (0x1C, 4),
             (0x20, 16), (0x30, 6), (0x36, 2), (0x38, 8)]
  | 0x4A => [(8, 4)]
  | 0x50 => [(8, 8), (0x10, 4), (0x14, 4), (0x18, 8), (0x20, 8), (0x28, 8), (0x30, 1)]
  | 0x51 => [(8, 8), (0x10, 4), (0x14, 4), (0x18, 8), (0x20, 8), (0x28, 8), (0x30, 1), (0x34, 4), (0x38, 8)]
  | 0x52 => [(8, 8), (0x10, 4), (0x14, 4), (0x18, 8), (0x20, 8), (0x28, 8), (0x30, 1), (0x34, 4), (0x38, 8)]
  | 0x60 => [(8, 2), (0x0A, 1), (0x10, 8)]
  | 0x61 => if mode = 2 ∨ mode = 3 then [(8, 2), (0x0A, 1), (0x0B, 1), (0x0C, 4), (0x10, 8), (0x18, 64), (0x58, 8)]
            else [(8, 2), (0x0A, 1), (0x0B, 1), (0x0C, 4), (0x10, 8), (0x18, 64), (0x58, 8)]
  | 0x70 => [(8, 32), (0x28, 8), (0x30, 4)]
  | 0x71 => [(8, 8), (0x10, 4), (0x18, 8), (0x20, 4), (0x28, 8)]
  | 0x72 => [(8, 8), (0x10, 8), (0x18, 8), (0x20, 4)]
  | 0x73 => [(8, 8), (0x10, 8), (0x18, 8), (0x20, 4)]
  | 0x74 => [(8, 1), (0x10, 8), (0x18, 8)]
  | _ => []

/-- The opcodes of R317. -/
def opcodeDefined (op : Nat) : Bool :=
  [0x01, 0x02, 0x03, 0x10, 0x11, 0x12, 0x13, 0x20, 0x21, 0x22, 0x28, 0x29, 0x2A, 0x30, 0x31, 0x38, 0x39, 0x3A,
   0x40, 0x41, 0x42, 0x43, 0x44, 0x48, 0x49, 0x4A, 0x50, 0x51, 0x52, 0x60, 0x61, 0x70, 0x71, 0x72, 0x73, 0x74].contains op

/-- Reserved bits within a named flag byte: OBJ_SHARE and XFER_IN FLAGS [7:1], WSET_ARGS [7]. -/
def flagReserved (k : Cmd) : Bool :=
  match k.opcode with
  | 0x12 => decide (2 ≤ k.field 0x11 1)
  | 0x20 => decide (2 ≤ k.field 0x2C 1)
  | 0x30 => decide (128 ≤ k.field 0x1E 1)
  | _ => false

/-- Whether a reserved field of the entry is non-zero (R316). -/
def Cmd.reservedSet (k : Cmd) : Bool :=
  decide (4 ≤ k.cflags) || !zeroField k.payload 2 2 || flagReserved k ||
  (List.range 88).any (fun i =>
    let o := i + 8
    !(usedFields k.opcode 0).any (fun f => decide (f.1 ≤ o) && decide (o < f.1 + f.2)) && !zeroField k.payload o 1)

/-! When a command may begin (R175, R178, R296, R317) -/

inductive Begins where
  | inOrder | afterAll | atOnce
  deriving DecidableEq, Repr

/-- The Begins column of R317. -/
def beginsOf (op : Nat) : Begins :=
  match op with
  | 0x03 => .atOnce | 0x13 => .atOnce | 0x31 => .atOnce | 0x60 => .atOnce
  | 0x02 => .afterAll | 0x29 => .afterAll | 0x2A => .afterAll | 0x3A => .afterAll | 0x41 => .afterAll | 0x48 => .afterAll
  | 0x50 => .afterAll | 0x51 => .afterAll | 0x52 => .afterAll | 0x74 => .afterAll
  | _ => .inOrder

/-- Commands of the speculative batch that run while the region is open (R178). -/
def runsInSigma (op : Nat) : Bool := [0x30, 0x48, 0x20, 0x42, 0x03, 0x13, 0x60, 0x31].contains op

/-- Commands that JOINING accepts (R343). -/
def joiningAllows (op : Nat) : Bool := [0x70, 0x71, 0x72, 0x01, 0x02, 0x03, 0x60, 0x31].contains op

/-- The handles that a command names, and whether it writes the object (R296, R306). -/
def Cmd.handles (k : Cmd) : List (Nat × Bool) :=
  match k.opcode with
  | 0x11 => [(k.field 8 8, true)]
  | 0x12 => (match k.field 0x10 1 with
    | 0 => (k.field 8 8, true) :: (if k.field 0x11 1 = 1 then [(k.field 0x18 8, true)] else [])
    | 2 => [(k.field 8 8, false)]
    | _ => [])
  | 0x13 => [(k.field 8 8, false)]
  | 0x20 => if k.field 0x2C 1 = 0 then [(k.field 8 8, true)] else []
  | 0x21 => [(k.field 8 8, false)]
  | 0x22 => (k.field 8 8, false) :: (if k.field 0x30 4 = 0xFFFFFFFF then [(k.field 0x18 8, true)] else [])
  | 0x29 => [(k.field 8 8, true)]
  | 0x2A => [(k.field 8 8, true)]
  | 0x30 => (k.field 8 8, false) ::
      (List.range 7).filterMap (fun i => if (k.field 0x1E 1).testBit i then some (k.field (0x20 + 8 * i) 8, false) else none)
  | 0x3A => if k.field 0x20 8 = 0 then [] else [(k.field 0x20 8, true)]
  | 0x41 => [(k.field 8 8, false)]
  | 0x42 => [(k.field 8 8, false)]
  | 0x43 => [(k.field 8 8, false)]
  | _ => []

/-- A manifest's entries: handle, offset, bytes (R334). -/
def manifestOf (bs : Bytes) (n : Nat) : List (Nat × Nat × Nat) :=
  (List.range n).map (fun i => (fieldN bs (24 * i) 8, fieldN bs (24 * i + 8) 8, fieldN bs (24 * i + 16) 8))

/-- The manifest of a CKPT_SAVE, CKPT_RESTORE or TAKEOVER as it stands in memory, where it lies within the partition. -/
def Sys.manifestRefs (s : Sys) (p : Nat) (k : Cmd) : List (Nat × Nat × Nat) :=
  if k.opcode = 0x50 ∨ k.opcode = 0x51 ∨ k.opcode = 0x52 then
    let n := min (k.field 0x10 4) 4096
    if (s.part p).owns (k.field 8 8) (24 * n) then manifestOf (s.readPart p (k.field 8 8) (24 * n)).data n else []
  else []

/-- Memory ranges that a command names or writes, as partition addresses with length and a write mark: handles, manifests
and the destinations of update descriptors (R296, R340). -/
def Sys.cmdRanges (s : Sys) (p : Nat) (k : Cmd) : List (Nat × Nat × Bool) :=
  let ofHandle (h : Nat × Bool) : List (Nat × Nat × Bool) :=
    if handleKind h.1 = 0 then
      match (s.part p).objs.get? (handleIndex h.1) with
      | some o => if o.gen = handleGen h.1 ∧ o.source.isNone then [(o.addr, o.bytes, h.2)] else []
      | none => []
    else []
  k.handles.flatMap ofHandle ++ (s.manifestRefs p k).flatMap (fun e => ofHandle (e.1, k.opcode != 0x50))

/-- Whether two commands of a ring name a common object and one of them writes it (R296). `extra` adds the ranges that an
UPDATE writes. -/
def conflicting (a b : List (Nat × Nat × Bool)) : Bool :=
  a.any (fun x => b.any (fun y => (x.2.2 || y.2.2) && rangesMeet x.1 x.2.1 y.1 y.2.1))

/-- A STEP_COMMIT of the ring that has begun holds later commands, but for the speculative batch once its region is open (R175). -/
def Sys.heldByCommit (s : Sys) (c : Nat) (g : Ring) (k : Cmd) : Bool :=
  g.cmds.any (fun e => decide (e.lay < k.lay) && e.opcode == 0x3A && e.begunB) && !s.inSigma c k

/-- A command of a speculative batch waits while the STEP_COMMIT that names its batch has not begun, unless it stands before
it in its ring (R177). -/
def Sys.heldForSigma (s : Sys) (c : Nat) (k : Cmd) : Bool :=
  k.batchNumber != 0 && beginsOf k.opcode != .atOnce &&
  (s.ctx c).cmds.any (fun e => e.opcode == 0x3A && !e.begunB && e.field 0x10 1 == 2 && e.field 0x30 4 == k.batchNumber &&
    !(e.ring == k.ring && decide (k.lay ≤ e.lay)))

/-- A command that follows a command of Σ in its ring waits for the region, unless it is itself of Σ (R178). -/
def Sys.heldBehindSigma (s : Sys) (c : Nat) (g : Ring) (k : Cmd) : Bool :=
  g.cmds.any (fun e => decide (e.lay < k.lay) && s.inSigma c e) && !s.inSigma c k && beginsOf k.opcode != .atOnce

/-- Whether a command has finished and only its completion is outstanding, deferred by the step region or until its context is resident
(R182, R298). -/
def Cmd.isFinished (k : Cmd) : Bool := match k.progress with | .finished _ _ => true | .ready _ _ => true | _ => false

/-- Whether the deferred completion of a finished command of a partition's step region stalls for want of buffer space (R186). -/
def Partition.stalls (P : Partition) (c : Nat) (e : Cmd) : Bool :=
  P.sigma.any (fun z => z.deferred.any (fun d => d.ctx == c && d.ring == e.ring && d.lay == e.lay && !d.charged))

/-- The order of R296 and R317 within a ring. Work of the step region goes on behind commands of it that have finished; any other
command waits for their completions (R175, R178). -/
def Sys.ringAllows (s : Sys) (c p : Nat) (g : Ring) (k : Cmd) (ranges : Cmd → List (Nat × Nat × Bool)) : Bool :=
  let before := g.cmds.filter (fun e => decide (e.lay < k.lay) && !(e.isFinished && s.inSigma c k && !(s.part p).stalls c e))
  match beginsOf k.opcode with
  | .atOnce => true
  | .afterAll => before.isEmpty || (s.inSigma c k && before.all (fun e => e.opcode == 0x3A && e.begunB))
  | .inOrder =>
    if k.ordered then before.isEmpty || (s.inSigma c k && before.all (fun e => e.opcode == 0x3A && e.begunB))
    else before.all (fun e => e.begunB) &&
      !before.any (fun e => conflicting (s.cmdRanges p e ++ ranges e) (s.cmdRanges p k ++ ranges k))

/-- Whether an accepted command may begin now. A command that begins at acceptance (R296, R317) does so behind a STEP_COMMIT that has begun and
behind Σ too (DESIGN CHOICE, log 183). -/
def Sys.mayBegin (s : Sys) (c : Nat) (k : Cmd) (ranges : Cmd → List (Nat × Nat × Bool)) : Bool :=
  let x := s.ctx c
  let g := s.ring c k.ring
  x.resident && s.ringAllows c x.part g k ranges && (beginsOf k.opcode == .atOnce || !s.heldByCommit c g k) && !s.heldBehindSigma c g k && !s.heldForSigma c k &&
  !(s.inSigma c k && !runsInSigma k.opcode)

/-- Puts a held command in its place by age. -/
def insHeld (h : Held) (ws : List Held) : List Held :=
  match ws with
  | [] => [h]
  | w :: t => if h.ord < w.ord then h :: w :: t else w :: insHeld h t

/-- Keeps a command waiting. -/
def Sys.keep (s : Sys) (h : Held) : Sys := { s with waiting := insHeld h s.waiting, useNext := s.useNext + 1, replay := none }

/-- Holds a command whose requests stand at the controllers of some regions: it is tried again later. -/
def Sys.holdAt (s : Sys) (i : Instr) (asks : List (Nat × Nat)) : Sys :=
  s.keep { cmd := i, bight := none, eng := .halyard, cap := none, foot := Foot.none, waitH := none, ord := s.ordNow, asks := asks }
/-- Holds a command. -/
def Sys.hold (s : Sys) (i : Instr) : Sys := s.holdAt i []

/-- What a command's meaning answers once it has begun: a completion, or an unfinished state. -/
inductive Did where
  /-- completes with a status and a result -/
  | done (s : Sys) (status : Nat) (result : Bytes)
  /-- goes on; the command is tried again -/
  | more (s : Sys)
  /-- its requests stand in the queues of some regions' controllers; the command is tried again -/
  | asks (s : Sys) (at_ : List (Nat × Nat))
  /-- goes on until another command completes it -/
  | running (s : Sys)

/-- The first checks of R316 and the state of the partition (R343): a status when one fails. -/
def Sys.firstCheck (s : Sys) (p : Nat) (k : Cmd) : Option Nat :=
  if !opcodeDefined k.opcode then some stBAD_OPCODE
  else if k.reservedSet then some stRESERVED_SET
  else if (s.part p).state = .joining ∧ !joiningAllows k.opcode then some stNOT_READY
  else none

/-- Whether the batch of a command was cut (R188). -/
def Context.batchCut (x : Context) (k : Cmd) : Bool := (x.batch k.batch).any (fun b => b.cut)

/-- The meaning of a host command, which runs while its context is resident (R298): it waits its turn, is checked when it begins, and completes or goes on. `body` is what
it does, given the partition, the context and the command. -/
def Sys.tryCmd (s : Sys) (i : Instr) (key : CmdKey) (accepts : Cmd → Bool) (ranges : Cmd → List (Nat × Nat × Bool))
    (body : Nat → Nat → Cmd → Sys → Did) : Sys :=
  match s.cmdOf key with
  | none => s
  | some k =>
    let c := key.ctx.val
    let p := (s.ctx c).part
    if !(accepts k || !opcodeDefined k.opcode) || k.isFinished then s
    else if k.progress = .waiting then
      if (s.ctx c).batchCut k then (if (s.ctx c).resident then s.finish c k stCUT [] else s.hold i)
      else if !s.mayBegin c k ranges then s.hold i
      else match s.firstCheck p k with
        | some st => s.finish c k st []
        | none =>
          let s := s.setProgress c k.ring k .begun
          match body p c { k with progress := .begun } s with
          | .done s st r => s.finish c k st r
          | .more s => s.hold i
          | .asks s at_ => s.holdAt i at_
          | .running s => s
    else if !(s.ctx c).resident then s.hold i
    else
      match body p c k s with
      | .done s st r => s.finish c k st r
      | .more s => s.hold i
      | .asks s at_ => s.holdAt i at_
      | .running s => s

/-- Whether a command stands between two records of a transfer, two pages of a rotation or two update blocks, and a later row may go on with
it (DESIGN CHOICE, logs 146, 176). -/
def Cmd.resumes (k : Cmd) : Bool :=
  match k.progress with
  | .moving _ _ _ => true
  | .chunk _ _ _ => true
  | .restoring _ _ _ _ _ => true
  | .outgoing _ _ _ => true
  | .saving _ _ _ => true
  | .rotating _ _ _ _ _ => true
  | .update u => u.part.isSome
  | _ => false

/-- Runs a host command. A command that has begun, or waits to begin, is not begun a second time. -/
def Sys.runCmd (s : Sys) (i : Instr) (key : CmdKey) (accepts : Cmd → Bool) (ranges : Cmd → List (Nat × Nat × Bool))
    (body : Nat → Nat → Cmd → Sys → Did) : Sys :=
  if s.replay.isNone && ((s.cmdOf key).any (fun k => k.begunB && !k.resumes) || s.waiting.any (fun h => h.cmd == i)) then s else
  let r := s.tryCmd i key accepts ranges body
  { r with replay := none }

/-- A command names weight sets: its batch pins their current versions (R169). A set that is being retired takes no new pin (R174). -/
def Sys.pinNamed (s : Sys) (c : Nat) (k : Cmd) : Sys :=
  k.handles.foldl (fun s h => match s.setHolder (s.ctx c).part h.1 with
    | some (q, i, w) => if w.retiring then s else ((s.pin c k.batch q i w).map (fun x => x.2)).getD s
    | none => s) s

/-- No ranges beyond those that handles name. -/
def noRanges (_ : Cmd) : List (Nat × Nat × Bool) := []

/-- Accepts a command of one opcode. -/
def isOp (op : Nat) (k : Cmd) : Bool := k.opcode == op

end Sys2Proof.Machine
end

