-- ==== Sys2Proof/Machine/DictVal.lean ====
section
/-!
DEFINITION. Values of dictionary entries and their defaults (R405).
-/

namespace Sys2Proof.Machine

/-- The key of an entry. -/
def dictKey (index sub : Nat) : Nat := index * 256 + sub

/-- A range of 0x20 indices per partition (R405). -/
def dictPart (p off : Nat) : Nat := 0x4000 + 0x20 * p + off

/-- MGMT_IPV6 after a first boot: the link-local prefix and octets 7 to 0 of SERIAL, in network order. -/
def mgmtIpDefault : Nat :=
  leNat ([0xFE, 0x80, 0, 0, 0, 0, 0, 0] ++ (leBytes 8 (Config.serial.toNat % 2 ^ 64)).reverse)

/-- The default of an entry that the module stores (R405). -/
def dictDefault (key : Nat) : Nat :=
  let index := key / 256
  let sub := key % 256
  if index = 0x1100 then (if sub = 2 then mgmtIpDefault else if sub = 3 then 47327 else 0)
  else if 0x1110 ≤ index ∧ index < 0x111C then
    (if sub = 8 then 64 else if sub = 9 then 47326 else if sub = 0xA then 4096 else 0)
  else if index = 0x1190 then (if sub = 3 then 0xFFFF else 0)
  else if 0x1200 ≤ index ∧ index < 0x1300 then (if sub = 2 then 1 else 0)
  else if index = 0x2000 then 7000
  else if index = 0x2010 then
    (match sub with | 1 => 47 | 2 => 85 | 3 => 95 | 5 => 90 | 6 => 100 | _ => 0)
  else if index = 0x2020 then 30
  else if 0x4000 ≤ index ∧ index < 0x4A00 then
    (match index % 0x20 with
     | 4 => if sub = 2 then 64 else if sub = 3 then 0xFFFF else 0
     | 7 => 24
     | _ => 0)
  else 0

/-- The value in force of a stored entry. -/
def Sys.dv (s : Sys) (index sub : Nat) : Nat :=
  (s.dict.vals.get? (dictKey index sub)).getD (dictDefault (dictKey index sub))
/-- Stores a value. -/
def Sys.setDv (s : Sys) (key v : Nat) : Sys :=
  { s with dict := { s.dict with vals := if v = dictDefault key then s.dict.vals.del key else s.dict.vals.put key v } }

/-! Port settings -/

def Sys.portEnable (s : Sys) (q : Nat) : Bool := s.dv (0x1110 + q) 1 != 0
def Sys.portSwitched (s : Sys) (q : Nat) : Bool := s.dv (0x1110 + q) 3 == 1
/-- MAX_PAYLOAD; direct mode uses 4,096 (R259, R405). -/
def Sys.portPayload (s : Sys) (q : Nat) : Nat := if s.portSwitched q then s.dv (0x1110 + q) 0xA else 4096
/-- The module's node address. -/
def Sys.node (s : Sys) : Nat := s.dv 0x1100 1

end Sys2Proof.Machine
end

