-- ==== Sys2Proof/Machine/HostOut.lean ====
section
/-!
DEFINITION. Writes to host memory, MSI-X messages, and the operator event ring (R284, R289, R291, R303, R304, R365, R405, R451).
-/

namespace Sys2Proof.Machine

/-- A write to host memory. -/
def Sys.hostWrite (s : Sys) (a : Nat) (d : Bytes) : Sys := { s with hostOut := s.hostOut ++ [⟨a, d⟩] }

/-- Whether the host link is held in reset: nothing crosses it (R451). -/
def Sys.linkHeld (s : Sys) : Bool := s.plat.perst

/-- Bytes 0x10 to 0x2F of a completion record before encryption (R291). -/
def compBody (r : CompRec) : Bytes :=
  leBytes 8 r.lay ++ leBytes 1 r.ring ++ leBytes 1 r.kind ++ leBytes 1 r.status ++ [0] ++ (r.result ++ List.replicate 20 0).take 20

/-- BAR4 of a function. -/
def Sys.msix (s : Sys) (fn : Nat) : Bar4 := s.bar4.get Bar4.empty fn
def Sys.setMsix (s : Sys) (fn : Nat) (b : Bar4) : Sys := { s with bar4 := s.bar4.set Bar4.empty fn b }

/-- A vector of a function raises its message: it is sent, or its pending bit is set while the table masks it (R284); none crosses a link
that is held in reset (R451). -/
def Sys.message (s : Sys) (fn v : Nat) : Sys :=
  let b := s.msix fn
  if s.linkHeld then s else
  if (b.table.get MsixEntry.zero v).masked then s.setMsix fn { b with pending := if b.pending.contains v then b.pending else b.pending ++ [v] }
  else { s with msixOut := s.msixOut ++ [(fn, v)] }

/-! The operator event ring (R303, R365, R405) -/

/-- A 64-byte plaintext operator event. -/
def opRecord (seq : Nat) (r : CompRec) : Bytes := leBytes 8 seq ++ [0, 0, 0, 1] ++ List.replicate 4 0 ++ compBody r ++ List.replicate 16 0

/-- Writes the next operator event while the ring is on and has room. -/
def Sys.writeOpEvent (s : Sys) : Sys :=
  match s.opEvents with
  | [] => s
  | r :: rest =>
    let n := s.dv 0x1190 2
    if s.linkHeld || decide (n = 0 ∨ s.dv 0x1190 4 + n ≤ s.opCount) then s else
    let v := s.dv 0x1190 3
    let s : Sys := { s.hostWrite (s.dv 0x1190 1 + 64 * (s.opCount % n)) (opRecord s.opCount r) with opEvents := rest, opCount := s.opCount + 1 }
    if v = 0xFFFF then s else s.message 80 v
def Sys.flushOpEvents (s : Sys) : Sys := foldFn s.opEvents.length s (fun s _ => s.writeOpEvent)

/-- An event to the operator, without partition detail. -/
def Sys.opEvent (s : Sys) (code : Nat) (args : Bytes) : Sys := { s with opEvents := s.opEvents ++ [eventRec code args] }.flushOpEvents

/-- Partitions whose base context exists. -/
def Sys.hosted (s : Sys) : List Nat := (List.range 80).filter (fun p => let P := s.part p; P.state == .joining || P.state == .active)

/-- An event to every base context and to the operator (R279). -/
def Sys.eventAll (s : Sys) (code : Nat) (args : Bytes) : Sys := (s.hosted.foldl (fun s p => s.event p code args) s).opEvent code args

end Sys2Proof.Machine
end

