-- ==== Sys2Proof/Machine/Fabric.lean ====
section
/-!
DEFINITION. The sending side of the Hawser fabric: keys, frames on the wire, messages, acknowledgement, the chain
combiner, and the end of flows and collectives (R255 to R282, R349, R462, R463).
-/

namespace Sys2Proof.Machine

/-! Accessors -/

def Sys.flow (s : Sys) (f : Nat) : Flow := s.fab.flows.get Flow.empty f
def Sys.setFlow (s : Sys) (f : Nat) (x : Flow) : Sys := { s with fab := { s.fab with flows := s.fab.flows.set Flow.empty f x } }
def Sys.port (s : Sys) (q : Nat) : Port := (s.fab.ports[q]?).getD Port.off
def Sys.setPort (s : Sys) (q : Nat) (x : Port) : Sys := { s with fab := { s.fab with ports := s.fab.ports.setIfInBounds q x } }

/-- The number of flow contexts (R263), and the flow field that names none (R274). -/
def flowCount : Nat := 1572864
def noFlow : Nat := 0xFFFFFFFF
def flowDie (f : Nat) : Nat := f / 262144
/-- The context of a flow whose context has closed: none has this number (R302). -/
def noCtx : Nat := 16384

/-- A context that its partition holds in a state other than FREE. -/
def Sys.holdsFlow (s : Sys) (p f : Nat) : Bool := (s.flow f).state != .free && (s.flow f).part == p

/-- The flows of a port. -/
def Sys.flowsOn (s : Sys) (q : Nat) : List Nat := s.fab.flows.filterMap (fun e => if e.2.port = q then some e.1 else none)

/-- A record of a Hawser die. -/
def Sys.logHawser (s : Sys) (w part event arg0 arg1 : Nat) (slack : Bool) : Sys :=
  s.logRec { domain := domLink w, unit := fnHawser w, part := part, location := locNone, event := event, arg0 := arg0, arg1 := arg1, slack := slack }

/-! Keys (R266, R349) -/

/-- Bytes of a 256-bit value, and of other words. -/
def wordBytes (n : Nat) (x : Nat) : Bytes := leBytes n x
def keyBytes (k : BitVec 256) : Bytes := leBytes 32 k.toNat

/-- K_PAIR of a partition and a peer; an absent K_MODEL is read as zero. -/
def Sys.kPair (s : Sys) (p peerNode peerPart : Nat) : BitVec 256 :=
  let km := ((s.part p).kModel).getD 0#256
  let own := (s.node, p)
  let peer := (peerNode, peerPart)
  let lo := if own.1 * 2 ^ 16 + own.2 ≤ peer.1 * 2 ^ 16 + peer.2 then own else peer
  let hi := if own.1 * 2 ^ 16 + own.2 ≤ peer.1 * 2 ^ 16 + peer.2 then peer else own
  Config.kmac (keyBytes km) (leBytes 4 lo.1 ++ leBytes 2 lo.2 ++ leBytes 4 hi.1 ++ leBytes 2 hi.2) "CZ3220 PAIR"

def Sys.kOpen (s : Sys) (p peerNode peerPart : Nat) : BitVec 256 := Config.kmac (keyBytes (s.kPair p peerNode peerPart)) [] "CZ3220 OPEN"

/-- K_FWD or K_REV of flow `f` once both values are known. -/
def Sys.flowKey (s : Sys) (f : Nat) (rev : Bool) : BitVec 256 :=
  let x := s.flow f
  let peer := x.nPeer.getD []
  let send := x.role == 0
  let sn := if send then s.node else x.peerNode
  let rn := if send then x.peerNode else s.node
  let sf := if send then f else x.peerFlow
  let rf := if send then x.peerFlow else f
  let sN := if send then x.nLocal else peer
  let rN := if send then peer else x.nLocal
  Config.kmac (keyBytes (s.kPair x.part x.peerNode x.peerPart))
    (leBytes 4 sn ++ leBytes 4 rn ++ leBytes 4 sf ++ leBytes 4 rf ++ sN ++ rN ++ [if rev then 1 else 0]) "CZ3220 FLOW"

/-! Frames on the wire (R258 to R262) -/

/-- XOR of a byte string with the keystream. -/
def gcmCrypt (k : BitVec 256) (nonce data : Bytes) : Bytes := data.mapIdx (fun i b => b ^^^ Config.gcmStream k nonce i)
/-- A 128-bit tag as bytes. -/
def tagBytes (t : BitVec 128) : Bytes := leBytes 16 t.toNat

/-- The nonce of a sequenced frame or, with byte 8 set, of an ACK (R262). -/
def frameNonce (n : Nat) (ack : Bool) : Bytes := leBytes 8 n ++ [if ack then 1 else 0] ++ [0, 0, 0]

/-- Flags of a header byte (R260). -/
def flagsByte (fs : List Bool) : Byte := BitVec.ofNat 8 (fs.foldr (fun b a => 2 * a + (if b then 1 else 0)) 0)

/-- The header of a sequenced frame. -/
def Frame.header (fr : Frame) (dst : Nat) (retx : Bool) : Bytes :=
  [BitVec.ofNat 8 (0x10 + fr.kind), flagsByte [fr.first, fr.last, retx, fr.coll]] ++ leBytes 2 fr.payload.length ++ leBytes 4 dst
    ++ leBytes 8 fr.seq ++ leBytes 4 fr.collId ++ leBytes 4 fr.msg ++ leBytes 4 fr.offset ++ leBytes 4 fr.poison

/-- The one's-complement sum of 16-bit words in network order (UDP over IPv6). -/
def onesSum (bs : Bytes) : Nat :=
  match bs with
  | a :: b :: t => let v := 256 * a.toNat + b.toNat + onesSum t; if v ≥ 65536 then v - 65535 else v
  | [a] => 256 * a.toNat
  | [] => 0

/-- One bit of the CRC-32 of Ethernet. -/
def crcBit (c : Word32) : Word32 := if c.getLsbD 0 then (c >>> 1) ^^^ 0xEDB88320#32 else c >>> 1
def crcByte (c : Word32) (b : Byte) : Word32 := foldFn 8 (c ^^^ b.setWidth 32) (fun c _ => crcBit c)
def crc32 (bs : Bytes) : Word32 := ~~~ (bs.foldl crcByte 0xFFFFFFFF#32)

/-- Network-order bytes. -/
def beBytes (n x : Nat) : Bytes := (leBytes n x).reverse

/-- The UDP checksum of a datagram; a zero sum is sent as all ones. -/
def udpSum (src dst udp : Bytes) : Nat :=
  let v := 65535 - onesSum (src ++ dst ++ beBytes 4 udp.length ++ [0, 0, 0, 17] ++ udp)
  if v = 0 then 65535 else v

/-- What a port puts on the line for a transport frame of flow `f`: the frame itself in direct mode (the preamble of R258
is the PCS's), an Ethernet frame in switched mode (R259). -/
def Sys.encap (s : Sys) (q f : Nat) (nextHop peerIp t : Bytes) : Bytes :=
  if !s.portSwitched q then t else
  let ix := 0x1110 + q
  let srcIp := leBytes 16 (s.dv ix 5)
  let udpPort := s.dv ix 9
  let head := beBytes 2 (0xC000 + f % 2 ^ 14) ++ beBytes 2 udpPort ++ beBytes 2 (t.length + 8)
  let sum := udpSum srcIp (sliceB peerIp 0 16) (head ++ [0, 0] ++ t)
  let vlan := s.dv ix 6
  let tc := s.dv ix 7 * 4 + 2
  let body := sliceB nextHop 0 6 ++ leBytes 6 (s.dv ix 4) ++ (if vlan = 0 then [] else [0x81, 0] ++ beBytes 2 vlan) ++ [0x86, 0xDD]
    ++ beBytes 4 (6 * 2 ^ 28 + tc * 2 ^ 20 + f % 2 ^ 20) ++ beBytes 2 (t.length + 8) ++ [17, BitVec.ofNat 8 (s.dv ix 8)]
    ++ srcIp ++ sliceB peerIp 0 16 ++ head ++ beBytes 2 sum ++ t
  body ++ leBytes 4 (crc32 body).toNat

/-- Puts a transport frame on the wire of a flow's port. -/
def Sys.emitFrame (s : Sys) (f : Nat) (t : Bytes) : Sys :=
  let x := s.flow f
  { s with fab := { s.fab with wire := s.fab.wire ++ [⟨x.port, s.encap x.port f x.nextHop x.peerIp t⟩] } }

/-- Adds to the bytes that a partition's context has sent or received over the fabric (R313). -/
def Sys.useFabric (s : Sys) (c tx rx : Nat) : Sys :=
  let x := s.ctx c
  if x.opened then s.setCtx c { x with usage := { x.usage with fabricTx := x.usage.fabricTx + tx, fabricRx := x.usage.fabricRx + rx } } else s

/-- Sends a sequenced frame: header, ciphertext, tag (R262). RETX is no part of the additional data. -/
def Sys.sendFrame (s : Sys) (f : Nat) (fr : Frame) (retx : Bool) : Sys :=
  let x := s.flow f
  let k := x.kFwd.getD 0#256
  let n := frameNonce fr.seq false
  let aad := fr.header x.peerFlow false
  let ct := gcmCrypt k n fr.payload
  s.emitFrame f (fr.header x.peerFlow retx ++ ct ++ tagBytes (Config.gcmTag k n aad ct))

/-! Sending messages (R268, R270) -/

/-- Whether the next unsent frame may be sent: window and credit. Credit gates the first frame of a message; for a
collective it counts payload bytes. SLOW and ABORT frames carry no message and need no credit. -/
def Flow.maySend (x : Flow) (fr : Frame) : Bool :=
  decide (x.seq < x.acked + 256) &&
  (if fr.kind ≠ 0 then true
   else if fr.coll then decide (x.sentBytes + fr.payload.length ≤ x.credit)
   else !fr.first || decide (fr.msg < x.credit))

/-- Sends what window and credit allow, oldest first. -/
def Sys.txLoop (s : Sys) (fuel f : Nat) : Sys :=
  match fuel with
  | 0 => s
  | fuel + 1 =>
    let x := s.flow f
    match x.queue with
    | [] => s
    | fr :: rest =>
      if (x.state = .open ∨ x.state = .closing) ∧ x.maySend fr then
        let fr := { fr with seq := x.seq }
        let s := s.setFlow f { x with queue := rest, unacked := x.unacked ++ [fr], seq := x.seq + 1,
                                      sentBytes := if fr.kind = 0 ∧ fr.coll then x.sentBytes + fr.payload.length else x.sentBytes }
        Sys.txLoop ((s.sendFrame f fr false).useFabric (fr.by_.getD x.ctx) fr.payload.length 0) fuel f
      else s
def Sys.tx (s : Sys) (f : Nat) : Sys := s.txLoop (s.flow f).queue.length f

/-- Adds frames to a flow's queue and sends what may go. -/
def Sys.enqueue (s : Sys) (f : Nat) (frs : List Frame) : Sys :=
  let x := s.flow f
  (s.setFlow f { x with queue := x.queue ++ frs }).tx f

/-- POISON_MAP of `n` bytes of a blob from offset `o`: bit i for bytes 128i to 128i + 127. -/
def poisonMap (b : Blob) (o n : Nat) : Nat :=
  (List.range ((n + 127) / 128)).foldl (fun m i =>
    if b.bad.any (fun e => decide ((o + 128 * i + b.skew) / 16 ≤ e.1) && decide (e.1 < (o + min n (128 * i + 128) + b.skew + 15) / 16)) then m + 2 ^ i else m) 0

/-- The frames that carry a blob in payloads of at most `pay` bytes, for the context whose work sends it. -/
def cutFrames (by_ : Option Nat) (coll : Bool) (collId msg base total pay : Nat) (b : Blob) : List Frame :=
  (List.range ((b.data.length + pay - 1) / pay)).map (fun i =>
    let o := pay * i
    let n := min pay (b.data.length - o)
    { kind := 0, first := decide (base + o = 0), last := decide (base + o + n = total), coll := coll, seq := 0, collId := collId
      msg := msg, offset := base + o, poison := poisonMap b o n, payload := (b.data.drop o).take n, by_ := by_ })

/-- Sends a blob as the next message of a send context, for the work of context `by_` (for the flow's own where none is named); the message
number is `(s.flow f).msg` before the call. -/
def Sys.post (s : Sys) (f : Nat) (b : Blob) (by_ : Option Nat := none) : Sys :=
  let x := s.flow f
  let frs := cutFrames by_ false 0 x.msg 0 b.data.length (s.portPayload x.port) b
  (s.setFlow f { x with msg := (x.msg + 1) % 2 ^ 32 }).enqueue f frs

/-- Whether every frame of a message is acknowledged. -/
def Flow.delivered (x : Flow) (m : Nat) : Bool := !(x.queue ++ x.unacked).any (fun fr => fr.kind == 0 && !fr.coll && fr.msg == m)

/-- A send context that can no longer deliver. -/
def Flow.dead (x : Flow) : Bool := x.state == .lost || x.state == .alarmed || x.state == .free

/-! Acknowledgement (R269, R270) -/

/-- CREDIT_LIMIT of a receive context. -/
def Flow.limit (x : Flow) : Nat := if x.target = 2 then x.consumed + x.slotBytes else x.credit + x.slots

/-- SACK bitmap: bit i reports SEQ EXPECT + 1 + i. -/
def Flow.sack (x : Flow) : Nat :=
  x.early.foldl (fun m fr => if x.seq + 1 ≤ fr.seq ∧ fr.seq < x.seq + 257 ∧ !m.testBit (fr.seq - x.seq - 1) then m + 2 ^ (fr.seq - x.seq - 1) else m) 0

/-- Sends an ACK frame. -/
def Sys.sendAck (s : Sys) (f : Nat) : Sys :=
  let x := s.flow f
  let k := x.kRev.getD 0#256
  let body := leBytes 32 x.sack ++ leBytes 8 x.limit ++ leBytes 8 0
  let head := [0x13, flagsByte [false, false, false, false, x.ce]] ++ leBytes 2 48 ++ leBytes 4 x.peerFlow ++ leBytes 8 x.acked
    ++ leBytes 8 x.seq ++ leBytes 8 0
  let n := frameNonce x.acked true
  let ct := gcmCrypt k n body
  let s := s.emitFrame f (head ++ ct ++ tagBytes (Config.gcmTag k n head ct))
  s.setFlow f { x with acked := x.acked + 1, sinceAck := 0, ce := false, consumedAck := x.consumed }

/-- RELEASE: frees the `n` oldest delivered messages and returns their credit at once (R269, R273). -/
def Sys.releaseMsgs (s : Sys) (f n : Nat) : Sys :=
  let x := s.flow f
  if x.state = .open then (s.setFlow f { x with credit := min x.msg (x.credit + n) }).sendAck f else s

/-! OPEN frames (R265) -/

/-- Sends an OPEN frame, with or without the echo of the peer's value. Its nonce is a free value. -/
def Sys.sendOpen (s : Sys) (f : Nat) (echo : Bool) : Sys :=
  let x := s.flow f
  let nonce := leBytes 12 (s.drawn.toNat % 2 ^ 96)
  let s := s.took 1
  let body := leBytes 4 f ++ leBytes 4 s.node ++ leBytes 2 x.part ++ leBytes 2 x.role ++ sliceB x.nLocal 0 16
    ++ (if echo then sliceB (x.nPeer.getD []) 0 16 else List.replicate 16 0)
    ++ leBytes 8 (if x.role = 1 then (if x.target = 2 then x.slotBytes else x.slots) else 0)
  let head := [0x14, 0] ++ leBytes 2 64 ++ leBytes 4 x.peerFlow ++ leBytes 8 0 ++ leBytes 16 0
  let k := s.kOpen x.part x.peerNode x.peerPart
  let ct := gcmCrypt k nonce body
  s.emitFrame f (head ++ nonce ++ ct ++ tagBytes (Config.gcmTag k nonce head ct))

/-! Collectives (R274 to R282) -/

/-- A collective plan as it stands in memory. -/
def planOf (b : Bytes) : Plan :=
  let n := fun o k => fieldN b o k
  { collId := n 0 4, kind := n 4 1, op := n 5 1, n := n 8 4, pos := n 0xC 4, root := n 0x10 4, chunk := n 0x14 4, elems := n 0x18 8
    src := n 0x20 8, dst := n 0x28 8, upTx := n 0x30 4, upRx := n 0x34 4, downTx := n 0x38 4, downRx := n 0x3C 4, fanRx := n 0x40 4
    fans := (List.range (n 0x44 1)).map (fun i => n (0x48 + 4 * i) 4) }

/-- Bytes of one contribution. -/
def Plan.bytes (p : Plan) : Nat := 4 * p.elems
def Plan.last (p : Plan) : Bool := p.pos + 1 == p.n
/-- Bytes of the destination. -/
def Plan.dstBytes (p : Plan) : Nat := if p.kind = 2 then p.n * p.bytes else if p.kind = 0 ∧ !p.last then 0 else p.bytes

/-- The send flows and receive flows that a plan needs. -/
def Plan.txFlows (p : Plan) : List Nat :=
  (match p.kind with
   | 0 => if p.last then [] else [p.upTx]
   | 1 => (if p.last then [] else [p.upTx]) ++ (if p.pos = 0 ∨ (p.fanRx ≠ noFlow ∧ !p.last) then [] else [p.downTx]) ++ p.fans
   | 2 => (if p.last then [] else [p.upTx]) ++ (if p.pos = 0 then [] else [p.downTx])
   | _ => if p.pos ≠ p.root ∧ p.fanRx ≠ noFlow then p.fans
          else (if p.last ∨ p.pos < p.root then [] else [p.upTx]) ++ (if p.pos = 0 ∨ p.root < p.pos then [] else [p.downTx]) ++ p.fans)
def Plan.rxFlows (p : Plan) : List Nat :=
  (match p.kind with
   | 0 => if p.pos = 0 then [] else [p.upRx]
   | 1 => (if p.pos = 0 then [] else [p.upRx]) ++ (if p.last then [] else if p.fanRx ≠ noFlow then [p.fanRx] else [p.downRx])
   | 2 => (if p.pos = 0 then [] else [p.upRx]) ++ (if p.last then [] else [p.downRx])
   | _ => if p.pos = p.root then [] else if p.fanRx ≠ noFlow then [p.fanRx] else if p.root < p.pos then [p.upRx] else [p.downRx])
/-- Every flow that a plan names. -/
def Plan.named (p : Plan) : List Nat := ([p.upTx, p.upRx, p.downTx, p.downRx, p.fanRx] ++ p.fans).filter (· != noFlow)
/-- The receive flows whose result bytes a member with FAN_RX ignores (R276). -/
def Plan.ignored (p : Plan) : List Nat :=
  if p.fanRx = noFlow then [] else
  (match p.kind with
   | 1 => if p.last then [] else [p.downRx]
   | 3 => if p.pos = p.root then [] else [p.upRx, p.downRx]
   | _ => []).filter (fun f => f != noFlow && f != p.fanRx)

/-- One combination (R275). -/
def collOp (op : Nat) (a b : Word32) : Word32 :=
  match op with
  | 0 => fpAdd a b
  | 1 => fpMax a b
  | 2 => fpMin a b
  | 3 => a + b
  | 4 => a &&& b
  | 5 => a ||| b
  | _ => if a.toNat < b.toNat then b else a
def opFp (op : Nat) : Bool := decide (op ≤ 2)

/-- Element `i` of a blob, and the mark of its chunk. -/
def Blob.elem (b : Blob) (i : Nat) : Word32 := BitVec.ofNat 32 (fieldN b.data (4 * i) 4)

/-- MSG of a collective frame: PHASE and ORIGIN (R260). -/
def collMsg (phase origin : Nat) : Nat := phase * 2 ^ 30 + origin

/-- Sends bytes of a collective on a flow. -/
def Sys.sendColl (s : Sys) (c : Coll) (f phase origin base : Nat) (b : Blob) : Sys :=
  let p := c.plan
  s.enqueue f (cutFrames (some c.ctx) true p.collId (collMsg phase origin) base p.bytes (min p.chunk (s.portPayload (s.flow f).port)) b)

def Sys.collOf (s : Sys) (part id : Nat) : Option Coll := s.fab.colls.find? (fun c => c.part == part && c.plan.collId == id)
def Sys.setColl (s : Sys) (c : Coll) : Sys :=
  { s with fab := { s.fab with colls := s.fab.colls.map (fun x => if x.part = c.part ∧ x.plan.collId = c.plan.collId then c else x) } }
def Sys.dropColl (s : Sys) (c : Coll) : Sys :=
  { s with fab := { s.fab with colls := s.fab.colls.filter (fun x => !(x.part == c.part && x.plan.collId == c.plan.collId)) } }

/-- The collective that a command opened. -/
def Sys.collBy (s : Sys) (c r l : Nat) : Option Coll := s.fab.colls.find? (fun x => x.ctx == c && x.ring == r && x.lay == l)
/-- The send flows of a list that are OPEN in a partition: those on which a collective tells its neighbours (R279, R281). -/
def Sys.openSends (s : Sys) (part : Nat) (fs : List Nat) : List Nat :=
  fs.eraseDups.filter (fun f => f != noFlow && (s.flow f).state == .open && (s.flow f).role == 0 && (s.flow f).part == part)

/-- Adds to the count of one key. -/
def tally (l : List (Nat × Nat)) (i n : Nat) : List (Nat × Nat) :=
  l.filter (fun e => e.1 != i) ++ [(i, ((l.find? (fun e => e.1 == i)).map (fun e => e.2)).getD 0 + n)]
/-- The result bytes still to come on the receive flows that a member ignores (DESIGN CHOICE, log 155). -/
def Coll.late (c : Coll) : List (Nat × Nat × Nat) :=
  (c.plan.ignored.map (fun f => (f, ((c.passed.find? (fun e => e.1 == f)).map (fun e => e.2)).getD 0, c.plan.bytes))).filter (fun e => decide (e.2.1 < e.2.2))

/-- Whether nothing of a collective is left to send. -/
def Sys.collSent (s : Sys) (c : Coll) : Bool :=
  c.plan.txFlows.all (fun f => !(s.flow f).queue.any (fun fr => fr.coll && fr.collId == c.plan.collId))

/-- Whether a member's last row is done (R276). -/
def Sys.collDone (s : Sys) (c : Coll) : Bool :=
  let p := c.plan
  c.started && s.collSent c &&
  (match p.kind with
   | 0 => p.pos == 0 || c.reduced == p.bytes
   | 1 => if p.last then c.reduced == p.bytes else (p.pos == 0 || c.reduced == p.bytes) && c.resulted == p.bytes
   | 2 => (c.gathered.foldl (fun a e => a + e.2) 0) == (p.n - 1) * p.bytes
   | _ => p.pos == p.root || c.resulted == p.bytes)

/-- Keeps the outcome of a collective (R462): it replaces the earlier outcome of its COLL_ID. -/
def Sys.keepOutcome (s : Sys) (p : Nat) (o : Outcome) : Sys :=
  let P := s.part p
  s.setPart p { P with outcomes := P.outcomes.filter (fun x => x.coll != o.coll) ++ [o] }

/-- Completes the COLL command of a collective. -/
def Sys.finishColl (s : Sys) (c : Coll) (status : Nat) (result : Bytes) : Sys :=
  match s.cmdAt c.ctx c.ring c.lay with
  | some k => s.conclude c.ctx k status result
  | none => s

/-- Flags of a collective's record: NAN_SEEN, INF_SEEN, POISON (R273). -/
def collFlags (nan inf bad : Bool) : Nat := (if nan then 1 else 0) + (if inf then 2 else 0) + (if bad then 8 else 0)

/-- Completes a collective whose rows are done. A member that holds no result leaves a record as one without a result. -/
def Sys.collCheck (s : Sys) (c : Coll) : Sys :=
  if s.collDone c then
    let none_ := c.plan.kind == 0 && !c.plan.last
    let s := s.dropColl c
    let st := markStatus c.seen
    let s := s.keepOutcome c.part
      { coll := c.plan.collId, status := st, value := if none_ then 0 else c.first.toNat
        flags := if none_ then 8 else collFlags c.nan c.inf c.bad, element := if none_ then 0 else c.first.toNat, late := c.late, by_ := some (c.ctx, c.ring, c.lay) }
    s.finishColl c st (leBytes 4 (if none_ then 0 else c.first.toNat))
  else s

/-- Checks every open collective (after frames have left). -/
def Sys.collChecks (s : Sys) : Sys := s.fab.colls.foldl (fun s c => match s.collOf c.part c.plan.collId with | some c => s.collCheck c | none => s) s

/-- An ABORT frame (R261). -/
def abortFrame (id cause : Nat) : Frame :=
  { kind := 2, first := true, last := true, coll := true, seq := 0, collId := id, msg := 0, offset := 0, poison := 0
    payload := leBytes 4 id ++ leBytes 4 cause ++ leBytes 8 0 }

/-- The outcome of a collective that completes without a result (R281, R462). -/
def Coll.without (c : Coll) (status : Nat) : Outcome := { coll := c.plan.collId, status := status, value := 0, flags := 8, element := 0, ended := true, by_ := some (c.ctx, c.ring, c.lay) }

/-- Sends an ABORT on each of some send flows that is still OPEN, in place of what they have yet to send of the collective (R281). -/
def Sys.sendAborts (s : Sys) (part id cause : Nat) (flows : List Nat) : Sys :=
  (s.openSends part flows).foldl (fun s f =>
    let x := s.flow f
    (s.setFlow f { x with queue := x.queue.filter (fun fr => !(fr.coll && fr.collId == id)) }).enqueue f [abortFrame id cause]) s

/-- The ABORT frames of a collective whose contribution the step region holds are held with it; of any other they are sent (R181, R182). -/
def Sys.tellEnd (s : Sys) (c : Coll) (cause : Nat) : Sys :=
  let flows := c.plan.upTx :: c.plan.downTx :: c.plan.fans
  match (if c.started then none else (s.part c.part).sigma) with
  | some z => s.setPart c.part { s.part c.part with sigma := some { z with items := z.items ++
      [{ ctx := c.ctx, ring := c.ring, lay := c.lay, hank := ((s.part c.part).hanks.head?).getD 0, size := 0
         effect := .abort c.part c.plan.collId cause flows, local_ := false }] } }
  | none => s.sendAborts c.part c.plan.collId cause flows

/-- Ends a collective without a result: ABORT on each of its send flows that is still OPEN, the outcome, the completion with the first status
of R319 that it has met (R281). -/
def Sys.endColl (s : Sys) (c : Coll) (status cause : Nat) : Sys :=
  let s := (s.dropColl c).tellEnd c cause
  let st := endStatus status (markStatus c.seen)
  (s.keepOutcome c.part (c.without st)).finishColl c st []

/-- A flow of a collective has left OPEN: it ends, or is marked while the step region holds it (R281, R282). -/
def Sys.collFlowGone (s : Sys) (c : Coll) (status cause : Nat) : Sys :=
  if c.started then s.endColl c status cause else s.setColl { c with lost := some (c.lost.getD (status, cause)) }

/-- SENDs in flight on a flow that have not been acknowledged in full are lost (R273). -/
def Sys.loseSends (s : Sys) (f : Nat) : Sys :=
  let x := s.flow f
  { s with waiting := s.waiting.map (fun h =>
      match h.cmd, h.cap with
      | .send _, some c =>
        (match c.msg with
         | some m => if c.flying ∧ fieldN c.desc 0 4 = f ∧ !x.delivered m then { h with cap := some { c with lost := true } } else h
         | none => h)
      | _, _ => h) }

/-- A flow of a fence pair leaves OPEN: imports over it are detached, and the home drops their references (R312). -/
def Sys.detachFences (s : Sys) (f : Nat) : Sys :=
  let p := (s.flow f).part
  let P := s.part p
  if P.fences.any (fun e => e.2.importers.any (fun q => q.sendFlow == f || q.recvFlow == f) ||
      e.2.source.any (fun i => i.sendFlow == f || i.recvFlow == f)) then
    s.setPart p { P with fences := P.fences.map (fun e => (e.1, { e.2 with
      importers := e.2.importers.filter (fun q => !(q.sendFlow == f || q.recvFlow == f))
      source := e.2.source.map (fun i => if i.sendFlow = f ∨ i.recvFlow = f then { i with detached := true } else i) })) }
  else s

/-- A flow leaves OPEN: an XFER_DEVICE that sends on it completes, with OK when every frame is acknowledged (R327; its status after an
alarm: DESIGN CHOICE, log 157). -/
def Sys.endTransfers (s : Sys) (f status : Nat) : Sys :=
  let x := s.flow f
  (s.ctxsOf x.part).foldl (fun s c => ((s.ctx c).cmds.filter (fun k => k.field 0x30 4 == f)).foldl (fun s k => match k.progress with
    | .sending first count => s.conclude c k (if (List.range count).all (fun i => x.delivered ((first + i) % 2 ^ 32)) then stOK else status) []
    | _ => s) s) s

/-- Whether a collective ends with a flow: with one that it needs, and with one that its plan names when that becomes FREE (R267, R281, R282). -/
def Coll.needs (c : Coll) (f : Nat) (st : FlowState) : Bool :=
  c.plan.txFlows.contains f || c.plan.rxFlows.contains f || (st == .free && c.plan.named.contains f)

/-- A flow leaves OPEN: frames in it are given up, keys zeroised when it becomes FREE, collectives that need it end (R264, R267, R281). -/
def Sys.endFlow (s : Sys) (f : Nat) (st : FlowState) (status cause : Nat) : Sys :=
  let s := ((s.loseSends f).detachFences f).endTransfers f status
  let x := s.flow f
  let s := s.setFlow f (if st = .free then Flow.empty else { x with state := st, early := [], staged := [] })
  s.fab.colls.foldl (fun s c =>
    if c.part = x.part && c.needs f st then
      (match s.collOf c.part c.plan.collId with | some c => s.collFlowGone c status cause | none => s) else s) s

/-- A flow of a lost port enters LOST; an OPENING one completes its FLOW_OPEN with PEER_LOST (R256, R265). -/
def Sys.loseFlow (s : Sys) (f : Nat) : Sys :=
  let x := s.flow f
  match x.state with
  | .free => s
  | .alarmed => s
  | .lost => s
  | _ =>
    let s := s.endFlow f .lost stPEER_LOST 2
    match x.opener with
    | some (r, l) => (match s.cmdAt x.ctx r l with
      | some k => (s.setFlow f { s.flow f with opener := none }).conclude x.ctx k stPEER_LOST []
      | none => s)
    | none => s

/-- A port is declared lost (R255, R256). `cause`: 0 lock, 1 failures. -/
def Sys.losePort (s : Sys) (q cause : Nat) : Sys :=
  let s := (s.flowsOn q).foldl (fun s f => s.loseFlow f) s
  let s := s.logHawser (q / 2) partNone 0x0401 q cause false
  let s := s.bump (errKey (0x7110 + q) 5) 1
  s.setPort q { link := if s.portEnable q then .training else .disabled, fails := 0 }

/-- Writes received result bytes to a member's destination, with the flags of its elements. -/
def Sys.collWrite (s : Sys) (c : Coll) (off : Nat) (b : Blob) (fp : Bool) : Sys × Coll :=
  let seen := c.seen.worse (s.writeMark c.part (c.plan.dst + off) b.data.length)
  let s := s.writePart c.part (c.plan.dst + off) b
  let els := (List.range (b.data.length / 4)).map b.elem
  (s, { c with nan := c.nan || (fp && els.any fpIsNaN), inf := c.inf || (fp && els.any fpIsInf), bad := c.bad || !b.bad.isEmpty
               first := if off = 0 then b.elem 0 else c.first, seen := seen })

/-- Marks that a frame's POISON_MAP gives its 16-byte chunks. -/
def mapMarks (n m : Nat) : List (Nat × Mark) := ((List.range ((n + 15) / 16)).filter (fun i => m.testBit (i / 8))).map (fun i => (i, Mark.poisoned))

/-- P_i of a range: the received value is the left operand (R275). A result element is poisoned when either operand's chunk is. -/
def combineBlob (op : Nat) (recv : Blob) (own : Blob) (off : Nat) : Blob :=
  let o := own.slice off recv.data.length
  let els := (List.range (recv.data.length / 4)).map (fun i => collOp op (recv.elem i) (o.elem i))
  .chunks (els.flatMap (fun w => leBytes 4 w.toNat)) ((List.range ((recv.data.length + 15) / 16)).filterMap (fun i =>
    let k := (recv.mark i).worse (o.mark i)
    if k.isBad then some (i, k) else none))

/-- The result of the reduce phase at position N - 1, or bytes of the result phase at another: written and passed on (R276, R278). -/
def Sys.collResult (s : Sys) (c : Coll) (off : Nat) (b : Blob) : Sys × Coll :=
  let p := c.plan
  let origin := if p.kind = 3 then p.root else p.n - 1
  let (s, c) := s.collWrite c off b (decide (p.kind ≤ 1) && opFp p.op)
  let down := p.kind == 1 && p.pos != 0 && (p.last || p.fanRx == noFlow)
  let s := if p.kind = 1 ∧ down then s.sendColl c p.downTx 1 origin off b else s
  let s := if p.kind = 1 then p.fans.foldl (fun s f => s.sendColl c f 1 origin off b) s else s
  (s, c)

/-- Bytes of a collective frame that a receive flow delivers in SEQ order (R275, R276). -/
def Sys.collTake (s : Sys) (c : Coll) (f : Nat) (fr : Frame) : Sys :=
  let p := c.plan
  let n := fr.payload.length
  let b := Blob.chunks fr.payload (mapMarks n fr.poison)
  let phase := fr.msg / 2 ^ 30
  let origin := fr.msg % 2 ^ 30
  if phase = 0 ∧ f = p.upRx ∧ p.kind ≤ 1 then
    let r := combineBlob p.op b c.own fr.offset
    let c := { c with reduced := c.reduced + n }
    if p.last then
      (if p.kind = 0 then let (s, c) := s.collWrite c fr.offset r (opFp p.op); s.setColl c
       else let (s, c) := s.collResult c fr.offset r; s.setColl c)
    else (s.sendColl c p.upTx 0 0 fr.offset r).setColl c
  else if phase = 1 ∧ p.kind = 1 ∧ (if p.fanRx ≠ noFlow then f = p.fanRx else f = p.downRx) then
    let (s, c) := s.collResult { c with resulted := c.resulted + n } fr.offset b
    s.setColl c
  else if phase = 1 ∧ p.kind = 3 ∧ (if p.fanRx ≠ noFlow then f = p.fanRx else f = p.upRx ∨ f = p.downRx) then
    let (s, c) := s.collWrite { c with resulted := c.resulted + n } fr.offset b false
    let s := if f = p.upRx ∧ !p.last ∧ p.fanRx = noFlow then s.sendColl c p.upTx 1 origin fr.offset b else s
    let s := if f = p.downRx ∧ p.pos ≠ 0 ∧ p.fanRx = noFlow then s.sendColl c p.downTx 1 origin fr.offset b else s
    (p.fans.foldl (fun s g => s.sendColl c g 1 origin fr.offset b) s).setColl c
  else if phase = 2 ∧ p.kind = 2 ∧ (f = p.upRx ∨ f = p.downRx) then
    let c := { c with gathered := tally c.gathered origin n }
    let (s, c) := s.collWrite c (origin * p.bytes + fr.offset) b false
    let s := if f = p.upRx ∧ !p.last then s.sendColl c p.upTx 2 origin fr.offset b else s
    let s := if f = p.downRx ∧ p.pos ≠ 0 then s.sendColl c p.downTx 2 origin fr.offset b else s
    s.setColl c
  else if phase = 1 ∧ p.ignored.contains f then s.setColl { c with passed := tally c.passed f n }
  else s

/-- Credit of consumed collective bytes: an ACK at once past half of the staging space (R269). -/
def Sys.collConsumed (s : Sys) (f n : Nat) : Sys :=
  let x := s.flow f
  let s := s.setFlow f { x with consumed := x.consumed + n }
  if x.slotBytes ≤ 2 * (x.consumed + n - x.consumedAck) then s.sendAck f else s

/-- A SLOW frame that a flow has delivered: a record, an event, and for an open collective once further in its direction (R279). -/
def Sys.slowTaken (s : Sys) (f : Nat) (fr : Frame) : Sys :=
  let x := s.flow f
  let b := fr.payload
  let s := s.logHawser (flowDie f) x.part 0x0403 (fieldN b 12 4) (fieldN b 0 4 + 2 ^ 32 * fieldN b 4 1) false
  let s := (s.event x.part 0x0003 (sliceB b 0 16)).opEvent 0x0003 (sliceB b 0 16)
  match s.collOf x.part (fieldN b 8 4) with
  | none => s
  | some c =>
    let fwd := fun (s : Sys) (g : Nat) => (s.openSends c.part [g]).foldl (fun s g => s.enqueue g [{ fr with seq := 0, collId := fieldN b 8 4 }]) s
    if f = c.plan.upRx then fwd s c.plan.upTx else if f = c.plan.downRx then fwd s c.plan.downTx else s

/-- Takes the staged frames of a collective that has begun; a staged ABORT ends it (R274, R279, R281, R282). -/
def Sys.unstage (s : Sys) (part id f : Nat) : Sys :=
  let x := s.flow f
  let mine := x.staged.filter (fun fr => fr.collId == id)
  let s := s.setFlow f { x with staged := x.staged.filter (fun fr => fr.collId != id) }
  mine.foldl (fun s fr => match s.collOf part id with
    | some c => if fr.kind = 2 then s.endColl c stPEER_LOST (fieldN fr.payload 4 4) else if fr.kind = 1 then s.slowTaken f fr
      else (s.collTake c f fr).collConsumed f fr.payload.length
    | none => if fr.kind = 1 then s.slowTaken f fr else s) s

/-- The flows of a partition that hold staged frames of a collective, those that it needs first. -/
def Sys.stagedOn (s : Sys) (c : Coll) : List Nat :=
  c.plan.rxFlows ++ (s.fab.flows.filterMap (fun e =>
    if e.2.part = c.part ∧ e.2.staged.any (fun fr => fr.collId == c.plan.collId) ∧ !c.plan.rxFlows.contains e.1 then some e.1 else none))

/-- Sends a member's own contribution (R276). -/
def Sys.collStart (s : Sys) (c : Coll) : Sys :=
  let p := c.plan
  let c := { c with started := true }
  let s := s.setColl c
  let s := match p.kind with
    | 2 =>
      let (s, c) := s.collWrite c (p.pos * p.bytes) c.own false
      let s := s.setColl c
      let s := if p.last then s else s.sendColl c p.upTx 2 p.pos 0 c.own
      if p.pos = 0 then s else s.sendColl c p.downTx 2 p.pos 0 c.own
    | 3 =>
      if p.pos = p.root then
        let (s, c) := s.collWrite c 0 c.own false
        let s := s.setColl c
        let s := if p.last then s else s.sendColl c p.upTx 1 p.pos 0 c.own
        let s := if p.pos = 0 then s else s.sendColl c p.downTx 1 p.pos 0 c.own
        p.fans.foldl (fun s f => s.sendColl c f 1 p.pos 0 c.own) s
      else s
    | _ => if p.pos = 0 then s.sendColl c p.upTx 0 0 0 c.own else s
  let s := (s.stagedOn c).foldl (fun s f => s.unstage c.part p.collId f) s
  match s.collOf c.part p.collId with
  | some c => s.collCheck c
  | none => s

/-- The step region that held a collective is hauled: it sends its contribution, or ends when a flow that it needs has gone (R187, R282). -/
def Sys.collRelease (s : Sys) (c : Coll) : Sys :=
  match c.lost with
  | some (st, cause) => s.endColl c st cause
  | none => s.collStart c

end Sys2Proof.Machine
end

