-- ==== Sys2Proof/Machine/Loads.lean ====
section
/-!
DEFINITION. Weight loads: their shards, their results and their ends; the manifests of checkpoints; what transfers report (R322, R326 to R329,
R334 to R336, R340).
-/

namespace Sys2Proof.Machine

def Load.lowestMissing (l : Load) : Nat := ((List.range l.shards).find? (fun i => !l.bitmap.testBit i)).getD 0xFFFFFFFF
def Load.valid (l : Load) : Nat := (List.range l.shards).countP (fun i => l.bitmap.testBit i)
def Load.lowestExhausted (l : Load) : Nat := ((List.range l.shards).find? (fun i => decide (l.retries < l.fails.get 0 i))).getD 0xFFFFFFFF
def Load.result (l : Load) (handle : Nat) : Bytes :=
  leBytes 8 handle ++ leBytes 4 l.valid ++ leBytes 4 l.lowestMissing ++ leBytes 4 l.lowestExhausted

/-- RESULT of XFER_IN: records and bytes written (R327). -/
def xferResult (records bytes : Nat) : Bytes := leBytes 4 records ++ leBytes 8 bytes

/-- The XFER_IN with SHARD that are reading for a load that ends stop: with ALARM when an alarm ends it, else with the first of CANCELLED and
what they have met (R319, R320, R340). -/
def Sys.stopReaders (s : Sys) (p id st : Nat) : Sys :=
  (s.ctxsOf p).foldl (fun s c => (s.ctx c).cmds.foldl (fun s k => match k.progress with
    | .chunk done sofar worst =>
      if k.field 8 8 = id then s.finish c k (endStatus st (markStatus worst)) (xferResult done sofar.length) else s
    | _ => s) s) s

/-- A load is open no more; `st` ends what reads for it. -/
def Sys.dropLoad (s : Sys) (p id st : Nat) : Sys :=
  let P := s.part p
  (s.setPart p { P with loads := P.loads.filter (fun l => l.id != id) }).stopReaders p id st

/-- A load ends without a set (R329). -/
def Sys.endLoad (s : Sys) (p : Nat) (l : Load) (status : Nat) : Sys :=
  let s := s.dropLoad p l.id (if status = stALARM then stALARM else stCANCELLED)
  match s.cmdAt l.ctx l.ring l.lay with
  | some k => s.finish l.ctx k status (l.result 0)
  | none => s

/-- Every shard of a load is valid: the set and its version 1 exist (R173, R329). A version number that cannot be written to the directory
completes the load with TAG_FAIL (R250). -/
def Sys.finishLoad (s : Sys) (p : Nat) (l : Load) : Sys :=
  let s := s.dropLoad p l.id stCANCELLED
  let st := markStatus (s.writeMark p l.dir 8)
  let P := s.part p
  let i := P.nextWset.getD P.wsetNext
  let g := P.wsetGens.get 0 i
  let w : WSet := { gen := g, source := none, owner := l.ctx, versions := [{ num := 1, dir := l.dir, entries := l.entries, state := .current }]
                    retiring := false, grants := [], shared := false }
  let s := s.setPart p { P with wsets := P.wsets.put i w, wsetNext := max P.wsetNext (i + 1) }
  let s := s.writePart p l.dir (Blob.ofBytes (leBytes 8 1))
  match s.cmdAt l.ctx l.ring l.lay with
  | some k => s.conclude l.ctx k st (l.result (mkHandle 2 g i))
  | none => s

def Sys.setLoad (s : Sys) (p : Nat) (l : Load) : Sys :=
  let P := s.part p
  s.setPart p { P with loads := P.loads.map (fun x => if x.id = l.id then l else x) }

/-- A shard's chunk has been found corrupt: the load asks for a re-send or ends. -/
def Sys.shardCorrupt (s : Sys) (p : Nat) (l : Load) (shard : Nat) : Sys :=
  if l.shards ≤ shard then s else
  let n := l.fails.get 0 shard + 1
  let l := { l with fails := l.fails.put shard n }
  let s := s.setLoad p l
  if n ≤ l.retries then
    match s.cmdAt l.ctx l.ring l.lay with
    | some w => s.emit l.ctx (doneRec w stDEFERRED (leBytes 4 shard ++ leBytes 1 (l.retries - n + 1)))
    | none => s
  else s.endLoad p l stSHARD_CORRUPT

/-- The bitmap byte of a shard of a load. -/
def Sys.bitPlace (s : Sys) (l : Load) (shard : Nat) : Nat := ((s.cmdAt l.ctx l.ring l.lay).map (fun w => w.field 0x18 8)).getD 0 + shard / 8
/-- The bitmap byte of a shard that a load still lacks, and what the write of it tells its command (R250). -/
def Sys.shardPlace (s : Sys) (p id shard : Nat) : Option Nat :=
  ((s.part p).loads.find? (fun l => l.id == id)).bind (fun l => if l.bitmap.testBit shard then none else some (s.bitPlace l shard))
def Sys.shardMark (s : Sys) (p id shard : Nat) : Mark := ((s.shardPlace p id shard).map (fun a => s.writeMark p a 1)).getD .clean

/-- A shard's chunk has been found valid: its bit is set, and the last one ends the load. -/
def Sys.shardDone (s : Sys) (p : Nat) (l : Load) (shard : Nat) : Sys :=
  let l := { l with bitmap := if l.bitmap.testBit shard then l.bitmap else l.bitmap + 2 ^ shard }
  let at_ := s.bitPlace l shard
  let s := (s.setLoad p l).writePart p at_ (Blob.ofBytes [BitVec.ofNat 8 (l.bitmap / 2 ^ (shard / 8 * 8))])
  if l.valid = l.shards then s.finishLoad p l else s

/-- What a checked chunk does to its load, which may have ended since. -/
def Sys.shardChecked (s : Sys) (p id shard : Nat) (valid : Bool) : Sys :=
  match (s.part p).loads.find? (fun l => l.id == id) with
  | some l => if l.bitmap.testBit shard then s else if valid then s.shardDone p l shard else s.shardCorrupt p l shard
  | none => s

/-! Checkpoint manifests (R334 to R336) -/

/-- Fills a range with values that the spec leaves undefined. -/
def Sys.undefinedAt (s : Sys) (p a n : Nat) : Sys := (s.writePart p a (Blob.ofBytes (freeBytes s.free n))).took n

/-- The manifest of a checkpoint command: a status, a mark, or its entries as (partition, address, bytes). -/
inductive Manifest where
  | bad (status : Nat)
  | poison (m : Mark)
  | ok (ranges : List (Nat × Nat × Nat))
  deriving DecidableEq, Repr

/-- Whether RANGES of a checkpoint command is in order; it says how long the manifest is, and is tested first (DESIGN CHOICE, log 187). HOST_ADDR
and KEYSEL follow the manifest (R316, R334). -/
def ckptRanges (k : Cmd) : Bool := k.field 0x10 4 != 0 && decide (k.field 0x10 4 ≤ 4096)
def ckptHost (k : Cmd) : Bool := k.field 0x28 8 % 4096 == 0 && decide (k.field 0x30 1 ≤ 1)

/-- Resolves the manifest; `write` says that its ranges are written. -/
def Sys.manifest (s : Sys) (p : Nat) (k : Cmd) (write : Bool) : Manifest :=
  let P := s.part p
  let n := k.field 0x10 4
  if !P.owns (k.field 8 8) (24 * n) then .bad stBAD_RANGE
  else
    let b := s.readPart p (k.field 8 8) (24 * n)
    if b.worst.isBad then .poison b.worst else
    let es := (manifestOf b.data n).map (fun e => (s.memoryOf p k.refs e.1, e.2.1, e.2.2))
    if es.any (fun e => e.1.isNone) then .bad stBAD_HANDLE
    else
      let rs := es.filterMap (fun e => e.1.map (fun x => (x, e.2.1, e.2.2)))
      if rs.any (fun e => decide (e.1.2.bytes < e.2.1 + e.2.2)) then .bad stBAD_RANGE
      else if write && rs.any (fun e => e.1.1 != p || !P.mayWrite (e.1.2.addr + e.2.1) e.2.2) then .bad stBAD_RANGE
      else .ok (rs.map (fun e => (e.1.1, e.1.2.addr + e.2.1, e.2.2)))

end Sys2Proof.Machine
end

