-- ==== Sys2Proof/Machine/Effects.lean ====
section
/-!
DEFINITION. Effects of a Bight on what lies outside it: deliveries into lockers, atomics, statistics merges, and effects
that a slack or step region holds (R92, R114, R119, R182 to R187, R210 to R214, R302).
-/

namespace Sys2Proof.Machine

/-! The locker and hitches of a context on a Bight (R302) -/

/-- Applies a change from outside a Bight to its state and to what an open region would restore. -/
def Bight.outside (x : Bight) (g : BightArch → BightArch) : Bight :=
  { x with arch := g x.arch, region := x.region.map (fun r => { r with snap := g r.snap }) }

/-- Whether a RUN of a context executes on a Bight now. -/
def Sys.liveOn (s : Sys) (c b : Nat) : Bool := ((s.bight b).run).any (fun r => r.ctx == c)

/-- The state that context `c` holds on Bight `b`: on the Bight, or saved. -/
def Sys.archOf (s : Sys) (c b : Nat) : BightArch :=
  if s.liveOn c b then (s.bight b).arch else (s.saved.get Bight.idle (c * 80 + b)).arch

/-- Applies a change from outside to the locker or hitches of context `c` on Bight `b`; a context that has closed has none (DESIGN CHOICE, log 184). -/
def Sys.deliver (s : Sys) (c b : Nat) (g : BightArch → BightArch) : Sys :=
  if !(s.ctx c).opened then s else
  let p := (s.ctx c).part
  let P := s.part p
  let s := match P.sigma with
    | some z => s.setPart p { P with sigma := some { z with lockers := z.lockers.map (fun (k : Kept) => if k.ctx = c ∧ k.hank = b then { k with arch := g k.arch } else k) } }
    | none => s
  if s.liveOn c b then s.setBight b ((s.bight b).outside g)
  else { s with saved := s.saved.modify Bight.idle (c * 80 + b) (fun x => x.outside g) }

/-- A delivery within a step region, to a Bight that runs a RUN of it: a cut undoes it with the rest (R182). -/
def Sys.deliverInside (s : Sys) (b : Nat) (g : BightArch → BightArch) : Sys := s.setBight b ((s.bight b).outside g)

/-- Bytes that land in a locker. -/
def putLocker (addr : Nat) (b : Blob) (a : BightArch) : BightArch := { a with locker := a.locker.putBlob addr b }

/-! Atomics (R211 to R214) -/

/-- The request fields of an atomic record. -/
structure AtomicReq where
  op : Nat
  size : Nat
  target : Nat
  operand : Nat
  compare : Nat
  /-- a reserved byte is non-zero -/
  reserved : Bool
  /-- mark of the record's own bytes -/
  mark : Mark
  deriving DecidableEq, Repr

/-- The result of an operation on a value of `w` bits; none for a reserved code (R212). -/
def atomicOp (op w v x cmp : Nat) : Option Nat :=
  let s := fun (n : Nat) => (BitVec.ofNat w n).toInt
  match op with
  | 0 => some v
  | 1 => some ((v + x) % 2 ^ w)
  | 2 => some (if s x < s v then x else v)
  | 3 => some (if s v < s x then x else v)
  | 4 => some (min v x)
  | 5 => some (max v x)
  | 6 => some (v &&& x)
  | 7 => some (v ||| x)
  | 8 => some (v ^^^ x)
  | 9 => some x
  | 10 => some (if v = cmp then x else v)
  | _ => none

/-- Reads and writes the window bytes of a location. The caller has checked the target. -/
def Sys.window (s : Sys) (p a n : Nat) : Nat := leNat (s.readPart p a n).data

/-- Performs an atomic whose target and code are in order. -/
def Sys.atomicAt (s : Sys) (p addr size op operand compare : Nat) : Sys × Nat × Nat :=
  let w := 8 * size
  let v := s.window p addr size
  let x := operand % 2 ^ w
  let cmp := compare % 2 ^ w
  match atomicOp op w v x cmp with
  | none => (s, 2, v)
  | some r => if op = 0 then (s, 1, v) else
      (s.writePart p addr (Blob.ofBytes (leBytes size r)), if op = 10 ∧ v ≠ cmp then 5 else 0, v)

/-- What R214 finds in a record itself, in its order: a status when the record is not performed. A location that is read-only is no target
(R208; DESIGN CHOICE, log 147). -/
def Sys.atomicBad (s : Sys) (p : Nat) (r : AtomicReq) : Option Nat :=
  if r.mark.isBad then some 4
  else if 10 < r.op ∨ (r.size ≠ 4 ∧ r.size ≠ 8) ∨ r.reserved then some 2
  else if r.target % r.size ≠ 0 ∨ addrSpace r.target ≠ 2 ∨ ((s.part p).place r.target).isNone ∨ (s.part p).touchesReadOnly r.target r.size then some 3
  else none

/-- The value of the location that a record names (R211); none where SIZE or TARGET names none, or its value is poisoned. -/
def Sys.atomicOld (s : Sys) (p : Nat) (r : AtomicReq) : Option Nat :=
  if (r.size ≠ 4 ∧ r.size ≠ 8) ∨ r.target % r.size ≠ 0 ∨ addrSpace r.target ≠ 2 ∨ ((s.part p).place r.target).isNone then none
  else let b := s.readPart p r.target r.size
    if b.worst.isBad then none else some (leNat b.data)

/-! Statistics merges (R117, R119) -/

/-- The fields of a record with a contribution added: 64-bit adds, and an unsigned maximum for MAX_EXP. -/
def mergeBytes (old : Bytes) (x : StatSum) : Bytes :=
  let add := fun (o v : Nat) => leBytes 8 (fieldN old o 8 + v)
  add 0 x.nonzero ++ add 8 x.zeros ++ add 0x10 x.nonfinite ++ add 0x18 x.poisoned ++ add 0x20 x.underflow ++ add 0x28 x.saturated
    ++ leBytes 4 (max (fieldN old 0x30 4) x.maxExp) ++ sliceB old 0x34 12
    ++ (List.range 32).flatMap (fun d => add (0x40 + 8 * d) (x.hist.getD d 0))

/-- The address of a statistics record (R116). -/
def Partition.statAddr (P : Partition) (n : Nat) : Nat := mkAddr 2 (P.statBase + 512 * n)

/-- Merges a contribution into a partition's record. A poisoned codeword stays poisoned. -/
def Sys.mergeStat (s : Sys) (p : Nat) (x : StatSum) : Sys :=
  let a := (s.part p).statAddr x.record
  let old := s.readPart p a 0x140
  s.writePart p a { old with data := mergeBytes old.data x }

/-! Regions -/

/-- The open step region of the RUN on a Bight, when the RUN belongs to it (R178). -/
def Sys.sigmaOf (s : Sys) (b : Nat) : Option Sigma :=
  match (s.bight b).run with
  | some r => if r.spec then (s.part r.part).sigma else none
  | none => none

/-- Whether an instruction stands in the Bight's region (R107). -/
def Bight.inRegion (x : Bight) (seq : Nat) : Bool := x.region.any (fun r => decide (r.first ≤ seq))

/-- Whether an effect of an instruction is held. -/
def Sys.holds (s : Sys) (b seq : Nat) : Bool := (s.bight b).inRegion seq || (s.sigmaOf b).isSome

/-- The partition of the RUN on a Bight; none when it runs nothing. -/
def Sys.runPart (s : Sys) (b : Nat) : Option Nat := ((s.bight b).run).map (fun r => r.part)

/-- Whether a Bight is running a RUN of context `c` that belongs to the open step region (R182). -/
def Sys.batchOn (s : Sys) (c d : Nat) : Bool := s.liveOn c d && (s.sigmaOf d).isSome

/-! Consumed poison (R251, R432, R434, R435, R442) -/

/-- Whether the RUN of a Bight has read poison before, on any of its Bights. -/
def Sys.runSeen (s : Sys) (r : RunRef) : Bool :=
  let same := fun (x : Bight) => x.run.any (fun q => q.ctx == r.ctx && q.ring == r.ring && q.lay == r.lay) && !x.seen.isEmpty
  (s.part r.part).hanks.any (fun h => same (s.bight h) || same (s.saved.get Bight.idle (r.ctx * 80 + h))) ||
  (match s.cmdAt r.ctx r.ring r.lay with
   | some k => (match k.progress with | .run _ _ _ causes _ => !causes.isEmpty | _ => false)
   | none => false)

/-- Records the poison that an instruction consumed: the RUN's causes, POISON_SEEN of its context or the region's bit, and
one POISON_CONSUMED record per RUN (R442). -/
def Sys.saw (s : Sys) (b : Nat) (m : Mark) : Sys :=
  if !m.isBad then s else
  let x := s.bight b
  match x.run with
  | none => s
  | some r =>
    let s := if !s.runSeen r && x.seen.isEmpty then
        s.logRec { domain := domArith (b / 8), unit := fnStrand (b / 8), part := r.part, location := x.seenAt.getD locNone, event := 0x0106,
                   arg0 := r.ctx, arg1 := r.lay, slack := x.region.isSome || (s.sigmaOf b).isSome } else s
    let x := s.bight b
    let s := s.setBight b { x with seen := if x.seen.contains m then x.seen else x.seen ++ [m] }
    match s.sigmaOf b with
    | some z => s.setPart r.part { s.part r.part with sigma := some { z with poison := true } }
    | none => s.setCtx r.ctx { s.ctx r.ctx with poisonSeen := true }

/-- Whether the RUN that a Bight holds made an item. -/
def Bight.made (x : Bight) (i : HeldItem) : Bool := x.run.any (fun r => r.ctx == i.ctx && r.ring == i.ring && r.lay == i.lay)

/-- Whether the RUN that made an item still executes on its hank, or stands switched out of it. -/
def Sys.standsOn (s : Sys) (i : HeldItem) : Bool := (s.bight i.hank).made i || (s.saved.get Bight.idle (i.ctx * 80 + i.hank)).made i

/-- RESULT of a RUN with POISON of FAIRLEAD_STATUS set (R331). -/
def poisonedResult (res : Bytes) : Bytes := leBytes 8 (leNat (res.take 8) ||| (stPoison.toNat * 2 ^ 32)) ++ res.drop 8

/-- The status of a finished command that meets a further mark: that of the worse (R251, R319). -/
def worseStatus (st : Nat) (m : Mark) : Nat := if st = stOK then markStatus m else endStatus st (markStatus m)

/-- Poison that an instruction of a RUN, or another command, meets when its effect is performed: it is told to the RUN on its Bight, to the
RUN switched out of it, or to the command (R214, R250). -/
def Sys.sawLate (s : Sys) (i : HeldItem) (m : Mark) : Sys :=
  let tell := fun (x : Bight) => x.outside (fun a => a.orFairlead stPoison)
  if (s.bight i.hank).made i then (s.setBight i.hank (tell (s.bight i.hank))).saw i.hank m
  else
    let key := i.ctx * 80 + i.hank
    let y := s.saved.get Bight.idle key
    let s := s.setCtx i.ctx { s.ctx i.ctx with poisonSeen := true }
    if y.made i then { s with saved := s.saved.set Bight.idle key { tell y with seen := if y.seen.contains m then y.seen else y.seen ++ [m] } }
    else match s.cmdAt i.ctx i.ring i.lay with
      | some k => (match k.progress with
        | .run rd a st ca sp => s.setProgress i.ctx i.ring k (.run rd a (st ||| (stPoison.setWidth 64 <<< 32)) (ca ++ [m]) sp)
        | .finished st res => s.setProgress i.ctx i.ring k (.finished (worseStatus st m) (if k.opcode = 0x30 then poisonedResult res else res))
        | _ => s)
      | none => s

/-! Data records (R287, R289, R290) -/

/-- The nonce of a transport record: direction 0 entry, 1 record in, 2 record out; lane; count. -/
def recNonce (c dir lane n : Nat) : Bytes := leBytes 2 c ++ leBytes 1 dir ++ leBytes 1 lane ++ leBytes 8 n

/-- Payload bytes of a full data record. -/
def recPayload : Nat := 4064
/-- Records that `n` bytes take. -/
def recordsFor (n : Nat) : Nat := (n + 4063) / 4064

/-- A stream-2 data record. -/
def sealRecord (k : BitVec 256) (c seq : Nat) (data : Bytes) : Bytes :=
  let head := leBytes 8 seq ++ leBytes 2 c ++ [2, 0] ++ leBytes 4 data.length
  let n := recNonce c 2 2 seq
  let ct := gcmCrypt k n data
  head ++ ct ++ List.replicate (recPayload - ct.length) 0 ++ tagBytes (Config.gcmTag k n head ct)

def Sys.ctxKey (s : Sys) (c : Nat) : BitVec 256 := ((s.ctx c).key).getD 0#256

/-- Writes bytes as stream-2 records from a host address with the next SEQs; a run is claimed when it begins (R290). -/
def Sys.sendRecords (s : Sys) (c a : Nat) (data : Bytes) : Sys × Nat × Nat :=
  let x := s.ctx c
  let n := recordsFor data.length
  let first := x.seq2
  let s := s.setCtx c { x with seq2 := first + n, usage := { x.usage with hostOut := x.usage.hostOut + data.length } }
  ((List.range n).foldl (fun s i =>
    s.hostWrite (a + 4096 * i) (sealRecord (s.ctxKey c) c (first + i) ((data.drop (recPayload * i)).take recPayload))) s, first, n)

/-! Performing effects (R182, R187) -/

/-- Notes the message number of a SEND that was held, and whether its flow is no longer open; or the oldest unreleased
message after a RELEASE (R273). -/
def Sys.noteMsg (s : Sys) (owner : Nat × Nat) (m : Nat) (lost : Bool) : Sys :=
  { s with waiting := s.waiting.map (fun h =>
      match h.cap with
      | some c => if h.bight = some owner.1 ∧ c.seq = owner.2 then { h with cap := some { c with msg := some m, lost := lost } } else h
      | none => h) }

/-- Performs an effect. -/
def Sys.perform (s : Sys) (i : HeldItem) : Sys :=
  match i.effect with
  | .store p a b => let t := s.writePart p a b
    if (s.writeMark p a b.data.length).isBad then t.sawLate i .tagFail else t
  | .send c d a b => s.deliver c d (putLocker a b)
  | .sendHitch c d h o => s.deliver c d (fun x => x.setHitch h none (if s.standsOn i then some o else none))
  | .flow f b o =>
    let m := (s.flow f).msg
    let up := (s.flow f).state == .open
    let s := if up then s.post f b (some i.ctx) else s
    (match o with
     | some w => s.noteMsg w m !up
     | none => s)
  | .freed f n w =>
    let s := s.releaseMsgs f n
    s.noteMsg w (s.flow f).credit false
  | .atomic p a size op x cmp =>
    let m := (s.readPart p a size).worst
    if m.isBad then s.sawLate i m else (s.atomicAt p a size op x cmp).1
  | .stat p x => s.mergeStat p x
  | .shard p l n ok =>
    let t := s.shardChecked p l n ok
    if ok ∧ (s.shardMark p l n).isBad then t.sawLate i .tagFail else t
  | .abort p id cause flows => s.sendAborts p id cause flows
  | .record a d =>
    let (s, first, _) := s.sendRecords i.ctx a d
    match s.cmdAt i.ctx i.ring i.lay with
    | some k => (match k.progress with
      | .finished st res => s.setProgress i.ctx i.ring k (.finished st (if k.opcode = 0x03 then leBytes 8 first else res))
      | _ => s)
    | none => s
  | .coll c r l =>
    match s.collBy c r l with
    | some x => s.collRelease x
    | none => s

/-- Performs held items in issue order (R187). -/
def Sys.performAll (s : Sys) (is : List HeldItem) : Sys := is.foldl (fun s i => s.perform i) s

/-- Holds an item in the step region of a partition, or delivers a send to a Bight that runs a RUN of the batch (R182). -/
def Sys.addSigma (s : Sys) (p : Nat) (i : HeldItem) : Sys :=
  match (s.part p).sigma with
  | some z =>
    let held := s.setPart p { s.part p with sigma := some { z with items := z.items ++ [i] } }
    (match i.effect with
     | .send c d a b => if s.batchOn c d then s.deliverInside d (putLocker a b) else held
     | .sendHitch c d h o => if s.batchOn c d then s.deliverInside d (fun x => x.setHitch h none (some o)) else held
     | _ => held)
  | none => s.perform i

/-- Performs an effect of a Bight's instruction, or holds it: in the step region of its RUN, or in the region it stands in (R181, R182). -/
def Sys.effect (s : Sys) (b seq size : Nat) (e : HeldEffect) : Sys :=
  let x := s.bight b
  let item := fun (c r l : Nat) => ({ ctx := c, ring := r, lay := l, hank := b, size := size, effect := e, local_ := x.inRegion seq } : HeldItem)
  match x.run with
  | none => s.perform (item 0 0 0)
  | some r =>
    let i := item r.ctx r.ring r.lay
    if (s.sigmaOf b).isSome then s.addSigma r.part i
    else match x.region with
      | some g => if i.local_ then s.setBight b { x with region := some { g with items := g.items ++ [i] } } else s.perform i
      | none => s.perform i

/-! Reads that see held writes (R183) -/

/-- A memory that holds a blob at its own addresses, with the held stores, atomics, merges and shard bits of items laid over it. -/
def Sys.overlay (s : Sys) (p a : Nat) (b : Blob) (is : List HeldItem) : Mem :=
  is.foldl (fun m i => match i.effect with
    | .store q x y => if q = p ∧ rangesMeet a b.data.length x y.data.length then m.putBlob x y else m
    | .atomic q x size op v cmp =>
      if q = p ∧ a ≤ x ∧ x + size ≤ a + b.data.length ∧ !(m.worst x size).isBad then
        (match atomicOp op (8 * size) (leNat (m.read x size)) (v % 2 ^ (8 * size)) (cmp % 2 ^ (8 * size)) with
         | some r => m.put x (leBytes size r)
         | none => m)
      else m
    | .stat q x =>
      let at_ := (s.part q).statAddr x.record
      if q = p ∧ rangesMeet a b.data.length at_ 0x140 then
        (let old := m.blob at_ 0x140; m.putBlob at_ { old with data := mergeBytes old.data x })
      else m
    | .shard q l n ok =>
      (match (if q = p ∧ ok then s.shardPlace p l n else none) with
       | some at_ => if a ≤ at_ ∧ at_ < a + b.data.length then m.putBlob at_ { m.blob at_ 1 with data := [(m.read at_ 1).headD 0 ||| (1#8 <<< (n % 8))] } else m
       | none => m)
    | _ => m) (Mem.empty.putBlob a b)

/-- Partition memory with the held writes of items (R107, R183). -/
def Sys.readOver (s : Sys) (p a n : Nat) (is : List HeldItem) : Blob :=
  if is.isEmpty then s.readPart p a n else
  let a0 := a / 16 * 16
  let n0 := (a + n + 15) / 16 * 16 - a0
  (s.overlay p a0 (s.readPart p a0 n0) is).blob a n

/-- Partition memory as a command reads it: one of the step region sees what the region holds (R183). -/
def Sys.readCmd (s : Sys) (p c : Nat) (k : Cmd) (a n : Nat) : Blob :=
  s.readOver p a n (match (if s.inSigma c k then (s.part p).sigma else none) with | none => [] | some z => z.items)

/-- Reads partition memory as an instruction of a Bight sees it: with every held write of the step region of its RUN, whichever
Bight or command made it, or with those of the region that it stands in (R107, R183). -/
def Sys.readSeen (s : Sys) (b seq p a n : Nat) : Blob :=
  let x := s.bight b
  let is := match s.sigmaOf b with
    | some z => z.items
    | none => match x.region with | some g => if g.first ≤ seq then g.items else [] | none => []
  s.readOver p a n is

/-! What the step region has made read-only for its own work (R181, R352) -/

/-- A partition as work of its step region finds it. -/
def Partition.inside (P : Partition) : Partition :=
  match P.sigma with
  | some z => if z.listed.isEmpty then P else
      { P with objs := P.objs.map (fun e => if z.listed.contains e.1 then (e.1, { e.2 with readOnly := true, listed := true }) else e) }
  | none => P
/-- The machine as a Bight finds its partition. -/
def Sys.insideOf (s : Sys) (b : Nat) : Sys :=
  match s.sigmaOf b, s.runPart b with
  | some _, some p => s.setPart p (s.part p).inside
  | _, _ => s

end Sys2Proof.Machine
end

