-- ==== Sys2Proof/Machine/Issue.lean ====
section
/-!
DEFINITION. How a Bight takes its instructions: the Halyard core in program order, dispatch into a queue, issue, hitches,
address hazards, slack regions, and the end of a RUN (R80 to R83, R90 to R92, R104 to R111, R182, R186, R331, R432).
-/

namespace Sys2Proof.Machine

/-! Applying an instruction's effect -/

/-- Applies the effect of an instruction to the Bight and, for an instruction from before the open region, to what the
region would restore (R107, R111). -/
def Bight.mapArch (x : Bight) (seq : Nat) (g : BightArch → BightArch) : Bight :=
  { x with arch := g x.arch, region := x.region.map (fun r => if seq < r.first then { r with snap := g r.snap } else r) }
def Sys.onArch (s : Sys) (b seq : Nat) (g : BightArch → BightArch) : Sys := s.setBight b ((s.bight b).mapArch seq g)

/-! Footprints (R65, R91) -/

/-- Whether two ranges share a 256-byte granule. -/
def meet256 (a b : Nat × Nat) : Bool :=
  decide (a.2 ≠ 0) && decide (b.2 ≠ 0) && decide (a.1 / 256 ≤ (b.1 + b.2 - 1) / 256) && decide (b.1 / 256 ≤ (a.1 + a.2 - 1) / 256)
def anyMeet (xs ys : List (Nat × Nat)) : Bool := xs.any (fun x => ys.any (meet256 x))

/-- Whether a later instruction must wait for an earlier one. -/
def Foot.conflicts (a b : Foot) : Bool :=
  anyMeet a.wr b.wr || anyMeet a.wr b.rd || anyMeet a.rd b.wr ||
  anyMeet a.memWr b.memWr || anyMeet a.memWr b.memRd || anyMeet a.memRd b.memWr ||
  a.slots.any (fun n => b.slots.contains n)

/-- What a drain in the pipeline still reads and writes. -/
def DrainItem.foot (x : DrainItem) : Foot :=
  if x.spill then { Foot.none with wr := [(x.addr, 65536)] }
  else { Foot.none with rd := ddReads x.desc, wr := ddWrites x.desc }

/-- Held instructions of a Bight older than `ord`. -/
def Sys.older (s : Sys) (b ord : Nat) : List Held := s.waiting.filter (fun h => h.bight == some b && decide (h.ord < ord))
/-- Dispatched and not issued. -/
def Held.queued (h : Held) : Bool := h.cap.any (fun c => !c.flying)
/-- Issued and in flight. -/
def Held.inFlight (h : Held) : Bool := h.cap.any (fun c => c.flying)

/-- Whether a footprint must wait for older instructions or drains. -/
def Sys.hazard (s : Sys) (b ord seq : Nat) (f : Foot) : Bool :=
  (s.older b ord).any (fun h => h.queued && f.conflicts h.foot) ||
  (s.bight b).drains.any (fun d => decide (d.seq < seq) && f.conflicts d.foot)

/-! Slack buffer space (R107, R182, R184 to R186) -/

/-- Granule numbers of ranges. -/
def granulesOf (rs : List (Nat × Nat)) : List Nat :=
  rs.flatMap (fun r => if r.2 = 0 then [] else (List.range ((r.1 + r.2 - 1) / 256 + 1 - r.1 / 256)).map (r.1 / 256 + ·))
/-- Elements of a list that another lacks. -/
def newOnes (xs old : List Nat) : List Nat := xs.eraseDups.filter (fun x => !old.contains x)

/-- The RUN on a Bight as the step region keeps it (R182). -/
def RunRef.keptAs (r : RunRef) (b : Nat) (k : Kept) : Bool := k.ctx == r.ctx && k.hank == b && k.ring == r.ring && k.lay == r.lay

/-- Locker granules that a write of some ranges has yet to save for the RUN on a Bight (R182). -/
def Sys.stepSaves (s : Sys) (b : Nat) (rs : List (Nat × Nat)) : List Nat :=
  match (s.bight b).run, s.sigmaOf b with
  | some r, some z => newOnes (granulesOf rs) (((z.lockers.find? (r.keptAs b)).map (fun k => k.granules)).getD [])
  | _, _ => []

/-- Notes that they are saved. -/
def Sys.noteStepSaves (s : Sys) (b : Nat) (rs : List (Nat × Nat)) : Sys :=
  match (s.bight b).run, s.sigmaOf b with
  | some r, some z => s.setPart r.part { s.part r.part with sigma := some { z with
      lockers := z.lockers.map (fun k => if r.keptAs b k then { k with granules := k.granules ++ s.stepSaves b rs } else k) } }
  | _, _ => s

/-- Buffer bytes that an instruction's saves take, for the Bight's region and for the step region. -/
def Sys.saveBytes (s : Sys) (b seq : Nat) (eng : Engine) (f : Foot) : Nat :=
  (match (s.bight b).region with
   | some g => if g.first ≤ seq then
       2048 * (newOnes f.vregs g.savedV).length + (if eng = .matrix then 65536 * (newOnes f.slots g.savedS).length else 0)
         + 256 * (newOnes (granulesOf f.wr) g.savedG).length
     else 0
   | none => 0) +
  256 * (s.stepSaves b f.wr).length

/-- Notes what was saved. -/
def Sys.noteSaves (s : Sys) (b seq : Nat) (eng : Engine) (f : Foot) : Sys :=
  let x := s.bight b
  (s.setBight b { x with
    region := x.region.map (fun g => if g.first ≤ seq then
      { g with savedV := g.savedV ++ newOnes f.vregs g.savedV
               savedS := if eng = .matrix then g.savedS ++ newOnes f.slots g.savedS else g.savedS
               savedG := g.savedG ++ newOnes (granulesOf f.wr) g.savedG } else g) }).noteStepSaves b f.wr

/-! The end of a RUN on a Bight, and the next one (R81, R83, R301, R331) -/

/-- The status words of a Bight as RESULT bytes 0 to 7 carry them (R331). -/
def BightArch.statusWord (a : BightArch) : Word64 :=
  a.lay.setWidth 64 ||| (a.serve.setWidth 64 <<< 16) ||| (a.fairlead.setWidth 64 <<< 32) ||| (a.halyard.setWidth 64 <<< 48)

/-- The state that a context keeps on a Bight between its RUNs: locker, hitches, sets that wait from outside (R83). -/
def BightArch.kept (a : BightArch) : BightArch :=
  { BightArch.zero with locker := a.locker, hitches := a.hitches, hitchSets := a.hitchSets.filter (fun w => w.seq.isNone) }

def savedKey (c b : Nat) : Nat := c * 80 + b
def Sys.savedBight (s : Sys) (c b : Nat) : Bight := s.saved.get Bight.idle (savedKey c b)
def Sys.setSaved (s : Sys) (c b : Nat) (x : Bight) : Sys := { s with saved := s.saved.set Bight.idle (savedKey c b) x }

/-- The seven arguments of a RUN with weight-set handles replaced by the pinned directory's address (R169, R331). -/
def Sys.runArg (s : Sys) (c : Nat) (k : Cmd) (i : Nat) : Nat :=
  let v := k.field (0x20 + 8 * i) 8
  if i < 7 ∧ (k.field 0x1E 1).testBit i then
    match s.setHolder (s.ctx c).part v with
    | some (q, j, w) => (match s.pin c k.batch q j w with | some (x, _) => x.dir | none => 0)
    | none => 0
  else v

/-- Hank positions of a RUN's mask, and the hanks they name (R331). -/
def Sys.runHanks (s : Sys) (c : Nat) (k : Cmd) : List Nat :=
  let hs := (s.part (s.ctx c).part).hanks
  (List.range hs.length).filterMap (fun j => if (k.field 0x14 10).testBit j then hs[j]? else none)

/-- The Bight at the start of a RUN (R83, R331). In a RUN of the speculative batch entry 0 is reserved for the step record, and filled
where the region has been hauled (R180, R190). -/
def Sys.startArch (s : Sys) (c b : Nat) (k : Cmd) (spec : Bool) : BightArch :=
  let kept := (s.savedBight c b).arch
  let hanks := s.runHanks c k
  let rank := (hanks.findIdx? (· == b)).getD 0
  let rank8 := (s.runArg c k 7 / 2 ^ 32) * 2 ^ 32 + hanks.length * 65536 + rank
  let a : BightArch :=
    { kept.kept with
      sregs := Vector.ofFn (fun (i : Fin 32) => if 1 ≤ i.val ∧ i.val ≤ 7 then BitVec.ofNat 64 (s.runArg c k (i.val - 1))
        else if i.val = 8 then BitVec.ofNat 64 rank8 else 0#64)
      pregs := (Vector.replicate 16 0#512).set 0 (BitVec.allOnes 512)
      pc := BitVec.ofNat 64 (k.field 0x10 4) }
  bif spec then a.reserve
  else bif ((s.ctx c).batch k.batch).any (fun b => b.hauled) then a.reserve.fill 0 1#64 0#8 else a

/-- Starts a RUN on an idle Bight. -/
def Sys.startOn (s : Sys) (c b : Nat) (k : Cmd) (spec : Bool) : Sys :=
  let p := (s.ctx c).part
  match s.memoryOf p k.refs (k.field 8 8) with
  | none => s
  | some (q, o) =>
    let a := s.startArch c b k spec
    let rank := ((s.runHanks c k).findIdx? (· == b)).getD 0
    let run : RunRef := { ctx := c, ring := k.ring, lay := k.lay, part := p, rank := rank, prog := o.addr, size := o.bytes, spec := spec, home := q, step := spec }
    let s := s.setBight b { Bight.idle with arch := a, run := some run, turn := c }
    let s := s.setSaved c b Bight.idle
    if spec then
      match (s.part p).sigma with
      | some z => s.setPart p { s.part p with sigma := some { z with lockers := z.lockers ++ [⟨c, b, k.ring, k.lay, a.kept, []⟩] } }
      | none => s
    else s

/-- Whether a context's locker on a Bight has been written by the open step region (R181). -/
def Sys.specLocker (s : Sys) (c b : Nat) : Bool :=
  (s.part (s.ctx c).part).sigma.any (fun z => z.lockers.any (fun k => k.ctx == c && k.hank == b))

/-- The RUN command of a context that waits for a Bight, the first by ring and lay count. A RUN outside the step region waits for the
region where that has written the locker it would start on (R181; DESIGN CHOICE, log 144). -/
def Sys.readyRun (s : Sys) (c b : Nat) : Option Cmd :=
  (s.ctx c).cmds.find? (fun k => match k.progress with
    | .run ready _ _ _ spec => ready.contains b && (spec || !s.specLocker c b)
    | _ => false)

/-- Whether a context has work for a Bight: a RUN switched out, or one that waits. -/
def Sys.wantsBight (s : Sys) (c b : Nat) : Bool :=
  (s.ctx c).resident && (s.ctx c).evictFor.isNone && ((s.savedBight c b).run.isSome || (s.readyRun c b).isSome)

/-- Gives an idle Bight the next RUN, round robin by context number (R301). A Strand die that is not READY takes none (R422, R424). -/
def Sys.takeBight (s : Sys) (b : Nat) : Sys :=
  let x := s.bight b
  if x.run.isSome || !s.fnReady (fnStrand (b / 8)) then s else
  let cs := (match s.holder b with | some p => s.ctxsOf p | none => []).filter (fun c => s.wantsBight c b)
  match (match cs.find? (fun c => decide (x.turn < c)) with | some c => some c | none => cs.head?) with
  | none => s
  | some c =>
    let y := s.savedBight c b
    if y.run.isSome then (s.setBight b { y with turn := c }).setSaved c b { Bight.idle with arch := y.arch.kept }
    else match s.readyRun c b with
      | some k =>
        (match k.progress with
         | .run ready active st causes spec =>
           (s.setProgress c k.ring k (.run (ready.filter (· != b)) (active ++ [b]) st causes spec)).startOn c b k spec
         | _ => s)
      | none => s

/-- The status of a RUN that has ended: that of the poison it consumed, or of what stopped it, in the order of R319. -/
def Cmd.runStatus (k : Cmd) (causes : List Mark) : Nat :=
  match k.ending with
  | none => markStatus (worstMark causes)
  | some st => endStatus st (markStatus (worstMark causes))

/-- Completes a RUN all of whose Bights have ended (R251, R331). -/
def Sys.runDone (s : Sys) (c ring lay : Nat) : Sys :=
  match s.cmdAt c ring lay with
  | some k =>
    (match k.progress with
     | .run [] [] st causes _ => s.finish c k (k.runStatus causes) (leBytes 8 st.toNat)
     | _ => s)
  | none => s

/-- A Bight's part of its RUN ends: the context keeps the locker and hitches, the RUN's RESULT takes the status words, and
the Bight goes to the next RUN. -/
def Sys.endBight (s : Sys) (b : Nat) : Sys :=
  let x := s.bight b
  match x.run with
  | none => s
  | some r =>
    let s := s.setSaved r.ctx b { Bight.idle with arch := x.arch.kept }
    let s := s.setBight b { Bight.idle with turn := r.ctx }
    let s := match s.cmdAt r.ctx r.ring r.lay with
      | some k =>
        (match k.progress with
         | .run ready active st causes spec =>
           s.setProgress r.ctx r.ring k (.run ready (active.filter (· != b)) (st ||| x.arch.statusWord) (causes ++ x.seen) spec)
         | _ => s)
      | none => s
    (s.runDone r.ctx r.ring r.lay).takeBight b

/-! Cut and haul of a Bight's region (R107 to R111) -/

/-- Removes a summary entry. -/
def BightArch.dropEntry (a : BightArch) (id : Nat) : BightArch := { a with fifo := a.fifo.filter (fun e => e.id != id) }

/-- Removes the held instructions of a Bight from program-order number `first` on, and those not dispatched. -/
def Sys.dropHeld (s : Sys) (b first : Nat) : Sys :=
  { s with waiting := s.waiting.filter (fun h => !(h.bight == some b && (match h.cap with | some c => decide (first ≤ c.seq) | none => true))) }

/-- The Bight after its region is cut (R111). -/
def Bight.cutTo (x : Bight) (g : Region) (flags : Word64) : Bight :=
  { x with arch := { (g.snap.dropEntry g.bound).setS g.rb flags with pc := g.resume }, region := none
           drains := x.drains.filter (fun d => decide (d.seq < g.first)) }
/-- The Bight after its region is hauled (R108). -/
def Bight.hauledTo (x : Bight) (g : Region) (flags : Word64) : Bight :=
  { x with arch := (x.arch.dropEntry g.bound).setS g.rb flags, region := none }

/-- What becomes of the items that the step region holds for the open region of a Bight: discarded at a cut, the step region's own
after a haul (R111, R182). -/
def Sys.settleLocal (s : Sys) (b : Nat) (cut : Bool) : Sys :=
  match (s.bight b).run, s.sigmaOf b with
  | some r, some z =>
    let mine := fun (i : HeldItem) => i.local_ && i.hank == b && (s.bight b).made i
    s.setPart r.part { s.part r.part with sigma := some { z with
      items := if cut then z.items.filter (fun i => !mine i) else z.items.map (fun i => if mine i then { i with local_ := false } else i) } }
  | _, _ => s

/-- Cuts the open region: s[RB] receives `flags` and execution goes on at the resume target (R111). -/
def Sys.cutRegion (s : Sys) (b : Nat) (flags : Word64) : Sys :=
  match (s.bight b).region with
  | none => s
  | some g => ((s.settleLocal b true).setBight b ((s.bight b).cutTo g flags)).dropHeld b g.first

/-- Hauls the open region: held effects proceed, s[RB] receives the flag byte, the bound entry is consumed (R108). -/
def Sys.haulRegion (s : Sys) (b : Nat) (flags : Word64) : Sys :=
  match (s.bight b).region with
  | none => s
  | some g => ((s.settleLocal b false).setBight b ((s.bight b).hauledTo g flags)).performAll g.items

/-- The relation that COND names between two register values (R89); none when reserved. MASK is for codes 7 and 8. -/
def condHolds (c : BitVec 4) (x y : Word64) (mask : Byte) : Option Bool :=
  match c.toNat with
  | 0 => some true
  | 1 => some (x == y)
  | 2 => some (x != y)
  | 3 => some (decide (x.toInt < y.toInt))
  | 4 => some (decide (y.toInt ≤ x.toInt))
  | 5 => some (decide (x.toNat < y.toNat))
  | 6 => some (decide (y.toNat ≤ x.toNat))
  | 7 => some (x &&& mask.setWidth 64 != 0#64)
  | 8 => some (x &&& mask.setWidth 64 == 0#64)
  | _ => none

/-- The test of a region on a filled entry (R106). -/
def Region.holds (g : Region) (e : SumEntry) : Bool :=
  (e.flags &&& g.mask == g.expect) && (g.cond == 0#4 || (condHolds g.cond e.value g.ra 0#8).getD false)

/-- The bound entry of a Bight's region, once it is filled. -/
def Bight.boundEntry (x : Bight) : Option (Region × SumEntry) :=
  match x.region with
  | none => none
  | some g => (x.arch.fifo.find? (fun e => e.id == g.bound && e.filled)).map (fun e => (g, e))

/-- Resolves the region of a Bight when its bound entry is filled (R108, R190). -/
def Sys.resolveRegion (s : Sys) (b : Nat) : Sys :=
  match (s.bight b).boundEntry with
  | some (g, e) => if g.holds e then s.haulRegion b (e.flags.setWidth 64) else s.cutRegion b (e.flags.setWidth 64)
  | none => s

/-- A Bight stops dispatching for good: its region is cut, and instructions that it has not dispatched go (R322). -/
def Sys.stopBight (s : Sys) (b : Nat) : Sys :=
  let s := s.cutRegion b 0#64
  ({ s with waiting := s.waiting.filter (fun h => !(h.bight == some b && h.cap.isNone)) } : Sys).setBight b { s.bight b with ending := true, stopped := false }

/-- What a Bight has dispatched is given up, but for drains, which complete: the end at a reset or a freeze (DESIGN CHOICE, log 161). -/
def Sys.dropBight (s : Sys) (b : Nat) : Sys :=
  let s := { s with waiting := s.waiting.filter (fun h => h.bight != some b) }
  let s := (s.bight b).drains.foldl (fun s d =>
    let x := s.bight b
    let r := drainSlot d x.arch
    let s := s.setBight b { x with arch := r.arch }
    (r.stats.foldl (fun s t => s.effect b d.seq 256 (.stat ((s.runPart b).getD 0) t)) s).saw b r.seen) s
  s.setBight b { s.bight b with drains := [] }

/-- The part of an ending RUN on a Bight is over once nothing that it has dispatched is left (R322). -/
def Sys.settle (s : Sys) (b : Nat) : Sys :=
  let x := s.bight b
  if x.ending && x.drains.isEmpty && !s.waiting.any (fun h => h.bight == some b) then s.endBight b else s

/-- A Bight that is switched out has nothing dispatched: its part of an ending RUN is over, and the context keeps locker and hitches. -/
def Sys.endSaved (s : Sys) (c b : Nat) (k : Cmd) : Sys :=
  let y := s.savedBight c b
  let s := s.setSaved c b { Bight.idle with arch := y.arch.kept }
  match s.cmdAt c k.ring k.lay with
  | some k => (match k.progress with
    | .run rd a st ca sp => s.setProgress c k.ring k (.run rd (a.filter (· != b)) (st ||| y.arch.statusWord) (ca ++ y.seen) sp)
    | _ => s)
  | none => s

/-- Ends a RUN: its Bights dispatch no more, Bights that wait for it are given up, and it completes with `st`, or what R319 puts first, once
they have ended; `now` does not wait for what is in flight (R322, R432). -/
def Sys.stopRun (s : Sys) (c : Nat) (k : Cmd) (st : Nat) (now : Bool) : Sys :=
  match k.progress with
  | .run _ active _ _ _ =>
    let s := match s.cmdAt c k.ring k.lay with
      | some k => (match k.progress with
        | .run _ a w ca sp => s.setCmd c k.ring { k with progress := .run [] a w ca sp, ending := some st }
        | _ => s)
      | none => s
    let s := active.foldl (fun s b =>
      if (s.bight b).run.any (fun r => r.ctx == c && r.ring == k.ring && r.lay == k.lay) then
        let s := s.stopBight b
        (if now then s.dropBight b else s).settle b
      else s.endSaved c b k) s
    s.runDone c k.ring k.lay
  | _ => s

/-! The Halyard core -/

/-- Keeps an instruction that the Halyard core has not executed or dispatched. -/
def Sys.keepFront (s : Sys) (i : Instr) (b : Nat) (eng : Engine) : Sys :=
  s.keep { cmd := i, bight := some b, eng := eng, cap := none, foot := Foot.none, waitH := none, ord := s.ordNow }

/-- Whether PC names an address outside the program's object (R81). -/
def Bight.pcOutside (x : Bight) : Bool := x.run.any (fun r => decide (r.size < x.arch.pc.toNat + 8))

/-- The word at PC as the Bight fetches it: from an import by way of the copies that its slice holds (R208), else with the held writes that
it sees (R183). -/
def Sys.fetched (s : Sys) (b : Nat) (r : RunRef) : Blob :=
  let x := s.bight b
  let a := r.prog + x.arch.pc.toNat
  if r.home = r.part then s.readSeen b x.nextSeq r.home a 8 else s.withCopies b r.home a (s.readPart r.home a 8)

/-- What a fetch leaves beside the word: alarms of failed checks, and a copy of an imported line (R208, R250). -/
def Sys.noteFetch (s : Sys) (b : Nat) : Sys :=
  let x := s.bight b
  match x.run with
  | some r => if x.pcOutside then s else
      let s := s.noteRead r.home (r.prog + x.arch.pc.toNat) 8
      if r.home = r.part ∨ (s.part r.home).state = .frozen then s else s.noteCopies b r.home (r.prog + x.arch.pc.toNat) 8
  | none => s

/-- The mark of the codeword that an instruction is fetched from; a frozen exporter's program reads as unknown (R365). -/
def Sys.fetchMark (s : Sys) (b : Nat) : Mark :=
  let x := s.bight b
  match x.run with
  | some r => if x.pcOutside then .clean
      else if r.home ≠ r.part ∧ (s.part r.home).state = .frozen then .unknown
      else (s.fetched b r).worst
  | none => .clean

/-- Whether a set of DEST_HITCH that a MOV.SEND of a Bight's RUN has made waits: also one that was held and performed later (R92, R182). -/
def Sys.setPending (s : Sys) (b : Nat) : Bool :=
  (s.bight b).run.any (fun r => (s.part r.part).hanks.any (fun h => (s.archOf r.ctx h).hitchSets.any (fun w => w.owner.any (fun o => o.1 == b))))

/-- Whether instructions of a queue have not completed: held ones, drains, sets that wait (R88, R92, R119). -/
def Sys.queueBusy (s : Sys) (b ord : Nat) (e : Engine) : Bool :=
  (s.older b ord).any (fun h => h.cap.isSome && h.eng == e) ||
  (e == .matrix && !(s.bight b).drains.isEmpty) || (e == .mover && s.setPending b) ||
  (s.bight b).arch.hitchSets.any (fun w => w.seq.any (fun q => q.2 == e))
def Sys.anyBusy (s : Sys) (b ord : Nat) : Bool := s.queueBusy b ord .matrix || s.queueBusy b ord .vector || s.queueBusy b ord .mover

/-- HALT: waits for the queues and the region, then the Bight's part of the RUN ends (R88). -/
def Sys.haltBight (s : Sys) (i : Instr) (b : Nat) : Sys :=
  if s.anyBusy b s.ordNow || (s.bight b).region.isSome then s.keepFront i b .halyard
  else { s.endBight b with replay := none }

/-- Whether a Bight executes a RUN on a hank that belongs to a partition: another runs nothing (R14, R81), and one whose RUN ends takes up
no more (R322). -/
def Sys.runs (s : Sys) (b : Nat) : Bool := (s.bight b).run.isSome && (s.holder b).isSome && !(s.bight b).ending

/-- Takes up an instruction in program order: on a Bight that runs nothing it has no effect; behind older ones that the Halyard core has not finished it waits; outside
the program the Bight halts with PC_FAULT; from a poisoned codeword the RUN ends (R81, R432). -/
def Sys.front (s : Sys) (i : Instr) (b : Nat) (eng : Engine) (k : Sys → Sys) : Sys :=
  let x := s.bight b
  if !s.runs b then { s with replay := none }
  else if x.stopped || (s.older b s.ordNow).any (fun h => h.cap.isNone) then s.keepFront i b eng
  else if x.pcOutside then (s.setBight b { x with arch := x.arch.orHalyard hsPcFault }).haltBight i b
  else if (s.fetchMark b).isBad then
    let s := (s.saw b (s.fetchMark b))
    match x.run with
    | some r => (match s.cmdAt r.ctx r.ring r.lay with
      | some k => { s.stopRun r.ctx k stCANCELLED false with replay := none }
      | none => { s with replay := none })
    | none => { s with replay := none }
  else k s

/-- A scalar or control instruction: `body` acts on the Bight's state at the instruction's program-order number and leaves
PC at the next instruction; `busy` says that it waits. -/
def Sys.coreOp (s : Sys) (i : Instr) (b : Nat) (busy : Sys → Bool) (body : Nat → Sys → Sys) : Sys :=
  s.front i b .halyard (fun s =>
    if busy s then s.keepFront i b .halyard
    else
      let x := s.bight b
      let s := body x.nextSeq (s.setBight b { x with nextSeq := x.nextSeq + 1 })
      { s with replay := none })

/-- PC moves to the next instruction. -/
def BightArch.step8 (a : BightArch) : BightArch := { a with pc := a.pc + 8#64 }

/-- A core instruction that acts on the Bight's own state alone and goes on at PC + 8. -/
def Sys.coreArch (s : Sys) (i : Instr) (b : Nat) (g : BightArch → BightArch) : Sys :=
  s.coreOp i b (fun _ => false) (fun q s => s.onArch b q (fun a => (g a).step8))

/-! Queues (R80, R90 to R92) -/

/-- What a queue instruction is. -/
structure QOp where
  eng : Engine
  wait : Option (BitVec 5)
  /-- the set made when the effect is done; a drain and a message make theirs later -/
  set : Option (BitVec 5)
  /-- scalar registers captured at dispatch -/
  regs : BightArch → List Word64
  /-- the register that holds a descriptor's address, and the descriptor's size -/
  desc : Option (BitVec 5 × Nat)
  /-- reserves a summary entry -/
  push : Cap → Bool
  foot : Sys → Nat → Cap → Foot
  /-- further conditions for its issue -/
  ready : Sys → Nat → Cap → Bool
  /-- buffer bytes of what it makes when held -/
  items : Sys → Nat → Cap → Nat
  /-- its effect, with what it keeps when it stays in flight -/
  effect : Sys → Nat → Cap → Sys × Option Cap
  /-- the end of an instruction in flight, once that has come -/
  finish : Sys → Nat → Cap → Option Sys

/-- Entries of a queue (R80). -/
def queueSize (e : Engine) : Nat := match e with | .matrix => 64 | .vector => 128 | .mover => 32 | .halyard => 1

/-- Whether a wait is over for an instruction of age `ord`: the hitch is 1, and no older dispatched instruction waits on it (R92). On a Bight
whose RUN ends the wait ends once nothing older is left (R322; DESIGN CHOICE, log 161). -/
def Sys.hitchFree (s : Sys) (b ord : Nat) (w : Option (BitVec 5)) : Bool :=
  match w with
  | none => true
  | some h => ((s.bight b).arch.hitch h && !(s.older b ord).any (fun e => e.queued && e.waitH == some h)) ||
      ((s.bight b).ending && (s.older b ord).isEmpty && (s.bight b).drains.isEmpty)

/-- Consumes the hitch an instruction waited on. -/
def Sys.consume (s : Sys) (b seq : Nat) (w : Option (BitVec 5)) : Sys :=
  match w with
  | none => s
  | some h => s.onArch b seq (fun a => a.dropHitch h)

/-- Keeps a dispatched instruction in its queue. -/
def Sys.keepQueued (s : Sys) (i : Instr) (b ord : Nat) (q : QOp) (cap : Cap) (asks : List (Nat × Nat) := []) : Sys :=
  s.keep { cmd := i, bight := some b, eng := q.eng, cap := some cap, foot := q.foot s b cap, waitH := if cap.flying then none else q.wait, ord := ord, asks := asks }

/-- The regions at whose controllers the requests of an instruction stand (R197, R217). -/
def Sys.standsAt (s : Sys) (b : Nat) (f : Foot) : List (Nat × Nat) :=
  match s.runPart b with
  | some p => ((f.memRd ++ f.memWr).flatMap (fun r => if s.memWaits p r.1 r.2 then s.asksOf p r.1 r.2 else [])).eraseDups
  | none => []

/-- Issues a dispatched instruction when nothing holds it. -/
def Sys.tryIssue (s : Sys) (i : Instr) (b ord : Nat) (q : QOp) (cap : Cap) : Sys :=
  if cap.flying then
    match q.finish s b cap with
    | some s => { s with replay := none }
    | none => s.keepQueued i b ord q cap
  else
    let f := q.foot s b cap
    if (s.older b ord).any (fun h => h.queued && h.eng == q.eng) || s.hazard b ord cap.seq f || !s.hitchFree b ord q.wait ||
        (q.eng == .mover && decide (8 ≤ (s.waiting.filter (fun h => h.bight == some b && h.inFlight)).length)) ||
        !s.slackFits b (s.saveBytes b cap.seq q.eng f + (if s.holds b cap.seq then q.items s b cap else 0)) then
      s.keepQueued i b ord q cap
    else if !q.ready s b cap then s.keepQueued i b ord q cap (s.standsAt b f)
    else
      let s := (s.consume b cap.seq q.wait).noteSaves b cap.seq q.eng f
      match q.effect s b cap with
      | (s, some fly) =>
        (match q.finish s b fly with
         | some s => { s with replay := none }
         | none => s.keepQueued i b ord q { fly with flying := true })
      | (s, none) =>
        let s := s.onArch b cap.seq (fun a => a.setHitchOpt q.set cap.seq q.eng)
        { s with replay := none }

/-- Reads the descriptor that a register names, with the worst mark over it. -/
def readDesc (a : BightArch) (d : Option (BitVec 5 × Nat)) : Bytes × Mark :=
  match d with
  | none => ([], .clean)
  | some (r, n) =>
    let addr := lockerAddr (a.s r).toNat
    (a.locker.read addr n, a.locker.worst addr n)

/-- The locker range of a descriptor. -/
def descFoot (a : BightArch) (d : Option (BitVec 5 × Nat)) : Foot :=
  match d with
  | none => Foot.none
  | some (r, n) => { Foot.none with rd := [(lockerAddr (a.s r).toNat, n)] }

/-- Dispatches a queue instruction, or stalls the Halyard core (R90, R104). -/
def Sys.queueOp (s : Sys) (i : Instr) (b : Nat) (q : QOp) : Sys :=
  match s.replay with
  | some { cap := some cap, ord := ord, .. } => (s.tryIssue i b ord q cap).settle b
  | _ =>
    s.front i b q.eng (fun s =>
      let x := s.bight b
      let ord := s.ordNow
      let d := readDesc x.arch q.desc
      let cap : Cap := { seq := x.nextSeq, regs := q.regs x.arch, desc := d.1, descMark := d.2, entry := none, flying := false, msg := none, sentBad := false, lost := false }
      let push := q.push cap
      if decide (queueSize q.eng ≤ ((s.older b ord).filter (fun h => h.queued && h.eng == q.eng)).length) ||
          s.hazard b ord x.nextSeq (descFoot x.arch q.desc) || (push && decide (32 ≤ x.arch.fifo.length)) then
        s.keepFront i b q.eng
      else
        let cap := { cap with entry := if push then some x.arch.fifoNext else none }
        let a := (if push then x.arch.reserve else x.arch).step8
        (s.setBight b { x with arch := a, nextSeq := x.nextSeq + 1 }).tryIssue i b ord q cap)

end Sys2Proof.Machine
end

