-- ==== Sys2Proof/Machine/Vector.lean ====
section
/-!
DEFINITION. The meanings of the vector instructions (R44 to R48, R69, R94 to R104).
-/

namespace Sys2Proof.Machine

/-- Applies the result of a Serving unit operation, to the Bight and to what an open region would restore, and records the
poison it consumed. -/
def Sys.onVec (s : Sys) (b : Nat) (cap : Cap) (g : Cap → BightArch → VRes) : Sys :=
  let x := s.bight b
  let r := g cap x.arch
  (s.setBight b { x with arch := r.arch, region := x.region.map (fun e => if cap.seq < e.first then { e with snap := (g cap e.snap).arch } else e) }).saw b r.seen

/-- The registers captured at dispatch: s[VA[4:0]] and s[VB[4:0]] (R90, R94). -/
def vecRegs (f : VectorF) (a : BightArch) : List Word64 := [a.s (f.va.setWidth 5), a.s (f.vb.setWidth 5)]

/-- Vector registers that an operation with `n` destinations writes. -/
def vecDest (f : VectorF) (n : Nat) : List Nat := (List.range n).map (fun i => (f.vd.toNat + i) % 64)

/-- A vector instruction: what it reads and writes, and its operation. -/
def vecQ (f : VectorF) (push : Bool) (foot : Cap → Foot) (g : Cap → BightArch → VRes) : QOp :=
  { eng := .vector, wait := optHitch f.waitEn f.waitH, set := optHitch f.setEn f.setH, regs := vecRegs f, desc := none
    push := fun _ => push, foot := fun _ _ cap => foot cap, ready := fun _ _ _ => true, items := fun _ _ _ => 0
    effect := fun s b cap => (s.onVec b cap g, none), finish := fun s _ _ => some s }

/-- An instruction on registers with `n` destination registers. -/
def State.vector (s : State) (i : Instr) (f : VectorF) (n : Nat) (push : Bool) (g : Cap → BightArch → VRes) :
    Host.Outcome State Fault Refusal :=
  s.onSys (fun y => y.queueOp i f.b.val (vecQ f push (fun _ => { Foot.none with vregs := vecDest f n }) g))

/-- VRED and VSOFTMAX push a record when AUX[7] is set. -/
def sumEn (f : VectorF) : Bool := f.aux.getLsbD 7

def execVadd (f : VectorF) (s : State) : Host.Outcome State Fault Refusal := s.vector (.vadd f) f 1 false (vecBin vAdd f)
def execVsub (f : VectorF) (s : State) : Host.Outcome State Fault Refusal := s.vector (.vsub f) f 1 false (vecBin vSub f)
def execVmul (f : VectorF) (s : State) : Host.Outcome State Fault Refusal := s.vector (.vmul f) f 1 false (vecBin vMul f)
def execVfma (f : VectorF) (s : State) : Host.Outcome State Fault Refusal := s.vector (.vfma f) f 1 false (vecFma f)
def execVdiv (f : VectorF) (s : State) : Host.Outcome State Fault Refusal := s.vector (.vdiv f) f 1 false (vecBin0 true fpDiv f)
def execVrcp (f : VectorF) (s : State) : Host.Outcome State Fault Refusal := s.vector (.vrcp f) f 1 false (fun _ a => vecUn0 true fpRcp f a)
def execVsqrt (f : VectorF) (s : State) : Host.Outcome State Fault Refusal := s.vector (.vsqrt f) f 1 false (fun _ a => vecUn0 true fpSqrt f a)
def execVrsqrt (f : VectorF) (s : State) : Host.Outcome State Fault Refusal := s.vector (.vrsqrt f) f 1 false (fun _ a => vecUn0 true fpRsqrt f a)
def execVexp (f : VectorF) (s : State) : Host.Outcome State Fault Refusal := s.vector (.vexp f) f 1 false (fun _ a => vecUn0 true fpExp f a)
def execVexp2 (f : VectorF) (s : State) : Host.Outcome State Fault Refusal := s.vector (.vexp2 f) f 1 false (fun _ a => vecUn0 true fpExp2 f a)
def execVlog (f : VectorF) (s : State) : Host.Outcome State Fault Refusal := s.vector (.vlog f) f 1 false (fun _ a => vecUn0 true fpLog f a)
def execVlog2 (f : VectorF) (s : State) : Host.Outcome State Fault Refusal := s.vector (.vlog2 f) f 1 false (fun _ a => vecUn0 true fpLog2 f a)
def execVtanh (f : VectorF) (s : State) : Host.Outcome State Fault Refusal := s.vector (.vtanh f) f 1 false (fun _ a => vecUn0 true fpTanh f a)
def execVsigmoid (f : VectorF) (s : State) : Host.Outcome State Fault Refusal := s.vector (.vsigmoid f) f 1 false (fun _ a => vecUn0 true fpSigmoid f a)
def execVerf (f : VectorF) (s : State) : Host.Outcome State Fault Refusal := s.vector (.verf f) f 1 false (fun _ a => vecUn0 true fpErf f a)
def execVmin (f : VectorF) (s : State) : Host.Outcome State Fault Refusal := s.vector (.vmin f) f 1 false (vecBin vMin f)
def execVmax (f : VectorF) (s : State) : Host.Outcome State Fault Refusal := s.vector (.vmax f) f 1 false (vecBin vMax f)
def execVabs (f : VectorF) (s : State) : Host.Outcome State Fault Refusal := s.vector (.vabs f) f 1 false (vecUn vAbs f)
def execVneg (f : VectorF) (s : State) : Host.Outcome State Fault Refusal := s.vector (.vneg f) f 1 false (vecUn vNeg f)
def execVmov (f : VectorF) (s : State) : Host.Outcome State Fault Refusal := s.vector (.vmov f) f 1 false (vecMov f)
def execVsel (f : VectorF) (s : State) : Host.Outcome State Fault Refusal := s.vector (.vsel f) f 1 false (vecSel f)
def execVcmp (f : VectorF) (s : State) : Host.Outcome State Fault Refusal := s.vector (.vcmp f) f 0 false (vecCmp f)
def execVand (f : VectorF) (s : State) : Host.Outcome State Fault Refusal := s.vector (.vand f) f 1 false (vecBin0 false (fun a b => a &&& b) f)
def execVor (f : VectorF) (s : State) : Host.Outcome State Fault Refusal := s.vector (.vor f) f 1 false (vecBin0 false (fun a b => a ||| b) f)
def execVxor (f : VectorF) (s : State) : Host.Outcome State Fault Refusal := s.vector (.vxor f) f 1 false (vecBin0 false (fun a b => a ^^^ b) f)
def execVnot (f : VectorF) (s : State) : Host.Outcome State Fault Refusal := s.vector (.vnot f) f 1 false (fun _ a => vecUn0 false (fun x => ~~~ x) f a)
def execVshl (f : VectorF) (s : State) : Host.Outcome State Fault Refusal := s.vector (.vshl f) f 1 false (vecBin0 false vShl f)
def execVshr (f : VectorF) (s : State) : Host.Outcome State Fault Refusal := s.vector (.vshr f) f 1 false (vecBin0 false vShr f)
def execVsra (f : VectorF) (s : State) : Host.Outcome State Fault Refusal := s.vector (.vsra f) f 1 false (vecBin0 false vSra f)
def execPand (f : VectorF) (s : State) : Host.Outcome State Fault Refusal := s.vector (.pand f) f 0 false (fun _ a => predBin (fun x y => x && y) f a)
def execPor (f : VectorF) (s : State) : Host.Outcome State Fault Refusal := s.vector (.por f) f 0 false (fun _ a => predBin (fun x y => x || y) f a)
def execPxor (f : VectorF) (s : State) : Host.Outcome State Fault Refusal := s.vector (.pxor f) f 0 false (fun _ a => predBin (fun x y => x ^^ y) f a)
def execPnot (f : VectorF) (s : State) : Host.Outcome State Fault Refusal := s.vector (.pnot f) f 0 false (fun _ a => predBin (fun x _ => !x) f a)
def execPrange (f : VectorF) (s : State) : Host.Outcome State Fault Refusal := s.vector (.prange f) f 0 false (predRange f)
def execVperm (f : VectorF) (s : State) : Host.Outcome State Fault Refusal := s.vector (.vperm f) f 1 false (vecPerm f)
def execVrot (f : VectorF) (s : State) : Host.Outcome State Fault Refusal := s.vector (.vrot f) f 1 false (vecRot f)
def execVscan (f : VectorF) (s : State) : Host.Outcome State Fault Refusal := s.vector (.vscan f) f 1 false (vecScan f)
def execVred (f : VectorF) (s : State) : Host.Outcome State Fault Refusal := s.vector (.vred f) f 1 (sumEn f) (vecRed f)
def execVsoftmax (f : VectorF) (s : State) : Host.Outcome State Fault Refusal := s.vector (.vsoftmax f) f (f.aux.toNat % 64 + 1) (sumEn f) (vecSoftmax f)
def execVcvt (f : VectorF) (s : State) : Host.Outcome State Fault Refusal := s.vector (.vcvt f) f 1 false (vecCvt f)

/-! Instructions that name the locker, a slot or the FIFO -/

/-- A locker range from s[VA[4:0]]; one that runs past the locker is not accessed (R461). -/
def vecRange (cap : Cap) (n : Nat) : List (Nat × Nat) := if inLocker (vecAddr cap) n then [(vecAddr cap, n)] else []

def execVblkSt (f : VectorF) (s : State) : Host.Outcome State Fault Refusal :=
  s.onSys (fun y => y.queueOp (.vblkSt f) f.b.val
    (vecQ f false (fun cap => { Foot.none with wr := vecRange cap (fmtRecord (auxFmt f)) }) (vecBlkSt f)))

def execVblkLd (f : VectorF) (s : State) : Host.Outcome State Fault Refusal :=
  s.onSys (fun y => y.queueOp (.vblkLd f) f.b.val
    (vecQ f false (fun cap => { Foot.none with rd := vecRange cap (fmtRecord (auxFmt f)), vregs := vecDest f 32 }) (vecBlkLd f)))

def execVld (f : VectorF) (s : State) : Host.Outcome State Fault Refusal :=
  s.onSys (fun y => y.queueOp (.vld f) f.b.val
    (vecQ f false (fun cap => { Foot.none with rd := vecRange cap 2048, vregs := vecDest f 1 }) (vecLd f)))

def execVst (f : VectorF) (s : State) : Host.Outcome State Fault Refusal :=
  s.onSys (fun y => y.queueOp (.vst f) f.b.val
    (vecQ f false (fun cap => { Foot.none with wr := vecRange cap 2048 }) (vecSt f)))

/-- VSLOT takes its place among the accesses to its slot (R65). -/
def execVslot (f : VectorF) (s : State) : Host.Outcome State Fault Refusal :=
  s.onSys (fun y => y.queueOp (.vslot f) f.b.val
    (vecQ f false (fun _ => { Foot.none with slots := [f.aux.toNat % 8], vregs := vecDest f 32 }) (fun _ a => vecSlot f a)))

def execVemit (f : VectorF) (s : State) : Host.Outcome State Fault Refusal := s.vector (.vemit f) f 0 true (vecEmit f)

end Sys2Proof.Machine
end

