-- ==== Sys2Proof/Machine/Matrix.lean ====
section
/-!
DEFINITION. The meanings of the matrix instructions and of the drain pipeline's turn (R56 to R79, R119 to R121).
-/

namespace Sys2Proof.Machine

/-- LAY.MMA: waits while its slot is DRAINING (R66). An instruction without effect names no range and, as LAY.OPEN without effect, does
not wait for a DRAINING slot (DESIGN CHOICE, log 130). -/
def mmaQ (f : MmaF) : QOp :=
  { eng := .matrix, wait := optHitch f.waitEn f.waitH, set := optHitch f.setEn f.setH
    regs := fun a => [a.s f.aReg, a.s f.bReg], desc := none, push := fun _ => false
    foot := fun _ _ cap => { Foot.none with
      slots := [f.slot.val]
      rd := if mmaBad f cap then [] else (match pairFmts f.pair.toNat with
        | some (fa, fb) => [(mmaA cap, fmtRecord fa), (mmaB cap, fmtRecord fb)]
        | none => []) }
    ready := fun s b cap => mmaBad f cap || ((s.bight b).arch.slot f.slot).state != .draining
    items := fun _ _ _ => 0
    effect := fun s b cap => (s.onVec b cap (layMma f), none), finish := fun s _ _ => some s }

def execLayMma (f : MmaF) (s : State) : Host.Outcome State Fault Refusal := s.onSys (fun y => y.queueOp (.layMma f) f.b.val (mmaQ f))

/-- The common parts of the other matrix instructions. -/
def slotQ (f : SlotF) (set : Option (BitVec 5)) (desc : Option (BitVec 5 × Nat)) (foot : Cap → Foot) (skip : Cap → Bool)
    (effect : Sys → Nat → Cap → Sys) : QOp :=
  { eng := .matrix, wait := optHitch f.waitEn f.waitH, set := set, regs := fun a => [a.s f.aReg], desc := desc, push := fun _ => false
    foot := fun _ _ cap => { foot cap with slots := [f.slot.val] }
    ready := fun s b cap => skip cap || ((s.bight b).arch.slot f.slot).state != .draining
    items := fun _ _ _ => 0, effect := fun s b cap => (effect s b cap, none), finish := fun s _ _ => some s }

/-- LAY.OPEN that has no effect (R63, R461). -/
def openBad (f : SlotF) (cap : Cap) : Bool := decide (2 ≤ f.src.toNat) || (f.src == 1#2 && !inLocker (slotAddr cap) 65536)

def execLayOpen (f : SlotF) (s : State) : Host.Outcome State Fault Refusal :=
  s.onSys (fun y => y.queueOp (.layOpen f) f.b.val
    (slotQ f (optHitch f.setEn f.setH) none
      (fun cap => if f.src = 1#2 ∧ inLocker (slotAddr cap) 65536 then { Foot.none with rd := [(slotAddr cap, 65536)] } else Foot.none)
      (openBad f) (fun s b cap => s.onVec b cap (layOpen f))))

/-- A slot enters DRAINING and joins the pipeline; a FREE slot leaves SLOT_NOT_OPEN and SET_H at once, and SLOT_NOT_OPEN alone where the
descriptor or the range is bad too (R63, R64, R66; DESIGN CHOICE, log 173). -/
def Sys.enterDrain (s : Sys) (b : Nat) (f : SlotF) (cap : Cap) (spill : Bool) : Sys :=
  let x := s.bight b
  if (x.arch.slot f.slot).state = .free then
    s.onArch b cap.seq (fun a => (a.orLay lsSlotNotOpen).setHitchOpt (optHitch f.setEn f.setH) cap.seq .matrix)
  else
    let d : DrainItem := { seq := cap.seq, slot := f.slot, spill := spill, addr := slotAddr cap, desc := cap.desc, descMark := cap.descMark
                           setH := optHitch f.setEn f.setH }
    let s := s.onArch b cap.seq (layEnterDrain f)
    s.setBight b { s.bight b with drains := (s.bight b).drains ++ [d] }

/-- What a LAY.DRAIN reads and writes: nothing when it writes nothing (R76). -/
def drainFoot (cap : Cap) : Foot :=
  if cap.descMark.isBad || ddUndefined cap.desc || !allInLocker (ddReads cap.desc ++ ddWrites cap.desc) then Foot.none
  else { Foot.none with rd := ddReads cap.desc, wr := ddWrites cap.desc }

def execLayDrain (f : SlotF) (s : State) : Host.Outcome State Fault Refusal :=
  s.onSys (fun y => y.queueOp (.layDrain f) f.b.val
    (slotQ f none (some (f.aReg, 128)) drainFoot (fun _ => false) (fun s b cap => s.enterDrain b f cap false)))

def execLaySpill (f : SlotF) (s : State) : Host.Outcome State Fault Refusal :=
  s.onSys (fun y => y.queueOp (.laySpill f) f.b.val
    (slotQ f none none (fun cap => if inLocker (slotAddr cap) 65536 then { Foot.none with wr := [(slotAddr cap, 65536)] } else Foot.none)
      (fun _ => false) (fun s b cap => s.enterDrain b f cap true)))

def execLayDiscard (f : SlotF) (s : State) : Host.Outcome State Fault Refusal :=
  s.onSys (fun y => y.queueOp (.layDiscard f) f.b.val
    (slotQ f (optHitch f.setEn f.setH) none (fun _ => Foot.none) (fun _ => false)
      (fun s b cap => s.onVec b cap (fun _ a => layDiscard f a))))

/-- The contributions that a drain makes to statistics records (R119, R120): none of a Bight that runs nothing. -/
def Sys.contribute (s : Sys) (b seq : Nat) (xs : List StatSum) : Sys :=
  match s.runPart b with
  | some p => xs.foldl (fun s x => s.effect b seq 256 (.stat p x)) s
  | none => s

/-- The drain pipeline takes its oldest slot (R72, R77): outputs, statistics, the slot FREE, SET_H. A merge that does not
fit the slack buffer stalls it (R186). With nothing to drain while a drain still waits in the matrix queue, the turn waits too. -/
def execDrainPipelineSlot (b : Fin 80) (s : State) : Host.Outcome State Fault Refusal :=
  s.onSys (fun y =>
    let x := y.bight b.val
    let i := Instr.drainPipelineSlot b
    match x.drains with
    | [] => if y.waiting.any (fun h => h.bight == some b.val && h.eng == .matrix) then y.hold i else { y with replay := none }
    | d :: rest =>
      let r := drainSlot d x.arch
      if y.holds b.val d.seq && !y.slackFits b.val (256 * r.stats.length) then y.hold i
      else
        let y := y.setBight b.val { x with arch := r.arch, drains := rest,
                                           region := x.region.map (fun g => if d.seq < g.first then { g with snap := (drainSlot d g.snap).arch } else g) }
        { ((y.contribute b.val d.seq r.stats).saw b.val r.seen).settle b.val with replay := none })

end Sys2Proof.Machine
end

