-- ==== Sys2Proof/Machine/Mover.lean ====
section
/-!
DEFINITION. The meanings of the mover instructions (R112 to R115, R210, R272, R273), and of one atomic record (R211 to R214).
-/

namespace Sys2Proof.Machine

/-! Descriptor fields (R113) -/

def mdAddr (d : Bytes) : Nat := fieldN d 0 8
def mdStride (d : Bytes) : Nat := fieldN d 8 8
def mdLocker (d : Bytes) : Nat := lockerAddr (fieldN d 0x10 4)
def mdLocker2 (d : Bytes) : Nat := lockerAddr (fieldN d 0x14 4)
def mdBytes (d : Bytes) : Nat := fieldN d 0x18 4
def mdLines (d : Bytes) : Nat := fieldN d 0x1C 4
def mdLockerStride (d : Bytes) : Nat := fieldN d 0x20 4
def mdDest (d : Bytes) : Nat := fieldN d 0x24 1
def mdDestHitch (d : Bytes) : BitVec 5 := BitVec.ofNat 5 (fieldN d 0x25 1)
def mdSrcFmt (d : Bytes) : Option Fmt := if fieldN d 0x26 1 ≤ 4 then Fmt.ofCode (fieldN d 0x26 1) else none
def mdDstFmt (d : Bytes) : Option Fmt := if fieldN d 0x27 1 ≤ 4 then Fmt.ofCode (fieldN d 0x27 1) else none
def mdRows (d : Bytes) : Nat := fieldN d 0x2C 4
def mdCols (d : Bytes) : Nat := fieldN d 0x30 4

/-- LINE_BYTES, LINES and LOCKER_STRIDE are in range. -/
def mdLengths (d : Bytes) : Bool :=
  decide (mdBytes d % 256 = 0) && decide (256 ≤ mdBytes d) && decide (mdBytes d ≤ 1048576) && decide (1 ≤ mdLines d) &&
    decide (mdLines d ≤ 65536) && decide (mdLockerStride d % 256 = 0)

/-- Address of line `l` in memory, in 64 bits. -/
def mdLine (d : Bytes) (l : Nat) : Nat := (mdAddr d + l * mdStride d) % 2 ^ 64
def mdLockerLine (d : Bytes) (base l : Nat) : Nat := base + l * mdLockerStride d

/-- Ranges of the lines in memory and in the locker. -/
def mdMemRanges (d : Bytes) : List (Nat × Nat) := (List.range (mdLines d)).map (fun l => (mdLine d l, mdBytes d))
def mdLockerRanges (d : Bytes) (base : Nat) : List (Nat × Nat) := (List.range (mdLines d)).map (fun l => (mdLockerLine d base l, mdBytes d))

/-- Whether every line lies within the locker (R461). -/
def mdInLocker (d : Bytes) (base : Nat) : Bool := decide (mdLockerLine d base (mdLines d - 1) + mdBytes d ≤ lockerBytes)

/-! Faults of a mover instruction (R115) -/

/-- Why a mover instruction moves nothing. -/
inductive MoveBad where
  | encoding | range
  deriving DecidableEq, Repr

/-- The partition of a Bight's RUN, by number and contents. -/
def Sys.moverPart (s : Sys) (b : Nat) : Option Partition := (s.runPart b).map (fun p => s.part p)

/-- Sets ADDR_FAULT with its record: 0 mover, 1 atomic. -/
def Sys.addrFault (s : Sys) (b seq atomic : Nat) : Sys :=
  let slack := s.holds b seq
  let s := s.onArch b seq (fun a => a.orFairlead fsAddrFault)
  s.logRec { domain := domArith (b / 8), unit := fnStrand (b / 8), part := (s.runPart b).getD partNone, location := locNone, event := 0x0501,
             arg0 := b, arg1 := atomic, slack := slack }

/-- Moves nothing and says why; a poisoned descriptor is a read of poison (R115, R432). -/
def Sys.moveBad (s : Sys) (b : Nat) (cap : Cap) (e : MoveBad) : Sys :=
  match e with
  | .encoding => s.onArch b cap.seq (fun a => a.orFairlead fsBadEncoding)
  | .range => s.addrFault b cap.seq 0
def Sys.movePoisonedDesc (s : Sys) (b : Nat) (cap : Cap) : Sys :=
  (s.onArch b cap.seq (fun a => a.orFairlead stPoison)).saw b cap.descMark

/-- Poison of bytes that were moved: POISON of the unit, and a read of poison by the RUN (R115, R251, R432, R434, R435, R449). -/
def Sys.movedPoison (s : Sys) (b seq : Nat) (m : Mark) : Sys :=
  if m.isBad then (s.onArch b seq (fun a => a.orFairlead stPoison)).saw b m else s

/-! Data -/

/-- Lines of memory as an instruction sees them. -/
def Sys.memLines (s : Sys) (b seq p : Nat) (d : Bytes) : List Blob := (List.range (mdLines d)).map (fun l => s.readSeen b seq p (mdLine d l) (mdBytes d))
/-- Lines of the locker. -/
def BightArch.lockerLines (a : BightArch) (d : Bytes) (base : Nat) : List Blob :=
  (List.range (mdLines d)).map (fun l => a.locker.blob (mdLockerLine d base l) (mdBytes d))
/-- Writes lines into the locker. -/
def BightArch.putLines (a : BightArch) (d : Bytes) (base : Nat) (bs : List Blob) : BightArch :=
  { a with locker := (bs.zipIdx).foldl (fun m e => m.putBlob (mdLockerLine d base e.2) e.1) a.locker }
def worstOf (bs : List Blob) : Mark := bs.foldl (fun w b => w.worse b.worst) .clean

/-- The granule of the first poisoned line that was loaded, for a later POISON_CONSUMED (R442). -/
def Sys.noteSeenAt (s : Sys) (b p : Nat) (d : Bytes) (bs : List Blob) : Sys :=
  let s := (bs.zipIdx).foldl (fun s e => (s.noteRead p (mdLine d e.2) (mdBytes d)).sharedPoison p (mdLine d e.2) e.1) s
  match (bs.zipIdx).find? (fun e => e.1.worst.isBad) with
  | some e =>
    let at_ := mdLine d e.2 + 16 * (((e.1.bad.head?).map (fun x => x.1)).getD 0)
    (match (s.part p).place at_ with
     | some k => s.setBight b { s.bight b with seenAt := some ((s.part p).location k) }
     | none => s)
  | none => s

/-! Atomic batches (R210 to R214) -/

/-- Whether lines of memory that an instruction names wait for a memory that accepts no request (R217). -/
def Sys.rangesWait (s : Sys) (b : Nat) (rs : List (Nat × Nat)) : Bool := (s.runPart b).any (fun p => rs.any (fun r => s.memWaits p r.1 r.2))

/-- A mover descriptor that names space 0x3. -/
def mdAtomic (d : Bytes) : Bool := addrSpace (mdAddr d) == 3

/-- The whole Splice window (R210). -/
def windowAll : Nat × Nat := (mkAddr 2 0, 80 * windowStep)

/-- What an atomic batch reads and writes for the hazard checks: its locker lines and the whole window (R210). -/
def atomicFoot (d : Bytes) : Foot :=
  { Foot.none with rd := mdLockerRanges d (mdLocker d), wr := mdLockerRanges d (mdLocker d), memRd := [windowAll], memWr := [windowAll] }

/-- A request record as its 32 bytes hold it. -/
def atomicReq (bs : Bytes) (m : Mark) : AtomicReq :=
  { op := fieldN bs 0 1, size := fieldN bs 1 1, target := fieldN bs 8 8, operand := fieldN bs 0x10 8, compare := fieldN bs 0x18 8
    reserved := !zeroField bs 3 5, mark := m }

/-- What a record's STATUS says of the Bight's status word and the Logline (R214). -/
def Sys.atomicNote (s : Sys) (b seq st : Nat) (m : Mark) : Sys :=
  match st with
  | 2 => s.onArch b seq (fun a => a.orFairlead fsBadEncoding)
  | 3 => s.addrFault b seq 1
  | 4 => (s.onArch b seq (fun a => a.orFairlead stPoison)).saw b m
  | _ => s

/-- Writes STATUS and OLD into the record at a locker address (R211). -/
def atomicRespond (place st old : Nat) (a : BightArch) : BightArch :=
  { a with locker := (a.locker.put (place + 2) (leBytes 1 st)).put (place + 0x18) (leBytes 8 old) }

/-- Performs one record of a batch. OLD of a BAD_OP record that names a location is its value; of a BAD_TARGET record it is a free value,
since no location is named. Poison of the location is decided where the operation is performed (R214). -/
def Sys.atomicRecord (s : Sys) (b seq place : Nat) (r : AtomicReq) (respond : Bool) : Sys :=
  let p := (s.runPart b).getD 80
  let answer := fun (s : Sys) (st old : Nat) => if respond then s.onArch b seq (atomicRespond place st old) else s
  match (s.insideOf b).atomicBad p r with
  | some st =>
    let s := s.atomicNote b seq st r.mark
    if st = 4 then answer s 4 0
    else match s.atomicOld p r with
      | some v => answer s st v
      | none => if respond then (answer s st (s.drawn.toNat % 2 ^ 64)).took 1 else s
  | none =>
    if respond then
      let m := (s.readPart p r.target r.size).worst
      if m.isBad then answer (s.atomicNote b seq 4 m) 4 0
      else
        let (s, st, old) := s.atomicAt p r.target r.size r.op r.operand r.compare
        answer s st old
    else s.effect b seq 256 (.atomic p r.target r.size r.op r.operand r.compare)

/-- The locations that the records of a batch name. -/
def Sys.atomicTargets (s : Sys) (b : Nat) (d : Bytes) : List (Nat × Nat) :=
  let m := (s.bight b).arch.locker
  (mdLockerRanges d (mdLocker d)).flatMap (fun l => (List.range (l.2 / 32)).filterMap (fun i =>
    let r := atomicReq (m.read (l.1 + 32 * i) 32) (m.worst (l.1 + 32 * i) 32)
    if ((s.insideOf b).atomicBad ((s.runPart b).getD 80) r).isNone then some (r.target, r.size) else none))

/-- Performs the records of a batch in ascending locker order (R213). -/
def Sys.atomicBatch (s : Sys) (b : Nat) (cap : Cap) (respond : Bool) : Sys :=
  let d := cap.desc
  (List.range (mdLines d)).foldl (fun s l =>
    (List.range (mdBytes d / 32)).foldl (fun s i =>
      let place := mdLockerLine d (mdLocker d) l + 32 * i
      let m := (s.bight b).arch.locker
      s.atomicRecord b cap.seq place (atomicReq (m.read place 32) (m.worst place 32)) respond) s) s

/-! Checks (R115, R210) -/

/-- Why a LOAD, STORE, COPY or SEND moves nothing. MEM_ADDR is a field of LOAD and STORE only (R113). A descriptor with a bad length
and a range outside sets BAD_ENCODING alone (DESIGN CHOICE, log 134). -/
def Sys.moveCheck (s : Sys) (b : Nat) (d : Bytes) (load store two send : Bool) : Option MoveBad :=
  if !mdLengths d then some .encoding else
  match (s.insideOf b).moverPart b with
  | none => some .range
  | some P =>
    if !mdInLocker d (mdLocker d) || (two && !mdInLocker d (mdLocker2 d)) then some .range
    else if (load || store) && mdAtomic d then none
    else if load && !(mdMemRanges d).all (fun r => P.owns r.1 r.2) then some .range
    else if store && !(mdMemRanges d).all (fun r => P.mayWrite r.1 r.2) then some .range
    else if send && !P.hanks.contains (mdDest d) then some .range
    else none

/-- Whether a MOV.SEND of a RUN of the step region is delivered at once: its destination runs a RUN of the batch (R182). -/
def Sys.deliversInside (s : Sys) (b dest : Nat) : Bool :=
  (s.sigmaOf b).isSome && s.batchOn ((((s.bight b).run).map (fun r => r.ctx)).getD 0) dest

/-- Common parts of the moves; one that a region holds sets SET_H and completes at issue (DESIGN CHOICE, log 175): `load`, `store`, `two` and `send` say what the operation uses; `act` is its effect when in order. -/
def moveQ (f : MoverF) (load store two send : Bool) (foot : Bytes → Foot) (ready : Sys → Nat → Cap → Bool)
    (act : Sys → Nat → Cap → Sys) : QOp :=
  { eng := .mover, wait := optHitch f.waitEn f.waitH, set := optHitch f.setEn f.setH, regs := fun _ => [], desc := some (f.descReg, 64)
    push := fun _ => false
    foot := fun s b cap => if cap.descMark.isBad || (s.moveCheck b cap.desc load store two send).isSome then Foot.none else foot cap.desc
    ready := fun s b cap => cap.descMark.isBad || (s.moveCheck b cap.desc load store two send).isSome || ready s b cap
    items := fun s b cap => if cap.descMark.isBad || (s.moveCheck b cap.desc load store two send).isSome then 0
      else if store && mdAtomic cap.desc then mdLines cap.desc * mdBytes cap.desc / 32 * 256
      else if store || (send && !s.deliversInside b (mdDest cap.desc)) then heldSize (mdLines cap.desc * mdBytes cap.desc) else 0
    effect := fun s b cap =>
      if cap.descMark.isBad then (s.movePoisonedDesc b cap, none)
      else match s.moveCheck b cap.desc load store two send with
        | some e => (s.moveBad b cap e, none)
        | none => (act s b cap, none)
    finish := fun s _ _ => some s }

/-- No further condition. -/
def always (_ : Sys) (_ : Nat) (_ : Cap) : Bool := true

def execMovLoad (f : MoverF) (s : State) : Host.Outcome State Fault Refusal :=
  s.onSys (fun y => y.queueOp (.movLoad f) f.b.val
    (moveQ f true false false false
      (fun d => if mdAtomic d then atomicFoot d
        else { Foot.none with wr := mdLockerRanges d (mdLocker d), memRd := mdMemRanges d })
      (fun y b cap => if mdAtomic cap.desc then !y.holds b cap.seq && !y.rangesWait b (y.atomicTargets b cap.desc) else !y.rangesWait b (mdMemRanges cap.desc))
      (fun y b cap =>
        let d := cap.desc
        if mdAtomic d then y.atomicBatch b cap true else
        let p := (y.runPart b).getD 80
        let bs := y.memLines b cap.seq p d
        ((y.onArch b cap.seq (fun a => a.putLines d (mdLocker d) bs)).noteSeenAt b p d bs).movedPoison b cap.seq (worstOf bs))))

def execMovStore (f : MoverF) (s : State) : Host.Outcome State Fault Refusal :=
  s.onSys (fun y => y.queueOp (.movStore f) f.b.val
    (moveQ f false true false false
      (fun d => if mdAtomic d then atomicFoot d
        else { Foot.none with rd := mdLockerRanges d (mdLocker d), memWr := mdMemRanges d })
      (fun y b cap => y.holds b cap.seq || !y.rangesWait b (if mdAtomic cap.desc then y.atomicTargets b cap.desc else mdMemRanges cap.desc))
      (fun y b cap =>
        let d := cap.desc
        if mdAtomic d then y.atomicBatch b cap false else
        let p := (y.runPart b).getD 80
        let bs := (y.bight b).arch.lockerLines d (mdLocker d)
        let y := y.movedPoison b cap.seq (worstOf bs)
        (bs.zipIdx).foldl (fun y e =>
          y.effect b cap.seq (if e.2 = 0 then heldSize (mdLines d * mdBytes d) else 0) (.store p (mdLine d e.2) e.1)) y)))

def execMovCopy (f : MoverF) (s : State) : Host.Outcome State Fault Refusal :=
  s.onSys (fun y => y.queueOp (.movCopy f) f.b.val
    (moveQ f false false true false
      (fun d => { Foot.none with rd := mdLockerRanges d (mdLocker d), wr := mdLockerRanges d (mdLocker2 d) })
      always
      (fun y b cap =>
        let d := cap.desc
        let bs := (y.bight b).arch.lockerLines d (mdLocker d)
        (y.onArch b cap.seq (fun a => a.putLines d (mdLocker2 d) (a.lockerLines d (mdLocker d)))).movedPoison b cap.seq (worstOf bs))))

/-- Whether the set of DEST_HITCH that a MOV.SEND made still waits for the hitch to be consumed (R92). -/
def Sys.sendWaits (s : Sys) (b : Nat) (cap : Cap) : Bool :=
  (s.bight b).run.any (fun r => (s.archOf r.ctx (mdDest cap.desc)).hitchSets.any (fun w => w.owner == some (b, cap.seq)))

/-- A MOV.SEND that is performed and whose set of DEST_HITCH waits is in flight, with its own SET_H set, until that set has been made (R92, R112). -/
def QOp.sends (q : QOp) : QOp :=
  { q with
    effect := fun s b cap =>
      let r := q.effect s b cap
      if r.1.sendWaits b cap then (r.1.onArch b cap.seq (fun a => a.setHitchOpt q.set cap.seq q.eng), some { cap with flying := true }) else r
    finish := fun s b cap => if s.sendWaits b cap then none else some s }

def execMovSend (f : MoverF) (s : State) : Host.Outcome State Fault Refusal :=
  s.onSys (fun y => y.queueOp (.movSend f) f.b.val
    (QOp.sends <| moveQ f false false true true
      (fun d => { Foot.none with rd := mdLockerRanges d (mdLocker d) })
      (fun y b cap =>
        let d := cap.desc
        !y.deliversInside b (mdDest d) ||
          y.slackFits (mdDest d) (256 * (y.stepSaves (mdDest d) (mdLockerRanges d (mdLocker2 d))).length))
      (fun y b cap =>
        let d := cap.desc
        let c := (((y.bight b).run).map (fun r => r.ctx)).getD 0
        let bs := (y.bight b).arch.lockerLines d (mdLocker d)
        let y := y.movedPoison b cap.seq (worstOf bs)
        let y := if y.deliversInside b (mdDest d) then y.noteStepSaves (mdDest d) (mdLockerRanges d (mdLocker2 d)) else y
        let y := (bs.zipIdx).foldl (fun y e =>
          y.effect b cap.seq (if e.2 = 0 then heldSize (mdLines d * mdBytes d) else 0) (.send c (mdDest d) (mdLockerLine d (mdLocker2 d) e.2) e.1)) y
        y.effect b cap.seq 0 (.sendHitch c (mdDest d) (mdDestHitch d) (b, cap.seq)))))

/-! MOV.IMPORT (R34, R114) -/

/-- Tile rows and columns of a tensor (R54). -/
def tilesOf (n : Nat) : Nat := (n + 127) / 128
/-- Bytes of one packed row (R27), and of the scales. -/
def importRow (d : Bytes) (f : Fmt) : Nat := (mdCols d * fmtWidth f + 7) / 8
def importScales (d : Bytes) : Nat :=
  if fieldN d 0x28 1 = 0 then mdRows d * ((mdCols d + 31) / 32) else (mdRows d + 31) / 32 * mdCols d
def importOut (d : Bytes) (g : Fmt) : Nat := tilesOf (mdRows d) * tilesOf (mdCols d) * fmtRecord g
/-- Address of row `r`. -/
def importAddr (d : Bytes) (r : Nat) : Nat := (mdAddr d + r * mdStride d) % 2 ^ 64

/-- What an import reads. -/
def importReads (d : Bytes) : List (Nat × Nat) :=
  (fieldN d 0x38 8, importScales d) :: (List.range (mdRows d)).map (fun r => (importAddr d r, importRow d ((mdSrcFmt d).getD .int8)))

/-- Reserved codes of an import, and a band scope without INT8. -/
def importBad (d : Bytes) : Bool :=
  (mdSrcFmt d).isNone || (mdDstFmt d).isNone || decide (2 ≤ fieldN d 0x28 1) || decide (3 ≤ fieldN d 0x29 1) ||
    (decide (fieldN d 0x29 1 ≠ 0) && decide (mdDstFmt d ≠ some .int8))

def Sys.importCheck (s : Sys) (b : Nat) (d : Bytes) : Option MoveBad :=
  if importBad d then some .encoding else
  match s.moverPart b with
  | none => some .range
  | some P =>
    let f := (mdSrcFmt d).getD .int8
    let g := (mdDstFmt d).getD .int8
    if mdAtomic d || !inLocker (mdLocker d) (importOut d g) || !P.owns (fieldN d 0x38 8) (importScales d) ||
        !(List.range (mdRows d)).all (fun r => P.owns (importAddr d r) (importRow d f)) then some .range
    else none

/-- Bytes of memory with the codewords that hold them: the blob starts at the first codeword, and `skip` bytes of it lie before
the first byte. -/
structure Strip where
  blob : Blob
  data : Array Byte
  skip : Nat
  deriving DecidableEq, Repr

/-- Byte `i`, and the mark of its codeword. -/
def Strip.byte (x : Strip) (i : Nat) : Byte := (x.data[x.skip + i]?).getD 0
def Strip.mark (x : Strip) (i : Nat) : Mark := x.blob.mark ((x.skip + i) / 16)

/-- Reads `n` bytes with their codewords. -/
def Sys.strip (s : Sys) (b seq p a n : Nat) : Strip :=
  let a0 := a / 16 * 16
  let k := s.readSeen b seq p a0 (if n = 0 then 0 else (a + n + 15) / 16 * 16 - a0)
  ⟨k, k.data.toArray, a - a0⟩

/-- The source tensor of an import. -/
structure ImportSrc where
  rows : Array Strip
  scales : Strip

/-- Element (r, c) of the source: its exact value under its block's scale (R34), with the mark of the codewords that hold it and its
scale (R431). -/
def ImportSrc.elem (x : ImportSrc) (d : Bytes) (f : Fmt) (r c : Nat) : Src :=
  if r < mdRows d ∧ c < mdCols d then
    match x.rows[r]? with
    | none => (.fin false 0, .clean)
    | some row =>
      let w := fmtWidth f
      let k := if fieldN d 0x28 1 = 0 then r * ((mdCols d + 31) / 32) + c / 32 else r / 32 * mdCols d + c
      let m := ((row.mark (elemByte w c)).worse (row.mark (elemByte w c + elemSpan w c - 1))).worse (x.scales.mark k)
      (elemVal f (readElem row.byte w c) (x.scales.byte k).toNat, m)
  else (.fin false 0, .clean)

/-- The scale of each band of the whole tensor: of 8 rows over every column (scope 1), of 8 columns over every row (R33). -/
def ImportSrc.bands (x : ImportSrc) (d : Bytes) (f g : Fmt) (scope : Nat) : Array (Option Nat) :=
  let unit := fun (i j : Nat) => if scope = 1 then x.elem d f i j else x.elem d f j i
  let across := if scope = 1 then mdCols d else mdRows d
  Array.ofFn (fun I : Fin (16 * tilesOf (if scope = 1 then mdRows d else mdCols d)) =>
    chooseScale g ((List.range 8).flatMap (fun i => (List.range across).filterMap (fun j =>
      let e := unit (8 * I.val + i) j
      if e.2.isBad then none else some e.1))))

/-- The scales of tile (tr, tc): one per block, or those of its bands (R31, R33). A block of padding inside a band holds the band's scale
(DESIGN CHOICE, log 174). -/
def importScale (g : Fmt) (scope tr tc : Nat) (bands : Array (Option Nat)) (xs : Array Src) : Array (Option Nat) :=
  if scope = 1 then Array.ofFn (fun b : Fin 256 => (bands[16 * tr + b.val / 16]?).getD none)
  else if scope = 2 then Array.ofFn (fun b : Fin 256 => (bands[16 * tc + b.val % 16]?).getD none)
  else tileScales g 0 xs

/-- The tile (tr, tc) that an import forms. -/
def ImportSrc.tile (x : ImportSrc) (d : Bytes) (f g : Fmt) (bands : Array (Option Nat)) (tr tc : Nat) : TileOut :=
  let xs := tileSrc (fun r c => x.elem d f (128 * tr + r) (128 * tc + c))
  convertUnder g (importScale g (fieldN d 0x29 1) tr tc bands xs) xs

/-- The source tensor as a Bight's instruction reads it. -/
def Sys.importSrc (s : Sys) (b seq p : Nat) (d : Bytes) (f : Fmt) : ImportSrc :=
  { rows := Array.ofFn (fun r : Fin (mdRows d) => s.strip b seq p (importAddr d r.val) (importRow d f))
    scales := s.strip b seq p (fieldN d 0x38 8) (importScales d) }

/-- The whole import: tile records in the order of R54, and the conditions it met. -/
def Sys.importTiles (s : Sys) (b : Nat) (cap : Cap) : Sys :=
  let d := cap.desc
  let f := (mdSrcFmt d).getD .int8
  let g := (mdDstFmt d).getD .int8
  let x := s.importSrc b cap.seq ((s.runPart b).getD 80) d f
  let s := (importReads d).foldl (fun s r => s.noteRead ((s.runPart b).getD 80) r.1 r.2) s
  let bands := x.bands d f g (fieldN d 0x29 1)
  let tc := tilesOf (mdCols d)
  (List.range (tilesOf (mdRows d) * tc)).foldl (fun s n =>
    let t := x.tile d f g bands (n / tc) (n % tc)
    let es := tileSrc (fun r c => x.elem d f (128 * (n / tc) + r) (128 * (n % tc) + c))
    let m := es.foldl (fun w e => w.worse e.2) .clean
    let st := stOf (es.any (fun e => !e.2.isBad && e.1 == .nan)) (es.any (fun e => !e.2.isBad && (e.1 == .inf false || e.1 == .inf true)))
      (tileSat t) m.isBad
    (s.onArch b cap.seq (fun a => (putTile a (mdLocker d + n * fmtRecord g) t).orFairlead st)).saw b m) s

def execMovImport (f : MoverF) (s : State) : Host.Outcome State Fault Refusal :=
  s.onSys (fun y => y.queueOp (.movImport f) f.b.val
    { eng := .mover, wait := optHitch f.waitEn f.waitH, set := optHitch f.setEn f.setH, regs := fun _ => [], desc := some (f.descReg, 64)
      push := fun _ => false
      foot := fun s b cap => if cap.descMark.isBad || (s.importCheck b cap.desc).isSome then Foot.none
        else { Foot.none with
          wr := [(mdLocker cap.desc, importOut cap.desc ((mdDstFmt cap.desc).getD .int8))]
          memRd := importReads cap.desc }
      ready := fun s b cap => cap.descMark.isBad || (s.importCheck b cap.desc).isSome || !s.rangesWait b (importReads cap.desc)
      items := fun _ _ _ => 0
      effect := fun s b cap =>
        if cap.descMark.isBad then (s.movePoisonedDesc b cap, none)
        else match s.importCheck b cap.desc with
          | some e => (s.moveBad b cap e, none)
          | none => (s.importTiles b cap, none)
      finish := fun s _ _ => some s })

/-! MOV.FLOW (R272, R273) -/

def fdFlow (d : Bytes) : Nat := fieldN d 0 4
def fdKind (d : Bytes) : Nat := fieldN d 4 1
def fdRecord (d : Bytes) : Bool := (fieldN d 5 1).testBit 0
def fdLocker (d : Bytes) : Nat := lockerAddr (fieldN d 8 4)
def fdBytes (d : Bytes) : Nat := fieldN d 0xC 4
def fdCount (d : Bytes) : Nat := fieldN d 0x10 4
def fdColl (d : Bytes) : Nat := fieldN d 0x14 4

/-- The flow of a SEND or RELEASE, when its partition holds it OPEN in the role and with a target that the kind needs. -/
def Sys.flowFor (s : Sys) (b f role : Nat) : Option Flow :=
  let x := s.flow f
  match s.runPart b with
  | some p => if s.holdsFlow p f ∧ x.state = .open ∧ x.role = role ∧ (role = 0 ∨ x.target ≤ 1) then some x else none
  | none => none

/-- Why a MOV.FLOW moves nothing. -/
def Sys.flowCheck (s : Sys) (b : Nat) (d : Bytes) : Option MoveBad :=
  match fdKind d with
  | 0 => if fdBytes d % 256 ≠ 0 ∨ fdBytes d < 256 ∨ 1048576 < fdBytes d then some .encoding
         else if (s.flowFor b (fdFlow d) 0).isNone || !inLocker (fdLocker d) (fdBytes d) then some .range else none
  | 1 => (match s.flowFor b (fdFlow d) 1 with
    | none => some .range
    | some x => if fdCount d = 0 ∨ x.slots < fdCount d then some .encoding else none)
  | 2 => if (s.runPart b).isNone then some .range else none
  | _ => some .encoding

/-- The slots that a RELEASE frees, as the locker or memory ranges that it writes. -/
def Sys.releaseFoot (s : Sys) (b : Nat) (d : Bytes) : Foot :=
  let x := s.flow (fdFlow d)
  let rs := (List.range (min (fdCount d) x.slots)).map (fun i => (x.winBase + (x.credit + i) % x.slots * x.slotBytes, x.slotBytes))
  if x.target = 1 then { Foot.none with memWr := rs } else if x.destBight = b then { Foot.none with wr := rs } else Foot.none

/-- A record flag byte with POISON when `bad`. -/
def poisonFlag (bad : Bool) : Byte := if bad then 8#8 else 0#8

/-- Fills a MOV.FLOW's record and sets SET_H. -/
def Sys.flowDone (s : Sys) (b : Nat) (cap : Cap) (set : Option (BitVec 5)) (v : Word64) (f : Byte) : Sys :=
  s.onArch b cap.seq (fun a => (a.fillOpt cap.entry v f).setHitchOpt set cap.seq .mover)

/-- The end of a MOV.FLOW in flight. -/
def Sys.flowFinish (s : Sys) (b : Nat) (cap : Cap) (set : Option (BitVec 5)) : Option Sys :=
  let d := cap.desc
  match fdKind d with
  | 0 => (match cap.msg with
    | some m =>
      if cap.lost then
        some ((s.logHawser (flowDie (fdFlow d)) ((s.runPart b).getD partNone) 0x0402 (fdFlow d) m false).flowDone b cap set (BitVec.ofNat 64 m) (poisonFlag cap.sentBad))
      else if (s.flow (fdFlow d)).delivered m then some (s.flowDone b cap set (BitVec.ofNat 64 m) (poisonFlag cap.sentBad))
      else none
    | none => none)
  | 1 => cap.msg.map (fun m => s.flowDone b cap set (BitVec.ofNat 64 m) 0#8)
  | _ =>
    let p := (s.runPart b).getD 80
    if (s.collOf p (fdColl d)).isSome then none
    else match (s.part p).outcomes.find? (fun o => o.coll == fdColl d) with
      | some o => some (s.flowDone b cap set (BitVec.ofNat 64 o.element) (BitVec.ofNat 8 o.flags))
      | none => none

/-- The effect of a MOV.FLOW at issue. What it leaves in flight ends in `flowFinish`. -/
def Sys.flowIssue (s : Sys) (b : Nat) (cap : Cap) : Sys × Option Cap :=
  let d := cap.desc
  if cap.descMark.isBad then ((s.movePoisonedDesc b cap).onArch b cap.seq (fun a => a.fillOpt cap.entry 0#64 8#8), none)
  else match s.flowCheck b d with
    | some e =>
      let s := match e with
        | .encoding => s.onArch b cap.seq (fun a => a.orFairlead fsBadEncoding)
        | .range => s.addrFault b cap.seq 0
      (s.onArch b cap.seq (fun a => a.fillOpt cap.entry 0#64 8#8), none)
    | none =>
      let f := fdFlow d
      match fdKind d with
      | 0 =>
        let blob := (s.bight b).arch.locker.blob (fdLocker d) (fdBytes d)
        let bad := blob.worst.isBad
        let s := s.movedPoison b cap.seq blob.worst
        if s.holds b cap.seq then
          (s.effect b cap.seq (heldSize (fdBytes d)) (.flow f blob (some (b, cap.seq))), some { cap with flying := true, sentBad := bad })
        else (s.post f blob ((s.bight b).run.map (fun r => r.ctx)), some { cap with flying := true, sentBad := bad, msg := some (s.flow f).msg })
      | 1 =>
        if s.holds b cap.seq then (s.effect b cap.seq 256 (.freed f (fdCount d) (b, cap.seq)), some { cap with flying := true })
        else
          let s := s.releaseMsgs f (fdCount d)
          (s, some { cap with flying := true, msg := some (s.flow f).credit })
      | _ => (s, some { cap with flying := true })

/-- A MOV.FLOW; the record is reserved when RECORD is set, for COLL_WAIT, and under a poisoned descriptor. -/
def flowQ (f : MoverF) : QOp :=
  { eng := .mover, wait := optHitch f.waitEn f.waitH, set := optHitch f.setEn f.setH, regs := fun _ => [], desc := some (f.descReg, 64)
    push := fun cap => cap.descMark.isBad || fdRecord cap.desc || fdKind cap.desc == 2
    foot := fun s b cap => if cap.descMark.isBad || (s.flowCheck b cap.desc).isSome then Foot.none
      else if fdKind cap.desc = 0 then { Foot.none with rd := [(fdLocker cap.desc, fdBytes cap.desc)] }
      else if fdKind cap.desc = 1 then s.releaseFoot b cap.desc else Foot.none
    ready := always
    items := fun s b cap => if cap.descMark.isBad || (s.flowCheck b cap.desc).isSome then 0
      else if fdKind cap.desc = 0 then heldSize (fdBytes cap.desc) else if fdKind cap.desc = 1 then 256 else 0
    effect := fun s b cap => s.flowIssue b cap
    finish := fun s b cap => s.flowFinish b cap (optHitch f.setEn f.setH) }

def execSend (f : MoverF) (s : State) : Host.Outcome State Fault Refusal := s.onSys (fun y => y.queueOp (.send f) f.b.val (flowQ f))
def execRelease (f : MoverF) (s : State) : Host.Outcome State Fault Refusal := s.onSys (fun y => y.queueOp (.release f) f.b.val (flowQ f))
def execCollWait (f : MoverF) (s : State) : Host.Outcome State Fault Refusal := s.onSys (fun y => y.queueOp (.collWait f) f.b.val (flowQ f))

/-! Atomic records as commands of their own (R210 to R214) -/

/-- One record of a batch, with the operation `op`. A MOV.LOAD's record waits while its Bight's effects are held; a held
record that does not fit the slack buffer waits too (R182, R186). -/
def State.atomic (s : State) (i : Instr) (f : AtomicF) (op : Nat) : Host.Outcome State Fault Refusal :=
  s.onSys (fun y =>
    let b := f.b.val
    let x := y.bight b
    let held := y.holds b x.nextSeq
    if !y.runs b then { y with replay := none }
    else if held && (f.respond || !y.slackFits b 256) then y.hold i
    else if !held && y.rangesWait b [(f.target.toNat, f.size)] then y.holdAt i (y.asksOf ((y.runPart b).getD 80) f.target.toNat f.size)
    else
      let r : AtomicReq := { op := op, size := f.size, target := f.target.toNat, operand := f.operand.toNat, compare := f.compare.toNat
                             reserved := false, mark := x.arch.locker.worst (f.place.toNat / 32 * 32) 32 }
      { y.atomicRecord b x.nextSeq (f.place.toNat / 32 * 32) r f.respond with replay := none })

def execAtomicNone (f : AtomicF) (s : State) : Host.Outcome State Fault Refusal := s.atomic (.atomicNone f) f 0
def execAtomicAdd (f : AtomicF) (s : State) : Host.Outcome State Fault Refusal := s.atomic (.atomicAdd f) f 1
def execAtomicSmin (f : AtomicF) (s : State) : Host.Outcome State Fault Refusal := s.atomic (.atomicSmin f) f 2
def execAtomicSmax (f : AtomicF) (s : State) : Host.Outcome State Fault Refusal := s.atomic (.atomicSmax f) f 3
def execAtomicUmin (f : AtomicF) (s : State) : Host.Outcome State Fault Refusal := s.atomic (.atomicUmin f) f 4
def execAtomicUmax (f : AtomicF) (s : State) : Host.Outcome State Fault Refusal := s.atomic (.atomicUmax f) f 5
def execAtomicAnd (f : AtomicF) (s : State) : Host.Outcome State Fault Refusal := s.atomic (.atomicAnd f) f 6
def execAtomicOr (f : AtomicF) (s : State) : Host.Outcome State Fault Refusal := s.atomic (.atomicOr f) f 7
def execAtomicXor (f : AtomicF) (s : State) : Host.Outcome State Fault Refusal := s.atomic (.atomicXor f) f 8
def execSwap (f : AtomicF) (s : State) : Host.Outcome State Fault Refusal := s.atomic (.swap f) f 9
def execCas (f : AtomicF) (s : State) : Host.Outcome State Fault Refusal := s.atomic (.cas f) f 10

end Sys2Proof.Machine
end

