-- ==== Sys2Proof/Machine/Cleat.lean ====
section
/-!
DEFINITION. The update engines of the Cleat dies: instructions on a share, CONVERT, NORM, INVROOT, the Reef engine
(R137 to R164).
-/

namespace Sys2Proof.Machine

/-! Descriptor fields (R141) -/

def udStep (d : Bytes) : Nat := fieldN d 0 8
def udRows (d : Bytes) : Nat := fieldN d 8 4
def udCols (d : Bytes) : Nat := fieldN d 0xC 4
def udFirst (d : Bytes) : Nat := fieldN d 0x10 4
def udLast (d : Bytes) : Nat := fieldN d 0x14 4
def udFlag (d : Bytes) (i : Nat) : Bool := (fieldN d 0x18 1).testBit i
def udFrozen (d : Bytes) : Bool := udFlag d 0
def udTwoSided (d : Bytes) : Bool := udFlag d 1
def udReadSide (d : Bytes) : Bool := udFlag d 2
def udCvtEn (d : Bytes) : Bool := udFlag d 3
def udNormLast (d : Bytes) : Bool := udFlag d 4
def udFmt (d : Bytes) : Fmt := (Fmt.ofCode (fieldN d 0x19 1)).getD .fp32
def udInvN (d : Bytes) : Nat := fieldN d 0x1A 1
def udInvP (d : Bytes) : Nat := fieldN d 0x1B 1
def udStream (d : Bytes) (i : Nat) : Bool := (fieldN d 0x1C 1).testBit i
def udProgLen (d : Bytes) : Nat := fieldN d 0x1D 1
def udGAddr (d : Bytes) : Nat := fieldN d 0x20 8
def udSide (d : Bytes) (i : Nat) : Nat := fieldN d (0x28 + 8 * i) 8
def udStride (d : Bytes) : Nat := fieldN d 0x38 8
def udCvtAddr (d : Bytes) : Nat := fieldN d 0x40 8
def udCarryIn (d : Bytes) : Nat := fieldN d 0x48 8
def udCarryOut (d : Bytes) : Nat := fieldN d 0x50 8
def udTotal (d : Bytes) : Nat := fieldN d 0x58 8
def udStatus (d : Bytes) : Nat := fieldN d 0x60 8
def udTensor (d : Bytes) : Nat := fieldN d 0x68 4
def udWord (d : Bytes) (o : Nat) : Word32 := BitVec.ofNat 32 (fieldN d o 4)
def udEps (d : Bytes) : Word32 := udWord d 0x6C
def udDelta (d : Bytes) : Word32 := udWord d 0x70
/-- Bytes of a descriptor, and of its place in the list. -/
def udSize (d : Bytes) : Nat := 0xA0 + 4 * udProgLen d
def udPlace (d : Bytes) : Nat := (udSize d + 63) / 64 * 64

/-- The sides read and written, by number (R155). -/
def udRead (d : Bytes) : Nat := if udTwoSided d ∧ udReadSide d then 1 else 0
def udWrite (d : Bytes) : Nat := if udTwoSided d then 1 - udRead d else 0
/-- Tile rows and columns of the tensor, and the tiles of the segment. -/
def udTc (d : Bytes) : Nat := tilesOf (udCols d)
def udTiles (d : Bytes) : Nat := tilesOf (udRows d) * udTc d
def udCount (d : Bytes) : Nat := udLast d + 1 - udFirst d

/-! Instructions (R146 to R148) -/

/-- Fields of an instruction word. -/
structure UpdI where
  op : Nat
  d : Nat
  a : Nat
  b : Nat
  c : Nat
  low : Nat
  deriving DecidableEq, Repr
def updDecode (w : Nat) : UpdI := ⟨w / 2 ^ 26 % 64, w / 2 ^ 20 % 64, w / 2 ^ 14 % 64, w / 2 ^ 8 % 64, w / 4 % 64, w % 4⟩
/-- Instruction `i` of a descriptor's program. -/
def udInstr (d : Bytes) (i : Nat) : UpdI := updDecode (fieldN d (0xA0 + 4 * i) 4)
/-- The program up to END; none without one. -/
def udProgram (d : Bytes) : Option (List UpdI) :=
  let is := (List.range (udProgLen d)).map (udInstr d)
  if is.any (fun i => i.op == 0x3F) then some (is.takeWhile (fun i => i.op != 0x3F)) else none

/-- How many operands an arithmetic operation reads; none for another operation. -/
def updArity (op : Nat) : Option Nat :=
  match op with
  | 0x04 => some 2 | 0x05 => some 2 | 0x06 => some 2 | 0x07 => some 3 | 0x08 => some 2 | 0x09 => some 1 | 0x0A => some 1
  | 0x0B => some 2 | 0x0C => some 2 | 0x0D => some 1 | 0x0E => some 1 | 0x0F => some 3 | 0x10 => some 3 | 0x11 => some 1
  | _ => none

/-- SIGN: a NaN is canonical (R149). -/
def updSign (a : Word32) : Word32 := if fpIsNaN a then fpNaN else if fpIsZero a then a else if fpNeg? a then 0xBF800000#32 else fpOne

/-- The result of an arithmetic operation (R148, R149). -/
def updArith (op : Nat) (a b c : Word32) : Word32 :=
  match op with
  | 0x04 => fpAdd a b
  | 0x05 => fpSub a b
  | 0x06 => fpMul a b
  | 0x07 => fpFma a b c
  | 0x08 => fpDiv a b
  | 0x09 => fpSqrt a
  | 0x0A => fpRsqrt a
  | 0x0B => fpMin a b
  | 0x0C => fpMax a b
  | 0x0D => fpAbs a
  | 0x0E => updSign a
  | 0x0F => fpMin (fpMax a b) c
  | 0x10 => canon (if fpPos a then b else c)
  | _ => fpMul a a

/-- The operand that a code names in a lane (R147). -/
def Cleat.operand (x : Cleat) (code l : Nat) : Lane :=
  if code < 0x20 then x.regs.get Lane.zero (256 * code + l)
  else if code < 0x30 then Lane.ok (x.ks.getD (code - 0x20) 0#32)
  else if code < 0x38 then Lane.ok (udWord x.desc (0x80 + 4 * (code - 0x30)))
  else if code = 0x38 then Lane.zero else Lane.ok fpOne

/-- Writes all lanes of a register. -/
def Cleat.setReg (x : Cleat) (d : Nat) (f : Nat → Lane) : Cleat := { x with regs := x.regs.setFn Lane.zero (256 * d) 256 f }

/-- Whether an instruction is one that R143 accepts in itself: OP, operand codes, bits [1:0], the register it writes. A reserved
code in an operand field that the operation does not read is accepted (DESIGN CHOICE, log 138). -/
def updOk (i : UpdI) : Bool :=
  decide (i.low = 0) &&
  (match updArity i.op with
   | some n => decide (i.d < 0x20) && decide (i.a < 0x3A) && (decide (n < 2) || decide (i.b < 0x3A)) && (decide (n < 3) || decide (i.c < 0x3A))
   | none => match i.op with
     | 0x00 => true
     | 0x01 => decide (i.d < 0x20)
     | 0x02 => decide (i.a < 0x3A)
     | 0x18 => decide (i.a < 0x3A)
     | 0x19 => decide (i.d < 0x20)
     | 0x1A => decide (i.d < 0x20) && decide (i.a < 0x3A)
     | 0x3F => true
     | _ => false)

/-! INVROOT (R153) -/

/-- A 16 x 16 matrix, row by row. -/
abbrev Mat := Array Word32
def Mat.zero : Mat := Array.replicate 256 0#32
def Mat.at_ (m : Mat) (i j : Nat) : Word32 := (m[16 * i + j]?).getD 0#32
def Mat.put (m : Mat) (i j : Nat) (v : Word32) : Mat := m.setIfInBounds (16 * i + j) v
def Mat.of (n : Nat) (f : Nat → Nat → Word32) : Mat :=
  Array.ofFn (fun k : Fin 256 => if k.val / 16 < n ∧ k.val % 16 < n then f (k.val / 16) (k.val % 16) else 0#32)

/-- The fma sum of `a k * b k` over k from `lo` to `hi - 1`, from +0.0. -/
def fmaSum (lo hi : Nat) (a b : Nat → Word32) : Word32 := foldFn (hi - lo) 0#32 (fun e k => fpFma (a (lo + k)) (b (lo + k)) e)
/-- A matrix product. -/
def Mat.mul (n : Nat) (x y : Mat) : Mat := Mat.of n (fun i j => fmaSum 0 n (fun k => x.at_ i k) (fun k => y.at_ k j))

/-- Column `j` of the Cholesky factor. -/
def cholCol (n : Nat) (B : Mat) (thr : Word32) (L : Mat) (j : Nat) : Option Mat :=
  let d := foldFn j (B.at_ j j) (fun d k => fpFma (fpNegate (L.at_ j k)) (L.at_ j k) d)
  if fpLe thr d && fpLt 0#32 d then
    let L := L.put j j (fpSqrt d)
    some (foldFn (n - (j + 1)) L (fun L t =>
      let i := j + 1 + t
      let e := foldFn j (B.at_ i j) (fun e k => fpFma (fpNegate (L.at_ i k)) (L.at_ j k) e)
      L.put i j (fpDiv e (L.at_ j j))))
  else none
def cholesky (n : Nat) (B : Mat) (thr : Word32) : Option Mat := foldFn n (some Mat.zero) (fun L j => L.bind (fun L => cholCol n B thr L j))

/-- The inverse from a factor. -/
def rootOne (n : Nat) (L : Mat) : Mat :=
  let Y := foldFn n Mat.zero (fun Y j =>
    let Y := Y.put j j (fpDiv fpOne (L.at_ j j))
    foldFn (n - (j + 1)) Y (fun Y t =>
      let i := j + 1 + t
      let e := fmaSum j i (fun k => L.at_ i k) (fun k => Y.at_ k j)
      Y.put i j (fpDiv (fpNegate e) (L.at_ i i))))
  Mat.of n (fun i j => fmaSum (max i j) n (fun k => Y.at_ k i) (fun k => Y.at_ k j))

/-- The coupled iteration for p = 2 or 4. -/
def rootMore (n p : Nat) (B : Mat) (tr : Word32) : Mat :=
  let M := Mat.of n (fun i j => fpDiv (B.at_ i j) tr)
  let r := if p = 2 then fpRsqrt tr else fpRsqrt (fpSqrt tr)
  let X := Mat.of n (fun i j => if i = j then r else 0#32)
  let inv := fpDiv fpOne (natToFp p)
  (foldFn 16 (X, M) (fun (s : Mat × Mat) _ =>
    let T := Mat.of n (fun i j => fpMul (fpSub (if i = j then natToFp (p + 1) else 0#32) (s.2.at_ i j)) inv)
    (s.1.mul n T, foldFn p s.2 (fun M _ => T.mul n M)))).1

def Mat.identity (n : Nat) : Mat := Mat.of n (fun i j => if i = j then fpOne else 0#32)
def Mat.finite (n : Nat) (m : Mat) : Bool := (List.range n).all (fun i => (List.range n).all (fun j => fpFinite (m.at_ i j)))

/-- The inverse p-th root, and whether it is the identity of a fallback. -/
def invroot (n p : Nat) (eps delta : Word32) (A : Mat) : Mat × Bool :=
  let tr := foldFn n 0#32 (fun t i => fpAdd t (A.at_ i i))
  if !(fpLt 0#32 tr && fpFinite tr) then (Mat.identity n, true) else
  let s := fpDiv tr (natToFp n)
  let attempt := fun (B : Mat) =>
    (cholesky n B (fpMul eps s)).bind (fun L =>
      let X := if p = 1 then rootOne n L else rootMore n p B tr
      if X.finite n then some X else none)
  match attempt A with
  | some X => (X, false)
  | none => match attempt (Mat.of n (fun i j => if i = j then fpFma delta s (A.at_ i i) else A.at_ i j)) with
    | some X => (X, false)
    | none => (Mat.identity n, true)

/-- INVROOT on a share: lanes outside the block are +0.0; a poisoned element poisons every lane. -/
def Cleat.invroot (x : Cleat) (i : UpdI) : Cleat :=
  let n := udInvN x.desc
  let e := fun r c => x.operand i.a (16 * r + c)
  let m := (List.range n).foldl (fun w r => (List.range n).foldl (fun w c => w.worse (e r c).mark) w) .clean
  let r := Machine.invroot n (udInvP x.desc) (udEps x.desc) (udDelta x.desc) (Mat.of n (fun r c => (e (max r c) (min r c)).val))
  let x := x.setReg i.d (fun l => ⟨r.1.at_ (l / 16) (l % 16), m⟩)
  if r.2 ∧ !m.isBad then { x with fallback := x.fallback + 1 } else x

/-- The mark of a result (R149): of SEL's operands b and c, the result depends on the one that a chooses. -/
def updMark (op : Nat) (a b c : Lane) : Mark :=
  if op = 0x10 then a.mark.worse (if fpPos a.val then b.mark else c.mark) else (a.mark.worse b.mark).worse c.mark

/-! One instruction on a share (R145 to R153). An instruction that R143 refuses, and one after END, is never executed. -/

def Cleat.step (x : Cleat) (i : UpdI) : Cleat :=
  if !updOk i || x.ended then x else
  match updArity i.op with
  | some n =>
    x.setReg i.d (fun l =>
      let a := x.operand i.a l
      let b := if n < 2 then Lane.zero else x.operand i.b l
      let c := if n < 3 then Lane.zero else x.operand i.c l
      ⟨updArith i.op a.val b.val c.val, updMark i.op a b c⟩)
  | none => match i.op with
    | 0x01 => x.setReg i.d (fun l => x.streams.get Lane.zero (256 * i.a + l))
    | 0x02 => { x with stores := x.stores.setFn Lane.zero (256 * i.d) 256 (fun l => x.operand i.a l), stored := x.stored.filter (· != i.d) ++ [i.d] }
    | 0x18 => { x with conv := true, outs := SMap.setFn Lane.zero [] 0 256 (fun l => x.operand i.a l) }
    | 0x19 => x.setReg i.d (fun _ => x.norm)
    | 0x1A => x.invroot i
    | 0x3F => { x with ended := true }
    | _ => x

/-! Places of a block (R139, R142) -/

/-- Whether lane `l` of panel `p` of tile `t` is an element of the tensor. -/
def udPresent (d : Bytes) (t p l : Nat) : Bool :=
  decide (128 * (t / udTc d) + tileRow (256 * p + l) < udRows d) && decide (128 * (t % udTc d) + tileCol (256 * p + l) < udCols d)

/-- Address of block `p` of tile `t` in a stream; `base` is the side's. -/
def udBlock (d : Bytes) (base stream t p : Nat) : Nat :=
  let o := 65536 * (t - udFirst d) + 1024 * p
  if stream = 0 then udGAddr d + o else base + (stream - 1) * udStride d + o

/-- 256 lanes of a stream, keyed from `256 * stream`. -/
def blobLanes (b : Blob) : Array Lane :=
  let arr := b.data.toArray
  Array.ofFn (fun l : Fin 256 =>
    let g := fun k => (arr[4 * l.val + k]?).getD 0#8
    (⟨(g 3 ++ g 2 ++ g 1 ++ g 0 : BitVec 32), b.mark (l.val / 4)⟩ : Lane))
/-- The bytes and marks of lanes. -/
def lanesBlob (f : Nat → Lane) : Blob :=
  .chunks ((List.range 256).flatMap (fun l => leBytes 4 (f l).val.toNat))
    ((List.range 64).filterMap (fun i =>
      let m := (List.range 4).foldl (fun w k => w.worse (f (4 * i + k)).mark) .clean
      if m.isBad then some (i, m) else none))

/-! CONVERT (R150) -/

/-- A panel's encodings, with the scale byte of its four blocks by place in the tile's scale plane, and saturations. -/
structure PanelOut where
  encs : Array Enc
  scales : List (Nat × Nat)

def convertPanel (f : Fmt) (p : Nat) (lane : Nat → Lane) (present : Nat → Bool) : PanelOut :=
  let blockOf := fun l => 2 * (l / 16 / 8) + l % 16 / 8
  let used := fun l => present l && !(lane l).poison
  let sc := Array.ofFn (fun b : Fin 4 => chooseScale f ((List.range 256).filterMap (fun l =>
    if blockOf l = b.val ∧ used l then some (fpVal (lane l).val) else none)))
  { encs := Array.ofFn (fun l : Fin 256 => if used l.val then convertElem f ((sc[blockOf l.val]?).getD none) (fpVal (lane l.val).val) else ⟨0, false⟩)
    scales := if fmtScaled f then (List.range 4).map (fun b =>
      (16 * (2 * (p / 8) + b / 2) + 2 * (p % 8) + b % 2, ((sc[b]?).getD none).getD 0xFF)) else [] }

/-- The panel's bytes and marks. -/
def PanelOut.blob (t : PanelOut) (f : Fmt) (lane : Nat → Lane) (present : Nat → Bool) : Blob :=
  let w := fmtWidth f
  .chunks ((List.range (32 * w)).map (packByte w (fun n => ((t.encs[n]?).map (fun e => e.bits)).getD 0)))
    ((List.range 256).flatMap (fun l => if present l ∧ (lane l).poison then
      (List.range (elemSpan w l)).map (fun k => ((elemByte w l + k) / 16, (lane l).mark)) else []))

/-! Shares -/

def cleatKey (die part : Nat) : Nat := die * 80 + part
def Sys.cleat (s : Sys) (die part : Nat) : Cleat := s.cleats.get Cleat.blank (cleatKey die part)
def Sys.setCleat (s : Sys) (die part : Nat) (x : Cleat) : Sys := { s with cleats := s.cleats.set Cleat.blank (cleatKey die part) x }

/-- Lane `l` as it is stored or converted: padding is +0.0 (R145). -/
def Cleat.outLane (x : Cleat) (m : SMap Lane) (base l : Nat) : Lane :=
  if udPresent x.desc x.tile x.panel l then m.get Lane.zero (base + l) else Lane.zero

/-- The tier-2 streams of a descriptor. -/
def udTier2 (d : Bytes) : List Nat := (List.range 6).filter (fun i => decide (1 ≤ i) && udStream d i)

/-- What landing a block writes, in order: its stores, the streams that a two-sided update copies, CONVERT's panel and, with the last panel
of a tile, its scales (R145, R155). -/
def Cleat.lands (x : Cleat) (copies : List Nat) (t : PanelOut) (scales : SMap Nat) : List (Nat × Blob) :=
  let d := x.desc
  let f := udFmt d
  let rec_ := udCvtAddr d + (x.tile - udFirst d) * fmtRecord f
  x.stored.map (fun i => (udBlock d x.wbase i x.tile x.panel, lanesBlob (x.outLane x.stores (256 * i))))
    ++ copies.map (fun i => (udBlock d x.wbase i x.tile x.panel, lanesBlob (fun l => x.streams.get Lane.zero (256 * i + l))))
    ++ (if x.conv then
        (rec_ + 32 * fmtWidth f * x.panel, t.blob f (x.outLane x.outs 0) (udPresent d x.tile x.panel)) ::
          (if fmtScaled f ∧ x.panel = 63 then
            [(rec_ + fmtDataBytes f, Blob.ofBytes ((List.range 256).map (fun i => BitVec.ofNat 8 (scales.get 0x7F i))))] else [])
      else [])

/-- Lands a block, with its counts (R145, R155, R159). A write that cannot be performed is one of the causes (R250). -/
def Sys.landBlock (s : Sys) (die part : Nat) : Sys :=
  let x := s.cleat die part
  let d := x.desc
  let present := udPresent d x.tile x.panel
  let copies := if udTwoSided d then (udTier2 d).filter (fun i => !x.stored.contains i) else []
  let out := x.outLane x.outs 0
  let t := convertPanel (udFmt d) x.panel out present
  let scales := if x.conv then t.scales.foldl (fun m e => m.put e.1 e.2) x.scales else x.scales
  let ws := x.lands copies t scales
  let fails := if ws.any (fun e => (s.writeMark part e.1 e.2.data.length).isBad) then [Mark.tagFail] else []
  let s := ws.foldl (fun s e => s.writePart part e.1 e.2) s
  let ls := (List.range 256).filter present
  let stores := fun l => x.stored.map (fun i => x.outLane x.stores (256 * i) l)
  let bad := fun l => (stores l).any (fun v => v.poison) || (x.conv && (out l).poison)
  let marks := ls.flatMap (fun l => ((stores l).map (fun v => v.mark)) ++ (if x.conv then [(out l).mark] else []))
  let copied := copies.flatMap (fun i => ls.map (fun l => (x.streams.get Lane.zero (256 * i + l)).mark))
  s.setCleat die part { x with
    scales := scales
    elements := x.elements + ls.length
    nanOut := x.nanOut + ls.countP (fun l => (stores l).any (fun v => !v.poison && fpIsNaN v.val))
    infOut := x.infOut + ls.countP (fun l => (stores l).any (fun v => !v.poison && fpIsInf v.val))
    saturated := x.saturated + (if x.conv then ls.countP (fun l => ((t.encs[l]?).map (fun e => e.sat)).getD false) else 0)
    poisoned := x.poisoned + ls.countP bad
    causes := x.causes ++ ((marks ++ copied).filter (fun m => m.isBad)).eraseDups ++ fails
    wrote := x.wrote || (marks ++ copied ++ fails).any (fun m => m.isBad) }

/-- One update instruction on a share; END lands the block. -/
def Sys.updStep (s : Sys) (die part : Nat) (i : UpdI) : Sys :=
  let x := s.cleat die part
  let s := s.setCleat die part (x.step i)
  if i.op = 0x3F ∧ !x.ended then s.landBlock die part else s

/-! Running a segment -/

/-- The streams that a segment's blocks read: those its program loads, and all tier-2 streams of a two-sided update. -/
def udReads (d : Bytes) (prog : List UpdI) : List Nat :=
  (List.range 6).filter (fun i => prog.any (fun x => x.op == 1 && x.a == i) || (udTwoSided d && decide (1 ≤ i) && udStream d i))

/-- Runs one update block (R145). `old` is the memory as it stood before the update began, or the descriptor's blocks did: what LDS returns and a two-sided update
copies comes from it, whatever blocks have stored since. -/
def Sys.updBlock (s : Sys) (old : MemSys) (die part : Nat) (prog : List UpdI) (t p : Nat) : Sys :=
  let x := s.cleat die part
  let d := x.desc
  let reads := udReads d prog
  let lanes := reads.map (fun i => (i, blobLanes ({ s with mem := old }.readPart part (udBlock d x.rbase i t p) 1024)))
  let s := reads.foldl (fun s i => s.noteRead part (udBlock d x.rbase i t p) 1024) s
  let present := udPresent d t p
  let got := lanes.flatMap (fun e => ((List.range 256).filter present).filterMap (fun l =>
    let m := ((e.2[l]?).getD Lane.zero).mark
    if m.isBad then some m else none))
  let x := { x with
    tile := t, panel := p, regs := [], stores := [], stored := [], conv := false, outs := [], ended := false
    streams := lanes.foldl (fun m e => m.setFn Lane.zero (256 * e.1) 256 (fun l => (e.2[l]?).getD Lane.zero)) []
    scales := if p = 0 then [] else x.scales, causes := x.causes ++ got.eraseDups }
  let end_ : UpdI := ⟨0x3F, 0, 0, 0, 0, 0⟩
  if (List.range 256).any present then
    (prog ++ [end_]).foldl (fun s i => s.updStep die part i) (s.setCleat die part x)
  else
    -- a block of padding runs no program; its stores and output are written as padding
    let x := { x with stored := (prog.filter (fun i => i.op == 2)).map (fun i => i.d), conv := prog.any (fun i => i.op == 0x18), ended := true }
    (s.setCleat die part x).landBlock die part

/-- Pass A of NORM over a segment (R151): the running sum, and the worst mark that it has met. -/
def Sys.normSum (s : Sys) (part : Nat) (d : Bytes) (rbase stream : Nat) (start : Word32 × Mark) : Word32 × Mark :=
  (List.range (udCount d * 64)).foldl (fun (acc : Word32 × Mark) n =>
    let t := udFirst d + n / 64
    let p := n % 64
    let present := udPresent d t p
    if (List.range 256).any present then
      let v := blobLanes (s.readPart part (udBlock d rbase stream t p) 1024)
      let el := fun l => (v[l]?).getD Lane.zero
      let part_ := treeReduce fpAdd 8 ((List.range 256).map (fun l => if present l then some (fpMul (el l).val (el l).val) else none))
      (fpAdd acc.1 (part_.getD 0#32), (List.range 256).foldl (fun w l => if present l then w.worse (el l).mark else w) acc.2)
    else acc) start

/-! The Reef engine (R162 to R164) -/

/-- A field of channel `i`. -/
def reefN (t : Bytes) (i o n : Nat) : Nat := fieldN t (16 + 48 * i + o) n
def reefW (t : Bytes) (i o : Nat) : Word32 := BitVec.ofNat 32 (reefN t i o 4)
def reefUsed (t : Bytes) (i : Nat) : Bool := (fieldN t 8 2).testBit i
def reefFrom (t : Bytes) : Nat := fieldN t 0 8

/-- The restart loop: what is left of t, the cycle's length and its peak. -/
def reefRestart (t : Bytes) (i fuel n L : Nat) (p : Word32) : Nat × Nat × Word32 :=
  match fuel with
  | 0 => (n, L, p)
  | fuel + 1 => if L ≤ n ∧ 0 < L then reefRestart t i fuel (n - L) (min (L * reefN t i 0x10 4) 0xFFFFFFFF) (fpMul p (reefW t i 0x24)) else (n, L, p)

/-- 0.5 and -0.5 stand as constants of the drain's curves. -/
def reefHalf (neg : Bool) (x : Word32) : Word32 := fpFma (if neg then cMinusHalf else cHalf) (fpCospi x) cHalf

/-- Channel `i` of a table for step `n`. -/
def reefChannel (t : Bytes) (i n : Nat) : Word32 :=
  if !reefUsed t i then 0#32 else
  let form := reefN t i 0 1
  let W := if form = 0 then 0 else reefN t i 4 4
  let v0 := reefW t i 0x14
  let pk := reefW t i 0x18
  let ve := reefW t i 0x1C
  if n < W then
    let x := fpDiv (natToFp n) (natToFp W)
    if form = 1 then fpFma x (fpSub pk v0) v0 else fpFma (reefHalf true x) (fpSub pk v0) v0
  else
    let ds := reefN t i 8 4
    let rp := reefN t i 0xC 4
    let (r, L, p) := if rp = 0 then (n - W, ds, pk) else reefRestart t i (n - W + 1) (n - W) rp pk
    match reefN t i 1 1 with
    | 0 => canon p
    | 1 => fpFma (fpDiv (natToFp (min r L)) (natToFp L)) (fpSub ve p) p
    | 2 => fpFma (reefHalf false (fpDiv (natToFp (min r L)) (natToFp L))) (fpSub p ve) ve
    | 3 => fpMul p (fpPown (reefW t i 0x20) r)
    | 4 => fpMul p (fpRsqrt (fpAdd (fpDiv (natToFp r) (natToFp ds)) fpOne))
    | _ => fpMul p (fpPown (reefW t i 0x20) (r / ds))

/-- The table of a step: the one with the largest FROM_STEP at or below it. -/
def Partition.reefFor (P : Partition) (n : Nat) : Option Bytes :=
  let fit := (P.reefCur.toList ++ P.reefPend.toList).filter (fun t => decide (reefFrom t ≤ n))
  fit.foldl (fun b t => match b with | some x => if reefFrom x ≤ reefFrom t then some t else some x | none => some t) none
/-- k0 to k15 of a step. -/
def Partition.scalars (P : Partition) (n : Nat) : List Word32 :=
  (List.range 16).map (fun i => match P.reefFor n with | some t => reefChannel t i n | none => 0#32)
/-- An update of step `n` begins: the highest step begun, and a pending table that becomes current (R163). -/
def Partition.beginStep (P : Partition) (n : Nat) : Partition :=
  let P := { P with stepBegun := some (max n (P.stepBegun.getD 0)) }
  match P.reefPend with
  | some t => if reefFrom t ≤ n then { P with reefCur := some t, reefPend := none } else P
  | none => P

/-- Whether REEF_SET refuses a table with BAD_SCHEDULE (R163). -/
def reefBad (t : Bytes) : Bool :=
  !zeroField t 0xA 6 ||
  (List.range 16).any (fun i => reefUsed t i &&
    (decide (2 < reefN t i 0 1) || decide (5 < reefN t i 1 1) || reefN t i 2 2 != 0 || reefN t i 0x28 8 != 0 ||
     (reefN t i 0 1 != 0 && reefN t i 4 4 == 0) ||
     ((reefN t i 1 1 == 1 || reefN t i 1 1 == 2) && reefN t i 8 4 == 0 && reefN t i 0xC 4 == 0) ||
     ((reefN t i 1 1 == 4 || reefN t i 1 1 == 5) && reefN t i 8 4 == 0) || reefN t i 0x10 4 == 0))

end Sys2Proof.Machine
end

