-- ==== Sys2Proof/Machine/Update.lean ====
section
/-!
DEFINITION. The meanings of the update instructions, of UPDATE and of a carry record's poll (R143 to R160, R322).
-/

namespace Sys2Proof.Machine

/-- An update instruction on the share of a die and partition. -/
def State.upd (s : State) (f : UpdF) (op : Nat) : Host.Outcome State Fault Refusal :=
  s.onSys (fun y => y.updStep f.die.val f.part.val ⟨op, f.d.toNat, f.a.toNat, f.b.toNat, f.c.toNat, 0⟩)

def execUpdNop (f : UpdF) (s : State) : Host.Outcome State Fault Refusal := s.upd f 0x00
def execLds (f : UpdF) (s : State) : Host.Outcome State Fault Refusal := s.upd f 0x01
def execSts (f : UpdF) (s : State) : Host.Outcome State Fault Refusal := s.upd f 0x02
def execUpdAdd (f : UpdF) (s : State) : Host.Outcome State Fault Refusal := s.upd f 0x04
def execUpdSub (f : UpdF) (s : State) : Host.Outcome State Fault Refusal := s.upd f 0x05
def execUpdMul (f : UpdF) (s : State) : Host.Outcome State Fault Refusal := s.upd f 0x06
def execFma (f : UpdF) (s : State) : Host.Outcome State Fault Refusal := s.upd f 0x07
def execUpdDiv (f : UpdF) (s : State) : Host.Outcome State Fault Refusal := s.upd f 0x08
def execSqrt (f : UpdF) (s : State) : Host.Outcome State Fault Refusal := s.upd f 0x09
def execRsqrt (f : UpdF) (s : State) : Host.Outcome State Fault Refusal := s.upd f 0x0A
def execUpdMin (f : UpdF) (s : State) : Host.Outcome State Fault Refusal := s.upd f 0x0B
def execUpdMax (f : UpdF) (s : State) : Host.Outcome State Fault Refusal := s.upd f 0x0C
def execAbs (f : UpdF) (s : State) : Host.Outcome State Fault Refusal := s.upd f 0x0D
def execSign (f : UpdF) (s : State) : Host.Outcome State Fault Refusal := s.upd f 0x0E
def execClamp (f : UpdF) (s : State) : Host.Outcome State Fault Refusal := s.upd f 0x0F
def execSel (f : UpdF) (s : State) : Host.Outcome State Fault Refusal := s.upd f 0x10
def execSqr (f : UpdF) (s : State) : Host.Outcome State Fault Refusal := s.upd f 0x11
def execConvert (f : UpdF) (s : State) : Host.Outcome State Fault Refusal := s.upd f 0x18
def execNorm (f : UpdF) (s : State) : Host.Outcome State Fault Refusal := s.upd f 0x19
def execInvroot (f : UpdF) (s : State) : Host.Outcome State Fault Refusal := s.upd f 0x1A
def execUpdEnd (f : UpdF) (s : State) : Host.Outcome State Fault Refusal := s.upd f 0x3F

/-! UPDATE -/

/-- Poison that a command read (R251, R432, R434, R435): POISON_SEEN, and one POISON_CONSUMED for the command. -/
def Sys.cmdSaw (s : Sys) (c : Nat) (k : Cmd) (first : Bool) (domain unit : Nat) : Sys :=
  let p := (s.ctx c).part
  let spec := s.inSigma c k
  let s := if first then
      s.logRec { domain := domain, unit := unit, part := p, location := locNone, event := 0x0106, arg0 := c, arg1 := k.lay, slack := spec } else s
  match (s.part p).sigma with
  | some z => if spec then s.setPart p { s.part p with sigma := some { z with poison := true } } else s.setCtx c { s.ctx c with poisonSeen := true }
  | none => s.setCtx c { s.ctx c with poisonSeen := true }

/-- Base of the streams of a side. -/
def udBase (d : Bytes) (side : Nat) : Nat := udSide d side

/-- Ranges of a segment's tier-2 streams on a side. -/
def udSideRanges (d : Bytes) (side : Nat) : List (Nat × Nat) := (udTier2 d).map (fun i => (udBase d side + (i - 1) * udStride d, 65536 * udCount d))
/-- What a descriptor's UPDATE writes (R168), and what it only reads. -/
def udWritten (d : Bytes) : List (Nat × Nat) :=
  (if udCvtEn d then [(udCvtAddr d, udCount d * fmtRecord (udFmt d))] else []) ++ udSideRanges d (udWrite d) ++
  (if udCarryOut d = 0 then [] else [(udCarryOut d, 16)]) ++ (if udTotal d ≠ 0 ∧ udNormLast d then [(udTotal d, 16)] else []) ++ [(udStatus d, 64)]
def udReadOnly (d : Bytes) : List (Nat × Nat) :=
  (if udStream d 0 then [(udGAddr d, 65536 * udCount d)] else []) ++ udSideRanges d (udRead d) ++
  (if udCarryIn d = 0 then [] else [(udCarryIn d, 16)]) ++ (if udTotal d ≠ 0 ∧ !udNormLast d then [(udTotal d, 16)] else [])

/-- The Cleat die beside a tier-2 address. -/
def Partition.dieOf (P : Partition) (a : Nat) : Option Nat := (P.place a).map (fun k => keyHank k / 16)
/-- The die that runs a descriptor: the one beside its streams; for one without a tier-2 stream, that of the partition's first hank (DESIGN
CHOICE, log 179). -/
def Partition.udDie (P : Partition) (d : Bytes) : Nat :=
  match udTier2 d with
  | i :: _ => (P.dieOf (udBase d (udRead d) + (i - 1) * udStride d)).getD 0
  | [] => ((P.hanks.head?).map (fun h => h / 16)).getD 0

/-- The program checks of R143. -/
def udProgBad (d : Bytes) : Bool :=
  decide (udProgLen d = 0) || decide (64 < udProgLen d) ||
  (match udProgram d with
   | none => true
   | some is =>
     let n := fun (op : Nat) => is.countP (fun i => i.op == op)
     let streamOk := fun (i : Nat) => decide (i ≤ 5) && udStream d i
     (((List.range (udProgLen d)).map (udInstr d)).find? (fun i => i.op == 0x3F)).any (fun i => !updOk i) ||
     is.any (fun i => !updOk i) ||
     is.any (fun i => (i.op == 1 && !streamOk i.a) || (i.op == 2 && (!streamOk i.d || i.d == 0)) || (i.op == 0x19 && !streamOk i.a)) ||
     (List.range 6).any (fun x => decide (1 < is.countP (fun i => i.op == 2 && i.d == x))) ||
     decide (1 < n 0x19) || decide (1 < n 0x18) || (decide (0 < n 0x18) && !udCvtEn d) ||
     (decide (0 < n 0x1A) && (decide (udInvN d = 0) || decide (16 < udInvN d) || (udInvP d != 1 && udInvP d != 2 && udInvP d != 4))))

/-- Whether a program holds NORM, and the stream that it names. -/
def udNorm (d : Bytes) : Option Nat := ((udProgram d).getD []).findSome? (fun i => if i.op = 0x19 then some i.a else none)

def udDescBad (d : Bytes) : Bool :=
  decide (udRows d = 0) || decide (udCols d = 0) || decide (udLast d < udFirst d) || decide (udTiles d ≤ udLast d) ||
  decide (7 < fieldN d 0x19 1) || decide (32 ≤ fieldN d 0x18 1) || decide (64 ≤ fieldN d 0x1C 1) || !zeroField d 0x1E 2 || !zeroField d 0x74 12 ||
  (udReadSide d && !udTwoSided d) || decide (udStride d % 65536 ≠ 0) || ((udNorm d).isSome && !udNormLast d && decide (udTotal d = 0))

/-- The range checks of R143. A FROZEN descriptor is held to them too, though of what it names it writes its status record alone (R158; DESIGN
CHOICE, log 180). -/
def Partition.udRangeBad (P : Partition) (d : Bytes) : Bool :=
  let t2 := udSideRanges d 0 ++ (if udTwoSided d then udSideRanges d 1 else [])
  !(udWritten d ++ udReadOnly d).all (fun r => P.owns r.1 r.2) || addrSpace (udSide d 0) != 1 || (udTwoSided d && addrSpace (udSide d 1) != 1) ||
  t2.any (fun r => addrSpace r.1 != 1) ||
  decide (1 < ((t2.flatMap (fun r => [P.dieOf r.1, P.dieOf (r.1 + r.2 - 1)])).eraseDups).length) ||
  decide (udCarryIn d % 16 ≠ 0) || decide (udCarryOut d % 16 ≠ 0) || decide (udTotal d % 16 ≠ 0) ||
  (udWritten d).any (fun r => P.touchesReadOnly r.1 r.2)

/-- A failure of R143: a status, or the cause of a poisoned byte. -/
inductive UdFail where
  | status (st : Nat)
  | poison (m : Mark)
  deriving DecidableEq, Repr

/-- The descriptor at an address, when all of it lies in the partition. -/
def Sys.udAt (s : Sys) (p a : Nat) : Option Blob :=
  let P := s.part p
  if !P.owns a 0xA0 then none else
  let n := udSize (s.readPart p a 0xA0).data
  if P.owns a n then some (s.readPart p a n) else none

/-- The bytes of a descriptor that the checks read: up to END. -/
def udChecked (b : Blob) : Nat :=
  match udProgram b.data with
  | some is => 0xA0 + 4 * (is.length + 1)
  | none => b.data.length
def udPoison (b : Blob) : Mark := b.bad.foldl (fun w e => if 16 * e.1 < udChecked b then w.worse e.2 else w) .clean

/-- The checks of one descriptor, in the order of R143. -/
def Sys.udFail (s : Sys) (p : Nat) (b : Blob) : Option UdFail :=
  if (udPoison b).isBad then some (.poison (udPoison b))
  else if udProgBad b.data then some (.status stBAD_PROGRAM)
  else if udDescBad b.data then some (.status stBAD_DESCRIPTOR)
  else if (s.part p).udRangeBad b.data then some (.status stBAD_RANGE)
  else none

/-- The checks of a list. -/
def Sys.udListFail (s : Sys) (p fuel a : Nat) : Option UdFail :=
  match fuel with
  | 0 => none
  | fuel + 1 => match s.udAt p a with
    | none => some (.status stBAD_RANGE)
    | some b => match s.udFail p b with
      | some e => some e
      | none => s.udListFail p fuel (a + udPlace b.data)

/-- A carry or total record, once TENSOR_ID and STEP match (R152). -/
def Sys.carryRead (s : Sys) (p a : Nat) (d : Bytes) : Option (Word32 × Mark) :=
  let b := s.readPart p a 16
  if fieldN b.data 4 4 = udTensor d ∧ fieldN b.data 8 8 = udStep d then some (BitVec.ofNat 32 (fieldN b.data 0 4), b.worst) else none
def Sys.carryWrite (s : Sys) (p a : Nat) (d : Bytes) (v : Word32 × Mark) : Sys :=
  s.writePart p a (.chunks (leBytes 4 v.1.toNat ++ leBytes 4 (udTensor d) ++ leBytes 8 (udStep d)) (if v.2.isBad then [(0, v.2)] else []))

/-- The bytes of the update status record (R159). -/
def statusRec (d : Bytes) (x : Cleat) (frozen side : Nat) : Bytes :=
  leBytes 8 (udStep d) ++ leBytes 8 x.elements ++ leBytes 8 x.nanOut ++ leBytes 8 x.infOut ++ leBytes 8 x.saturated ++ leBytes 8 x.poisoned
    ++ leBytes 4 x.fallback ++ leBytes 4 frozen ++ leBytes 4 x.norm.val.toNat ++ leBytes 1 side ++ [0, 0, 0]

/-- The record with the mark of NORM: a poisoned √T is written poisoned (R431). -/
def statusBlob (d : Bytes) (x : Cleat) (frozen side : Nat) : Blob :=
  .chunks (statusRec d x frozen side) (if x.norm.mark.isBad then [(3, x.norm.mark)] else [])

/-- Pass A of a descriptor with NORM: S from its carry-in, and the records it writes (R151, R152). The carry-in is used once: a pass
that is done (`sum`) is not done again. None while the carry-in has not arrived. -/
def Sys.udPassA (s : Sys) (p : Nat) (d : Bytes) (stream : Nat) (sum : Option (Word32 × Mark)) : Sys × Option (Word32 × Mark) :=
  match sum with
  | some v => (s, some v)
  | none => match (if udCarryIn d = 0 then some (0#32, Mark.clean) else s.carryRead p (udCarryIn d) d) with
    | none => (s, none)
    | some start =>
      let v := s.normSum p d (udBase d (udRead d)) stream start
      let s := if udCarryOut d = 0 then s else s.carryWrite p (udCarryOut d) d v
      (if udNormLast d ∧ udTotal d ≠ 0 then s.carryWrite p (udTotal d) d v else s, some v)

/-- The records that pass A writes. -/
def udPassWrites (d : Bytes) : List (Nat × Nat) :=
  (if udCarryOut d = 0 then [] else [(udCarryOut d, 16)]) ++ (if udNormLast d ∧ udTotal d ≠ 0 then [(udTotal d, 16)] else [])
/-- Whether a write to one of some ranges cannot be performed for a failed check (R250). -/
def Sys.udUnwritten (s : Sys) (p : Nat) (rs : List (Nat × Nat)) : Bool := rs.any (fun r => (s.writeMark p r.1 r.2).isBad)

/-- T for the descriptor: pass A, then the total (R151): its own sum, or the total record; with the sum while that has not arrived. -/
def Sys.udNormRun (s : Sys) (p : Nat) (d : Bytes) (stream : Nat) (sum : Option (Word32 × Mark)) :
    Sys × Option (Word32 × Mark) × Option (Word32 × Mark) :=
  let r := s.udPassA p d stream sum
  (r.1, r.2, match r.2 with
    | none => none
    | some v => if udNormLast d then some v else r.1.carryRead p (udTotal d) d)

/-- Whether the descriptor of another UPDATE is part-way on a share: its program store and registers serve one at a time (R137). -/
def Sys.shareBusy (s : Sys) (die p c : Nat) (k : Cmd) : Bool :=
  (s.ctxsOf p).any (fun d => (s.ctx d).cmds.any (fun e => !(d == c && e.ring == k.ring && e.lay == k.lay) && (match e.progress with
    | .update u => u.part.isSome && (s.udAt p u.next).any (fun b => (s.part p).udDie b.data == die)
    | _ => false)))

/-- The first range of a descriptor whose memory accepts no request (R217, R218). -/
def Sys.udBlocked (s : Sys) (p : Nat) (d : Bytes) : Option (Nat × Nat) :=
  (if udFrozen d then [(udStatus d, 64)] else udWritten d ++ udReadOnly d).find? (fun r => s.memWaits p r.1 r.2)
/-- Whether the Cleat die and packages of a descriptor that has not begun are READY, and the die reaches the package network (R414, R424). -/
def Sys.udReady (s : Sys) (p : Nat) (d : Bytes) : Bool :=
  s.fnReady (fnCleat ((s.part p).udDie d)) && s.cleatReaches ((s.part p).udDie d) &&
    [2 * (s.part p).udDie d, 2 * (s.part p).udDie d + 1].all (fun g => !(s.part p).hanks.any (fun h => h / 8 == g) || s.fnReady (fnPackage g))

/-- A descriptor begins its update blocks: the share holds its constants and program, every register at +0.0. -/
def Sys.udLoad (s : Sys) (p : Nat) (d : Bytes) (t : Word32 × Mark) : Sys :=
  s.setCleat ((s.part p).udDie d) p { Cleat.blank with
    desc := d, ks := (s.part p).scalars (udStep d), rbase := udBase d (udRead d), wbase := udBase d (udWrite d)
    norm := if (udNorm d).isSome then ⟨fpSqrt t.1, t.2⟩ else Lane.zero, causes := if t.2.isBad then [t.2] else [] }

/-- The update blocks `part.blocks` to `part.blocks + n - 1` of a segment, in ascending order. -/
def Sys.udBlocks (s : Sys) (p : Nat) (d : Bytes) (part : UdPart) (n : Nat) : Sys :=
  (List.range n).foldl (fun u i =>
    let b := part.blocks + i
    u.updBlock part.before ((s.part p).udDie d) p ((udProgram d).getD []) (udFirst d + b / 64) (b % 64)) s

/-- What the blocks of a share have read goes to the command: its causes, and poison read (R251, R432). -/
def Sys.udGather (s : Sys) (p c : Nat) (k : Cmd) (d : Bytes) (u : UdProg) : Sys × UdProg :=
  let die := (s.part p).udDie d
  let x := s.cleat die p
  let s := if x.causes.isEmpty then s else s.cmdSaw c k u.causes.isEmpty (domCleat die) (fnCleat die)
  (s.setCleat die p { x with causes := [] }, { u with causes := u.causes ++ x.causes, wrote := u.wrote || x.wrote })

/-- The descriptor at hand is finished: its status record is written, and the next one's turn comes (R144, R159). -/
def UdProg.onward (u : UdProg) (d : Bytes) : UdProg :=
  { u with finished := u.finished + 1, next := u.next + udPlace d, oneSided := u.oneSided || (!udTwoSided d && !udFrozen d), sum := none, part := none, begun := false }

/-- Whether an UPDATE has processed a descriptor with TWO_SIDED and FROZEN clear, one that it stopped in included (R160, R176; DESIGN CHOICE,
log 181). -/
def Sys.udOneSided (s : Sys) (p : Nat) (u : UdProg) : Bool :=
  u.oneSided || (u.part.isSome && (s.udAt p u.next).any (fun b => !udTwoSided b.data))

/-- UPDATE completes (R160, R176). -/
def Sys.udDone (s : Sys) (c : Nat) (u : UdProg) (st : Nat) : Did :=
  .done (if u.oneSided then s.setCtx c { s.ctx c with oneSided := true } else s) st (leBytes 4 u.finished)

/-- A descriptor's memory, die or share holds it back: the command waits. -/
def Sys.udWait (s : Sys) (p c : Nat) (k : Cmd) (u : UdProg) (r : Option (Nat × Nat)) : Did :=
  let s := s.setProgress c k.ring k (.update u)
  match r with
  | some r => .asks s (s.asksOf p r.1 r.2)
  | none => .more s

/-- Processes the descriptors of a list from the one at `u.next` on (R144, R145). `budget` is the number of update blocks that may still be
run before the module looks at another command (DESIGN CHOICE, log 176); a descriptor waits before it begins while its die or packages are
not READY (R424), and anywhere while its memory takes no request. -/
def Sys.udLoop (s : Sys) (p c : Nat) (k : Cmd) (fuel budget : Nat) (u : UdProg) : Did :=
  match fuel with
  | 0 => s.udDone c u (markStatus u.mark)
  | fuel + 1 => match s.udAt p u.next with
    | none => s.udDone c u stBAD_RANGE
    | some b =>
      let d := b.data
      match s.udBlocked p d with
      | some r => s.udWait p c k u (some r)
      | none =>
        let die := (s.part p).udDie d
        let run := fun (s : Sys) (u : UdProg) (part : UdPart) =>
          let n := min budget (64 * udCount d - part.blocks)
          let (s, u) := (s.udBlocks p d part n).udGather p c k d u
          if part.blocks + n < 64 * udCount d then s.udWait p c k { u with part := some { part with blocks := part.blocks + n } } none
          else
            let u := { u with failed := u.failed || s.udUnwritten p [(udStatus d, 64)] }
            (s.writePart p (udStatus d) (statusBlob d (s.cleat die p) 0 (udWrite d))).udLoop p c k fuel (budget - n) (u.onward d)
        match u.part with
        | some part => if !s.cleatReaches die then s.udWait p c k u none else run s u part
        | none =>
          if !u.begun && !s.udReady p d then s.udWait p c k u none
          else
            let s := s.setPart p ((s.part p).beginStep (udStep d))
            if udFrozen d then
              (let u := { u with failed := u.failed || s.udUnwritten p [(udStatus d, 64)] }
               (s.writePart p (udStatus d) (statusBlob d Cleat.blank 1 (udRead d))).udLoop p c k fuel budget (u.onward d))
            else if s.shareBusy die p c k then s.udWait p c k u none
            else
              let u := { u with begun := true }
              match udNorm d with
              | none => run (s.udLoad p d (0#32, .clean)) u ⟨0, s.mem⟩
              | some stream =>
                let bad := u.sum.isNone && s.udUnwritten p (udPassWrites d)
                (match ((if u.sum.isSome then s else (udReadOnly d).foldl (fun s r => s.noteRead p r.1 r.2) s)).udNormRun p d stream u.sum with
                | (s, sum, t) =>
                  let u := { u with failed := u.failed || (bad && sum.isSome) }
                  (match t with
                   | some t => run (s.udLoad p d t) u ⟨0, s.mem⟩
                   | none => .running (s.setProgress c k.ring k (.update { u with sum := sum }))))

/-- The program digests of a braid policy (R350). -/
def policyPrograms (pol : Bytes) : List Bytes := (List.range (fieldN pol 0xE 2)).map (fun i => sliceB pol (0x220 + 24 * fieldN pol 0xC 2 + 32 * i) 32)
/-- Whether a policy that lists programs does not list a digest (R352). -/
def Partition.unlisted (P : Partition) (bs : Bytes) : Bool :=
  decide (0 < fieldN P.policy 0xE 2) && !(policyPrograms P.policy).contains (keyBytes (Config.sha3 bs))

/-- Whether a list holds a descriptor whose constants and program are not listed. -/
def Sys.udUnlisted (s : Sys) (p fuel a : Nat) : Bool :=
  match fuel with
  | 0 => false
  | fuel + 1 => match s.udAt p a with
    | none => false
    | some b => (s.part p).unlisted (sliceB b.data 0x80 (udSize b.data - 0x80)) || s.udUnlisted p fuel (a + udPlace b.data)

/-- The reads of the descriptors of a list that are checked (R143, R250). -/
def Sys.udNote (s : Sys) (p fuel a : Nat) : Sys :=
  match fuel with
  | 0 => s
  | fuel + 1 => match s.udAt p a with
    | none => s
    | some b => (s.noteRead p a (udChecked b)).udNote p fuel (a + udPlace b.data)

/-- UPDATE once it has begun; `count` is the number of update blocks that it runs before the module looks at another command. -/
def updateBody (count p c : Nat) (k : Cmd) (s : Sys) : Did :=
  let addr := k.field 8 8
  let n := k.field 0x10 4
  match k.progress with
  | .update u => s.udLoop p c k (n - u.finished) count { u with pace := count }
  | _ =>
    if addr % 64 ≠ 0 ∨ n = 0 ∨ 65536 < n then .done s stBAD_VALUE (leBytes 4 0)
    else
      let s := s.udNote p n addr
      match s.udListFail p n addr with
      | some (.status st) => .done s st (leBytes 4 0)
      | some (.poison m) => .done (s.cmdSaw c k true domBowline fnBowline) (markStatus m) (leBytes 4 0)
      | none =>
        -- every descriptor's digest must be listed when the policy lists programs (R352)
        if s.udUnlisted p n addr then .done s stDENIED (leBytes 4 0)
        else s.udLoop p c k n count { finished := 0, next := addr, causes := [], wrote := false, oneSided := false, sum := none, part := none, pace := count }

/-- Ranges that an UPDATE writes, for the order of its ring (R296). -/
def Sys.udRanges (s : Sys) (p fuel a : Nat) : List (Nat × Nat × Bool) :=
  match fuel with
  | 0 => []
  | fuel + 1 => match s.udAt p a with
    | none => []
    | some b => (udWritten b.data).map (fun r => (r.1, r.2, true)) ++ s.udRanges p fuel (a + udPlace b.data)
def Sys.cmdExtra (s : Sys) (p : Nat) (k : Cmd) : List (Nat × Nat × Bool) :=
  if k.opcode = 0x38 then s.udRanges p (min (k.field 0x10 4) 65536) (k.field 8 8) else []

/-- Runs a host command with the ranges that UPDATEs of its ring write. -/
def Sys.runOrdered (s : Sys) (i : Instr) (key : CmdKey) (accepts : Cmd → Bool) (body : Nat → Nat → Cmd → Sys → Did) : Sys :=
  s.runCmd i key accepts (fun k => s.cmdExtra (s.ctx key.ctx.val).part k) body

def execUpdate (k : PacedF) (s : State) : Host.Outcome State Fault Refusal :=
  s.onSys (fun y => y.runOrdered (.update k) k.key (isOp 0x38) (updateBody k.count))

/-- The UPDATEs of a partition whose descriptor at hand awaits a record on a die: context, ring, lay count. Those of a context that is not
resident go on when it is (R298). -/
def Sys.waitingUpdates (s : Sys) (die p : Nat) : List (Nat × Nat × Nat) :=
  ((s.ctxsOf p).filter (fun c => (s.ctx c).resident)).flatMap (fun c => (s.ctx c).cmds.filterMap (fun k => match k.progress with
    | .update u => if u.begun && u.part.isNone && (s.udAt p u.next).any (fun b => (s.part p).udDie b.data == die) &&
        !s.waiting.any (fun h => match h.cmd with | .update x => x.key.ctx.val == c && x.key.ring.val == k.ring && x.key.lay == k.lay | _ => false)
        then some (c, k.ring, k.lay) else none
    | _ => none))

/-- The commands whose descriptor at hand has begun on a die: context, ring, lay count. -/
def Sys.begunOn (s : Sys) (die : Nat) : List (Nat × Nat × Nat) :=
  s.ctxs.flatMap (fun e => e.2.cmds.filterMap (fun k => match k.progress with
    | .update u => if (u.begun || u.part.isSome) && (s.udAt e.2.part u.next).any (fun b => (s.part e.2.part).udDie b.data == die) then some (e.1, k.ring, k.lay) else none
    | _ => none))

/-- Each segment that waits on a die rereads the record that it waits for (R152). -/
def execCarryRecordPoll (die : Fin 5) (part : Fin 80) (s : State) : Host.Outcome State Fault Refusal :=
  s.onSys (fun y => (y.waitingUpdates die.val part.val).foldl (fun y w => match y.cmdAt w.1 w.2.1 w.2.2 with
    | some k =>
      let pace := match k.progress with | .update u => u.pace | _ => 0
      let i : Instr := .update ⟨⟨Fin.ofNat 16384 w.1, Fin.ofNat 4 k.ring, k.lay⟩, pace⟩
      (match updateBody pace part.val w.1 k y with
        | .done y st r => y.finish w.1 k st r
        | .more y => y.hold i
        | .asks y at_ => y.holdAt i at_
        | .running y => y)
    | none => y) y)

/-- REEF_SET (R163): reserved fields and codes first, then the step. -/
def execReefSet (k : CmdKey) (s : State) : Host.Outcome State Fault Refusal :=
  s.onSys (fun y => y.runOrdered (.reefSet k) k (isOp 0x39) (fun p c k y =>
    let P := y.part p
    let a := k.field 8 8
    if !P.owns a 784 then .done y stBAD_RANGE [] else
    let b := y.readPart p a 784
    let y := y.noteRead p a 784
    if b.worst.isBad then .done (y.cmdSaw c k true domBowline fnBowline) (markStatus b.worst) []
    else if reefBad b.data then .done y stBAD_SCHEDULE []
    else if P.stepBegun.any (fun n => decide (reefFrom b.data ≤ n)) then .done y stSTALE_VALUE []
    else .done (y.setPart p { P with reefPend := some b.data }) stOK []))

end Sys2Proof.Machine
end

