-- ==== Sys2Proof/Machine/HostLib.lean ====
section
/-!
DEFINITION. What host commands share: readiness of hanks, data records, free granules, references and the release of
objects, opening a context (R287 to R290, R298, R305 to R307, R324, R355, R415).
-/

namespace Sys2Proof.Machine

/-! Data records (R287, R289, R290) -/

/-- The payload of a stream-1 record that stands at its position in the run and passes its tag check. -/
def openRecord (k : BitVec 256) (c seq : Nat) (r : Bytes) : Option Bytes :=
  let n := fieldN r 0xC 4
  let head := sliceB r 0 16
  let ct := sliceB r 16 (min n recPayload)
  let non := recNonce c 1 1 seq
  if fieldN r 0 8 = seq ∧ fieldN r 8 2 = c ∧ fieldN r 0xA 1 = 1 ∧ 1 ≤ n ∧ n ≤ recPayload ∧
      tagBytes (Config.gcmTag k non head ct) = sliceB r 0xFF0 16 then some (gcmCrypt k non ct) else none

/-- A failed transport record: counted, and a Logline record, marked when it is of a command of the step region (R290, R440). -/
def Sys.transportFail (s : Sys) (c seq : Nat) (slack : Bool) : Sys :=
  let p := (s.ctx c).part
  (s.bump (errKey (0x7180 + p) 4) 1).logRec
    { domain := domHost, unit := fnHost, part := p, location := locNone, event := 0x0202, arg0 := c, arg1 := seq, slack := slack }

/-- Moves the stream-1 mark past a run of `n` records at `first`; none below the mark (R290). -/
def Sys.claimIn (s : Sys) (c first n : Nat) : Option Sys :=
  let x := s.ctx c
  if first < x.seq1 then none else some (s.setCtx c { x with seq1 := first + n })

/-- Counts payload bytes read. -/
def Sys.useIn (s : Sys) (c n : Nat) : Sys :=
  let x := s.ctx c
  s.setCtx c { x with usage := { x.usage with hostIn := x.usage.hostIn + n } }

/-- Counts them for a command; those of the step region apart (R182, R313). -/
def Sys.countIn (s : Sys) (c : Nat) (k : Cmd) (n : Nat) : Sys :=
  let P := s.part (s.ctx c).part
  match (if s.inSigma c k then P.sigma else none) with
  | some z => s.setPart (s.ctx c).part { P with sigma := some { z with hostIn := z.hostIn + n } }
  | none => s.useIn c n

/-- The payloads of a run of records up to the first that fails, and whether one failed. -/
def openRun (k : BitVec 256) (c : Nat) (rs : List Bytes) (seq n : Nat) : List Bytes × Bool :=
  match n with
  | 0 => ([], false)
  | n + 1 => match openRecord k c seq (rs.headD []) with
    | none => ([], true)
    | some b => let t := openRun k c rs.tail (seq + 1) n; (b :: t.1, t.2)

/-- A message of a command: plain bytes in a PLAIN entry, else stream-1 records (R339). The status says why there is none. -/
def Sys.readMsg (s : Sys) (c : Nat) (plain : Bool) (first n : Nat) (rs : List Bytes) : Sys × Nat × Bytes :=
  if plain then (s, stOK, rs.flatten) else
  match s.claimIn c first n with
  | none => (s, stSTALE_VALUE, [])
  | some s =>
    let t := openRun (s.ctxKey c) c rs first n
    let s := s.useIn c t.1.flatten.length
    if t.2 then (s.transportFail c (first + t.1.length) false, stTAG_FAIL, []) else (s, stOK, t.1.flatten)

/-- Delivers a report: raw in a PLAIN entry, else stream-2 records; with the first SEQ, 0 when raw. -/
def Sys.writeMsg (s : Sys) (c : Nat) (plain : Bool) (a : Nat) (data : Bytes) : Sys × Nat :=
  if plain then (s.hostWrite a data, 0) else let (s, f, _) := s.sendRecords c a data; (s, f)

/-! Free granules (R298, R305) -/

/-- Runs of granules in use in a space: objects, context areas, and in the window space what no window holds. -/
def Sys.usedRuns (s : Sys) (p space : Nat) : List (Nat × Nat) :=
  let P := s.part p
  let objs := P.objs.filterMap (fun e => if e.2.source.isNone ∧ e.2.space = space then some (e.2.first, e.2.granules) else none)
  let w := P.windowBytes / granuleBytes
  objs ++
  (if space = 0 then (s.ctxsOf p).flatMap (fun c => (s.ctx c).area.map (fun g => (g, 1))) else []) ++
  (if space = 2 then (w - 2, 2) :: (if w = 32 then [] else (List.range P.hanks.length).map (fun j => (32 * j + w, 32 - w))) else [])

/-- Granules of one hank in a space. -/
def hankGranules (space : Nat) : Nat := if space = 2 then 32 else unitGranules

/-- The lowest run of `n` free granules in `[lo, hi)`. -/
def lowestRun (used : List (Nat × Nat)) (lo hi n : Nat) : Option Nat :=
  let starts := (lo :: used.map (fun r => r.1 + r.2)).filter (fun a => decide (lo ≤ a) && decide (a + n ≤ hi) && !used.any (fun r => rangesMeet a n r.1 r.2))
  starts.foldl (fun b a => match b with | some x => some (min x a) | none => some a) none

/-- The `n` lowest free granules from `pos` below `hi`. -/
def lowestFree (used : List (Nat × Nat)) (hi fuel pos n : Nat) : Option (List Nat) :=
  match fuel with
  | 0 => if n = 0 then some [] else none
  | fuel + 1 =>
    if n = 0 then some [] else if hi ≤ pos then none else
    match used.find? (fun r => decide (r.1 ≤ pos) && decide (pos < r.1 + r.2)) with
    | some r => lowestFree used hi fuel (r.1 + r.2) n
    | none => (lowestFree used hi fuel (pos + 1) (n - 1)).map (fun t => pos :: t)

/-- Granules of a context's area with `k` hanks: 2 MiB and 18 MiB for each hank (R298). -/
def areaGranules (k : Nat) : Nat := 1 + 9 * k
def Sys.freeArea (s : Sys) (p k : Nat) : Option (List Nat) :=
  let used := s.usedRuns p 0
  lowestFree used ((s.part p).hanks.length * unitGranules) (areaGranules k + used.length + 1) 0 (areaGranules k)

/-! Numbers, references, release (R305 to R307) -/

/-- Live objects, fences and weight sets together (R341). -/
def Partition.liveCount (P : Partition) : Nat := P.objs.countP (fun e => e.2.live) + P.fences.countP (fun e => e.2.live) + P.wsets.length
def Partition.atQuota (P : Partition) : Bool := decide (fieldN P.config 0x1C 4 ≤ P.liveCount)

/-- References that commands hold on a handle of a partition: its own commands, and those of other partitions that accept it (R306). -/
def Sys.cmdRefs (s : Sys) (p h : Nat) : Nat :=
  ((s.ctxsOf p).map (fun c => (s.ctx c).cmds.countP (fun k => k.refs.contains h))).sum
    + (s.ctxs.map (fun e => e.2.cmds.countP (fun k => k.far == some (p, h)))).sum

/-- Unreleased versions that have an extent in an object. -/
def Partition.versionRefs (P : Partition) (o : Obj) : Nat :=
  (P.wsets.map (fun e => if e.2.source.isNone then e.2.versions.countP (fun v => v.entries.any (fun x => rangesMeet x.addr x.bytes o.addr o.bytes)) else 0)).sum

/-- Imports of an object in other partitions. -/
def Sys.importRefs (s : Sys) (p i : Nat) : Nat :=
  ((List.range 80).map (fun q => (s.part q).objs.countP (fun e => e.2.source == some (p, i)))).sum

/-- References held on a memory object, the allocation's included. -/
def Sys.objRefs (s : Sys) (p i : Nat) (o : Obj) : Nat :=
  (if o.live then 1 else 0) + s.cmdRefs p (mkHandle 0 o.gen i) +
  (if o.source.isNone then (s.part p).versionRefs o + s.importRefs p i else 0)
/-- References held on a fence. -/
def Sys.fenceRefs (s : Sys) (p i : Nat) (f : Fence) : Nat :=
  (if f.live then 1 else 0) + s.cmdRefs p (mkHandle 1 f.gen i) + f.importers.length
/-- Imports of a weight set in other partitions. -/
def Sys.wsetImports (s : Sys) (p i : Nat) : Nat := ((List.range 80).map (fun q => (s.part q).wsets.countP (fun e => e.2.source == some (p, i)))).sum
/-- References on a weight set: its handle's, those of commands, those of imports (R306). -/
def Sys.wsetRefs (s : Sys) (p i : Nat) (w : WSet) : Nat :=
  1 + s.cmdRefs p (mkHandle 2 w.gen i) + (if w.source.isNone then s.wsetImports p i else 0)

/-- Drops the copies that an import made, in every hank that the object lies in (R208). -/
def Sys.dropCopies (s : Sys) (p q : Nat) (o : Obj) : Sys :=
  let Q := s.part q
  let gone := ((placeRuns Q (Q.hanks.length + 1) o.addr o.bytes).getD []).filter (fun r => keyKind r.1 == 0)
  { s with mem := { s.mem with copies := s.mem.copies.filter (fun e => !((s.part p).hanks.contains e.to_ &&
      gone.any (fun r => keyHank r.1 == e.from_ && decide (keyOff r.1 / 256 ≤ e.line) && decide (256 * e.line < keyOff r.1 + r.2)))) } }

/-- Removes an object whose last reference has dropped: its granules are scrubbed and are free again; an import ends (R307). -/
def Sys.releaseObj (s : Sys) (p i : Nat) : Sys :=
  let P := s.part p
  match P.objs.get? i with
  | none => s
  | some o =>
    if s.objRefs p i o ≠ 0 then s else
    let s := match o.source with
      | some (q, j) => (match (s.part q).objs.get? j with | some x => s.dropCopies p q x | none => s)
      | none => s.scrubGranules p o.space o.first o.granules (mkHandle 0 o.gen i)
    let P := s.part p
    s.setPart p { P with objs := P.objs.del i, objGens := P.objGens.put i (o.gen + 1) }

/-! Opening a context (R323, R324, R355) -/

/-- The context fields of CTX_OPEN. -/
structure CtxFields where
  mask : BitVec 80
  msix : Nat
  entries : Nat
  base : Nat
  deriving DecidableEq, Repr

/-- The fields as they stand in a message at an offset. -/
def ctxFields (b : Bytes) (o : Nat) : CtxFields :=
  ⟨BitVec.ofNat 80 (fieldN b o 10), fieldN b (o + 10) 2, fieldN b (o + 12) 4, fieldN b (o + 16) 8⟩

/-- The values that COMP_ENTRIES takes. -/
def entriesOk (n : Nat) : Bool := (List.range 11).any (fun i => n == 64 * 2 ^ i)

/-- The positions of a hank mask. -/
def maskPositions (m : BitVec 80) : List Nat := (List.range 80).filter (fun j => m.getLsbD j)

/-- The checks of CTX_OPEN in their order: a status, or the number and area of the new context. -/
def Sys.ctxCheck (s : Sys) (p : Nat) (f : CtxFields) : Except Nat (Nat × List Nat) :=
  let P := s.part p
  if (2047 < f.msix ∧ f.msix ≠ 0xFFFF) ∨ !entriesOk f.entries ∨ f.base % 4096 ≠ 0 then .error stBAD_VALUE
  else if (maskPositions f.mask).any (fun j => decide (P.hanks.length ≤ j)) then .error stBAD_HANK
  else if 16384 ≤ s.ctxs.countP (fun e => e.2.opened) then .error stNO_CONTEXT
  else if fieldN P.config 0x10 2 ≤ (s.ctxsOf p).length then .error stQUOTA
  else match (List.range 16384).find? (fun c => !(s.ctx c).opened), s.freeArea p (maskPositions f.mask).length with
    | some c, some area => .ok (c, area)
    | none, _ => .error stNO_CONTEXT
    | _, none => .error stNO_MEMORY

/-- The transport key of context `c` at opening `k` of a session. -/
def sessionCtxKey (kSess : BitVec 256) (c k : Nat) : BitVec 256 := Config.kmac (keyBytes kSess) (leBytes 2 c ++ leBytes 8 k) "CZ3220 CONTEXT"

def Partition.session (P : Partition) (o : Nat) : Option Session := P.sessions.find? (fun x => x.owner == o)
def Partition.setSession (P : Partition) (x : Session) : Partition :=
  { P with sessions := P.sessions.map (fun y => if y.owner == x.owner then x else y) }

/-- Opens a context under a session: the opening is counted and gives its key. -/
def Sys.openCtx (s : Sys) (p c : Nat) (owner : Nat) (f : CtxFields) (area : List Nat) : Sys :=
  match (s.part p).session owner with
  | none => s
  | some e =>
    let s := s.setPart p ((s.part p).setSession { e with openings := e.openings + 1 })
    { (s.setCtx c { Context.closed with opened := true, part := p, owner := some owner, hankMask := f.mask, msix := f.msix
                                        compEntries := f.entries, compBase := f.base, area := area
                                        key := some (sessionCtxKey e.kSess c e.openings), lastUse := s.useNext })
      with useNext := s.useNext + 1, saved := s.saved.delRange (80 * c) 80 }

end Sys2Proof.Machine
end

