-- ==== Sys2Proof/Machine/Commit.lean ====
section
/-!
DEFINITION. Version directories, publishing, the format selector, the step region and STEP_COMMIT
(R123 to R127, R165 to R190, R332, R399, R434, R435, R460, R462).
-/

namespace Sys2Proof.Machine

/-! Version directories (R166, R167) -/

/-- What reading a directory gives. -/
inductive DirOut where
  | ok (entries : List DirEntry)
  | bad (status : Nat)
  | poison (m : Mark)

/-- Entry `t` of a directory, from its 32 bytes. -/
def dirEntry (b : Bytes) : DirEntry :=
  { addr := fieldN b 0 8, bytes := fieldN b 8 8, rows := fieldN b 0x10 4, cols := fieldN b 0x14 4, fmt := fieldN b 0x18 1
    shared := (fieldN b 0x19 1).testBit 0 }

/-- Whether an entry's fields are in order: reserved bits, format, shape, size, alignment. An ADDR that is no multiple of 256, and ROWS or COLS of
0, are refused as the other fields are (R166, R167; DESIGN CHOICE, log 185). -/
def dirEntryOk (b : Bytes) : Bool :=
  let e := dirEntry b
  decide (fieldN b 0x19 1 < 2) && zeroField b 0x1A 6 && e.rows != 0 && e.cols != 0 && e.addr % 256 == 0 &&
  (match Fmt.ofCode e.fmt with
   | some f => e.bytes == tilesOf e.rows * tilesOf e.cols * fmtRecord f
   | none => false)

/-- Whether two entries name one extent in one shape. -/
def DirEntry.same (a b : DirEntry) : Bool :=
  a.addr == b.addr && a.bytes == b.bytes && a.rows == b.rows && a.cols == b.cols && a.fmt == b.fmt
def DirEntry.meets (a b : DirEntry) : Bool := rangesMeet a.addr a.bytes b.addr b.bytes

/-- The extents of every unreleased version of a partition. -/
def Partition.extents (P : Partition) : List DirEntry :=
  P.wsets.flatMap (fun e => if e.2.source.isNone then e.2.versions.flatMap (fun v => v.entries) else [])

/-- Checks the directory at `a` for a version computed from `cur`, bullet by bullet (R167). -/
def Sys.checkDir (s : Sys) (p a : Nat) (cur : List DirEntry) : DirOut :=
  let P := s.part p
  if a % 64 ≠ 0 then .bad stBAD_DESCRIPTOR
  else if !P.owns a 64 then .bad stBAD_RANGE
  else
    let h := s.readPart p a 64
    if h.worst.isBad then .poison h.worst else
    let n := fieldN h.data 8 4
    if !zeroField h.data 0xC 52 ∨ n = 0 ∨ 65536 < n then .bad stBAD_DESCRIPTOR
    else if !P.owns (a + 64) (32 * n) then .bad stBAD_RANGE
    else
      let b := s.readPart p (a + 64) (32 * n)
      if b.worst.isBad then .poison b.worst else
      let raw := (List.range n).map (fun t => (b.data.drop (32 * t)).take 32)
      let es := raw.map dirEntry
      let exempt := fun (t : Nat) (e : DirEntry) => e.shared && (cur[t]?).any (fun c => c.same e)
      if !raw.all dirEntryOk then .bad stBAD_DESCRIPTOR
      else if !es.all (fun e => P.owns e.addr e.bytes) then .bad stBAD_RANGE
      else if (es.zipIdx).any (fun e => !exempt e.2 e.1 &&
          ((es.zipIdx).any (fun f => f.2 != e.2 && e.1.meets f.1) || P.extents.any (fun x => e.1.meets x))) then .bad stBAD_RANGE
      else if (es.zipIdx).any (fun e => e.1.shared && !exempt e.2 e.1) then .bad stBAD_DESCRIPTOR
      else .ok es

/-- What the check of a directory leaves beside its data (R250). -/
def Sys.noteDir (s : Sys) (p a : Nat) : Sys :=
  if !(s.part p).owns a 64 then s else
  let n := fieldN (s.readPart p a 64).data 8 4
  if n ≤ 65536 ∧ (s.part p).owns (a + 64) (32 * n) then s.noteRead p a (64 + 32 * n) else s.noteRead p a 64

def WSet.current (w : WSet) : Option Version := w.versions.find? (fun v => v.state == .current)
def WSet.provisional (w : WSet) : Option Version := w.versions.find? (fun v => v.state == .provisional)
/-- The number of the next publish (R165). -/
def WSet.nextNumber (w : WSet) : Nat := ((w.current.map (fun v => v.num)).getD 0) + 1
def WSet.curEntries (w : WSet) : List DirEntry := (w.current.map (fun v => v.entries)).getD []
/-- The number that no version takes. -/
def versionEnd : Nat := 2 ^ 64 - 1

/-- A version becomes current; the one before it is superseded (R173). -/
def WSet.promote (w : WSet) (num : Nat) : WSet :=
  { w with versions := w.versions.map (fun v =>
      if v.num = num then { v with state := .current } else if v.state = .current then { v with state := .superseded } else v) }

def Sys.setWset (s : Sys) (p i : Nat) (w : WSet) : Sys := let P := s.part p; s.setPart p { P with wsets := P.wsets.put i w }
def Sys.wset? (s : Sys) (p i : Nat) : Option WSet := (s.part p).wsets.get? i

/-- Makes version `num` of a set current: VERSION is written into its directory, and what lost its last pin is released. -/
def Sys.makeCurrent (s : Sys) (p i num : Nat) : Sys :=
  match s.wset? p i with
  | none => s
  | some w =>
    let s : Sys := match w.versions.find? (fun v => v.num == num) with
      | some v => s.writePart p v.dir (Blob.ofBytes (leBytes 8 num))
      | none => s
    (s.setWset p i (w.promote num)).releaseVersions p

/-- What a publish answers: a status, or the state with the new version's number and what the write of that number into the directory tells its
command (R250). -/
inductive Publish where
  | done (s : Sys) (num : Nat) (m : Mark)
  | bad (status : Nat)
  | poison (m : Mark)
  | waits

/-- Publishes the directory at `a` as the next version (R165, R167, R170, R174). -/
def Sys.publish (s : Sys) (p i a : Nat) : Publish :=
  match s.wset? p i with
  | none => .bad stBAD_HANDLE
  | some w =>
    if w.retiring then .bad stDRAINING
    else if w.provisional.isSome then .waits
    else if w.nextNumber = versionEnd then .bad stEXHAUSTED
    else match s.checkDir p a w.curEntries with
      | .bad st => .bad st
      | .poison m => .poison m
      | .ok es =>
        let v : Version := { num := w.nextNumber, dir := a, entries := es, state := .current }
        .done ((s.setWset p i { w with versions := w.versions.map (fun x => if x.state = .current then { x with state := .superseded } else x) ++ [v] }
          |>.writePart p a (Blob.ofBytes (leBytes 8 v.num))).releaseVersions p) v.num (s.writeMark p a 8)

/-! The format selector (R123 to R127) -/

/-- One entry of a selector table, as it stands, and the record that it names. -/
structure SelEntry where
  raw : Bytes
  bad : Bool
  record : Blob
  deriving DecidableEq, Repr

def SelEntry.stat (e : SelEntry) : Nat := fieldN e.raw 0 2
def SelEntry.invalid (e : SelEntry) : Bool := decide (8192 ≤ e.stat) || decide (30 < fieldN e.raw 4 1) || decide (4 ≤ fieldN e.raw 5 1)
def SelEntry.valid (e : SelEntry) : Bool := !e.bad && !e.invalid

/-- U for a format of depth `d` (R125). -/
def SelEntry.under (e : SelEntry) (d : Nat) : Nat :=
  let h := fieldN e.raw 4 1
  let lo := d + 1 - h
  ((List.range 32).map (fun i => if lo ≤ i then fieldN e.record.data (0x40 + 8 * i) 8 else 0)).sum

/-- RESULT, REASON and both U of a valid entry for step `n`. -/
def SelEntry.choose (e : SelEntry) (n : Nat) : Nat × Nat × Nat × Nat :=
  let keep := fieldN e.raw 6 1
  let nz := fieldN e.record.data 0 8
  let u4 := e.under 16
  let u5 := e.under 30
  let pass := fun (u bit : Nat) => (fieldN e.raw 5 1).testBit bit && decide (u * 65536 < fieldN e.raw 2 2 * nz)
  if e.record.worst.isBad then (keep, 5, 0, 0)
  else if n = 0 then (5, 0, u4, u5)
  else if nz = 0 then (keep, 3, 0, 0)
  else if pass u4 0 then (2, 1, u4, u5)
  else if pass u5 1 then (3, 1, u4, u5)
  else (5, 2, u4, u5)

def satWord (n : Nat) : Nat := min n 0xFFFFFFFF

/-- Runs the selection of step `n` on a table that passed its checks: every entry is computed, then records are cleared,
then results are written (R124), also where the table lies in a read-only range, as R168 names other writers alone (DESIGN CHOICE, log 33). -/
def Sys.runSelect (s : Sys) (p a n : Nat) : Sys :=
  let P := s.part p
  let count := fieldN (s.readPart p a 16).data 0 4
  let es := (List.range count).map (fun e =>
    let b := s.readPart p (a + 16 + 16 * e) 16
    ({ raw := b.data, bad := b.worst.isBad, record := if 8192 ≤ fieldN b.data 0 2 then .ofBytes [] else s.readPart p (P.statAddr (fieldN b.data 0 2)) 512 } : SelEntry))
  let s := es.foldl (fun s e => if e.valid then s.writePart p (P.statAddr e.stat) (Blob.ofBytes (List.replicate 512 0)) else s) s
  (es.zipIdx).foldl (fun s e =>
    let at_ := a + 16 + 16 * e.2
    if e.1.bad then s
    else if e.1.invalid then s.writePart p (at_ + 7) (Blob.ofBytes [4])
    else
      let r := e.1.choose n
      s.writePart p (at_ + 6) (Blob.ofBytes (leBytes 1 r.1 ++ leBytes 1 r.2.1 ++ leBytes 4 (satWord r.2.2.1) ++ leBytes 4 (satWord r.2.2.2)))) s

/-- What the checks of R460 give. -/
inductive SelCheck where
  | ok | refused (status : Nat) | poison (m : Mark)
  deriving DecidableEq, Repr

def Sys.selCheck (s : Sys) (p a : Nat) : SelCheck :=
  let P := s.part p
  if a % 16 ≠ 0 ∨ !P.owns a 16 then .refused stBAD_RANGE else
  let h := s.readPart p a 16
  let n := fieldN h.data 0 4
  if h.worst.isBad then .poison h.worst
  else if n = 0 ∨ 8192 < n ∨ !zeroField h.data 4 12 then .refused stBAD_DESCRIPTOR
  else if !P.owns a (16 + 16 * n) then .refused stBAD_RANGE
  else .ok

/-! Batches named by number -/

/-- The latest instance of a batch number, opened when there is none. -/
def Context.withBatch (x : Context) (n : Nat) : Context × Nat :=
  match x.batches.reverse.find? (fun b => b.number == n) with
  | some b => (x, b.id)
  | none =>
    ({ x with batches := x.batches ++ [{ id := x.batchNext, number := n, closed := false, pins := [], spec := false, hauled := false, cut := false }]
              batchNext := x.batchNext + 1 }, x.batchNext)

/-- A command of a batch that is cut with no region open completes with CUT: a RUN that had begun stops, and a collective ends (R188, R434). -/
def Sys.cutCmd (s : Sys) (c : Nat) (k : Cmd) : Sys :=
  match k.progress with
  | .run _ _ _ _ _ => s.stopRun c k stCUT false
  | _ => match s.collBy c k.ring k.lay with
    | some x => s.endColl x stCUT 1
    | none => s.finish c k stCUT []

/-- A batch is cut: its accepted commands complete with CUT in ring order, and so do later ones (R188, R434, R460). -/
def Sys.cutBatch (s : Sys) (c id : Nat) : Sys :=
  let x := s.ctx c
  match x.batch id with
  | none => s
  | some b =>
    let s := s.setCtx c (x.setBatch { b with cut := true, spec := false })
    (x.cmds.filter (fun k => k.batch == id)).foldl (fun s k => match s.cmdAt c k.ring k.lay with
      | some k => s.cutCmd c k
      | none => s) s
def Sys.cutBatchNumber (s : Sys) (c n : Nat) : Sys :=
  let (x, id) := (s.ctx c).withBatch n
  (s.setCtx c x).cutBatch c id

/-! The step region (R177 to R190) -/

/-- A step's commit has completed with OK or HAULED: staged-commit markers that name the next step are placed (R398, R399). -/
def Sys.stepCompleted (s : Sys) (p n : Nat) : Sys :=
  let s := s.setPart p { s.part p with stepDone := some n }
  match s.dict.sets.get? p with
  | some z => if z.state = .armed ∧ !z.placed ∧ z.step = n + 1 then
      { s with dict := { s.dict with sets := s.dict.sets.put p { z with placed := true } } } else s
  | none => s

/-- RESULT of STEP_COMMIT: version, and the finite bit or 0xFF (R332). -/
def commitResult (version bit : Nat) : Bytes := leBytes 8 version ++ leBytes 1 bit

/-- What a kept outcome resolves to: haul or not, status, the entry's flag byte, the finite bit (R179, R180). -/
def Outcome.verdict (o : Outcome) : Bool × Nat × Byte × Nat :=
  let poison := o.flags.testBit 3
  if o.status = stPEER_LOST then (false, stPEER_LOST, if poison then 8#8 else 0#8, 0xFF)
  else
    let bit := if o.ended then 0xFF else o.value % 256
    if o.value = 1 ∧ !poison ∧ bit = 1 then (true, stHAULED, 0#8, 1) else (false, stCUT, if poison then 8#8 else 0#8, bit)

def Partition.outcome (P : Partition) (id : Nat) : Option Outcome := P.outcomes.find? (fun o => o.coll == id)

/-- Whether a RUN that a Bight holds belongs to the step region. -/
def Bight.specRun (x : Bight) : Bool := x.run.any (fun r => r.spec)

/-- Fills summary entry 0 of a Bight, and of what its region would restore, where that is the step record's (R180). -/
def Bight.fillStep (x : Bight) (v : Word64) (f : Byte) : Bight :=
  if x.run.any (fun r => r.step) then x.outside (fun a => a.fill 0 v f) else x

/-- Removes what a RUN of the step region left on a Bight and gives the context back what it kept there at the RUN's start (R182, R188). -/
def Sys.restoreBight (s : Sys) (k : Kept) : Sys :=
  let x := s.bight k.hank
  let s : Sys := if x.run.any (fun r => r.ctx == k.ctx && r.spec) then
      ({ s with waiting := s.waiting.filter (fun h => h.bight != some k.hank) } : Sys).setBight k.hank { Bight.idle with turn := k.ctx }
    else s
  s.setSaved k.ctx k.hank { Bight.idle with arch := k.arch }

/-- The collectives of the commands that a region's cut ends leave the outcome CUT: those that have not started are dropped without a frame, and
a result that one has left goes (R181, R182, R462; DEDUCED, log 156). -/
def Sys.cutColls (s : Sys) (p c : Nat) (cmds : Nat → Nat → Bool) : Sys :=
  let s := (s.fab.colls.filter (fun x => x.ctx == c && !x.started && cmds x.ring x.lay)).foldl (fun s x => (s.dropColl x).keepOutcome x.part (x.without stCUT)) s
  let P := s.part p
  s.setPart p { P with outcomes := P.outcomes.map (fun (o : Outcome) =>
    if o.by_.any (fun e => e.1 == c && cmds e.2.1 e.2.2) then { coll := o.coll, status := stCUT, value := 0, flags := 8, element := 0, ended := true, late := o.late } else o) }

/-! Work of the batch that has begun before the region opens (R178; DESIGN CHOICE, log 186) -/

/-- A Bight of a RUN, executing or switched out, is of the step region from now on: what a cut restores is kept, and what an open region of the
Bight holds stands with the step region's items. -/
def Sys.joinBight (s : Sys) (p c : Nat) (k : Cmd) (b : Nat) : Sys :=
  let mine := fun (x : Bight) => x.run.any (fun r => r.ctx == c && r.ring == k.ring && r.lay == k.lay)
  let x := if mine (s.bight b) then s.bight b else s.savedBight c b
  match (s.part p).sigma with
  | some z => if !mine x then s else
    let y : Bight := { x with run := x.run.map (fun r => { r with spec := true }), region := x.region.map (fun g => { g with items := [] }) }
    let s := if mine (s.bight b) then s.setBight b y else s.setSaved c b y
    s.setPart p { s.part p with sigma := some { z with
      items := z.items ++ (x.region.map (fun g => g.items)).getD []
      lockers := z.lockers ++ [⟨c, b, k.ring, k.lay, ((x.region.map (fun g => g.snap)).getD x.arch).kept, []⟩] } }
  | none => s

/-- The RUNs of a batch that have begun are of the step region that opens. -/
def Sys.joinRuns (s : Sys) (p c batch : Nat) : Sys :=
  ((s.ctx c).cmds.filter (fun k => k.batch == batch)).foldl (fun s k => match k.progress with
    | .run ready active st causes _ =>
      active.foldl (fun s b => s.joinBight p c k b) (s.setProgress c k.ring k (.run ready active st causes true))
    | _ => s) s

/-- Removes the provisional version of a set, with the pins on it (R188 step 1). -/
def Sys.dropProvisional (s : Sys) (p c : Nat) (z : Machine.Sigma) : Sys :=
  let s : Sys := match s.wset? p z.wset with
    | some w => s.setWset p z.wset { w with versions := w.versions.filter (fun (v : Version) => v.state != VState.provisional) }
    | none => s
  let x := s.ctx c
  let s := s.setCtx c { x with batches := x.batches.map (fun b => { b with pins := b.pins.filter (fun n => !(n.part == p && n.wset == z.wset && n.version == z.version)) }) }
  s.releaseVersions p

/-- The Bights that execute RUNs of the step region which a context's batch opened. -/
def Sys.specBights (s : Sys) (c : Nat) : List Nat := (List.range 80).filter (fun b => (s.bight b).run.any (fun r => r.ctx == c && r.spec))

/-- Cuts the step region of a partition (R188). -/
def Sys.cutSigma (s : Sys) (p : Nat) (status : Nat) (flags : Byte) (bit : Nat) : Sys :=
  match (s.part p).sigma with
  | none => s
  | some z =>
    let c := z.ctx
    let s := s.setPart p { s.part p with sigma := none }
    let s := s.dropProvisional p c z
    -- entry 0; every RUN stops, its Bights restored to what stood before the first of them, and held items go with the region
    let s := (s.specBights c).foldl (fun s b => s.setBight b ((s.bight b).fillStep 0#64 flags)) s
    let live : List Cmd := (s.ctx c).cmds.filter (fun k => k.batch == z.batch)
    let s := z.lockers.reverse.foldl (fun s k => s.restoreBight k) s
    let s := s.cutColls p c (fun r l => live.any (fun k => k.ring == r && k.lay == l))
    -- every command of the batch completes with CUT in ring order
    let s : Sys := match (s.ctx c).batch z.batch with
      | some b => s.setCtx c ((s.ctx c).setBatch { b with cut := true, spec := false })
      | none => s
    let s := live.foldl (fun s k => match s.collBy c k.ring k.lay with
      | some x => s.endColl x stCUT 1
      | none => (s.emit c (doneRec k stCUT [])).leave c k) s
    let s : Sys := match s.cmdAt c z.ring z.lay with
      | some k => s.finish c k status (commitResult z.version bit)
      | none => s
    z.lockers.foldl (fun s k => s.takeBight k.hank) s

/-- Fills entry 0 of the Bights of a hauled batch, whose RUNs are speculative no more, and resolves the regions bound to it; with the
Bights whose region was cut (R180, R187, R190). -/
def Sys.haulBights (s : Sys) (c : Nat) : Sys × List Nat :=
  let bs := s.specBights c
  let calm := fun (x : Bight) => if x.run.any (fun r => r.ctx == c && r.spec) then
      { x.fillStep 1#64 0#8 with run := x.run.map (fun r => { r with spec := false, step := false }) } else x
  let s : Sys := { s with bights := s.bights.map calm, saved := s.saved.map (fun e => (e.1, calm e.2)) }
  let cut := bs.filter (fun b => (s.bight b).boundEntry.any (fun e => !e.1.holds e.2))
  (bs.foldl (fun s b => s.resolveRegion b) s, cut)

/-- Writes the completions that the step region deferred, in the order in which the commands finished, and retires them. -/
def Sys.writeDeferred (s : Sys) (ds : List Deferred) : Sys :=
  ds.foldl (fun s d => match s.cmdAt d.ctx d.ring d.lay with
    | some k => (match k.progress with
      | .finished st res => (s.emit d.ctx (doneRec k st res)).leave d.ctx k
      | _ => s)
    | none => s) s

/-- Hauls the step region of a partition (R187). -/
def Sys.haulSigma (s : Sys) (p : Nat) : Sys :=
  match (s.part p).sigma with
  | none => s
  | some z =>
    let c := z.ctx
    let P := s.part p
    let s := s.setPart p { P.inside with sigma := none }
    let s := s.makeCurrent p z.wset z.version
    let (s, cut) := s.haulBights c
    -- held items leave in issue order, but for those of a Bight region that was cut
    let s := s.performAll (z.items.filter (fun i => !(i.local_ && cut.contains i.hank && (s.bight i.hank).made i)))
    let x := s.ctx c
    let x : Context := { x with
      batches := x.batches.map (fun b => if b.id = z.batch then { b with spec := false, hauled := true } else b)
      poisonSeen := x.poisonSeen || z.poison
      usage := { x.usage with hostIn := x.usage.hostIn + z.hostIn }
      rings := x.rings.map (fun g => { g with cmds := g.cmds.map (fun k => match k.progress with
        | .run rd a st ca _ => if k.batch = z.batch then { k with progress := .run rd a st ca false } else k
        | _ => k) }) }
    let s := (s.setCtx c x).writeDeferred z.deferred
    let s : Sys := match s.cmdAt c z.ring z.lay with
      | some k => s.finish c k stHAULED (commitResult z.version 1)
      | none => s
    z.lockers.foldl (fun s k => s.takeBight k.hank) (s.stepCompleted p z.step)

/-- Resolves the region by an outcome (R179). -/
def Sys.resolveSigma (s : Sys) (p : Nat) (o : Outcome) : Sys :=
  let v := o.verdict
  if v.1 then s.haulSigma p else s.cutSigma p v.2.1 v.2.2.1 v.2.2.2

/-! STEP_COMMIT (R175 to R177, R332) -/

def Cmd.step (k : Cmd) : Nat := k.field 8 8
def Cmd.mode (k : Cmd) : Nat := k.field 0x10 1
def Cmd.collId (k : Cmd) : Nat := k.field 0x14 4
def Cmd.selector (k : Cmd) : Nat := k.field 0x18 8
def Cmd.wsetArg (k : Cmd) : Nat := k.field 0x20 8
def Cmd.dirArg (k : Cmd) : Nat := k.field 0x28 8
def Cmd.specBatch (k : Cmd) : Nat := k.field 0x30 4

/-- The weight set of a partition's own that a handle names. -/
def Partition.ownWset (P : Partition) (h : Nat) : Option Nat :=
  (P.wsetOf h).bind (fun w => if w.source.isNone then some (handleIndex h) else none)

/-- The checks of WSET, DIR_ADDR and SPEC_BATCH, and R176; they follow those of MODE and SELECTOR_ADDR (R316, R332). SPECULATE with a directory and
no weight set is refused as one that names no directory is (DESIGN CHOICE, log 36). -/
def Sys.commitArgs (s : Sys) (p c : Nat) (k : Cmd) : Option Nat :=
  if k.mode ≠ 0 ∧ k.dirArg ≠ 0 ∧ !(k.mode == 2 && k.wsetArg == 0) ∧ ((s.part p).ownWset k.wsetArg).isNone then some stBAD_HANDLE
  else if k.mode = 2 ∧ (k.dirArg = 0 ∨ k.specBatch = 0 ∨ k.wsetArg = 0 ∨ (s.part p).sigma.isSome ∨ (s.ctx c).oneSided) then some stNOT_READY
  else none

/-- Clears POISON_SEEN and the mark of R176 as a STEP_COMMIT begins. -/
def Sys.commitStart (s : Sys) (c : Nat) : Sys := s.setCtx c { s.ctx c with poisonSeen := false, oneSided := false }

/-- WAIT: the finite bit, once it is there (R175). -/
def Sys.commitWait (s : Sys) (p c : Nat) (k : Cmd) : Did :=
  match (s.part p).outcome k.collId with
  | none => .more s
  | some o =>
    let v := o.verdict
    if !v.1 then .done s v.2.1 (commitResult 0 v.2.2.2)
    else if k.dirArg = 0 then .done (s.stepCompleted p k.step) stHAULED (commitResult 0 1)
    else match (s.noteDir p k.dirArg).publish p (handleIndex k.wsetArg) k.dirArg with
      | .done s num _ => .done (s.stepCompleted p k.step) stHAULED (commitResult num 1)
      | .bad st => .done s st (commitResult 0 1)
      | .poison m => .done (s.cmdSaw c k true domBowline fnBowline) (markStatus m) (commitResult 0 1)
      | .waits => .more s

/-- SPECULATE: the directory becomes a provisional version and the region opens; an outcome already there resolves it at once. -/
def Sys.commitOpen (s : Sys) (p c : Nat) (k : Cmd) : Did :=
  let i := handleIndex k.wsetArg
  match s.wset? p i with
  | none => .done s stBAD_HANDLE (commitResult 0 0xFF)
  | some w =>
    if w.retiring then .done s stDRAINING (commitResult 0 0xFF)
    else if w.nextNumber = versionEnd then .done s stEXHAUSTED (commitResult 0 0xFF)
    else match s.checkDir p k.dirArg w.curEntries with
      | .bad st => .done s st (commitResult 0 0xFF)
      | .poison m => .done (s.cmdSaw c k true domBowline fnBowline) (markStatus m) (commitResult 0 0xFF)
      | .ok es =>
        let num := w.nextNumber
        let s := (s.noteDir p k.dirArg).setWset p i { w with versions := w.versions ++ [{ num := num, dir := k.dirArg, entries := es, state := .provisional }] }
        let (x, id) := (s.ctx c).withBatch k.specBatch
        let s := s.setCtx c { x with batches := x.batches.map (fun b => if b.id = id then { b with spec := true } else b) }
        let z : Machine.Sigma :=
          { ctx := c, ring := k.ring, lay := k.lay, step := k.step, batch := id, wset := i, version := num, coll := k.collId, items := []
            deferred := [], poison := false, lockers := [], hostIn := 0 }
        let s := (s.setPart p { s.part p with sigma := some z }).joinRuns p c id
        let s := s.setProgress c k.ring k (.commit num)
        match (s.part p).outcome k.collId with
        | some o => .running (s.resolveSigma p o)
        | none => .running s

/-- STEP_COMMIT once it has begun. -/
def commitBody (p c : Nat) (k : Cmd) (s : Sys) : Did :=
  match k.progress with
  | .commit _ => if k.mode = 1 then s.commitWait p c k else .running s
  | _ =>
    if 2 < k.mode then .done s stBAD_VALUE (commitResult 0 0xFF) else
    let cutBatch := fun (s : Sys) => if k.mode = 2 then s.cutBatchNumber c k.specBatch else s
    let s := if k.selector = 0 then s else s.noteRead p k.selector 16
    match (if k.selector = 0 then .ok else s.selCheck p k.selector) with
    | .refused st => .done (cutBatch s) st (commitResult 0 0xFF)
    | .poison m =>
      let s := (s.cmdSaw c k true domBowline fnBowline).commitStart c
      .done (cutBatch s) (markStatus m) (commitResult 0 0xFF)
    | .ok =>
      match s.commitArgs p c k with
      | some st => .done s st (commitResult 0 0xFF)
      | none =>
        let s := s.pinNamed c k
        let s := if k.selector = 0 then s else (s.noteRead p k.selector (16 + 16 * fieldN (s.readPart p k.selector 16).data 0 4)).runSelect p k.selector k.step
        let bad := (s.ctx c).poisonSeen
        let s := s.commitStart c
        if k.mode = 0 then .done (s.stepCompleted p k.step) stOK (commitResult 0 0xFF)
        else if bad then .done (cutBatch s) stPOISONED (commitResult 0 0xFF)
        else if k.mode = 1 then (s.setProgress c k.ring k (.commit 0)).commitWait p c k
        else s.commitOpen p c k

/-- A STEP_COMMIT of a mode; a mode beyond 2 is refused by whichever row it comes as. -/
def isCommit (mode : Nat) (k : Cmd) : Bool := k.opcode == 0x3A && (k.mode == mode || decide (2 < k.mode))

def execStepCommitNone (k : CmdKey) (s : State) : Host.Outcome State Fault Refusal :=
  s.onSys (fun y => y.runOrdered (.stepCommitNone k) k (isCommit 0) commitBody)
def execStepCommitWait (k : CmdKey) (s : State) : Host.Outcome State Fault Refusal :=
  s.onSys (fun y => y.runOrdered (.stepCommitWait k) k (isCommit 1) commitBody)
def execStepCommitSpeculate (k : CmdKey) (s : State) : Host.Outcome State Fault Refusal :=
  s.onSys (fun y => y.runOrdered (.stepCommitSpeculate k) k (isCommit 2) commitBody)

/-- The finite record has value 1 and POISON clear: the step region is hauled (R179, R187). -/
def execStepRegionHaul (part : Fin 80) (s : State) : Host.Outcome State Fault Refusal :=
  s.onSys (fun y => match (y.part part.val).sigma.bind (fun z => (y.part part.val).outcome z.coll) with
    | some o => if o.verdict.1 then y.haulSigma part.val else y
    | none => y)
/-- The finite record has value 0 or POISON, or the collective completed without a result: the step region is cut (R179, R188). -/
def execStepRegionCut (part : Fin 80) (s : State) : Host.Outcome State Fault Refusal :=
  s.onSys (fun y => match (y.part part.val).sigma.bind (fun z => (y.part part.val).outcome z.coll) with
    | some o => if o.verdict.1 then y else y.cutSigma part.val o.verdict.2.1 o.verdict.2.2.1 o.verdict.2.2.2
    | none => y)

/-! Weight-set commands (R330) -/

/-- WSET_PUBLISH. The batch pins the version that stands before it (R169); a command that fails a check pins none (R316). -/
def publishBody (p c : Nat) (k : Cmd) (s : Sys) : Did :=
  match (s.part p).ownWset (k.field 8 8) with
  | none => .done s stBAD_HANDLE []
  | some i => match ((s.noteDir p (k.field 0x10 8)).pinNamed c k).publish p i (k.field 0x10 8) with
    | .done t num m => .done t (markStatus m) (leBytes 8 num)
    | .bad st => .done s st []
    | .poison m => .done (s.cmdSaw c k true domBowline fnBowline) (markStatus m) []
    | .waits => .more s
def execWsetPublish (k : CmdKey) (s : State) : Host.Outcome State Fault Refusal :=
  s.onSys (fun y => y.runOrdered (.wsetPublish k) k (isOp 0x29) publishBody)

/-- WSET_RETIRE (R174): later pins are refused, and the current version goes with its last pin. An import ends. -/
def retireBody (p c : Nat) (k : Cmd) (s : Sys) : Did :=
  match (s.part p).wsetOf (k.field 8 8) with
  | none => .done s stBAD_HANDLE []
  | some w =>
    let i := handleIndex (k.field 8 8)
    if w.source.isSome then
      let P := s.part p
      .done (s.setPart p { P with wsets := P.wsets.del i, wsetGens := P.wsetGens.put i (w.gen + 1) }) stOK []
    else if w.retiring then .done s stDRAINING []
    else if w.provisional.isSome then .more s
    else .done (((s.pinNamed c k).setWset p i { w with retiring := true }).releaseVersions p) stOK []
def execWsetRetire (k : CmdKey) (s : State) : Host.Outcome State Fault Refusal :=
  s.onSys (fun y => y.runOrdered (.wsetRetire k) k (isOp 0x2A) retireBody)

end Sys2Proof.Machine
end

