-- ==== Sys2Proof/Machine/End.lean ====
section
/-!
DEFINITION. How commands end before their time: cancellation, the end of weight loads, RUN_CANCEL, CTX_CLOSE
(R160, R174, R190, R281, R319 to R322, R324, R328, R329).
-/

namespace Sys2Proof.Machine

/-! Messages of a cancelled XFER_DEVICE (R322) -/

/-- Discards the messages `first .. first + n - 1` of a flow none of whose frames has been sent, and renumbers later ones;
with the number discarded. -/
def Sys.dropUnsent (s : Sys) (f first n : Nat) : Sys × Nat :=
  let x := s.flow f
  let started := fun (m : Nat) => x.unacked.any (fun fr => fr.kind == 0 && !fr.coll && fr.msg == m) ||
    (x.queue.find? (fun fr => fr.kind == 0 && !fr.coll && fr.msg == m)).any (fun fr => !fr.first) || x.delivered m
  let gone := (List.range n).filter (fun i => !started (first + i))
  match gone with
  | [] => (s, 0)
  | i :: _ =>
    let lo := first + i
    let k := gone.length
    let num := fun (m : Nat) => if lo + k ≤ m then m - k else m
    let q := (x.queue.filter (fun fr => !(fr.kind == 0 && !fr.coll && decide (lo ≤ fr.msg) && decide (fr.msg < lo + k)))).map
      (fun fr => if fr.kind = 0 ∧ !fr.coll then { fr with msg := num fr.msg } else fr)
    let s := s.setFlow f { x with queue := q, msg := x.msg - k }
    let s : Sys := { s with waiting := s.waiting.map (fun h => match h.cmd, h.cap with
      | .send _, some c => if fieldN c.desc 0 4 = f then { h with cap := some { c with msg := c.msg.map num } } else h
      | _, _ => h) }
    let c := x.ctx
    let y := s.ctx c
    let rings : Vector Ring 4 := y.rings.map (fun g => { g with cmds := g.cmds.map (fun e => match e.progress with
      | .sending a b => if e.field 0x30 4 = f then { e with progress := .sending (num a) b } else e
      | _ => e) })
    ((s.setCtx c { y with rings := rings }).tx f, k)

/-! Ending one command (R281, R320, R322) -/

/-- The opcodes that R322 lists. -/
def endable (op : Nat) : Bool := [0x30, 0x48, 0x38, 0x28, 0x3A, 0x42, 0x49, 0x20, 0x21, 0x22, 0x50, 0x51, 0x52, 0x74].contains op

/-- A RUN of the step region ends alone: its Bights are restored to the RUN's start and its held items discarded (R190). A Bight on
which a later RUN has started since keeps what that RUN took over (DESIGN CHOICE, log 145). -/
def Sys.endSpecRun (s : Sys) (c : Nat) (k : Cmd) (st : Nat) : Sys :=
  let p := (s.ctx c).part
  match (s.part p).sigma with
  | none => s
  | some z =>
    let mine := fun (e : Kept) => e.ctx == c && e.ring == k.ring && e.lay == k.lay
    let last := fun (e : Kept) => ((z.lockers.filter (fun d => d.ctx == c && d.hank == e.hank)).getLast?).any mine
    let back := z.lockers.filter (fun e => mine e && last e)
    let s := s.setPart p { s.part p with sigma := some { z with
      items := z.items.filter (fun i => !(i.ctx == c && i.ring == k.ring && i.lay == k.lay))
      lockers := z.lockers.filter (fun e => !mine e || !last e) } }
    let s := back.foldl (fun s e => s.restoreBight e) s
    let s := s.finish c k st (leBytes 8 0)
    back.foldl (fun s e => s.takeBight e.hank) s

/-- The step region forgets the contribution that it holds of a COLL. -/
def Sys.dropContribution (s : Sys) (p c : Nat) (k : Cmd) : Sys :=
  match (s.part p).sigma with
  | some z => s.setPart p { s.part p with sigma := some { z with items := z.items.filter (fun i => match i.effect with
      | .coll a b l => !(a == c && b == k.ring && l == k.lay)
      | _ => true) } }
  | none => s

/-- Ends an accepted command with a status, CANCELLED or ALARM; `cause` is the ABORT cause of a collective. A command that
R322 does not list goes on, unless `force`. -/
def Sys.endCmd (s : Sys) (c : Nat) (k : Cmd) (st cause : Nat) (force : Bool) : Sys :=
  let p := (s.ctx c).part
  match k.progress with
  | .waiting => s.finish c k st []
  | .finished _ _ => s
  | .ready st' r => s.finish c k st' r
  | .run _ _ _ _ spec => if spec ∧ (s.part p).sigma.isSome then s.endSpecRun c k st else s.stopRun c k st force
  | .update u =>
    let s := if s.udOneSided p u then s.setCtx c { s.ctx c with oneSided := true } else s
    s.finish c k (endStatus st (markStatus u.mark)) (leBytes 4 u.finished)
  | .commit _ => if k.mode = 1 then s.finish c k stCUT (commitResult 0 0xFF) else s.cutSigma p stCUT 0#8 0xFF
  | .sending first count =>
    let f := k.field 0x30 4
    let (s, n) := s.dropUnsent f first count
    s.finish c k st (leBytes 8 (min (k.field 0x28 8) ((count - n) * k.field 0x34 4)))
  | .moving records bytes m => s.finish c k (endStatus st (markStatus m)) (xferResult records bytes)
  | .chunk records sofar m => s.finish c k (endStatus st (markStatus m)) (xferResult records sofar.length)
  | .restoring rs _ _ _ m => (rs.foldl (fun s r => s.undefinedAt r.1 r.2.1 r.2.2) s).finish c k (endStatus st (markStatus m)) []
  | .outgoing first records m => s.finish c k (endStatus st (markStatus m)) (leBytes 8 first ++ leBytes 4 records)
  | .saving first records _ => s.finish c k st (leBytes 8 first ++ leBytes 4 records)
  | .rotating done begun todo _ m =>
    (match begun, todo with
     | true, h :: _ =>
       if st = stALARM then s.finish c k st (leBytes 4 done)
       else (s.restOfRotation (k.field 8 1) h).finish c k (endStatus st (markStatus (m.worse (s.restMark (k.field 8 1) h)))) (leBytes 4 (done + 1))
     | _, _ => s.finish c k (endStatus st (markStatus m)) (leBytes 4 done))
  | .request _ => if force then s.finish c k st [] else s
  | .begun =>
    match k.opcode with
    | 0x48 =>
      (match s.collBy c k.ring k.lay with
       | some x => (s.dropContribution p c k).endColl x st cause
       | none => s.finish c k st [])
    | 0x28 =>
      (match (s.part p).loads.find? (fun l => l.ctx == c && l.ring == k.ring && l.lay == k.lay) with
       | some l => s.endLoad p l (if st = stALARM then stALARM else stSHARD_MISSING)
       | none => s.finish c k st [])
    | 0x49 =>
      let f := k.field 8 4
      let s := if (s.flow f).opener = some (k.ring, k.lay) ∧ (s.flow f).ctx = c then s.setFlow f Flow.empty else s
      s.finish c k st []
    | op => if force ∨ endable op then s.finish c k st (leBytes 12 0) else s

/-- Ends every command of a context but one, in ring order (R322, R324). -/
def Sys.endCmds (s : Sys) (c : Nat) (keep : Option (Nat × Nat)) (st cause : Nat) (force : Bool) : Sys :=
  ((s.ctx c).cmds.filter (fun k => !keep.any (fun e => e.1 == k.ring && e.2 == k.lay))).foldl (fun s k =>
    match s.cmdAt c k.ring k.lay with
    | some k => s.endCmd c k st cause force
    | none => s) s

/-- Cuts the step region of a partition when a context's STEP_COMMIT opened it (R179). -/
def Sys.cutIfOf (s : Sys) (p c : Nat) : Sys := if (s.part p).sigma.any (fun z => z.ctx == c) then s.cutSigma p stCUT 0#8 0xFF else s

/-! RUN_CANCEL (R321) -/

/-- RUN_CANCEL. A command of the open step region that has finished is not stopped, though its completion is deferred (DESIGN CHOICE, log 145). -/
def runCancelBody (p _c : Nat) (k : Cmd) (s : Sys) : Did :=
  let t := k.field 8 2
  let r := k.field 0x0A 1
  let l := k.field 0x10 8
  if !(s.ctx t).opened ∨ (s.ctx t).part ≠ p then .done s stBAD_CONTEXT []
  else if 3 < r then .done s stBAD_VALUE []
  else match s.cmdAt t r l with
    | none => .done s stOK []
    | some e =>
      let s := s.endCmd t e stCANCELLED 1 false
      .done s stOK [if !e.isFinished && e.ending.isNone && (s.cmdAt t r l).all (fun x => x.isFinished || x.ending.isSome) then 1 else 0]
def execRunCancel (k : CmdKey) (s : State) : Host.Outcome State Fault Refusal :=
  s.onSys (fun y => y.runOrdered (.runCancel k) k (isOp 0x31) runCancelBody)

/-! CTX_CLOSE (R324) -/

/-- The owner of an object whose context has closed. -/
def noOwner : Nat := 16384

/-- Flows of a context that closes stay the partition's; no delivery reaches a locker through them, or that of a context which takes the number
later (R302; DESIGN CHOICE, log 184). -/
def Sys.orphanFlows (s : Sys) (c : Nat) : Sys :=
  { s with fab := { s.fab with flows := s.fab.flows.map (fun e => if e.2.ctx = c then (e.1, { e.2 with ctx := noCtx, opener := none }) else e) } }

/-- Closes a context whose commands have ended: its key is zeroised, its area scrubbed and free again, its pins drop. Its number keeps the
vector that it named, until a context takes it: a message deferred for it is still sent (R304). -/
def Sys.closeCtx (s : Sys) (c : Nat) : Sys :=
  let x := s.ctx c
  let (s, skipped) := x.area.foldl (fun (a : Sys × Nat) g => let (s, k) := a.1.scrubGranule x.part 0 g; (s, a.2 + k)) (s, 0)
  let s := if skipped = 0 then s else s.logBowline x.part locNone 0x0304 skipped 0
  let P := s.part x.part
  let s := s.setPart x.part { P with objs := P.objs.map (fun e => if e.2.owner = c then (e.1, { e.2 with owner := noOwner }) else e) }
  let s : Sys := { (s.orphanFlows c).setCtx c { Context.closed with part := x.part, msix := x.msix } with saved := s.saved.delRange (80 * c) 80 }
  (x.batches.flatMap (fun b => b.pins.map (fun n => n.part))).foldl (fun s q => s.releaseVersions q) s

/-- Whether a CTX_CLOSE of another context has stopped a context and waits for its last record. -/
def Sys.closedByOther (s : Sys) (c : Nat) : Bool :=
  (s.ctxsOf (s.ctx c).part).any (fun d => (s.ctx d).cmds.any (fun k => k.opcode == 0x02 && k.begunB && k.field 8 2 == c))

/-- Closes a context that closed itself, once its commands have retired and its records are written. -/
def Sys.closeIfDone (s : Sys) (c : Nat) : Sys :=
  let x := s.ctx c
  if x.opened ∧ x.closing ∧ x.cmds.isEmpty ∧ x.outbox.isEmpty ∧ !s.closedByOther c then s.closeCtx c else s

/-- CTX_CLOSE. What ends in a context that is not resident completes as it closes (R298). -/
def ctxCloseBody (p c : Nat) (k : Cmd) (s : Sys) : Did :=
  let t := k.field 8 2
  let own := t == c
  let x := s.ctx t
  if !x.closing then
    if !x.opened ∨ x.part ≠ p then .done s stBAD_CONTEXT []
    else if t = (s.part p).base then .done s stDENIED []
    else
      let s := s.setCtx t { x with closing := true }
      let s := s.cutIfOf p t
      let s := s.endCmds t (if own then some (k.ring, k.lay) else none) stCANCELLED 1 false
      let s := s.finishReady t
      let y := s.ctx t
      if own then (if y.cmds.all (fun e => e.ring == k.ring && e.lay == k.lay) then .done s stOK [] else .more s)
      else if y.cmds.isEmpty ∧ y.outbox.isEmpty then .done (s.closeCtx t) stOK [] else .more s
  else if own then (if x.cmds.all (fun e => e.ring == k.ring && e.lay == k.lay) then .done s stOK [] else .more s)
  else if x.cmds.isEmpty ∧ x.outbox.isEmpty then .done (s.closeCtx t) stOK [] else .more s
def execCtxClose (k : CmdKey) (s : State) : Host.Outcome State Fault Refusal :=
  s.onSys (fun y => y.runOrdered (.ctxClose k) k (isOp 0x02) ctxCloseBody)

end Sys2Proof.Machine
end

