-- ==== Sys2Proof/Machine/Fences.lean ====
section
/-!
DEFINITION. Fences: the commands, the messages between home and importer, and the end of fences (R306 to R312, R333).
-/

namespace Sys2Proof.Machine

/-- The exhausted value, and the token of a fence (R308, R311). -/
def fenceEnd : Nat := 2 ^ 64 - 1
def fenceToken (node part gen index : Nat) : Nat := node * 2 ^ 32 + part * 2 ^ 24 + gen % 256 * 2 ^ 16 + index % 65536
def tokenNode (t : Nat) : Nat := t / 2 ^ 32 % 2 ^ 32
def tokenPart (t : Nat) : Nat := t / 2 ^ 24 % 256
def tokenGen (t : Nat) : Nat := t / 2 ^ 16 % 256
def tokenIndex (t : Nat) : Nat := t % 65536

def Sys.fence? (s : Sys) (p i : Nat) : Option Fence := (s.part p).fences.get? i
def Sys.setFence (s : Sys) (p i : Nat) (x : Fence) : Sys := let P := s.part p; s.setPart p { P with fences := P.fences.put i x }

/-- A fence message (R312). -/
def fenceMsg (kind status token value request : Nat) : Bytes :=
  leBytes 1 kind ++ leBytes 1 status ++ List.replicate 6 0 ++ leBytes 8 token ++ leBytes 8 value ++ leBytes 8 request ++ List.replicate 224 0
def Sys.sendFence (s : Sys) (flow kind status token value request : Nat) : Sys :=
  if (s.flow flow).state = .open then s.post flow (Blob.ofBytes (fenceMsg kind status token value request)) else s

/-- Tells every remote importer the new value of a fence. -/
def Sys.tellImporters (s : Sys) (p i : Nat) : Sys :=
  match s.fence? p i with
  | none => s
  | some x => x.importers.foldl (fun s q =>
      if q.sendFlow = noFlow then s else s.sendFence q.sendFlow 3 0 (fenceToken s.node p x.gen i) x.value 0) s

/-- Applies a signal of value `v` at the home of a fence (R309). -/
def Sys.signalHome (s : Sys) (p i v : Nat) (spec : Bool) : Sys × Nat :=
  match s.fence? p i with
  | none => (s, stBAD_HANDLE)
  | some x =>
    if x.value = fenceEnd then (s, stEXHAUSTED)
    else if v ≤ x.value then
      ((s.setFence p i { x with stale := x.stale + 1 }).logRec
        { domain := domBowline, unit := fnBowline, part := p, location := locNone, event := 0x0502, arg0 := i, arg1 := v, slack := spec }, stSTALE_VALUE)
    else (s.setFence p i { x with value := v }, stOK)

/-- The home fence that a token names in a partition. -/
def Sys.tokenFence (s : Sys) (t : Nat) : Option (Nat × Nat × Fence) :=
  if tokenNode t = s.node then
    match s.fence? (tokenPart t) (tokenIndex t) with
    | some x => if x.gen = tokenGen t ∧ x.source.isNone then some (tokenPart t, tokenIndex t, x) else none
    | none => none
  else none

/-- The value of a fence as this module sees it; none once an import is detached or its home is gone (R310, R312). -/
def Sys.fenceView (s : Sys) (x : Fence) : Option Nat :=
  match x.source with
  | none => some x.value
  | some i =>
    if i.detached then none
    else if i.remote then some i.view
    else (s.fence? i.homePart i.homeIndex).bind (fun h => if h.gen = tokenGen i.token.toNat then some h.value else none)

/-- Whether a fence is an import that has been detached: every later command naming it completes with PEER_LOST (R312; DEDUCED, log 169). -/
def Fence.isDetached (x : Fence) : Bool := x.source.any (fun i => i.detached)

/-- A fence import ends: the home is told, or drops the reference (R306, R312). -/
def Sys.endImport (s : Sys) (p : Nat) (i : FenceImport) : Sys :=
  if i.detached then s
  else if i.remote then s.sendFence i.sendFlow 6 0 i.token.toNat 0 0
  else match s.fence? i.homePart i.homeIndex with
    | some h => s.setFence i.homePart i.homeIndex { h with importers := h.importers.eraseP (fun q => q.part == p && q.sendFlow == noFlow) }
    | none => s

/-- Removes fences that nothing refers to (R307, R308). -/
def Sys.sweepFences (s : Sys) (p : Nat) : Sys :=
  (s.part p).fences.foldl (fun s e =>
    match s.fence? p e.1 with
    | none => s
    | some x =>
      if s.fenceRefs p e.1 x ≠ 0 then s else
      let s := match x.source with
        | some i => s.endImport p i
        | none => s
      let P := s.part p
      s.setPart p { P with fences := P.fences.del e.1, fenceGens := P.fenceGens.put e.1 (x.gen + 1) }) s

/-- Adds a fence to a partition; with its handle. -/
def Sys.addFence (s : Sys) (p : Nat) (i : Nat) (owner value : Nat) (src : Option FenceImport) : Sys × Nat :=
  let P := s.part p
  let g := P.fenceGens.get 0 i
  let x : Fence := { gen := g, value := value, stale := 0, owner := owner, live := true, grants := [], importers := [], source := src }
  (s.setPart p { P with fences := P.fences.put i x, fenceNext := max P.fenceNext (i + 1) }, mkHandle 1 g i)

/-! Commands -/

/-- FENCE_CREATE (R308, R333). -/
def fenceCreateBody (p c : Nat) (k : Cmd) (s : Sys) : Did :=
  let s := s.sweepFences p
  let v := k.field 8 8
  let P := s.part p
  if v = fenceEnd then .done s stBAD_VALUE []
  else if 65536 ≤ P.fences.length then .done s stNO_FENCE []
  else match P.nextFence with
    | none => .done s stNO_FENCE []
    | some i =>
      if P.atQuota then .done s stQUOTA []
      else let (s, h) := s.addFence p i c v none; .done s stOK (leBytes 8 h)
def execFenceCreate (k : CmdKey) (s : State) : Host.Outcome State Fault Refusal :=
  s.onSys (fun y => y.runOrdered (.fenceCreate k) k (isOp 0x40) fenceCreateBody)

/-- FENCE_SIGNAL (R309, R312): at once at a home on this module, by message to a remote home. -/
def fenceSignalBody (p c : Nat) (k : Cmd) (s : Sys) : Did :=
  let h := k.field 8 8
  let v := k.field 0x10 8
  match (s.part p).fenceOf k.refs h with
  | none => .done s stBAD_HANDLE []
  | some x =>
    match x.source with
    | none =>
      let (s, st) := s.signalHome p (handleIndex h) v (s.inSigma c k)
      .done (if st = stOK then s.tellImporters p (handleIndex h) else s) st []
    | some i =>
      if (s.fenceView x).isNone then .done s stPEER_LOST []
      else if !i.remote then
        let (s, st) := s.signalHome i.homePart i.homeIndex v (s.inSigma c k)
        .done (if st = stOK then s.tellImporters i.homePart i.homeIndex else s) st []
      else match k.progress with
        | .request _ => .more s
        | _ =>
          let n := (s.part p).requestNext
          let s := s.setPart p { s.part p with requestNext := n + 1 }
          .more ((s.sendFence i.sendFlow 1 0 i.token.toNat v n).setProgress c k.ring k (.request n))
def execFenceSignal (k : CmdKey) (s : State) : Host.Outcome State Fault Refusal :=
  s.onSys (fun y => y.runOrdered (.fenceSignal k) k (isOp 0x41) fenceSignalBody)

/-- FENCE_WAIT (R310). -/
def fenceWaitBody (p _c : Nat) (k : Cmd) (s : Sys) : Did :=
  match (s.part p).fenceOf k.refs (k.field 8 8) with
  | none => .done s stBAD_HANDLE []
  | some x => match s.fenceView x with
    | none => .done s stPEER_LOST []
    | some v => if k.field 0x10 8 ≤ v then .done s stOK [] else .more s
def execFenceWait (k : CmdKey) (s : State) : Host.Outcome State Fault Refusal :=
  s.onSys (fun y => y.runOrdered (.fenceWait k) k (isOp 0x42) fenceWaitBody)

/-- Whether a pair of flows of a partition is open with a send and a receive role. -/
def Sys.flowPair (s : Sys) (p sf rf : Nat) : Bool :=
  s.holdsFlow p sf && s.holdsFlow p rf && (s.flow sf).state == .open && (s.flow rf).state == .open && (s.flow sf).role == 0 && (s.flow rf).role == 1

/-- Whether the peer of both flows of a pair is a partition of a node. -/
def Sys.flowsTo (s : Sys) (node part sf rf : Nat) : Bool :=
  (s.flow sf).peerNode == node && (s.flow sf).peerPart == part && (s.flow rf).peerNode == node && (s.flow rf).peerPart == part

/-- FENCE_EXPORT (R311). -/
def fenceExportBody (p _c : Nat) (k : Cmd) (s : Sys) : Did :=
  let h := k.field 8 8
  let node := k.field 0x10 4
  let part := k.field 0x14 2
  let sf := k.field 0x18 4
  let rf := k.field 0x1C 4
  match (s.part p).fenceOf k.refs h with
  | none => .done s stBAD_HANDLE []
  | some x =>
    if x.isDetached then .done s stPEER_LOST []
    else if x.source.isSome then .done s stBAD_HANDLE []
    else if 79 < part then .done s stBAD_VALUE []
    else if !(sf = noFlow ∧ rf = noFlow) ∧ !(s.flowPair p sf rf && s.flowsTo node part sf rf) then .done s stBAD_FLOW []
    else
      let i := handleIndex h
      .done (s.setFence p i { x with grants := x.grants ++ [⟨node, part, sf, rf⟩] }) stOK (leBytes 8 (fenceToken s.node p x.gen i))
def execFenceExport (k : CmdKey) (s : State) : Host.Outcome State Fault Refusal :=
  s.onSys (fun y => y.runOrdered (.fenceExport k) k (isOp 0x43) fenceExportBody)

/-- FENCE_IMPORT (R311): of a fence on this module at once, of a remote one by message. DENIED comes before NO_FENCE: what a remote home
grants is released again when no number is free. -/
def fenceImportBody (p c : Nat) (k : Cmd) (s : Sys) : Did :=
  let t := k.field 8 8
  let sf := k.field 0x10 4
  let rf := k.field 0x14 4
  match k.progress with
  | .request _ => if s.flowPair p sf rf then .more s else .done s stPEER_LOST []
  | _ =>
    if sf = noFlow ∧ rf = noFlow then
      match s.tokenFence t with
      | none => .done s stDENIED []
      | some (q, i, x) =>
        if !x.live ∨ !x.grants.any (fun g => g.node == s.node && g.part == p && g.sendFlow == noFlow) then .done s stDENIED []
        else match (s.part p).nextFence with
          | none => .done s stNO_FENCE []
          | some n =>
            let s := s.setFence q i { x with importers := x.importers ++ [⟨s.node, p, noFlow, noFlow⟩] }
            let (s, h) := s.addFence p n c 0 (some { token := BitVec.ofNat 64 t, homePart := q, homeIndex := i, remote := false, sendFlow := noFlow
                                                     recvFlow := noFlow, view := 0, detached := false })
            .done s stOK (leBytes 8 h)
    else if !(s.flowPair p sf rf && s.flowsTo (tokenNode t) (tokenPart t) sf rf) then .done s stDENIED []
    else
      let r := (s.part p).requestNext
      let s := s.setPart p { s.part p with requestNext := r + 1 }
      .more ((s.sendFence sf 4 0 t 0 r).setProgress c k.ring k (.request r))
def execFenceImport (k : CmdKey) (s : State) : Host.Outcome State Fault Refusal :=
  s.onSys (fun y => y.runOrdered (.fenceImport k) k (isOp 0x44) fenceImportBody)

/-! Messages (R312) -/

end Sys2Proof.Machine

namespace Sys2Proof

/-- Fields of a fence message. -/
def FenceMsg.kind (m : FenceMsg) : Nat := fieldN m.body 0 1
def FenceMsg.status (m : FenceMsg) : Nat := fieldN m.body 1 1
def FenceMsg.token (m : FenceMsg) : Nat := fieldN m.body 8 8
def FenceMsg.value (m : FenceMsg) : Nat := fieldN m.body 0x10 8
def FenceMsg.request (m : FenceMsg) : Nat := fieldN m.body 0x18 8

end Sys2Proof

namespace Sys2Proof.Machine

/-- The partition of the receive flow of a message, when the flow is open. -/
def Sys.msgPart (s : Sys) (m : FenceMsg) : Option Nat :=
  let x := s.flow m.flow
  if x.state = .open ∧ x.role = 1 then some x.part else none

/-- SIGNAL at the home: applied, answered, and every importer is told a new value. -/
def Sys.msgSignal (s : Sys) (m : FenceMsg) : Sys :=
  match s.msgPart m, s.tokenFence m.token with
  | some p, some (q, i, x) =>
    (match x.importers.find? (fun e => e.recvFlow == m.flow) with
     | some e =>
       if p ≠ q then s else
       let (s, st) := s.signalHome q i m.value false
       let v := ((s.fence? q i).map (fun f => f.value)).getD 0
       let s := s.sendFence e.sendFlow 2 st m.token v m.request
       if st = stOK then s.tellImporters q i else s
     | none => s)
  | _, _ => s

/-- The command of a partition that waits for the answer to a request. -/
def Sys.requester (s : Sys) (p op n : Nat) : Option (Nat × Cmd) :=
  (s.ctxsOf p).findSome? (fun c => ((s.ctx c).cmds.find? (fun k => k.opcode == op && k.progress == .request n)).map (fun k => (c, k)))

/-- SIGNAL_ACK at the importer: its status completes the FENCE_SIGNAL. -/
def Sys.msgSignalAck (s : Sys) (m : FenceMsg) : Sys :=
  match s.msgPart m with
  | none => s
  | some p => match s.requester p 0x41 m.request with
    | some (c, k) =>
      (match (s.part p).fenceOf k.refs (k.field 8 8) with
       | some x => if x.source.any (fun i => i.recvFlow == m.flow && i.token.toNat == m.token) then s.conclude c k m.status [] else s
       | none => s)
    | none => s

/-- UPDATE at the importer: a value above the view becomes the view. -/
def Sys.msgUpdate (s : Sys) (m : FenceMsg) : Sys :=
  match s.msgPart m with
  | none => s
  | some p =>
    let P := s.part p
    s.setPart p { P with fences := P.fences.map (fun e => (e.1, { e.2 with source := e.2.source.map (fun i =>
      if i.remote ∧ !i.detached ∧ i.recvFlow = m.flow ∧ i.token.toNat = m.token ∧ i.view < m.value then { i with view := m.value } else i) })) }

/-- The send flow on which the answer to an IMPORT goes when no grant holds: one that an export pairs with the receive flow, else the lowest
OPEN send flow of the partition to the same peer (DESIGN CHOICE, log 170). -/
def Sys.answerFlow (s : Sys) (p rf : Nat) : Option Nat :=
  let f := s.flow rf
  match (s.part p).fences.findSome? (fun e => e.2.grants.find? (fun g => g.recvFlow == rf && g.node == f.peerNode && g.part == f.peerPart)) with
  | some g => some g.sendFlow
  | none => (s.fab.flows.find? (fun e => e.2.state == .open && e.2.role == 0 && e.2.part == p && e.2.peerNode == f.peerNode && e.2.peerPart == f.peerPart)).map (fun e => e.1)

/-- IMPORT at the home: granted when the pair is the one named at export, else DENIED. -/
def Sys.msgImport (s : Sys) (m : FenceMsg) : Sys :=
  match s.msgPart m with
  | none => s
  | some p =>
    let f := s.flow m.flow
    let mine := fun (g : FencePeer) => g.recvFlow == m.flow && g.node == f.peerNode && g.part == f.peerPart
    let found := (s.tokenFence m.token).bind (fun t => if t.1 = p ∧ t.2.2.live then (t.2.2.grants.find? mine).map (fun g => (t, g)) else none)
    match found with
    | some ((q, i, x), g) =>
      let s := s.setFence q i { x with importers := x.importers ++ [g] }
      s.sendFence g.sendFlow 5 stOK m.token x.value m.request
    | none =>
      match s.answerFlow p m.flow with
      | some g => s.sendFence g 5 stDENIED m.token 0 m.request
      | none => s

/-- IMPORT_ACK at the importer: the import exists, or the command completes with the status. An answer on another flow than the one the
command names shows that the pair is not the one named at export: DENIED, and what was granted is released (R311). -/
def Sys.msgImportAck (s : Sys) (m : FenceMsg) : Sys :=
  match s.msgPart m with
  | none => s
  | some p => match s.requester p 0x44 m.request with
    | some (c, k) =>
      if k.field 8 8 ≠ m.token then s
      else if k.field 0x14 4 ≠ m.flow then
        (if m.status = stOK then s.sendFence (k.field 0x10 4) 6 0 m.token 0 0 else s).conclude c k stDENIED []
      else if m.status ≠ stOK then s.conclude c k m.status []
      else match (s.part p).nextFence with
        | none => (s.sendFence (k.field 0x10 4) 6 0 m.token 0 0).conclude c k stNO_FENCE []
        | some n =>
          let (s, h) := s.addFence p n c 0 (some { token := BitVec.ofNat 64 m.token, homePart := tokenPart m.token, homeIndex := tokenIndex m.token
                                                   remote := true, sendFlow := k.field 0x10 4, recvFlow := m.flow, view := m.value, detached := false })
          s.conclude c k stOK (leBytes 8 h)
    | none => s

/-- RELEASE at the home: the import's reference drops. -/
def Sys.msgRelease (s : Sys) (m : FenceMsg) : Sys :=
  match s.msgPart m, s.tokenFence m.token with
  | some p, some (q, i, x) =>
    if p ≠ q then s else (s.setFence q i { x with importers := x.importers.eraseP (fun e => e.recvFlow == m.flow) }).sweepFences q
  | _, _ => s

/-- A message of a fence flow, by its KIND; another KIND is discarded. -/
def Sys.fenceMessage (s : Sys) (m : FenceMsg) : Sys :=
  match m.kind with
  | 1 => s.msgSignal m
  | 2 => s.msgSignalAck m
  | 3 => s.msgUpdate m
  | 4 => s.msgImport m
  | 5 => s.msgImportAck m
  | 6 => s.msgRelease m
  | _ => s

def execSignal (m : FenceMsg) (s : State) : Host.Outcome State Fault Refusal :=
  s.onSys (fun y => if m.kind = 1 then y.msgSignal m else y)
def execSignalAck (m : FenceMsg) (s : State) : Host.Outcome State Fault Refusal :=
  s.onSys (fun y => if m.kind = 2 then y.msgSignalAck m else y)
def execFenceUpdate (m : FenceMsg) (s : State) : Host.Outcome State Fault Refusal :=
  s.onSys (fun y => if m.kind = 3 then y.msgUpdate m else y)
def execFenceImportMsg (m : FenceMsg) (s : State) : Host.Outcome State Fault Refusal :=
  s.onSys (fun y => if m.kind = 4 then y.msgImport m else y)
def execFenceImportAck (m : FenceMsg) (s : State) : Host.Outcome State Fault Refusal :=
  s.onSys (fun y => if m.kind = 5 then y.msgImportAck m else y)
def execFenceRelease (m : FenceMsg) (s : State) : Host.Outcome State Fault Refusal :=
  s.onSys (fun y => if m.kind = 6 then y.msgRelease m else y)

end Sys2Proof.Machine
end

