-- ==== Sys2Proof/Machine/Objects.lean ====
section
/-!
DEFINITION. The context and object commands (R242, R305 to R307, R313, R323 to R325, R351).
-/

namespace Sys2Proof.Machine

/-! Contexts -/

/-- CTX_OPEN (R324, R355). -/
def ctxOpenBody (p c : Nat) (k : Cmd) (s : Sys) : Did :=
  let f := ctxFields k.payload 8
  match (s.ctx c).owner with
  | none => .done s stNO_SESSION []
  | some o => match s.ctxCheck p f with
    | .error st => .done s st []
    | .ok (n, area) => .done (s.openCtx p n o f area) stOK (leBytes 2 n)
def execCtxOpen (k : CmdKey) (s : State) : Host.Outcome State Fault Refusal :=
  s.onSys (fun y => y.runOrdered (.ctxOpen k) k (isOp 0x01) ctxOpenBody)

/-- Bytes of the objects that a context allocated in a space. -/
def Partition.ownedBytes (P : Partition) (c space : Nat) : Nat :=
  (P.objs.map (fun e => if e.2.source.isNone ∧ e.2.owner = c ∧ e.2.space = space then e.2.bytes else 0)).sum

/-- The usage record of a context; its cycle counts are free values (R313). -/
def Sys.usageRec (s : Sys) (c : Nat) : Bytes :=
  let x := s.ctx c
  let P := s.part x.part
  let w := fun (i : Nat) => leBytes 8 (Config.freeWord (s.free + i)).toNat
  leBytes 2 c ++ leBytes 2 x.part ++ [if x.resident then 1 else 0, if x.want then 1 else 0, 0, 0] ++ w 0 ++ w 1 ++ w 2 ++ w 3 ++ w 4 ++
  leBytes 8 x.usage.fabricTx ++ leBytes 8 x.usage.fabricRx ++ leBytes 8 x.usage.hostIn ++ leBytes 8 x.usage.hostOut ++ w 5 ++
  leBytes 8 (P.ownedBytes c 0) ++ leBytes 8 (P.ownedBytes c 1) ++ leBytes 8 (x.area.length * granuleBytes) ++
  leBytes 8 x.usage.completed ++ leBytes 8 x.usage.rejected

/-- Writes a data record of a command to host memory, or holds it in the step region (R182); with the SEQ of the record, none when held. -/
def Sys.giveRecord (s : Sys) (p c : Nat) (k : Cmd) (a : Nat) (data : Bytes) : Sys × Nat :=
  if s.inSigma c k then
    (s.addSigma p { ctx := c, ring := k.ring, lay := k.lay, hank := ((s.part p).hanks.head?).getD 0, size := 0, effect := .record a data, local_ := false }, 0)
  else let (s, first, _) := s.sendRecords c a data; (s, first)

/-- CTX_QUERY (R324): the usage record as one stream-2 record. -/
def ctxQueryBody (p c : Nat) (k : Cmd) (s : Sys) : Did :=
  let t := k.field 8 2
  let a := k.field 0x10 8
  if !(s.ctx t).opened ∨ (s.ctx t).part ≠ p then .done s stBAD_CONTEXT []
  else if a % 4096 ≠ 0 then .done s stBAD_VALUE []
  else
    let (s, first) := (s.took 6).giveRecord p c k a (s.usageRec t)
    .done s stOK (leBytes 8 first)
def execCtxQuery (k : CmdKey) (s : State) : Host.Outcome State Fault Refusal :=
  s.onSys (fun y => y.runOrdered (.ctxQuery k) k (isOp 0x03) ctxQueryBody)

/-! Objects -/

/-- OBJ_ALLOC (R305, R325). -/
def objAllocBody (p c : Nat) (k : Cmd) (s : Sys) : Did :=
  let P := s.part p
  let space := k.field 8 1
  let j := k.field 0x0A 2
  let n := k.field 0x0C 4
  let u := hankGranules space
  if 2 < space ∨ n = 0 then .done s stBAD_VALUE []
  else if j ≠ 0xFFFF ∧ P.hanks.length ≤ j then .done s stBAD_HANK []
  else if P.atQuota then .done s stQUOTA []
  else
    let lo := if j = 0xFFFF then 0 else j * u
    let hi := if j = 0xFFFF then P.hanks.length * u else (j + 1) * u
    match lowestRun (s.usedRuns p space) lo hi n, P.nextObj with
    | some first, some i =>
      let g := P.objGens.get 0 i
      let o : Obj := { gen := g, source := none, space := space, first := first, granules := n, owner := c, live := true, grants := []
                       readOnly := false, shared := false, mirror := none, listed := false }
      .done (s.setPart p { P with objs := P.objs.put i o, objNext := max P.objNext (i + 1) }) stOK (leBytes 8 (mkHandle 0 g i) ++ leBytes 8 o.addr)
    | _, _ => .done s stNO_MEMORY []
def execObjAlloc (k : CmdKey) (s : State) : Host.Outcome State Fault Refusal :=
  s.onSys (fun y => y.runOrdered (.objAlloc k) k (isOp 0x10) objAllocBody)

/-- OBJ_FREE (R307): the object is release-pending and the allocation's reference drops. -/
def objFreeBody (p _c : Nat) (k : Cmd) (s : Sys) : Did :=
  let h := k.field 8 8
  let i := handleIndex h
  let P := s.part p
  match P.objOf [] h, P.fenceOf [] h with
  | some o, _ => .done (s.setPart p { P with objs := P.objs.put i { o with live := false } }) stOK []
  | none, some x => if x.isDetached then .done s stPEER_LOST [] else .done ((s.setFence p i { x with live := false }).sweepFences p) stOK []
  | none, none => .done s stBAD_HANDLE []
def execObjFree (k : CmdKey) (s : State) : Host.Outcome State Fault Refusal :=
  s.onSys (fun y => y.runOrdered (.objFree k) k (isOp 0x11) objFreeBody)

/-- The last reference on a release-pending object has dropped: its granules are scrubbed and become free (R242, R307). -/
def execObjectRelease (part : Fin 80) (index : Nat) (s : State) : Host.Outcome State Fault Refusal :=
  s.onSys (fun y => (y.sweepFences part.val).releaseObj part.val index)

/-- The stacks that a tier-1 object's granules lie on. -/
def Sys.objStacks (s : Sys) (p : Nat) (o : Obj) : List Nat :=
  (List.range o.granules).filterMap (fun i => ((s.part p).place (mkAddr o.space ((o.first + i) * granuleBytes))).map (fun k => keyHank k / 4))

/-- The object of a partition's own that a handle names. -/
def Partition.ownObj (P : Partition) (refs : List Nat) (h : Nat) : Option (Nat × Obj) :=
  (P.objOf refs h).bind (fun o => if o.source.isNone then some (handleIndex h, o) else none)

/-- Whether a mirror serves an object: a tier-1 object of equal size on other stacks (R325). -/
def Sys.mirrorOk (s : Sys) (p : Nat) (i : Nat) (o : Obj) (m : Nat × Obj) : Bool :=
  m.1 != i && m.2.space == 0 && m.2.granules == o.granules &&
  (o.space != 0 || !(s.objStacks p m.2).any (fun t => (s.objStacks p o).contains t))

/-- The checks of HANDLE, MODE and PARTITION of an OBJ_SHARE other than ACCEPT, in the order of its table (R316, R323). -/
def Partition.shareCheck (P : Partition) (k : Cmd) : Option Nat :=
  if (P.ownObj k.refs (k.field 8 8)).isNone && (P.ownWset (k.field 8 8)).isNone then some stBAD_HANDLE
  else if 2 < k.field 0x10 1 ∨ 79 < k.field 0x12 2 then some stBAD_VALUE
  else none

/-- OBJ_SHARE GRANT (R325, R351). -/
def grantBody (p c : Nat) (k : Cmd) (s : Sys) : Did :=
  let P := s.part p
  let h := k.field 8 8
  let q := k.field 0x12 2
  if (P.shareCheck k).isSome then .done s ((P.shareCheck k).getD stBAD_VALUE) []
  else if 2 ≤ fieldN P.policy 8 1 then .done s stDENIED []
  else match P.ownObj k.refs h, P.ownWset h with
    | some (i, o), _ =>
      let o' := { o with grants := if o.grants.contains q then o.grants else o.grants ++ [q], readOnly := true, shared := true }
      if k.field 0x11 1 = 0 then .done (s.setPart p { P with objs := P.objs.put i o' }) stOK []
      else match P.ownObj k.refs (k.field 0x18 8) with
        | none => .done s stBAD_RANGE []
        | some (j, m) =>
          if !s.mirrorOk p i o (j, m) then .done s stBAD_RANGE []
          else if s.memWaits p o.addr o.bytes || s.memWaits p m.addr m.bytes then .asks s (s.asksOf p o.addr o.bytes ++ s.asksOf p m.addr m.bytes)
          else
            let s := (s.noteRead p o.addr o.bytes).writePart p m.addr (s.readPart p o.addr o.bytes)
            let P := s.part p
            .done (s.setPart p { P with objs := (P.objs.put i { o' with mirror := some j }).put j { m with readOnly := true } }) stOK []
    | none, some i =>
      (match s.wset? p i with
       | some w => if k.field 0x11 1 ≠ 0 then .done s stBAD_RANGE []
         else .done ((s.pinNamed c k).setWset p i { w with grants := if w.grants.contains q then w.grants else w.grants ++ [q], shared := true }) stOK []
       | none => .done s stBAD_HANDLE [])
    | none, none => .done s stBAD_HANDLE []

/-- OBJ_SHARE ACCEPT (R325): the importer's handle. It names the exporter's weight set, whose current version the batch pins (R169). -/
def acceptBody (p c : Nat) (k : Cmd) (s : Sys) : Did :=
  let h := k.field 8 8
  let q := k.field 0x12 2
  let P := s.part p
  if k.field 0x10 1 ≠ 1 then .done s ((P.shareCheck k).getD stBAD_VALUE) []
  else if 79 < q then .done s stBAD_VALUE []
  else match (s.part q).ownObj (if k.far = some (q, h) then [h] else []) h, (s.part q).ownWset h with
    | some (j, o), _ =>
      if !o.grants.contains p then .done s stDENIED []
      else (match P.nextObj with
        | none => .done s stNO_MEMORY []
        | some i =>
          let g := P.objGens.get 0 i
          let x : Obj := { o with gen := g, source := some (q, j), owner := c, live := true, grants := [], mirror := none, listed := false }
          .done (s.setPart p { P with objs := P.objs.put i x, objNext := max P.objNext (i + 1) }) stOK (leBytes 8 (mkHandle 0 g i)))
    | none, some j =>
      (match s.wset? q j, P.nextWset with
       | some w, some i =>
         if !w.grants.contains p then .done s stDENIED []
         else
           let g := P.wsetGens.get 0 i
           let x : WSet := { gen := g, source := some (q, j), owner := c, versions := [], retiring := false, grants := [], shared := true }
           let s := s.setPart p { P with wsets := P.wsets.put i x, wsetNext := max P.wsetNext (i + 1) }
           .done (if w.retiring then s else ((s.pin c k.batch q j w).map (fun e => e.2)).getD s) stOK (leBytes 8 (mkHandle 2 g i))
       | _, _ => .done s stDENIED [])
    | none, none => .done s stDENIED []

/-- OBJ_SHARE REVOKE (R325): later accepts are refused. -/
def revokeBody (p c : Nat) (k : Cmd) (s : Sys) : Did :=
  let P := s.part p
  let h := k.field 8 8
  let q := k.field 0x12 2
  if (P.shareCheck k).isSome then .done s ((P.shareCheck k).getD stBAD_VALUE) []
  else match P.ownObj k.refs h, P.ownWset h with
    | some (i, o), _ => .done (s.setPart p { P with objs := P.objs.put i { o with grants := o.grants.filter (· != q) } }) stOK []
    | none, some i =>
      (match s.wset? p i with
       | some w => .done ((s.pinNamed c k).setWset p i { w with grants := w.grants.filter (· != q) }) stOK []
       | none => .done s stBAD_HANDLE [])
    | none, none => .done s stBAD_HANDLE []

/-- An OBJ_SHARE of a mode; a mode beyond 2 is refused by whichever row it comes as. -/
def isShare (mode : Nat) (k : Cmd) : Bool := k.opcode == 0x12 && (k.field 0x10 1 == mode || decide (2 < k.field 0x10 1))
def execGrant (k : CmdKey) (s : State) : Host.Outcome State Fault Refusal :=
  s.onSys (fun y => y.runOrdered (.grant k) k (isShare 0) grantBody)
def execAccept (k : CmdKey) (s : State) : Host.Outcome State Fault Refusal :=
  s.onSys (fun y => y.runOrdered (.accept k) k (isShare 1) acceptBody)
def execRevoke (k : CmdKey) (s : State) : Host.Outcome State Fault Refusal :=
  s.onSys (fun y => y.runOrdered (.revoke k) k (isShare 2) revokeBody)

/-- RESULT of OBJ_QUERY (R325). -/
def queryResult (addr granules refs space state : Nat) : Bytes :=
  leBytes 8 addr ++ leBytes 4 granules ++ leBytes 4 refs ++ leBytes 1 space ++ leBytes 1 state ++ [0, 0]

/-- OBJ_QUERY. An import has no address of the importer's. -/
def objQueryBody (p c : Nat) (k : Cmd) (s : Sys) : Did :=
  let P := s.part p
  let h := k.field 8 8
  let i := handleIndex h
  match P.objOf k.refs h, P.fenceOf k.refs h, P.wsetOf h with
  | some o, _, _ =>
    .done s stOK (queryResult (if o.source.isNone then o.addr else 0) o.granules (s.objRefs p i o) o.space (if !o.live then 1 else if o.readOnly ∧ o.shared then 3 else 0))
  | none, some x, _ => if x.isDetached then .done s stPEER_LOST [] else .done s stOK (queryResult 0 0 (s.fenceRefs p i x) 0xFF (if x.live then 0 else 1))
  | none, none, some w => .done (s.pinNamed c k) stOK (queryResult 0 0 (s.wsetRefs p i w) 0xFF (if w.retiring then 1 else if w.shared then 3 else 0))
  | none, none, none => .done s stBAD_HANDLE []
def execObjQuery (k : CmdKey) (s : State) : Host.Outcome State Fault Refusal :=
  s.onSys (fun y => y.runOrdered (.objQuery k) k (isOp 0x13) objQueryBody)

end Sys2Proof.Machine
end

