-- ==== Sys2Proof/Machine/Transfers.lean ====
section
/-!
DEFINITION. XFER_IN, XFER_OUT, XFER_DEVICE, WSET_LOAD and its shards, CKPT_SAVE, CKPT_RESTORE, TAKEOVER
(R182, R251, R289, R290, R326 to R329, R334 to R337, R351, R356, R357, R359).
-/

namespace Sys2Proof.Machine

/-! Sources and destinations -/

/-- The hank whose slice serves what a command of a partition reads of an import (R208; DESIGN CHOICE, log 153). -/
def Partition.importHank (P : Partition) : Nat := (P.hanks.head?).getD 0

/-- `n` bytes from an address of partition `q` as a command of partition `p` reads them: an import by way of the copies in a slice (R208);
what a frozen partition shared reads as unknown (R365). -/
def Sys.readObj (s : Sys) (p q a n : Nat) : Sys × Blob :=
  let t := s.noteRead q a n
  if p = q then (t.sharedPoison q a (s.readPart q a n), s.readPart q a n)
  else if (s.part q).state = .frozen then
    let b := Blob.marked (s.readPart q a n).data .unknown
    (t.sharedPoison q a b, b)
  else
    let h := (s.part p).importHank
    let b := s.withCopies h q a (s.readPart q a n)
    ((t.noteCopies h q a n).sharedPoison q a b, b)

/-- The same with every poisoned byte as 0 (R327): bytes and worst mark. -/
def Sys.readZeroed (s : Sys) (p q a n : Nat) : Sys × Bytes × Mark :=
  let (s, b) := s.readObj p q a n
  (s, b.zeroed, b.worst)

/-- The object that a destination handle names: a status when it names none, or an import, which is read-only (R325). -/
def Partition.dstObj (P : Partition) (refs : List Nat) (h : Nat) : Except Nat Obj :=
  match P.objOf refs h with
  | none => .error stBAD_HANDLE
  | some o => if o.source.isSome then .error stBAD_RANGE else .ok o

/-- The partition as a command finds it (R181, R352). -/
def Sys.partFor (s : Sys) (p c : Nat) (k : Cmd) : Partition := if s.inSigma c k then (s.part p).inside else s.part p

/-- Whether a range of an object may be written. -/
def Partition.dstOk (P : Partition) (o : Obj) (off n : Nat) : Bool := decide (off + n ≤ o.bytes) && P.mayWrite (o.addr + off) n

/-- Owners of the partition's braid (R350). -/
def Partition.owners (P : Partition) : Nat := fieldN P.policy 8 1

/-- Output entry `i` of a policy: space, owner mask, offset, bytes. -/
def policyOutput (pol : Bytes) (i : Nat) : Nat × Nat × Nat × Nat :=
  let o := 0x220 + 24 * i
  (fieldN pol o 1, fieldN pol (o + 2) 2, fieldN pol (o + 8) 8, fieldN pol (o + 16) 8)

/-- Whether one output range that names an owner holds a range (R351). -/
def Partition.outputAllows (P : Partition) (owner : Option Nat) (a n : Nat) : Bool :=
  owner.any (fun o => (List.range (fieldN P.policy 0xC 2)).any (fun i =>
    let (sp, mask, off, len) := policyOutput P.policy i
    sp == addrSpace a && mask.testBit o && decide (off ≤ addrOffset a) && decide (addrOffset a + n ≤ off + len)))

/-! XFER_IN (R327) -/

/-- Addresses that payloads take one after another. -/
def placed (a : Nat) (ps : List Bytes) : List (Nat × Bytes) :=
  match ps with
  | [] => []
  | b :: t => (a, b) :: placed (a + b.length) t

/-- The hank whose slice holds an address. -/
def Partition.hankAt (P : Partition) (a : Nat) : Nat := ((P.place a).map keyHank).getD 0

/-- Holds a store of the step region (R182). -/
def Sys.holdStore (s : Sys) (p c : Nat) (k : Cmd) (size : Nat) (e : Nat × Bytes) : Sys :=
  s.addSigma p { ctx := c, ring := k.ring, lay := k.lay, hank := (s.part p).hankAt e.1, size := size
                 effect := .store p e.1 (Blob.ofBytes e.2), local_ := false }

/-- Writes a payload, or holds it in the step region (R182). -/
def Sys.putIn (s : Sys) (p c : Nat) (k : Cmd) (e : Nat × Bytes) : Sys :=
  if s.inSigma c k then s.holdStore p c k (heldSize e.2.length) e else s.writePart p e.1 (Blob.ofBytes e.2)

/-- Whether a payload waits: for buffer space, as one of the step region that does not fit stalls before it is made (R186), or for a memory
that accepts no request (R217). -/
def Sys.putWaits (s : Sys) (p c : Nat) (k : Cmd) (e : Nat × Bytes) : Bool :=
  if s.inSigma c k then !s.slackFits ((s.part p).hankAt e.1) (heldSize e.2.length) else s.memWaits p e.1 e.2.length

/-- A command whose payload waits is tried again; its request stands at its memory, where that is what it waits for (R197). -/
def Sys.putHold (s : Sys) (p c : Nat) (k : Cmd) (e : Nat × Bytes) (pr : Progress) : Did :=
  let t := s.setProgress c k.ring k pr
  if s.inSigma c k then .more t else .asks t (s.asksOf p e.1 e.2.length)

/-- What a payload's write tells its command (R250). A held one tells it when it is performed. -/
def Sys.putMark (s : Sys) (p c : Nat) (k : Cmd) (e : Nat × Bytes) : Mark := if s.inSigma c k then .clean else s.writeMark p e.1 e.2.length

/-- Takes the records that are left, one after another, at addresses from `a` on. It stops where one fails to open or its place has become
read-only (R168), waits where one finds no room, and stands between two records where the row gives no more (R186, R290, R327). -/
def Sys.takeRecords (s : Sys) (p c : Nat) (k : Cmd) (a : Nat) (rs : List Bytes) (left done bytes : Nat) (worst : Mark) : Did :=
  match left with
  | 0 => .done s (markStatus worst) (xferResult done bytes)
  | left + 1 =>
    match rs with
    | [] => .running (s.setProgress c k.ring k (.moving done bytes worst))
    | r :: rs =>
      match openRecord (s.ctxKey c) c (k.field 0x20 8 + done) r with
      | none => .done (s.transportFail c (k.field 0x20 8 + done) (s.inSigma c k)) stTAG_FAIL (xferResult done bytes)
      | some b =>
        if !(s.partFor p c k).mayWrite (a + bytes) b.length then .done s stBAD_RANGE (xferResult done bytes)
        else if s.putWaits p c k (a + bytes, b) then s.putHold p c k (a + bytes, b) (.moving done bytes worst)
        else Sys.takeRecords ((s.countIn c k b.length).putIn p c k (a + bytes, b)) p c k a rs left (done + 1) (bytes + b.length)
          (worst.worse (s.putMark p c k (a + bytes, b)))

/-- What an XFER_IN checks of HOST_ADDR, FIRST_SEQ and RECORDS, in the order of its table (R316, R326); it then claims its run. -/
def Sys.claimXfer (s : Sys) (c : Nat) (k : Cmd) : Except Nat Sys :=
  if k.field 0x18 8 % 4096 ≠ 0 then .error stBAD_VALUE
  else match s.claimIn c (k.field 0x20 8) (k.field 0x28 4) with
    | none => .error stSTALE_VALUE
    | some t => if k.field 0x28 4 = 0 then .error stBAD_VALUE else .ok t

/-- XFER_IN without SHARD. -/
def xferInData (records : List Bytes) (p c : Nat) (k : Cmd) (s : Sys) : Did :=
  let P := s.part p
  let n := k.field 0x28 4
  let off := k.field 0x10 8
  match P.dstObj k.refs (k.field 8 8) with
  | .error st => .done s st []
  | .ok o =>
    match k.progress with
    | .moving done bytes worst => s.takeRecords p c k (o.addr + off) (records.drop done) (n - done) done bytes worst
    | _ =>
      if !(s.partFor p c k).dstOk o off (n * recPayload) then .done s stBAD_RANGE []
      else match s.claimXfer c k with
        | .error st => .done s st []
        | .ok s => s.takeRecords p c k (o.addr + off) records n 0 0 .clean

/-! Shards (R328, R329) -/

/-- Fields of a chunk. -/
structure Chunk where
  load : Nat
  shard : Nat
  shards : Nat
  entry : Nat
  offset : Nat
  length : Nat
  deriving DecidableEq, Repr

def chunkOf (b : Bytes) : Chunk :=
  { load := fieldN b 0 8, shard := fieldN b 8 4, shards := fieldN b 0xC 4, entry := fieldN b 0x10 4, offset := fieldN b 0x18 8, length := fieldN b 0x20 8 }

/-- The address of a chunk's range, when it lies within its entry. -/
def Load.place (l : Load) (x : Chunk) : Option Nat :=
  match l.entries[x.entry]? with
  | some e => if x.offset + x.length ≤ e.bytes then some (e.addr + x.offset) else none
  | none => none

/-- Whether the header fields of a chunk agree with the load. -/
def Load.agrees (l : Load) (x : Chunk) : Bool := x.load == l.id && x.shards == l.shards && decide (x.shard < l.shards)

/-- The weight key of a partition (R357). -/
def Partition.weightKey (P : Partition) : BitVec 256 :=
  let loader := fieldN P.policy 0xA 1
  let dk := ((P.shares.find? (fun x => x.owner == loader)).map (fun x => x.dataKey)).getD 0#256
  Config.kmac (keyBytes dk) (sliceB P.policy 0 8) "CZ3220 WEIGHT"

/-- Ciphertext and tag check of a whole chunk. -/
def Partition.chunkData (P : Partition) (b : Bytes) : Bytes := gcmCrypt P.weightKey (sliceB b 0x28 12) ((b.drop 0x40).take (chunkOf b).length)
def Partition.chunkValid (P : Partition) (b : Bytes) : Bool :=
  let n := (chunkOf b).length
  b.length == 0x50 + n &&
  tagBytes (Config.gcmTag P.weightKey (sliceB b 0x28 12) (b.take 0x28) ((b.drop 0x40).take n)) == sliceB b (0x40 + n) 16

/-- Whether a shard has been marked valid, in memory or in the open step region. -/
def Sys.shardMarked (s : Sys) (p : Nat) (l : Load) (shard : Nat) : Bool :=
  decide (shard < l.shards) &&
  (l.bitmap.testBit shard || ((s.part p).sigma).any (fun z => z.items.any (fun i => match i.effect with
    | .shard q id n ok => q == p && id == l.id && n == shard && ok
    | _ => false)))

/-- What a further record of a chunk decrypts into its extent range: the part of the bytes so far beyond `from_` (R329). -/
def Sys.chunkPiece (s : Sys) (p : Nat) (l : Load) (all : Bytes) (from_ : Nat) : Nat × Bytes :=
  let x := chunkOf all
  match (if all.length < 0x40 ∨ s.shardMarked p l x.shard then none else l.place x) with
  | none => (0, [])
  | some a => (a + (from_ - 0x40), ((s.part p).chunkData all).drop (from_ - 0x40))

/-- A chunk whose records have passed is checked, and its XFER_IN completes (R329). In the step region its mark is held with its data. -/
def Sys.checkChunk (s : Sys) (p c : Nat) (k : Cmd) (l : Load) (all : Bytes) (worst : Mark) : Did :=
  let n := k.field 0x28 4
  let x := chunkOf all
  let res := xferResult n all.length
  let shard := if all.length < 0xC then l.shards else x.shard
  if s.shardMarked p l shard then .done s (markStatus worst) res else
  let valid := decide (0x40 ≤ all.length) && l.agrees x && (l.place x).isSome && (s.part p).chunkValid all
  let map := s.bitPlace l shard
  -- what a corrupt chunk leaves undefined
  let gap := (if valid ∨ all.length < 0x40 then none else l.place x).map (fun a => (a, freeBytes s.free x.length))
  let tight := s.inSigma c k && gap.any (fun e =>
    let h := (s.part p).hankAt e.1
    !s.slackFits h (heldSize e.2.length + if (s.part p).hankAt map = h then heldSize 1 else 0))
  if s.putWaits p c k (map, [0]) then s.putHold p c k (map, [0]) (.chunk n all worst)
  else if tight then .more (s.setProgress c k.ring k (.chunk n all worst)) else
  let s := match gap with
    | some e => (s.putIn p c k e).took x.length
    | none => s
  let valid := valid && !worst.isBad
  let fails := if valid ∧ !s.inSigma c k then s.shardMark p l.id shard else .clean
  let st := if worst.isBad then markStatus worst else if !valid then stSHARD_CORRUPT else markStatus fails
  if s.inSigma c k then
    .done (s.addSigma p { ctx := c, ring := k.ring, lay := k.lay, hank := (s.part p).hankAt map, size := heldSize 1
                          effect := .shard p l.id shard valid, local_ := false }) st res
  else .running ((s.finish c k st res).shardChecked p l.id shard valid)

/-- Takes the records of a chunk that are left, decrypting it into its range as they pass; `sofar` has passed before (R329). A piece whose place
has become read-only is outside the partition's memory (R168). -/
def Sys.takeChunk (s : Sys) (p c : Nat) (k : Cmd) (l : Load) (sofar : Bytes) (rs : List Bytes) (left done : Nat) (worst : Mark) : Did :=
  match left with
  | 0 => s.checkChunk p c k l sofar worst
  | left + 1 =>
    match rs with
    | [] => .running (s.setProgress c k.ring k (.chunk done sofar worst))
    | r :: rs =>
      match openRecord (s.ctxKey c) c (k.field 0x20 8 + done) r with
      | none => .done (s.transportFail c (k.field 0x20 8 + done) (s.inSigma c k)) stTAG_FAIL (xferResult done sofar.length)
      | some b =>
        let e := s.chunkPiece p l (sofar ++ b) sofar.length
        if !e.2.isEmpty && !(s.partFor p c k).mayWrite e.1 e.2.length then .done s stBAD_RANGE (xferResult done sofar.length)
        else if !e.2.isEmpty && s.putWaits p c k e then s.putHold p c k e (.chunk done sofar worst)
        else
          let s := s.countIn c k b.length
          Sys.takeChunk (if e.2.isEmpty then s else s.putIn p c k e) p c k l (sofar ++ b) rs left (done + 1)
            (if e.2.isEmpty then worst else worst.worse (s.putMark p c k e))

/-- XFER_IN with SHARD. -/
def xferInShard (records : List Bytes) (p c : Nat) (k : Cmd) (s : Sys) : Did :=
  match (s.part p).loads.find? (fun l => l.id == k.field 8 8) with
  | none => .done s stNOT_READY []
  | some l =>
    match k.progress with
    | .chunk done sofar worst => s.takeChunk p c k l sofar (records.drop done) (k.field 0x28 4 - done) done worst
    | _ => match s.claimXfer c k with
      | .error st => .done s st []
      | .ok s => s.takeChunk p c k l [] records (k.field 0x28 4) 0 .clean

/-- XFER_IN. `records` are the records from HOST_ADDR on that the module has read when the row comes; with fewer than RECORDS the
command goes on at a later row (DESIGN CHOICE, log 146). -/
def xferInBody (records : List Bytes) (p c : Nat) (k : Cmd) (s : Sys) : Did :=
  if k.field 0x2C 1 = 1 then xferInShard records p c k s else xferInData records p c k s
def execXferIn (k : CmdKey) (records : List Bytes) (s : State) : Host.Outcome State Fault Refusal :=
  s.onSys (fun y => y.runOrdered (.xferIn k records) k (isOp 0x20) (xferInBody records))

/-! XFER_OUT (R327, R351) -/

/-- Writes payloads as stream-2 records of a run that begins at SEQ `first`: payload `i` of the list is that of record `i` (R289, R290). -/
def Sys.writeRecords (s : Sys) (c a first : Nat) (ps : List (Nat × Bytes)) : Sys :=
  let x := s.ctx c
  let s := s.setCtx c { x with usage := { x.usage with hostOut := x.usage.hostOut + (ps.map (fun e => e.2.length)).sum } }
  ps.foldl (fun s e => s.hostWrite (a + 4096 * e.1) (sealRecord (s.ctxKey c) c (first + e.1) e.2)) s

/-- Claims a run of `n` stream-2 values. -/
def Sys.claimOut (s : Sys) (c n : Nat) : Sys := s.setCtx c { s.ctx c with seq2 := (s.ctx c).seq2 + n }

/-- XFER_OUT writes up to `count` more records of its run. -/
def Sys.sendOut (s : Sys) (p c : Nat) (k : Cmd) (q a first done count : Nat) (m : Mark) : Did :=
  let n := k.field 0x18 8
  let total := recordsFor n
  let now := min count (total - done)
  let lo := recPayload * done
  let len := min n (recPayload * (done + now)) - lo
  if s.memWaits q (a + lo) len then .asks (s.setProgress c k.ring k (.outgoing first done m)) (s.asksOf q (a + lo) len) else
  let (s, data, m1) := s.readZeroed p q (a + lo) len
  let s := if m1.isBad then s.cmdSaw c k true domHost fnHost else s
  let s := s.writeRecords c (k.field 0x20 8) first ((List.range now).map (fun i => (done + i, (data.drop (recPayload * i)).take recPayload)))
  let m := worstMark [m, m1]
  if done + now = total then .done s (markStatus m) (leBytes 8 first ++ leBytes 4 total)
  else .running (s.setProgress c k.ring k (.outgoing first (done + now) m))

/-- XFER_OUT. `count` is the number of records that it writes before the module looks at another command (DESIGN CHOICE, log 146). -/
def xferOutBody (count p c : Nat) (k : Cmd) (s : Sys) : Did :=
  let n := k.field 0x18 8
  let off := k.field 0x10 8
  match s.memoryOf p k.refs (k.field 8 8) with
  | none => .done s stBAD_HANDLE []
  | some (q, o) =>
    match k.progress with
    | .outgoing first done m => s.sendOut p c k q (o.addr + off) first done count m
    | _ =>
      if o.bytes < off + n then .done s stBAD_RANGE []
      else if n = 0 ∨ k.field 0x20 8 % 4096 ≠ 0 then .done s stBAD_VALUE []
      else if 2 ≤ (s.part p).owners ∧ !(p == q && (s.part p).outputAllows (s.ctx c).owner (o.addr + off) n) then .done s stDENIED []
      else (s.claimOut c (recordsFor n)).sendOut p c k q (o.addr + off) (s.ctx c).seq2 0 count .clean
def execXferOut (k : PacedF) (s : State) : Host.Outcome State Fault Refusal :=
  s.onSys (fun y => y.runOrdered (.xferOut k) k.key (isOp 0x21) (xferOutBody k.count))

/-! XFER_DEVICE (R327) -/

/-- The remote form: messages on a send flow, complete when every frame is acknowledged. -/
def xferSend (p c : Nat) (k : Cmd) (q : Nat) (o : Obj) (s : Sys) : Did :=
  let f := k.field 0x30 4
  let n := k.field 0x28 8
  let size := k.field 0x34 4
  match k.progress with
  | .sending first count =>
    if (List.range count).all (fun i => (s.flow f).delivered ((first + i) % 2 ^ 32)) then .done s stOK []
    else if (s.flow f).dead then .done s stPEER_LOST []
    else .more s
  | _ =>
    if !s.holdsFlow p f ∨ (s.flow f).role ≠ 0 ∨ (s.flow f).state ≠ .open then .done s stBAD_FLOW []
    else if size % 256 ≠ 0 ∨ size < 256 ∨ 1048576 < size then .done s stBAD_VALUE []
    else if s.memWaits q (o.addr + k.field 0x10 8) n then .asks s (s.asksOf q (o.addr + k.field 0x10 8) n)
    else
      let (s, b) := s.readObj p q (o.addr + k.field 0x10 8) n
      let first := (s.flow f).msg
      let count := (n + size - 1) / size
      let s := (List.range count).foldl (fun s i => s.post f (b.slice (size * i) (min size (n - size * i))) (some c)) s
      .more (s.setProgress c k.ring k (.sending first count))

/-- XFER_DEVICE: its checks in the order of its table (R316, R326). -/
def xferDeviceBody (p c : Nat) (k : Cmd) (s : Sys) : Did :=
  let n := k.field 0x28 8
  let off := k.field 0x10 8
  match s.memoryOf p k.refs (k.field 8 8) with
  | none => .done s stBAD_HANDLE []
  | some (q, o) =>
    if o.bytes < off + n then .done s stBAD_RANGE []
    else if k.field 0x30 4 ≠ noFlow then (if n = 0 then .done s stBAD_VALUE [] else xferSend p c k q o s)
    else match (s.part p).dstObj k.refs (k.field 0x18 8) with
      | .error st => .done s st []
      | .ok d =>
        if !(s.part p).dstOk d (k.field 0x20 8) n then .done s stBAD_RANGE []
        else if n = 0 then .done s stBAD_VALUE []
        else if s.memWaits q (o.addr + off) n || s.memWaits p (d.addr + k.field 0x20 8) n then
          .asks s (s.asksOf q (o.addr + off) n ++ s.asksOf p (d.addr + k.field 0x20 8) n)
        else
          let (s, b) := s.readObj p q (o.addr + off) n
          .done (s.writePart p (d.addr + k.field 0x20 8) b) (markStatus (s.writeMark p (d.addr + k.field 0x20 8) n)) []
def execXferDevice (k : CmdKey) (s : State) : Host.Outcome State Fault Refusal :=
  s.onSys (fun y => y.runOrdered (.xferDevice k) k (isOp 0x22) xferDeviceBody)

/-! WSET_LOAD (R328) -/

def wsetLoadBody (p c : Nat) (k : Cmd) (s : Sys) : Did :=
  match k.progress with
  | .begun =>
    let P := s.part p
    let id := k.field 8 8
    let dir := k.field 0x10 8
    let map := k.field 0x18 8
    let n := k.field 0x20 4
    (match s.checkDir p dir [] with
     | .bad st => .done s st []
     | .poison m => .done (s.cmdSaw c k true domBowline fnBowline) (markStatus m) []
     | .ok es =>
       if n = 0 ∨ 65536 < n then .done s stBAD_VALUE []
       else if !P.mayWrite map ((n + 7) / 8) then .done s stBAD_RANGE []
       else if P.loads.any (fun l => l.id == id) then .done s stBUSY []
       else if 256 ≤ P.wsets.countP (fun e => e.2.source.isNone) then .done s stNO_WEIGHT_SET []
       else if P.atQuota then .done s stQUOTA []
       else
         let s := (s.noteDir p dir).writePart p map (Blob.ofBytes (List.replicate ((n + 7) / 8) 0))
         let l : Load := { id := id, ctx := c, ring := k.ring, lay := k.lay, dir := dir, entries := es, bitmap := 0, shards := n
                           retries := k.field 0x24 1, fails := [] }
         let P := s.part p
         .running (s.setPart p { P with loads := P.loads ++ [l] }))
  | _ => .running s
def execWsetLoad (k : CmdKey) (s : State) : Host.Outcome State Fault Refusal :=
  s.onSys (fun y => y.runOrdered (.wsetLoad k) k (isOp 0x28) wsetLoadBody)

/-! Checkpoints (R334 to R337) -/

/-- The export key that KEYSEL names (R357). -/
def Partition.exportKey (P : Partition) (k : Cmd) : BitVec 256 :=
  let km := keyBytes (P.kModel.getD 0#256)
  if k.field 0x30 1 = 0 then Config.kmac km [] "CZ3220 PEXPORT"
  else Config.kmac km (sliceB k.payload 0x20 8 ++ sliceB k.payload 0x18 8) "CZ3220 BEXPORT"

/-- Whether a held release covers the command's JOB_ID and STEP (R359). -/
def Partition.released (P : Partition) (k : Cmd) : Bool := P.releases.any (fun r => r.job == k.field 0x20 8 && r.step == k.field 0x18 8)

def segmentBytes : Nat := 1048576
def headerMagic : Nat := 0x4B435A43

/-- SHAPE of a manifest. -/
def shapeOf (rs : List (Nat × Nat × Nat)) : Bytes := keyBytes (Config.sha3 (rs.flatMap (fun r => leBytes 8 r.2.2)))

/-- Header bytes 0x00 to 0x6F of an image. -/
def ckptHeader (k : Cmd) (rs : List (Nat × Nat × Nat)) (salt : Bytes) : Bytes :=
  leBytes 4 headerMagic ++ leBytes 2 1 ++ leBytes 1 (k.field 0x30 1) ++ [0] ++ sliceB k.payload 0x20 8 ++ sliceB k.payload 0x18 8
    ++ sliceB k.payload 0x14 4 ++ sliceB k.payload 0x10 4 ++ leBytes 8 ((rs.map (fun r => r.2.2)).sum) ++ salt ++ shapeOf rs ++ List.replicate 32 0

/-- Segment `i` of an image, with its tag. -/
def sealSegment (key : BitVec 256) (salt head : Bytes) (i : Nat) (data : Bytes) : Bytes :=
  let n := salt ++ leBytes 4 i
  let ct := gcmCrypt key n data
  ct ++ tagBytes (Config.gcmTag key n (head.take 0x50 ++ leBytes 4 i) ct)

/-- The number of segments of an image of `n` bytes. -/
def segmentsOf (n : Nat) : Nat := (n + segmentBytes - 1) / segmentBytes

/-- The header of an image, with its tag. -/
def sealHeader (key : BitVec 256) (salt head : Bytes) : Bytes := head ++ tagBytes (Config.gcmTag key (salt ++ leBytes 4 0xFFFFFFFF) head [])

/-- The segments of an image, one after another. -/
def sealSegments (key : BitVec 256) (salt head data : Bytes) : Bytes :=
  (List.range (segmentsOf data.length)).flatMap (fun i => sealSegment key salt head i ((data.drop (segmentBytes * i)).take segmentBytes))

/-- Bytes of the segments of an image of `n` bytes. -/
def sealedLength (n : Nat) : Nat := n + 16 * segmentsOf n
/-- Records of an image of `n` bytes: the header's, then those of the segments (R335). -/
def imageRecords (n : Nat) : Nat := 1 + recordsFor (sealedLength n)

/-- Data of the ranges up to the first poisoned codeword, and its mark. -/
def Sys.gather (s : Sys) (p : Nat) (rs : List (Nat × Nat × Nat)) : Sys × Bytes × Mark :=
  rs.foldl (fun (acc : Sys × Bytes × Mark) r =>
    if acc.2.2.isBad then acc else
    let (s, b) := acc.1.readObj p r.1 r.2.1 r.2.2
    (s, acc.2.1 ++ b.data, b.worst)) (s, [], .clean)

/-- Bytes of a list of ranges. -/
def rangeBytes (rs : List (Nat × Nat × Nat)) : Nat := (rs.map (fun r => r.2.2)).sum

/-- The records of an image in the order in which they are written, each with its place in the run: those of the segments, the header's last
(R335). -/
def imagePayloads (key : BitVec 256) (k : Cmd) (rs : List (Nat × Nat × Nat)) (salt : Nat) (data : Bytes) : List (Nat × Bytes) :=
  let salt8 := leBytes 8 salt
  let head := ckptHeader k rs salt8
  let body := sealSegments key salt8 head data
  (List.range (recordsFor body.length)).map (fun i => (i + 1, (body.drop (recPayload * i)).take recPayload)) ++ [(0, sealHeader key salt8 head)]

/-- CKPT_SAVE writes up to `count` more records of its image. -/
def Sys.saveImage (s : Sys) (c : Nat) (k : Cmd) (first done : Nat) (left : List (Nat × Bytes)) (count : Nat) : Did :=
  let now := left.take count
  let s := s.writeRecords c (k.field 0x28 8) first now
  if (left.drop count).isEmpty then .done s stOK (leBytes 8 first ++ leBytes 4 (done + now.length))
  else .running (s.setProgress c k.ring k (.saving first (done + now.length) (left.drop count)))

/-- CKPT_SAVE (R335). The ranges are read when it begins, and a poisoned byte stops it there. `count` is the number of records that it writes
before the module looks at another command (DESIGN CHOICE, log 146). -/
def ckptSaveBody (count p c : Nat) (k : Cmd) (s : Sys) : Did :=
  match k.progress with
  | .saving first done left => s.saveImage c k first done left count
  | _ =>
    if !ckptRanges k then .done s stBAD_VALUE []
    else match s.manifest p k false with
      | .bad st => .done s st []
      | .poison m => .done (s.cmdSaw c k true domHost fnHost) (markStatus m) []
      | .ok rs =>
        if !ckptHost k then .done s stBAD_VALUE []
        else if k.field 0x30 1 = 1 ∧ !(s.part p).released k then .done s stDENIED []
        else if s.noEntropy then .done s stNOT_READY []
        else if rs.any (fun r => s.memWaits r.1 r.2.1 r.2.2) then .asks s ((rs.flatMap (fun r => s.asksOf r.1 r.2.1 r.2.2)).eraseDups)
        else
          let first := (s.ctx c).seq2
          let salt := s.drawn.toNat % 2 ^ 64
          let (s, data, m) := (((s.noteRead p (k.field 8 8) (24 * k.field 0x10 4)).took 1).claimOut c (imageRecords (rangeBytes rs))).gather p rs
          if m.isBad then .done (s.cmdSaw c k true domHost fnHost) (markStatus m) (leBytes 8 first ++ leBytes 4 0)
          else s.saveImage c k first 0 (imagePayloads ((s.part p).exportKey k) k rs salt data) count
def execCkptSave (k : PacedF) (s : State) : Host.Outcome State Fault Refusal :=
  s.onSys (fun y => y.entropySettled.runOrdered (.ckptSave k) k.key (isOp 0x50) (ckptSaveBody k.count))

/-- Opens the segments that stand whole at the head of a list of bytes, `left` bytes of data still to come: their data, and whether one
has failed its tag check. -/
def openSegments (key : BitVec 256) (head body : Bytes) (i left : Nat) (fuel : Nat) : Bytes × Bool :=
  match fuel with
  | 0 => ([], false)
  | fuel + 1 =>
    let n := min left segmentBytes
    if left = 0 ∨ body.length < n + 16 then ([], false) else
    let non := sliceB head 0x28 8 ++ leBytes 4 i
    let ct := body.take n
    if tagBytes (Config.gcmTag key non (head.take 0x50 ++ leBytes 4 i) ct) ≠ sliceB body n 16 then ([], true)
    else
      let t := openSegments key head (body.drop (n + 16)) (i + 1) (left - n) fuel
      (gcmCrypt key non ct ++ t.1, t.2)

/-- The parts of ranges, each with its address, that hold the bytes from `from_` on of a concatenation. -/
def spread (rs : List (Nat × Nat × Nat)) (from_ : Nat) (data : Bytes) : List (Nat × Nat × Bytes) :=
  match rs with
  | [] => []
  | r :: rs =>
    let here := (data.take (r.2.2 - from_))
    (if here.isEmpty then [] else [(r.1, r.2.1 + from_, here)]) ++ spread rs (from_ - r.2.2) (data.drop (r.2.2 - from_))

/-- Writes data over the ranges of a manifest, from byte `from_` of their concatenation on. -/
def Sys.scatter (s : Sys) (rs : List (Nat × Nat × Nat)) (from_ : Nat) (data : Bytes) : Sys :=
  (spread rs from_ data).foldl (fun s e => s.writePart e.1 e.2.1 (Blob.ofBytes e.2.2)) s

/-- Whether a header names what the command names (R336). -/
def headerAgrees (k : Cmd) (rs : List (Nat × Nat × Nat)) (h : Bytes) : Bool :=
  fieldN h 0 4 == headerMagic && fieldN h 4 2 == 1 && fieldN h 6 1 == k.field 0x30 1 && fieldN h 8 8 == k.field 0x20 8 &&
  fieldN h 0x10 8 == k.field 0x18 8 && fieldN h 0x18 4 == k.field 0x14 4 && sliceB h 0x30 32 == shapeOf rs

/-- Makes the ranges of a manifest undefined. -/
def Sys.undefinedAll (s : Sys) (rs : List (Nat × Nat × Nat)) : Sys := rs.foldl (fun s r => s.undefinedAt r.1 r.2.1 r.2.2) s

/-- Takes the part of an image that has been read: `wrote` bytes of its data stand in the ranges already. Segments are written as they
pass; `ended` says that no more can be read, as every record has been or one has failed (R336). -/
def Sys.restoreImage (s : Sys) (p c : Nat) (k : Cmd) (rs : List (Nat × Nat × Nat)) (image : Bytes) (reads wrote : Nat) (worst : Mark)
    (ended : Bool) (after : Sys → Sys) : Did :=
  let key := (s.part p).exportKey k
  let head := image.take 0x70
  let total := rangeBytes rs
  if image.length < 128 then
    (if ended then .done s stTAG_FAIL [] else .running (s.setProgress c k.ring k (.restoring rs reads image wrote worst)))
  else if tagBytes (Config.gcmTag key (sliceB head 0x28 8 ++ leBytes 4 0xFFFFFFFF) head []) ≠ sliceB image 0x70 16 then .done s stTAG_FAIL []
  else if !headerAgrees k rs head then .done s stBAD_DESCRIPTOR []
  else
    let t := openSegments key head (image.drop 128) 0 total (segmentsOf total)
    let worst := (spread rs wrote (t.1.drop wrote)).foldl (fun m e => m.worse (s.writeMark e.1 e.2.1 e.2.2.length)) worst
    let s := s.scatter rs wrote (t.1.drop wrote)
    if t.2 then .done (s.undefinedAll rs) stTAG_FAIL []
    else if t.1.length = total then (if worst.isBad then .done s (markStatus worst) [] else .done (after s) stOK [])
    else if ended then .done (s.undefinedAll rs) stTAG_FAIL []
    else .running (s.setProgress c k.ring k (.restoring rs reads image t.1.length worst))

/-- Reads the records that the row gives beyond the `seen` that were read before; `image` is what those hold. -/
def Sys.readImage (s : Sys) (records : List Bytes) (p c : Nat) (k : Cmd) (rs : List (Nat × Nat × Nat)) (seen : Nat) (image : Bytes) (wrote : Nat)
    (worst : Mark) (after : Sys → Sys) : Did :=
  if rs.any (fun r => s.memWaits r.1 r.2.1 r.2.2) then
    .asks (s.setProgress c k.ring k (.restoring rs seen image wrote worst)) ((rs.flatMap (fun r => s.asksOf r.1 r.2.1 r.2.2)).eraseDups)
  else
    let first := k.field 0x38 8
    let n := k.field 0x34 4
    let t := openRun (s.ctxKey c) c (records.drop seen) (first + seen) (min n records.length - seen)
    let s := s.useIn c t.1.flatten.length
    let s := if t.2 then s.transportFail c (first + seen + t.1.length) false else s
    s.restoreImage p c k rs (image ++ t.1.flatten) (seen + t.1.length) wrote worst (t.2 || decide (seen + t.1.length = n)) after

/-- CKPT_RESTORE (R336), and what precedes and follows it in a TAKEOVER. The manifest is read and checked when it begins. `records` are the
records from HOST_ADDR on that the module has read when the row comes; with fewer than RECORDS the command goes on at a later row (DESIGN
CHOICE, log 146). -/
def ckptReadBody (records : List Bytes) (refuse : Bool) (after : Sys → Sys) (p c : Nat) (k : Cmd) (s : Sys) : Did :=
  match k.progress with
  | .restoring rs seen image wrote worst => s.readImage records p c k rs seen image wrote worst after
  | _ =>
    if !ckptRanges k then .done s stBAD_VALUE []
    else match s.manifest p k true with
      | .bad st => .done s st []
      | .poison m => .done (s.cmdSaw c k true domHost fnHost) (markStatus m) []
      | .ok rs =>
        if refuse then .done s stNOT_READY []
        else if !ckptHost k ∨ k.field 0x34 4 = 0 then .done s stBAD_VALUE []
        else match (s.noteRead p (k.field 8 8) (24 * k.field 0x10 4)).claimIn c (k.field 0x38 8) (k.field 0x34 4) with
          | none => .done s stSTALE_VALUE []
          | some s => s.readImage records p c k rs 0 [] 0 .clean after
def execCkptRestore (k : CmdKey) (records : List Bytes) (s : State) : Host.Outcome State Fault Refusal :=
  s.onSys (fun y => y.runOrdered (.ckptRestore k records) k (isOp 0x51) (ckptReadBody records false id))

/-- TAKEOVER (R337): the highest update step begun becomes STEP. -/
def takeoverBody (records : List Bytes) (p c : Nat) (k : Cmd) (s : Sys) : Did :=
  let n := k.field 0x18 8
  ckptReadBody records ((s.part p).stepBegun.any (fun b => decide (n < b))) (fun s => s.setPart p { s.part p with stepBegun := some n }) p c k s
def execTakeover (k : CmdKey) (records : List Bytes) (s : State) : Host.Outcome State Fault Refusal :=
  s.onSys (fun y => y.runOrdered (.takeover k records) k (isOp 0x52) (takeoverBody records))

end Sys2Proof.Machine
end

