-- ==== Sys2Proof/Machine/Run.lean ====
section
/-!
DEFINITION. RUN: its checks, pins and digest, and how its Bights are taken (R81, R169, R174, R178, R331, R352, R415).
-/

namespace Sys2Proof.Machine

/-- The weight sets that the arguments of a RUN name, as holder's partition and index; none for a bad handle. -/
def Sys.runSets (s : Sys) (p : Nat) (k : Cmd) : List (Option (Nat × Nat × WSet)) :=
  (List.range 7).filterMap (fun i => if (k.field 0x1E 1).testBit i then some (s.setHolder p (k.field (0x20 + 8 * i) 8)) else none)

/-- Whether a batch has pinned a version of a set. -/
def Context.hasPin (x : Context) (batch q i : Nat) : Bool := (x.batch batch).any (fun b => b.pins.any (fun n => n.part == q && n.wset == i))

/-- The hank mask of a RUN and whether it is in order: not empty, within the partition and the context's mask. -/
def Sys.runMaskOk (s : Sys) (c : Nat) (k : Cmd) : Bool :=
  let m := maskPositions (BitVec.ofNat 80 (k.field 0x14 10))
  let n := (s.part (s.ctx c).part).hanks.length
  !m.isEmpty && m.all (fun j => decide (j < n) && (s.ctx c).hankMask.getLsbD j)

/-- Pins the versions that a RUN names; none when a set can no longer be pinned (R169, R174). -/
def Sys.pinAll (s : Sys) (c : Nat) (k : Cmd) (ws : List (Nat × Nat × WSet)) : Option Sys :=
  match ws with
  | [] => some s
  | (q, i, w) :: t =>
    if w.retiring && !(s.ctx c).hasPin k.batch q i then none
    else match s.pin c k.batch q i w with
      | some (_, s) => s.pinAll c k t
      | none => none

/-- Whether the partition's policy admits the program, with the verdict stored (R352). A RUN of the step region digests what the region sees, and
its verdict is the region's until that is hauled (R181, R183). -/
def Sys.admitProgram (s : Sys) (p q c : Nat) (k : Cmd) (o : Obj) : Option Sys :=
  let P := s.part p
  let i := handleIndex (k.field 8 8)
  match (s.partFor p c k).objs.get? i with
  | none => some s
  | some x =>
    if fieldN P.policy 0xE 2 = 0 ∨ x.listed then some s
    else if P.unlisted (if p = q then (s.readCmd p c k o.addr o.bytes).data else (s.readPart q o.addr o.bytes).data) then none
    else
      let s := s.noteRead q o.addr o.bytes
      match (if s.inSigma c k then P.sigma else none) with
      | some z => some (s.setPart p { s.part p with sigma := some { z with listed := z.listed ++ [i] } })
      | none => some (s.setPart p { s.part p with objs := P.objs.put i { x with listed := true, readOnly := true } })

/-- The checks of a RUN in their order: a status when one fails. -/
def Sys.runCheck (s : Sys) (p c : Nat) (k : Cmd) : Option Nat :=
  match s.memoryOf p k.refs (k.field 8 8) with
  | none => some stBAD_HANDLE
  | some (_, o) =>
    let e := k.field 0x10 4
    if (s.runSets p k).any (fun x => x.isNone) then some stBAD_HANDLE
    else if e % 8 ≠ 0 ∨ o.bytes < e + 8 then some stBAD_VALUE
    else if !s.runMaskOk c k then some stBAD_HANK
    else if !(s.runHanks c k).all s.hankReady then some stNOT_READY
    else none

/-- RUN once it has begun. -/
def runBody (p c : Nat) (k : Cmd) (s : Sys) : Did :=
  match k.progress with
  | .begun =>
    (match s.runCheck p c k, s.memoryOf p k.refs (k.field 8 8) with
     | some st, _ => .done s st []
     | none, none => .done s stBAD_HANDLE []
     | none, some (q, o) =>
       match s.admitProgram p q c k o with
       | none => .done s stDENIED []
       | some s => match s.pinAll c k ((s.runSets p k).filterMap id) with
         | none => .done s stDRAINING []
         | some s =>
           let hs := s.runHanks c k
           let s := s.setProgress c k.ring k (.run hs [] 0#64 [] (s.inSigma c k))
           .running (hs.foldl (fun s b => s.takeBight b) s))
  | _ => .running s
def execRun (k : CmdKey) (s : State) : Host.Outcome State Fault Refusal :=
  s.onSys (fun y => y.runOrdered (.run k) k (isOp 0x30) runBody)

end Sys2Proof.Machine
end

