-- ==== Sys2Proof/Machine/FlowCmds.lean ====
section
/-!
DEFINITION. FLOW_OPEN, FLOW_CLOSE and COLL (R183, R186, R263 to R267, R274 to R276, R422, R432, R436, R462).
-/

namespace Sys2Proof.Machine

/-! FLOW_OPEN (R333) -/

/-- Flows that a partition holds. -/
def Sys.flowCountOf (s : Sys) (p : Nat) : Nat := s.fab.flows.countP (fun e => e.2.part == p && e.2.state != .free)

/-- Whether a Hawser die takes no new work. -/
def Sys.hawserDraining (s : Sys) (w : Nat) : Bool := (s.fn (fnHawser w)).state == .draining

/-- Whether the target fields of a receive context stand in the ranges of R264, and its Bight in the partition (R333). -/
def Sys.targetOk (s : Sys) (p : Nat) (k : Cmd) : Bool :=
  let t := k.field 0x0E 1
  let n := k.field 0x1C 4
  let slots := k.field 0x36 2
  (if t = 2 then decide (65536 ≤ n) && decide (n ≤ 4194304) && slots == 0
   else n % 256 == 0 && decide (256 ≤ n) && decide (n ≤ 1048576) && decide (1 ≤ slots) && decide (slots ≤ 1024)) &&
  decide (k.field 0x10 1 < 32) && (s.part p).hanks.contains (k.field 0x0F 1)

/-- Whether the slots of a receive context lie in the locker or in writable memory of the partition. -/
def Sys.windowOk (s : Sys) (p : Nat) (k : Cmd) : Bool :=
  let n := k.field 0x36 2 * k.field 0x1C 4
  match k.field 0x0E 1 with
  | 0 => inLocker (k.field 0x38 8) n
  | 1 => (s.part p).mayWrite (k.field 0x38 8) n
  | _ => true

/-- The checks of FLOW_OPEN in their order. -/
def Sys.flowOpenCheck (s : Sys) (p : Nat) (k : Cmd) : Option Nat :=
  let f := k.field 8 4
  let q := k.field 0x0C 1
  let recv := k.field 0x0D 1 == 1
  if flowCount ≤ f ∨ 11 < q ∨ q / 2 ≠ flowDie f ∨ 1 < k.field 0x0D 1 ∨ 2 < k.field 0x0E 1 ∨ (recv ∧ !s.targetOk p k) then some stBAD_VALUE
  else if (s.flow f).state ≠ .free then some stBUSY
  else if fieldN (s.part p).config 0x14 4 ≤ s.flowCountOf p then some stNO_FLOW
  else if (s.port q).link ≠ .up ∨ s.hawserDraining (flowDie f) then some stNOT_READY
  else if recv ∧ !s.windowOk p k then some stBAD_RANGE
  else if s.noEntropy then some stNOT_READY
  else none

/-- The context that a FLOW_OPEN makes, OPENING. -/
def openingFlow (p c : Nat) (k : Cmd) (nonce : Bytes) : Flow :=
  let recv := k.field 0x0D 1 == 1
  { Flow.empty with
    state := .opening, port := k.field 0x0C 1, role := k.field 0x0D 1, target := if recv then k.field 0x0E 1 else 0
    peerFlow := k.field 0x18 4, peerNode := k.field 0x14 4, part := p, peerPart := k.field 0x12 2
    peerIp := sliceB k.payload 0x20 16, nextHop := sliceB k.payload 0x30 6, ctx := c, opener := some (k.ring, k.lay)
    winBase := if recv then k.field 0x38 8 else 0, slotBytes := if recv then k.field 0x1C 4 else 0
    slots := if recv then k.field 0x36 2 else 0, destBight := if recv then k.field 0x0F 1 else 0
    destHitch := if recv then k.field 0x10 1 else 0, rate := 4096, nLocal := nonce }

/-- FLOW_OPEN (R265): the context enters OPENING and its first OPEN frame goes out. -/
def flowOpenBody (p c : Nat) (k : Cmd) (s : Sys) : Did :=
  match k.progress with
  | .begun =>
    (match s.flowOpenCheck p k with
     | some st => .done s st []
     | none =>
       let f := k.field 8 4
       let nonce := leBytes 16 (s.drawn.toNat % 2 ^ 128)
       .running (((s.took 1).setFlow f (openingFlow p c k nonce)).sendOpen f false))
  | _ => .running s
def execFlowOpen (k : CmdKey) (s : State) : Host.Outcome State Fault Refusal :=
  s.onSys (fun y => y.entropySettled.runOrdered (.flowOpen k) k (isOp 0x49) flowOpenBody)

/-! FLOW_CLOSE (R267) -/

/-- Completes the FLOW_OPEN that a context waits for. -/
def Sys.endOpener (s : Sys) (f st : Nat) : Sys :=
  let x := s.flow f
  match x.opener with
  | none => s
  | some (r, l) =>
    let s := s.setFlow f { x with opener := none }
    match s.cmdAt x.ctx r l with
    | some k => s.conclude x.ctx k st []
    | none => s

/-- Makes a context FREE: its keys are zeroised, and a collective that still names it ends (R281). -/
def Sys.freeFlow (s : Sys) (f : Nat) : Sys := (s.endOpener f stPEER_LOST).endFlow f .free stPEER_LOST 2

/-- FLOW_CLOSE. -/
def flowCloseBody (p c : Nat) (k : Cmd) (s : Sys) : Did :=
  let f := k.field 8 4
  let x := s.flow f
  let held := s.holdsFlow p f
  if !held then .done s (if k.progress = .begun then stBAD_FLOW else stOK) []
  else if x.role = 0 ∧ (x.state = .open ∨ x.state = .closing) then
    if x.unacked.isEmpty then .done (s.freeFlow f) stOK []
    else .more ((s.setFlow f { x with state := .closing }).setProgress c k.ring k (.request 0))
  else .done (s.freeFlow f) stOK []
def execFlowClose (k : CmdKey) (s : State) : Host.Outcome State Fault Refusal :=
  s.onSys (fun y => y.runOrdered (.flowClose k) k (isOp 0x4A) flowCloseBody)

/-! COLL (R274) -/

/-- Whether the fields of a plan are in order. -/
def planOk (b : Bytes) : Bool :=
  let p := planOf b
  decide (p.kind ≤ 3) && (decide (2 ≤ p.kind) || decide (p.op ≤ 6)) && decide (2 ≤ p.n) && decide (p.n ≤ 65536) && decide (p.pos < p.n) &&
  decide (p.root < p.n) && p.chunk % 256 == 0 && decide (4096 ≤ p.chunk) && decide (p.chunk ≤ 1048576) && p.elems != 0 && decide (p.fans.length ≤ 4)

/-- Whether the flows that a plan needs are held OPEN in the right role and target. -/
def Sys.planFlows (s : Sys) (part : Nat) (p : Plan) : Bool :=
  p.txFlows.all (fun f => s.holdsFlow part f && (s.flow f).state == .open && (s.flow f).role == 0) &&
  p.rxFlows.all (fun f => s.holdsFlow part f && (s.flow f).state == .open && (s.flow f).role == 1 && (s.flow f).target == 2)

/-- Every element of a contribution poisoned (R436). -/
def Blob.allPoisoned (b : Blob) : Blob := .chunks b.data ((List.range ((b.data.length + 15) / 16)).map (fun i => (i, (b.mark i).worse .poisoned)))

/-- The domain and unit that a collective's combiner stands in. -/
def Plan.die (p : Plan) : Nat := flowDie ((p.rxFlows ++ p.txFlows).headD 0) % 6

/-- The collective that a COLL opens. -/
def collOpen (part c : Nat) (k : Cmd) (p : Plan) (own : Blob) (seen : Mark) : Coll :=
  { part := part, ctx := c, ring := k.ring, lay := k.lay, plan := p, own := own, started := false, reduced := 0, resulted := 0, gathered := []
    nan := false, inf := false, bad := false, first := 0#32, seen := seen }

/-- COLL: the plan is checked, the contribution read, and its frames sent or held in the step region, where it waits for buffer space
(R186; its hank: DESIGN CHOICE, log 143). -/
def collBody (p c : Nat) (k : Cmd) (s : Sys) : Did :=
  let P := s.part p
  let a := k.field 8 8
  match k.progress with
  | .begun =>
    if !P.owns a 128 then .done s stBAD_RANGE []
    else
      let b := s.readCmd p c k a 128
      if b.worst.isBad then .done (s.cmdSaw c k true domBowline fnBowline) (markStatus b.worst) []
      else
        let pl := planOf b.data
        if a % 64 ≠ 0 ∨ !planOk b.data then .done s stBAD_PLAN []
        else if !s.planFlows p pl then .done s stBAD_FLOW []
        else if (pl.txFlows ++ pl.rxFlows).any (fun f => s.hawserDraining (flowDie f)) then .done s stNOT_READY []
        else if !P.owns pl.src pl.bytes ∨ !(s.partFor p c k).mayWrite pl.dst pl.dstBytes then .done s stBAD_RANGE []
        else if (s.collOf p pl.collId).isSome then .done s stBUSY []
        else if s.inSigma c k && !s.slackFits (P.hankAt pl.src) (heldSize pl.bytes) then .more s
        else if s.memWaits p pl.src pl.bytes || s.memWaits p pl.dst pl.dstBytes then .asks s (s.asksOf p pl.src pl.bytes ++ s.asksOf p pl.dst pl.dstBytes)
        else
          let own := s.readCmd p c k pl.src pl.bytes
          let s := (s.noteRead p a 128).noteRead p pl.src pl.bytes
          let bad := (s.ctx c).poisonSeen
          let s := if own.worst.isBad then s.cmdSaw c k true (domLink pl.die) (fnHawser pl.die) else s
          let x := collOpen p c k pl (if bad then own.allPoisoned else own) own.worst
          let P := s.part p
          let s := s.setPart p { P with outcomes := P.outcomes.filter (fun o => o.coll != pl.collId) }
          let s : Sys := { s with fab := { s.fab with colls := s.fab.colls ++ [x] } }
          if s.inSigma c k then
            .running (s.addSigma p
              { ctx := c, ring := k.ring, lay := k.lay, hank := P.hankAt pl.src, size := heldSize pl.bytes, effect := .coll c k.ring k.lay, local_ := false })
          else .running (s.collStart x)
  | _ => .running s

/-- The kind of the plan that a COLL names; a plan that is refused may come as any row. -/
def Sys.planKind (s : Sys) (key : CmdKey) (kind : Nat) (k : Cmd) : Bool :=
  let p := (s.ctx key.ctx.val).part
  k.opcode == 0x48 &&
  (!(s.part p).owns (k.field 8 8) 128 ||
    (let b := s.readCmd p key.ctx.val k (k.field 8 8) 128
     b.worst.isBad || decide (3 < (planOf b.data).kind) || (planOf b.data).kind == kind))

def execChainReduce (k : CmdKey) (s : State) : Host.Outcome State Fault Refusal :=
  s.onSys (fun y => y.runOrdered (.chainReduce k) k (y.planKind k 0) collBody)
def execChainAllreduce (k : CmdKey) (s : State) : Host.Outcome State Fault Refusal :=
  s.onSys (fun y => y.runOrdered (.chainAllreduce k) k (y.planKind k 1) collBody)
def execAllgather (k : CmdKey) (s : State) : Host.Outcome State Fault Refusal :=
  s.onSys (fun y => y.runOrdered (.allgather k) k (y.planKind k 2) collBody)
def execBroadcast (k : CmdKey) (s : State) : Host.Outcome State Fault Refusal :=
  s.onSys (fun y => y.runOrdered (.broadcast k) k (y.planKind k 3) collBody)

end Sys2Proof.Machine
end

