-- ==== Sys2Proof/Machine/Records.lean ====
section
/-!
DEFINITION. Completion and event records as they are written to host memory, and their interrupts (R285, R287, R290, R291, R303, R304).
-/

namespace Sys2Proof.Machine

/-- A completion record: plaintext with PLAIN set and a zero tag (R292), or under the context's key. -/
def sealComp (key : Option (BitVec 256)) (c seq : Nat) (r : CompRec) : Bytes :=
  let head := fun (flag : Byte) => leBytes 8 seq ++ leBytes 2 c ++ [0, flag] ++ List.replicate 4 0
  match (if r.plain then none else key) with
  | none => head 1 ++ compBody r ++ List.replicate 16 0
  | some k =>
    let n := recNonce c 2 0 seq
    let ct := gcmCrypt k n (compBody r)
    head 0 ++ ct ++ tagBytes (Config.gcmTag k n (head 0) ct)

/-- Whether a context may write its next record: there is one, the credit of R303 allows it, and its key has not been
zeroised. -/
def Context.mayWrite (x : Context) : Bool :=
  x.opened && !x.outbox.isEmpty && decide (x.seq0 < x.consumed + x.compEntries) && (x.key.isSome || x.owner.isNone)

/-- Sends a message of a vector, or defers it to the end of the interval in which one was sent (R304). -/
def Sys.interrupt (s : Sys) (c : Nat) : Sys :=
  let x := s.ctx c
  let b := s.msix x.part
  if x.msix = 0xFFFF then s
  else if b.sent.contains x.msix then s.setMsix x.part { b with due := if b.due.contains x.msix then b.due else b.due ++ [x.msix] }
  else (s.setMsix x.part { b with sent := b.sent ++ [x.msix] }).message x.part x.msix

/-- Writes the next record of a context, whatever its credit. A rejection record counts as a completion record (R295, R313). -/
def Sys.putRec (s : Sys) (c : Nat) : Sys :=
  let x := s.ctx c
  match x.outbox with
  | [] => s
  | r :: rest =>
    let s := s.setCtx c { x with outbox := rest, seq0 := x.seq0 + 1,
                                 usage := { x.usage with completed := x.usage.completed + (if r.kind = 1 then 0 else 1) } }
    let s := s.hostWrite (x.compBase + 64 * (x.seq0 % x.compEntries)) (sealComp x.key c x.seq0 r)
    if r.irq ∨ r.kind = 1 then s.interrupt c else s

/-- Writes the next record of a context when it may (R303). -/
def Sys.writeRec (s : Sys) (c : Nat) : Sys := if (s.ctx c).mayWrite && !s.linkHeld then s.putRec c else s

/-- Writes every record of a context before its key is zeroised, past the credit of R303 too: the freeze and the destruction of a partition
have them written (R320, R345; DESIGN CHOICE, log 163). -/
def Sys.flushAll (s : Sys) (c : Nat) : Sys :=
  if (s.ctx c).opened && !s.linkHeld && ((s.ctx c).key.isSome || (s.ctx c).owner.isNone) then foldFn (s.ctx c).outbox.length s (fun s _ => s.putRec c) else s

def execCompletionRecord (ctx : Fin 16384) (s : State) : Host.Outcome State Fault Refusal :=
  s.onSys (fun y => (y.writeRec ctx.val).closeIfDone ctx.val)

/-- The end of the interval of a context's vector, which a context that has closed still names: one message for everything deferred in it
(R304). -/
def Sys.intervalEnd (s : Sys) (c : Nat) : Sys :=
  let x := s.ctx c
  let b := s.msix x.part
  if x.msix = 0xFFFF then s
  else if b.due.contains x.msix then
    (s.setMsix x.part { b with due := b.due.filter (· != x.msix) }).message x.part x.msix
  else s.setMsix x.part { b with sent := b.sent.filter (· != x.msix) }
def execMsixMessage (ctx : Fin 16384) (s : State) : Host.Outcome State Fault Refusal := s.onSys (fun y => y.intervalEnd ctx.val)

end Sys2Proof.Machine
end

