-- ==== Sys2Proof/Machine/Alarm.lean ====
section
/-!
DEFINITION. Security alarms, the freeze of a partition, the zeroising of its keys, and resets of the host link
(R179, R285, R286, R320, R345, R349, R365, R366).
-/

namespace Sys2Proof.Machine

/-! Zeroising (R349) -/

/-- A region's key sets are gone, with its pinned nodes and its root; a rotation stops (R226, R236, R252). -/
def Seize.zeroised (z : Seize) : Seize := { z with keys := none, rot := none, keyed := false, held := [], root := Seize.empty.root }

/-- The region key sets of a partition's hanks are gone. -/
def Sys.zeroRegions (s : Sys) (p : Nat) : Sys :=
  (s.part p).hanks.foldl (fun s h => [0, 1].foldl (fun s t => s.setRegion t h (s.region t h).zeroised) s) s

/-- Every key that the Bowline die and intake hold for a partition. -/
def Sys.zeroKeys (s : Sys) (p : Nat) : Sys :=
  let s := s.setPart p { s.part p with ekPair := none, sessions := [], shares := [], kModel := none }
  (s.ctxsOf p).foldl (fun s c => s.setCtx c { s.ctx c with key := none }) s

/-- The flows of a partition. -/
def Sys.flowsOf (s : Sys) (p : Nat) : List Nat := s.fab.flows.filterMap (fun e => if e.2.part = p ∧ e.2.state ≠ .free then some e.1 else none)

/-- A flow's keys are gone. -/
def Sys.zeroFlow (s : Sys) (f : Nat) : Sys := s.setFlow f { s.flow f with kFwd := none, kRev := none, nLocal := [], nPeer := none, queue := [], unacked := [] }

/-- Ends every command of a partition's contexts: collectives first, with the ABORT cause. -/
def Sys.endAll (s : Sys) (p st cause : Nat) : Sys :=
  let s := s.fab.colls.foldl (fun s x => if x.part = p then (match s.collOf p x.plan.collId with | some x => s.endColl x st cause | none => s) else s) s
  (s.ctxsOf p).foldl (fun s c => s.endCmds c none st cause true) s

/-! Alarms (R365, R366) -/

/-- What an alarm names. -/
structure AlarmArg where
  source : Nat
  tierPort : Nat
  hank : Nat
  level : Nat
  peerPart : Nat
  granFlow : Nat
  peerNode : Nat
  deriving DecidableEq, Repr

/-- The 18 argument bytes of the event. -/
def AlarmArg.bytes (a : AlarmArg) (action : Nat) : Bytes :=
  leBytes 1 a.source ++ leBytes 1 action ++ leBytes 1 a.tierPort ++ leBytes 1 a.hank ++ leBytes 1 a.level ++ [0] ++ leBytes 2 a.peerPart
    ++ leBytes 4 a.granFlow ++ leBytes 4 a.peerNode ++ [0, 0]

/-- Whether the alarm policy freezes for a source. -/
def Partition.freezes (P : Partition) (source : Nat) : Bool :=
  let pol := fieldN P.policy 0xB 1
  if source = 3 then pol.testBit 1 else if source = 4 then true else !pol.testBit 0

/-- Whether a partition stands and is not frozen. -/
def Partition.standing (P : Partition) : Bool := P.state == .keying || P.state == .joining || P.state == .active

/-- A partition's staging set is discarded (R400). -/
def Sys.discardSet (s : Sys) (p : Nat) : Sys :=
  match s.dict.sets.get? p with
  | some z => if z.state = .opened ∨ z.state = .preparing ∨ z.state = .armed then
      { s with dict := { s.dict with sets := s.dict.sets.put p { z with state := .aborted, entries := [], placed := false } } } else s
  | none => s

/-- The freeze, in the order of R365. -/
def Sys.freezePart (s : Sys) (p : Nat) (args : Bytes) : Sys :=
  let s := s.cutSigma p stCUT 0#8 0xFF
  let s := s.endAll p stALARM 3
  let s := s.event p 0x0004 args
  let s := (s.ctxsOf p).foldl (fun s c => s.flushAll c) s
  let s := (s.zeroKeys p).zeroRegions p
  let s := (s.flowsOf p).foldl (fun s f => (s.endFlow f .alarmed stALARM 3).zeroFlow f) s
  (s.setPart p { s.part p with state := .frozen }).discardSet p

/-- Where an alarm's record is made: domain and unit. -/
def AlarmArg.maker (a : AlarmArg) : Nat × Nat :=
  match a.source with
  | 3 => (domLink (a.tierPort / 2), fnHawser (a.tierPort / 2))
  | 4 => (domBowline, fnBowline)
  | _ => (tierDomain a.tierPort a.hank, tierUnit a.tierPort a.hank)

/-- LOCATION of an alarm about memory. -/
def Sys.alarmPlace (s : Sys) (p : Nat) (a : AlarmArg) : Nat :=
  if a.source = 1 ∨ a.source = 2 then (s.part p).location (physKey a.tierPort a.hank (a.granFlow * granuleBytes)) else locNone

/-- Raises an alarm against a partition: counted, recorded, reported, and frozen where the policy says so. A second alarm
against a partition that is frozen already is reported with ACTION 0 (R367). -/
def Sys.alarm (s : Sys) (p : Nat) (a : AlarmArg) : Sys :=
  let P := s.part p
  if P.state = .absent then s else
  let act := if P.standing && P.freezes a.source then 1 else 0
  let args := a.bytes act
  let s := s.bump errAlarms 1
  let s := s.setPart p { s.part p with lastAlarm := args }
  let s := s.logRec { domain := a.maker.1, unit := a.maker.2, part := p, location := s.alarmPlace p a, event := 0x0201,
                      arg0 := a.source + 256 * act + 65536 * a.level, arg1 := a.granFlow, slack := false }
  let s := s.opEvent 0x0004 []
  if act = 1 then s.freezePart p args else s.event p 0x0004 args

/-! Resets of the host link (R285, R286) -/

/-- The session contexts of a partition: its base context and each session's context 0. -/
def Partition.sessionCtxs (P : Partition) : List Nat := (P.base :: P.sessions.map (fun e => e.ctx0)).eraseDups

/-- Restarts a session context: it keeps its number, its mask, its completion settings and its owner, and receives a new key. -/
def Sys.restartCtx (s : Sys) (p c : Nat) : Sys :=
  let x := s.ctx c
  let (s, skipped) := x.area.tail.foldl (fun (a : Sys × Nat) g => let (s, k) := a.1.scrubGranule p 0 g; (s, a.2 + k)) (s, 0)
  let s := if skipped = 0 then s else s.logBowline p locNone 0x0304 skipped 0
  let ses := x.owner.bind (fun o => (s.part p).session o)
  let y : Context := { Context.closed with
    opened := true, part := p, isBase := x.isBase, owner := x.owner, hankMask := x.hankMask, msix := x.msix, compEntries := x.compEntries
    compBase := x.compBase, area := x.area, resident := x.resident, pool := x.pool, lastUse := x.lastUse
    key := ses.map (fun e => sessionCtxKey e.kSess c e.openings) }
  let s : Sys := { s.setCtx c y with saved := s.saved.delRange (80 * c) 80 }
  let s := match ses with
    | some e => s.setPart p ((s.part p).setSession { e with epoch := e.openings, openings := e.openings + 1 })
    | none => s
  (x.batches.flatMap (fun b => b.pins.map (fun n => n.part))).foldl (fun s q => s.releaseVersions q) s

/-- The MSI-X table and the pending bits of a function are as reset leaves them (R284; DESIGN CHOICE, log 162). -/
def Sys.clearBar4 (s : Sys) (fn : Nat) : Sys := { s with bar4 := s.bar4.set Bar4.empty fn Bar4.empty }

/-- A reset of the physical function's own state: its dictionary window, its MSI-X table and the operator events not yet written
(R285, R390; log 162). -/
def Sys.resetPf (s : Sys) : Sys :=
  let s := s.clearBar4 80
  { s with
    opEvents := []
    dict := { s.dict with transfers := s.dict.transfers.filter (fun t => t.path != .window 80), selects := s.dict.selects.filter (fun e => e.path != .window 80)
                          submits := s.dict.submits.set 0 80 0, windows := s.dict.windows.set Window.empty 80 Window.empty } }

/-- What a Function Level Reset does to a partition. -/
def Sys.resetPart (s : Sys) (p : Nat) : Sys :=
  let s := s.clearBar4 p
  let cs := s.ctxsOf p
  if cs.isEmpty then s else
  let keep := (s.part p).sessionCtxs
  let s := (s.cutSigma p stCUT 0#8 0xFF).endAll p stCANCELLED 1
  let s := cs.foldl (fun s c => s.setCtx c { s.ctx c with outbox := [] }) s
  (s.ctxsOf p).foldl (fun s c => if keep.contains c then s.restartCtx p c else s.closeCtx c) s

/-- Function Level Reset of virtual function 0 to 79, or of the physical function, 80, which resets only its own state. -/
def execFunctionLevelReset (fn : Nat) (s : State) : Host.Outcome State Fault Refusal :=
  s.onSys (fun y => if fn < 80 then y.resetPart fn else if fn = 80 then y.resetPf else y)

/-- The PCIe controller and every function are reset (R285). -/
def Sys.resetHost (s : Sys) : Sys := (foldFn 80 s (fun s p => s.resetPart p)).resetPf

def execHotReset (s : State) : Host.Outcome State Fault Refusal := s.onSys (fun y => y.resetHost)

end Sys2Proof.Machine
end

