-- ==== Sys2Proof/Machine/Scalar.lean ====
section
/-!
DEFINITION. The meanings of the scalar instructions (R84 to R86), and of a reserved opcode (R82).
-/

namespace Sys2Proof.Machine

/-- A register instruction: s[SD] := op a b, then PC + 8 (R85). -/
def scalarArch (f : ScalarF) (op : Word64 → Word64 → Word64) (a : BightArch) : BightArch :=
  a.setS f.sd (op (a.s f.sa) (scalarB f a))

/-- A division, which sets DIV_ZERO when the divisor is 0 (R86). -/
def divArch (f : ScalarF) (op : Word64 → Word64 → Word64) (a : BightArch) : BightArch :=
  (scalarArch f op a).orHalyard (stIf (scalarB f a == 0#64) hsDivZero)

/-- High half of the unsigned product. -/
def mulHigh (a b : Word64) : Word64 := BitVec.ofNat 64 (a.toNat * b.toNat / 2 ^ 64)
/-- Quotients and remainders with the results of R86 for a zero divisor. -/
def divU (a b : Word64) : Word64 := if b = 0#64 then BitVec.allOnes 64 else a / b
def remU (a b : Word64) : Word64 := if b = 0#64 then a else a % b
def divS (a b : Word64) : Word64 := if b = 0#64 then BitVec.allOnes 64 else BitVec.ofInt 64 (a.toInt.tdiv b.toInt)
def remS (a b : Word64) : Word64 := if b = 0#64 then a else BitVec.ofInt 64 (a.toInt.tmod b.toInt)
/-- One or zero. -/
def oneIf (c : Bool) : Word64 := if c then 1#64 else 0#64
/-- An FP32 operation on bits [31:0] (R85). -/
def fp2 (op : Word32 → Word32 → Word32) (a b : Word64) : Word64 := fpReg (op (regFp a) (regFp b))

/-- An instruction on registers alone, on its Bight. -/
def State.scalar (s : State) (i : Instr) (f : ScalarF) (op : Word64 → Word64 → Word64) : Host.Outcome State Fault Refusal :=
  s.onSys (fun y => y.coreArch i f.b.val (scalarArch f op))

def execAdd (f : ScalarF) (s : State) : Host.Outcome State Fault Refusal := s.scalar (.add f) f (fun a b => a + b)
def execSub (f : ScalarF) (s : State) : Host.Outcome State Fault Refusal := s.scalar (.sub f) f (fun a b => a - b)
def execMul (f : ScalarF) (s : State) : Host.Outcome State Fault Refusal := s.scalar (.mul f) f (fun a b => a * b)
def execMulhu (f : ScalarF) (s : State) : Host.Outcome State Fault Refusal := s.scalar (.mulhu f) f (mulHigh)
def execDivu (f : ScalarF) (s : State) : Host.Outcome State Fault Refusal :=
  s.onSys (fun y => y.coreArch (.divu f) f.b.val (divArch f divU))
def execRemu (f : ScalarF) (s : State) : Host.Outcome State Fault Refusal :=
  s.onSys (fun y => y.coreArch (.remu f) f.b.val (divArch f remU))
def execDiv (f : ScalarF) (s : State) : Host.Outcome State Fault Refusal :=
  s.onSys (fun y => y.coreArch (.div f) f.b.val (divArch f divS))
def execRem (f : ScalarF) (s : State) : Host.Outcome State Fault Refusal :=
  s.onSys (fun y => y.coreArch (.rem f) f.b.val (divArch f remS))
def execAnd (f : ScalarF) (s : State) : Host.Outcome State Fault Refusal := s.scalar (.and f) f (fun a b => a &&& b)
def execOr (f : ScalarF) (s : State) : Host.Outcome State Fault Refusal := s.scalar (.or f) f (fun a b => a ||| b)
def execXor (f : ScalarF) (s : State) : Host.Outcome State Fault Refusal := s.scalar (.xor f) f (fun a b => a ^^^ b)
def execShl (f : ScalarF) (s : State) : Host.Outcome State Fault Refusal := s.scalar (.shl f) f (fun a b => a <<< (b.toNat % 64))
def execShr (f : ScalarF) (s : State) : Host.Outcome State Fault Refusal := s.scalar (.shr f) f (fun a b => a >>> (b.toNat % 64))
def execSra (f : ScalarF) (s : State) : Host.Outcome State Fault Refusal := s.scalar (.sra f) f (fun a b => a.sshiftRight (b.toNat % 64))
def execMin (f : ScalarF) (s : State) : Host.Outcome State Fault Refusal := s.scalar (.min f) f (fun a b => if b.toInt < a.toInt then b else a)
def execMax (f : ScalarF) (s : State) : Host.Outcome State Fault Refusal := s.scalar (.max f) f (fun a b => if a.toInt < b.toInt then b else a)
def execMinu (f : ScalarF) (s : State) : Host.Outcome State Fault Refusal := s.scalar (.minu f) f (fun a b => if b.toNat < a.toNat then b else a)
def execMaxu (f : ScalarF) (s : State) : Host.Outcome State Fault Refusal := s.scalar (.maxu f) f (fun a b => if a.toNat < b.toNat then b else a)
def execSlt (f : ScalarF) (s : State) : Host.Outcome State Fault Refusal := s.scalar (.slt f) f (fun a b => oneIf (decide (a.toInt < b.toInt)))
def execSltu (f : ScalarF) (s : State) : Host.Outcome State Fault Refusal := s.scalar (.sltu f) f (fun a b => oneIf (decide (a.toNat < b.toNat)))
def execSeq (f : ScalarF) (s : State) : Host.Outcome State Fault Refusal := s.scalar (.seq f) f (fun a b => oneIf (a == b))
/-- IMM in bits [63:32], a[31:0] in bits [31:0]. -/
def execMovhi (f : ScalarF) (s : State) : Host.Outcome State Fault Refusal := s.scalar (.movhi f) f (fun a _ => f.imm ++ a.setWidth 32)
def execFadd (f : ScalarF) (s : State) : Host.Outcome State Fault Refusal := s.scalar (.fadd f) f (fp2 fpAdd)
def execFsub (f : ScalarF) (s : State) : Host.Outcome State Fault Refusal := s.scalar (.fsub f) f (fp2 fpSub)
def execFmul (f : ScalarF) (s : State) : Host.Outcome State Fault Refusal := s.scalar (.fmul f) f (fp2 fpMul)
def execFdiv (f : ScalarF) (s : State) : Host.Outcome State Fault Refusal := s.scalar (.fdiv f) f (fp2 fpDiv)
def execFmin (f : ScalarF) (s : State) : Host.Outcome State Fault Refusal := s.scalar (.fmin f) f (fp2 fpMin)
def execFmax (f : ScalarF) (s : State) : Host.Outcome State Fault Refusal := s.scalar (.fmax f) f (fp2 fpMax)
def execFlt (f : ScalarF) (s : State) : Host.Outcome State Fault Refusal := s.scalar (.flt f) f (fun a b => oneIf (fpLt (regFp a) (regFp b)))
def execFcvti (f : ScalarF) (s : State) : Host.Outcome State Fault Refusal := s.scalar (.fcvti f) f (fun a _ => ((fpToInt (regFp a)).1).signExtend 64)
def execIcvtf (f : ScalarF) (s : State) : Host.Outcome State Fault Refusal := s.scalar (.icvtf f) f (fun a _ => fpReg (intToFp (a.setWidth 32)))

/-- LD waits for older instructions that write its 8 bytes (R91). A poisoned byte makes the result 0 and is consumed (R432). -/
def execLd (f : ScalarF) (s : State) : Host.Outcome State Fault Refusal :=
  s.onSys (fun y =>
    let b := f.b.val
    let range := fun (y : Sys) => [(ldAddr f (y.bight b).arch, 8)]
    y.coreOp (.ld f) b (fun y => y.hazard b y.ordNow (y.bight b).nextSeq { Foot.none with rd := range y })
      (fun q y =>
        let a := (y.bight b).arch
        let m := a.locker.worst (ldAddr f a) 8
        let v := if m.isBad then 0#64 else BitVec.ofNat 64 (leNat (a.locker.read (ldAddr f a) 8))
        (y.onArch b q (fun a => (a.setS f.sd v).step8)).saw b m))

/-- ST waits for older instructions that touch its 8 bytes, and for room in the slack buffer (R91, R107, R186). -/
def execSt (f : ScalarF) (s : State) : Host.Outcome State Fault Refusal :=
  s.onSys (fun y =>
    let b := f.b.val
    let foot := fun (y : Sys) => { Foot.none with wr := [(ldAddr f (y.bight b).arch, 8)] }
    y.coreOp (.st f) b
      (fun y => y.hazard b y.ordNow (y.bight b).nextSeq (foot y) || !y.slackFits b (y.saveBytes b (y.bight b).nextSeq .halyard (foot y)))
      (fun q y => (y.noteSaves b q .halyard (foot y)).onArch b q
        (fun a => { a with locker := a.locker.put (ldAddr f a) (leBytes 8 (a.s f.sb).toNat) }.step8)))

/-! Reserved opcodes (R82) -/

/-- The hitches that a word of a queue class names (R60, R94, R112). -/
def wordWait (w : Word64) : Option (BitVec 5) := optHitch (wordWaitEn w) (wordWaitH w)
def wordSet (w : Word64) : Option (BitVec 5) := optHitch (wordSetEn w) (wordSetH w)

/-- A queue instruction without effect: its unit sets BAD_ENCODING, and it still sets SET_H. -/
def reservedQ (eng : Engine) (w : Word64) (bad : BightArch → BightArch) : QOp :=
  { eng := eng, wait := wordWait w, set := wordSet w, regs := fun _ => [], desc := none, push := fun _ => false
    foot := fun _ _ _ => Foot.none, ready := fun _ _ _ => true, items := fun _ _ _ => 0
    effect := fun s b cap => (s.onArch b cap.seq bad, none), finish := fun s _ _ => some s }

/-- A word whose class, opcode or condition is reserved: the unit that receives it sets BAD_ENCODING. -/
def execReservedOpcode (b : Fin 80) (w : Word64) (s : State) : Host.Outcome State Fault Refusal :=
  s.onSys (fun y =>
    let i := Instr.reservedOpcode b w
    match wordClass w with
    | 2 => y.queueOp i b.val (reservedQ .matrix w (fun a => a.orLay lsBadEncoding))
    | 3 => y.queueOp i b.val (reservedQ .vector w (fun a => a.orServe ssBadEncoding))
    | 4 => y.queueOp i b.val (reservedQ .mover w (fun a => a.orFairlead fsBadEncoding))
    | _ => y.coreArch i b.val (fun a => a.orHalyard hsBadEncoding))

/-! The program of a RUN (R80, R81, R113) -/

/-- The word that PC names in the program of the Bight's RUN; none outside a program. -/
def Sys.wordAtPc (s : Sys) (b : Nat) : Option Word64 :=
  let x := s.bight b
  match x.run with
  | some r => if x.pcOutside then none
      else some (BitVec.ofNat 64 (leNat (s.fetched b r).data))
  | none => none

/-- KIND of the descriptor that a mover word names (R112, R272). -/
def BightArch.descKind (a : BightArch) (w : Word64) : Nat := (a.locker.byte (lockerAddr (a.s (moverFields 0 w).descReg).toNat + 4)).toNat

/-- Whether an older instruction still writes the descriptor that a mover word names (R91). -/
def Sys.descPending (s : Sys) (b : Nat) (w : Word64) : Bool :=
  let x := s.bight b
  wordClass w == 4 && s.hazard b s.ordNow x.nextSeq (descFoot x.arch (some ((moverFields 0 w).descReg, 64)))

/-- Whether the fetch of the next word waits for its memory (R217). -/
def Sys.fetchWaits (s : Sys) (b : Nat) : Bool :=
  let x := s.bight b
  match x.run with
  | some r => !x.pcOutside && s.memWaits r.home (r.prog + x.arch.pc.toNat) 8
  | none => false

/-- The command that stands next in the Bight's program; none while an instruction waits to be executed or dispatched, or the descriptor
it names to be written. Where PC names no word, or a poisoned one, the command only carries the fault that `front` takes (R81, R432). -/
def Sys.nextInstr (s : Sys) (b : Fin 80) : Option Instr :=
  let x := s.bight b.val
  let w := (s.wordAtPc b.val).getD 0#64
  if !s.runs b.val || x.stopped || s.fetchWaits b.val || s.waiting.any (fun h => h.bight == some b.val && h.cap.isNone) || s.descPending b.val w then none
  else some (decodeWord b (x.arch.descKind w) w)

end Sys2Proof.Machine
end

