-- ==== Sys2Proof/Machine/Control.lean ====
section
/-!
DEFINITION. The meanings of the control instructions and of the resolution of a Bight's slack region (R87 to R92,
R102 to R111).
-/

namespace Sys2Proof.Machine

/-- A target counted in instructions from the instruction itself (R88). -/
def target (a : BightArch) (imm : BitVec 32) : Word64 := a.pc + 8#64 * immExt imm

/-- The hitch that IMM[4:0] names. -/
def immHitch (f : ControlF) : BitVec 5 := f.imm.setWidth 5

def execNop (f : ControlF) (s : State) : Host.Outcome State Fault Refusal :=
  s.onSys (fun y => y.coreArch (.nop f) f.b.val (fun a => a))

/-- BR: a reserved COND gives no branch and sets BAD_ENCODING (R89). -/
def brArch (f : ControlF) (a : BightArch) : BightArch :=
  match condHolds f.cond (a.s f.ra) (a.s f.rb) f.mask with
  | some true => { a with pc := target a f.imm }
  | some false => a.step8
  | none => (a.orHalyard hsBadEncoding).step8

def execBr (f : ControlF) (s : State) : Host.Outcome State Fault Refusal :=
  s.onSys (fun y => y.coreOp (.br f) f.b.val (fun _ => false) (fun q y => y.onArch f.b.val q (brArch f)))

def execJal (f : ControlF) (s : State) : Host.Outcome State Fault Refusal :=
  s.onSys (fun y => y.coreOp (.jal f) f.b.val (fun _ => false) (fun q y => y.onArch f.b.val q
    (fun a => { a.setS f.ra (a.pc + 8#64) with pc := target a f.imm })))

def execJr (f : ControlF) (s : State) : Host.Outcome State Fault Refusal :=
  s.onSys (fun y => y.coreOp (.jr f) f.b.val (fun _ => false) (fun q y => y.onArch f.b.val q
    (fun a => { a with pc := a.s f.ra &&& ~~~ 7#64 })))

/-- The oldest reserved entry that is not bound (R105). -/
def BightArch.oldest (a : BightArch) : Option SumEntry := a.fifo.find? (fun e => !e.bound)

/-- SUM.POP of a filled entry, or of none: value 0, flag NONE and SUM_UNDERFLOW. With RA = RB the flag byte stays (DESIGN CHOICE, log 137). -/
def popArch (f : ControlF) (a : BightArch) : BightArch :=
  match a.oldest with
  | some e => (((a.dropEntry e.id).setS f.ra e.value).setS f.rb (e.flags.setWidth 64)).step8
  | none => (((a.orHalyard hsSumUnderflow).setS f.ra 0#64).setS f.rb (flagNone.setWidth 64)).step8

/-- SUM.POP waits until the oldest unbound entry is filled (R105). -/
def execSumPop (f : ControlF) (s : State) : Host.Outcome State Fault Refusal :=
  s.onSys (fun y => y.coreOp (.sumPop f) f.b.val
    (fun y => ((y.bight f.b.val).arch.oldest).any (fun e => !e.filled))
    (fun q y => y.onArch f.b.val q (popArch f)))

/-- The status word that COND[1:0] names (R104). -/
def statWord (n : Nat) (a : BightArch) : Word16 :=
  match n with | 0 => a.halyard | 1 => a.serve | 2 => a.lay | _ => a.fairlead
/-- Clears the bits of MASK in that word. -/
def statClear (n : Nat) (m : Byte) (a : BightArch) : BightArch :=
  let k : Word16 := ~~~ (m.setWidth 16)
  match n with
  | 0 => { a with halyard := a.halyard &&& k }
  | 1 => { a with serve := a.serve &&& k }
  | 2 => { a with lay := a.lay &&& k }
  | _ => { a with fairlead := a.fairlead &&& k }
/-- The record of a status word; HALYARD_STATUS has no flags. -/
def statFlags (n : Nat) (w : Word16) : Byte := if n = 0 then 0#8 else (w &&& 0xF#16).setWidth 8

/-- Fills the entry and clears the bits in one step. -/
def statArch (n : Nat) (m : Byte) (id : Option Nat) (a : BightArch) : BightArch :=
  statClear n m (a.fillOpt id ((statWord n a).setWidth 64) (statFlags n (statWord n a)))

/-- The queue of the unit that STAT reads. -/
def statEng (n : Nat) : Engine := match n with | 1 => .vector | 2 => .matrix | 3 => .mover | _ => .halyard

/-- STAT in a unit's queue: it waits until every earlier instruction of the unit has completed, drains included. -/
def statQ (f : ControlF) (n : Nat) : QOp :=
  { eng := statEng n, wait := none, set := none, regs := fun _ => [], desc := none, push := fun _ => true
    foot := fun _ _ _ => Foot.none
    ready := fun s b cap => !((s.waiting.any (fun h => h.bight == some b && h.eng == statEng n && h.cap.any (fun c => decide (c.seq < cap.seq)))) ||
      (n == 2 && (s.bight b).drains.any (fun d => decide (d.seq < cap.seq))) ||
      (s.bight b).arch.hitchSets.any (fun w => w.seq.any (fun q => q.2 == statEng n && decide (q.1 < cap.seq))))
    items := fun _ _ _ => 0
    effect := fun s b cap => (s.onArch b cap.seq (statArch n f.mask cap.entry), none), finish := fun s _ _ => some s }

/-- STAT (R104): of the Halyard core it executes at once, with a full FIFO it stalls. -/
def execStat (f : ControlF) (s : State) : Host.Outcome State Fault Refusal :=
  s.onSys (fun y =>
    let n := f.cond.toNat % 4
    if n = 0 then
      y.coreOp (.stat f) f.b.val (fun y => decide (32 ≤ (y.bight f.b.val).arch.fifo.length))
        (fun q y => y.onArch f.b.val q (fun a => (statArch 0 f.mask (some a.fifoNext) a.reserve).step8))
    else y.queueOp (.stat f) f.b.val (statQ f n))

/-- HITCH.WAIT waits until the hitch is 1 and no older dispatched instruction waits on it, and consumes it (R92). -/
def execHitchWait (f : ControlF) (s : State) : Host.Outcome State Fault Refusal :=
  s.onSys (fun y => y.coreOp (.hitchWait f) f.b.val
    (fun y => !y.hitchFree f.b.val y.ordNow (some (immHitch f)))
    (fun q y => y.onArch f.b.val q (fun a => (a.dropHitch (immHitch f)).step8)))

/-- HITCH.SET completes only once the hitch is 0 (R92). -/
def execHitchSet (f : ControlF) (s : State) : Host.Outcome State Fault Refusal :=
  s.onSys (fun y => y.coreOp (.hitchSet f) f.b.val
    (fun y => (y.bight f.b.val).arch.hitch (immHitch f))
    (fun q y => y.onArch f.b.val q (fun a => (a.putHitch (immHitch f) true).step8)))

/-- HITCH.CLEAR makes the hitch 0; a set that waits for it then proceeds. -/
def execHitchClear (f : ControlF) (s : State) : Host.Outcome State Fault Refusal :=
  s.onSys (fun y => y.coreArch (.hitchClear f) f.b.val (fun a => a.dropHitch (immHitch f)))

/-- The region that SLACK.OPEN opens at program-order number `q` (R106, R107). -/
def openedRegion (f : ControlF) (q : Nat) (a : BightArch) (e : SumEntry) : Region :=
  { bound := e.id, cond := f.cond, mask := f.mask, expect := (f.imm >>> 24).setWidth 8, ra := a.s f.ra, rb := f.rb
    resume := a.pc + 8#64 * (f.imm.setWidth 24).signExtend 64
    snap := { a with fifo := a.fifo.map (fun x => if x.id == e.id then { x with bound := true } else x) }
    savedV := [], savedS := [], savedG := [], items := [], first := q + 1 }

/-- SLACK.OPEN waits while a region is open and, in a RUN of an open step region, once entry 0 is bound (R106, R180); without an entry to bind it sets SLACK_UNBOUND; a reserved COND sets
BAD_ENCODING (R82, R106). A region bound to an entry that is already filled resolves at once (R108, R190). -/
def execSlackOpen (f : ControlF) (s : State) : Host.Outcome State Fault Refusal :=
  s.onSys (fun y => y.coreOp (.slackOpen f) f.b.val
    (fun y => (y.bight f.b.val).region.isSome ||
      ((y.sigmaOf f.b.val).isSome && !(y.bight f.b.val).arch.fifo.any (fun e => e.id == 0 && !e.bound)))
    (fun q y =>
      let x := y.bight f.b.val
      if 7 ≤ f.cond.toNat then y.onArch f.b.val q (fun a => (a.orHalyard hsBadEncoding).step8)
      else match x.arch.oldest with
        | none => y.onArch f.b.val q (fun a => (a.orHalyard hsSlackUnbound).step8)
        | some e =>
          let g := openedRegion f q x.arch e
          (y.setBight f.b.val { x with arch := ({ x.arch with fifo := g.snap.fifo }).step8, region := some g }).resolveRegion f.b.val))

/-- HAUL waits until the open region resolves (R109). -/
def execHaul (f : ControlF) (s : State) : Host.Outcome State Fault Refusal :=
  s.onSys (fun y => y.coreOp (.haul f) f.b.val (fun y => (y.bight f.b.val).region.isSome)
    (fun q y => y.onArch f.b.val q BightArch.step8))

/-- CUT cuts the open region at once; with none open it has no effect (R110, R111). -/
def execCut (f : ControlF) (s : State) : Host.Outcome State Fault Refusal :=
  s.onSys (fun y => y.coreOp (.cut f) f.b.val (fun _ => false)
    (fun q y => if (y.bight f.b.val).region.isSome then y.cutRegion f.b.val 0#64 else y.onArch f.b.val q BightArch.step8))

/-- QWAIT: COND [0] matrix, [1] vector, [2] mover. -/
def execQwait (f : ControlF) (s : State) : Host.Outcome State Fault Refusal :=
  s.onSys (fun y => y.coreOp (.qwait f) f.b.val
    (fun y => (f.cond.getLsbD 0 && y.queueBusy f.b.val y.ordNow .matrix) || (f.cond.getLsbD 1 && y.queueBusy f.b.val y.ordNow .vector) ||
      (f.cond.getLsbD 2 && y.queueBusy f.b.val y.ordNow .mover))
    (fun q y => y.onArch f.b.val q BightArch.step8))

def execHalt (f : ControlF) (s : State) : Host.Outcome State Fault Refusal :=
  s.onSys (fun y => y.front (.halt f) f.b.val .halyard (fun y => y.haltBight (.halt f) f.b.val))

/-- The bound entry is filled and the test holds: the region is hauled (R108). -/
def execSlackRegionHaul (b : Fin 80) (s : State) : Host.Outcome State Fault Refusal :=
  s.onSys (fun y => match (y.bight b.val).boundEntry with
    | some (g, e) => if g.holds e then y.haulRegion b.val (e.flags.setWidth 64) else y
    | none => y)

/-- The bound entry is filled and the test fails: the region is cut (R108, R111). -/
def execSlackRegionCut (b : Fin 80) (s : State) : Host.Outcome State Fault Refusal :=
  s.onSys (fun y => match (y.bight b.val).boundEntry with
    | some (g, e) => if g.holds e then y else y.cutRegion b.val (e.flags.setWidth 64)
    | none => y)

end Sys2Proof.Machine
end

