-- ==== Sys2Proof/Machine/FabricRx.lean ====
section
/-!
DEFINITION. The receiving side of the Hawser fabric, its timers and its link states (R255, R256, R258 to R271, R279 to R282, R312, R463).
-/

namespace Sys2Proof.Machine

/-! Port counters (R405) -/

def Sys.portCount (s : Sys) (q sub n : Nat) : Sys := s.bump (errKey (0x7110 + q) sub) n
/-- A frame is discarded and counted. -/
def Sys.discard (s : Sys) (q : Nat) : Sys := s.portCount q 3 1
/-- A frame of a flow is discarded and counted on the flow and the port. -/
def Sys.dropFrame (s : Sys) (f : Nat) : Sys := let x := s.flow f; (s.setFlow f { x with dropped := x.dropped + 1 }).discard x.port

/-! Decapsulation (R258, R259) -/

/-- A transport frame, and whether it arrived marked CE. -/
structure Arrived where
  t : Bytes
  ce : Bool
  deriving DecidableEq, Repr

/-- Network-order number. -/
def beField (d : Bytes) (o n : Nat) : Nat := leNat (sliceB d o n).reverse

/-- The transport frame that an Ethernet frame carries; none when a field or a checksum is wrong. -/
def Sys.decap (s : Sys) (q : Nat) (d : Bytes) : Option Arrived :=
  let ix := 0x1110 + q
  let e := if beField d 12 2 = 0x8100 then 16 else 12
  let ip := e + 2
  let u := ip + 40
  let ulen := beField d (u + 4) 2
  let body := d.take (d.length - 4)
  let src := sliceB d (ip + 8) 16
  let dst := sliceB d (ip + 24) 16
  if d.length < u + 8 + 4 ∨ ulen < 8 ∨ d.length < u + ulen + 4 then none
  else if sliceB d 0 6 ≠ leBytes 6 (s.dv ix 4) ∨ beField d e 2 ≠ 0x86DD ∨ fieldN d (ip + 6) 1 ≠ 17 ∨ dst ≠ leBytes 16 (s.dv ix 5)
      ∨ beField d (u + 2) 2 ≠ s.dv ix 9 then none
  else if fieldN d (d.length - 4) 4 ≠ (crc32 body).toNat then none
  else if beField d (u + 6) 2 ≠ udpSum src dst (sliceB d u 6 ++ [0, 0] ++ sliceB d (u + 8) (ulen - 8)) then none
  else some { t := sliceB d (u + 8) (ulen - 8), ce := beField d ip 2 / 16 % 4 == 3 }

/-- What a port passes on: nothing unless it is UP, nothing of a frame with an uncorrectable codeword, and no frame whose
VERSION is not 1. -/
def Sys.arrive (s : Sys) (f : FrameF) : Sys × Option Arrived :=
  let q := f.q.val
  if (s.port q).link ≠ .up then (s, none) else
  let s := (s.portCount q 1 f.fixed).bump errCorrected f.fixed
  if f.fec then ((s.portCount q 2 1).discard q, none)
  else match (if s.portSwitched q then s.decap q f.data else some ⟨f.data, false⟩) with
    | none => (s.discard q, none)
    | some a => if a.t.length < 32 ∨ fieldN a.t 0 1 / 16 ≠ 1 then (s.discard q, none) else (s, some a)

/-- The type of a transport frame. -/
def typeOf (t : Bytes) : Nat := fieldN t 0 1 % 16
/-- Its flow at this module. -/
def dstFlow (t : Bytes) : Nat := fieldN t 4 4 % 2 ^ 21
/-- Its LENGTH, and whether it agrees with the frame. -/
def lengthOf (t : Bytes) : Nat := fieldN t 2 2
def lengthOk (t : Bytes) : Bool := t.length == 32 + lengthOf t + 16

/-- A transport header with the RETX flag taken as 0: the additional data of R262. -/
def authHead (t : Bytes) : Bytes := t.take 1 ++ [(t.getD 1 0) &&& 0xFB] ++ (t.drop 2).take 30

/-- The plaintext of a frame under a key and nonce, when its tag verifies. -/
def openFrame (k : BitVec 256) (n t : Bytes) : Option Bytes :=
  let ct := (t.drop 32).take (lengthOf t)
  if tagBytes (Config.gcmTag k n (authHead t) ct) = t.drop (32 + lengthOf t) then some (gcmCrypt k n ct) else none

/-- The frame that a verified sequenced frame carries. -/
def frameOf (t payload : Bytes) : Frame :=
  { kind := typeOf t, first := (fieldN t 1 1).testBit 0, last := (fieldN t 1 1).testBit 1, coll := (fieldN t 1 1).testBit 3, seq := fieldN t 8 8
    collId := fieldN t 0x10 4, msg := fieldN t 0x14 4, offset := fieldN t 0x18 4, poison := fieldN t 0x1C 4, payload := payload }

/-! Delivery of frames in SEQ order (R270, R274, R279, R281, R312, R463) -/

/-- Whether the firmware consumes the messages of a receive flow as fence messages. -/
def Sys.fenceFlow (s : Sys) (f : Nat) : Bool :=
  let p := (s.flow f).part
  (s.part p).fences.any (fun e => e.2.grants.any (fun g => g.recvFlow == f) || e.2.importers.any (fun g => g.recvFlow == f) ||
    e.2.source.any (fun i => i.recvFlow == f && i.remote)) ||
  (s.ctxsOf p).any (fun c => (s.ctx c).cmds.any (fun k => k.opcode == 0x44 && k.begunB && k.field 0x14 4 == f))

/-- Bytes of a message land in its slot. -/
def Sys.slotWrite (s : Sys) (x : Flow) (o : Nat) (b : Blob) : Sys :=
  let a := x.winBase + x.msg % max x.slots 1 * x.slotBytes + o
  if x.target = 0 then s.deliver x.ctx x.destBight (putLocker a b) else s.writePart x.part a b

/-- A message has been delivered: the hitch is set. -/
def Sys.slotHitch (s : Sys) (x : Flow) : Sys :=
  s.deliver x.ctx x.destBight (fun a => a.setHitch (BitVec.ofNat 5 x.destHitch) none)

/-- A frame of a message for a locker or memory target. -/
def Sys.msgFrame (s : Sys) (f : Nat) (fr : Frame) : Sys :=
  let fence := s.fenceFlow f
  let x := s.flow f
  let across := x.oversize || decide (x.slotBytes < fr.offset + fr.payload.length)
  let x := { x with building := x.building + 1, oversize := across }
  let s := s.setFlow f x
  let s := if across || fence then s else s.slotWrite x fr.offset (.chunks fr.payload (mapMarks fr.payload.length fr.poison))
  if !fr.last then s else
  let s := if across then
      (let all := Blob.marked (List.replicate x.slotBytes 0) .poisoned
       ((if fence then s else s.slotWrite x 0 all).setFlow f { x with dropped := x.dropped + x.building }).logHawser (flowDie f) x.part 0x0404 f x.msg false)
    else s
  let s := s.setFlow f { s.flow f with msg := (x.msg + 1) % 2 ^ 32, building := 0, oversize := false }
  if fence then (if across then s else s.fenceMessage { flow := f, body := fr.payload }).releaseMsgs f 1 else s.slotHitch x

/-- The part of a frame in the outcome of its collective, when the collective has completed and this is the next frame that the receive flow
still had to bring of a result which the member ignored (R276; DESIGN CHOICE, log 155). -/
def Outcome.takeLate (o : Outcome) (f : Nat) (fr : Frame) : Option Outcome :=
  if fr.msg / 2 ^ 30 = 1 ∧ o.late.any (fun e => e.1 == f && e.2.1 == fr.offset) then
    some { o with late := (o.late.map (fun e => if e.1 = f then (f, e.2.1 + fr.payload.length, e.2.2) else e)).filter (fun e => decide (e.2.1 < e.2.2)) }
  else none

/-- A frame of a collective: combined, ignored, or held until its COLL begins (R274, R276). -/
def Sys.collFrame (s : Sys) (f : Nat) (fr : Frame) : Sys :=
  let x := s.flow f
  match s.collOf x.part fr.collId with
  | some c =>
    if c.started then
      let s := (s.collTake c f fr).collConsumed f fr.payload.length
      (match s.collOf x.part fr.collId with | some c => s.collCheck c | none => s)
    else s.setFlow f { x with staged := x.staged ++ [fr] }
  | none =>
    match ((s.part x.part).outcome fr.collId).bind (fun o => o.takeLate f fr) with
    | some o => (s.keepOutcome x.part o).collConsumed f fr.payload.length
    | none => s.setFlow f { x with staged := x.staged ++ [fr] }

/-- A SLOW frame. One for a COLL_ID not yet begun is held until its COLL begins (R274, R279); one for a completed COLL_ID goes no further
(DESIGN CHOICE, log 182). -/
def Sys.slowFrame (s : Sys) (f : Nat) (fr : Frame) : Sys :=
  let x := s.flow f
  let id := fieldN fr.payload 8 4
  if (s.collOf x.part id).isSome || ((s.part x.part).outcome id).isSome then s.slowTaken f fr
  else s.setFlow f { x with staged := x.staged ++ [{ fr with collId := id }] }

/-- An ABORT frame: the collective ends; one for a COLL_ID not yet begun is held, one for a completed COLL_ID is discarded
(R274, R281, R282). -/
def Sys.abortFrameIn (s : Sys) (f : Nat) (fr : Frame) : Sys :=
  let x := s.flow f
  let id := fieldN fr.payload 0 4
  match s.collOf x.part id with
  | some c => if c.started then s.endColl c stPEER_LOST (fieldN fr.payload 4 4) else s.setFlow f { x with staged := x.staged ++ [{ fr with collId := id }] }
  | none => if ((s.part x.part).outcome id).isSome then s else s.setFlow f { x with staged := x.staged ++ [{ fr with collId := id }] }

/-- Whether a DATA frame's COLL flag fits the target. -/
def Flow.fits (x : Flow) (fr : Frame) : Bool := (x.target == 2) == fr.coll

/-- The frame at EXPECT. -/
def Sys.takeFrame (s : Sys) (f : Nat) (fr : Frame) : Sys :=
  let x := s.flow f
  let s := s.setFlow f { x with seq := x.seq + 1 }
  if fr.kind = 0 ∧ !x.fits fr then s.dropFrame f else
  let s := s.useFabric (if fr.coll then ((s.collOf x.part fr.collId).map (fun c => c.ctx)).getD x.ctx else x.ctx) 0 fr.payload.length
  match fr.kind with
  | 0 => if fr.coll then s.collFrame f fr else s.msgFrame f fr
  | 1 => s.slowFrame f fr
  | _ => s.abortFrameIn f fr

/-- Takes frames from those accepted early while they are next. -/
def Sys.takeEarly (s : Sys) (fuel f : Nat) : Sys :=
  match fuel with
  | 0 => s
  | fuel + 1 =>
    let x := s.flow f
    if x.state ≠ .open then s else
    match x.early.find? (fun fr => fr.seq == x.seq) with
    | none => s
    | some fr => Sys.takeEarly ((s.setFlow f { x with early := x.early.filter (fun e => e.seq != fr.seq) }).takeFrame f fr) fuel f

/-! Sequenced frames (R269, R280) -/

/-- A second failed check of one SEQ: the flow is ALARMED, and both of its partitions are alarmed where they stand here. -/
def Sys.linkAlarm (s : Sys) (f : Nat) : Sys :=
  let x := s.flow f
  let s := s.endFlow f .alarmed stALARM 3
  let a : AlarmArg := { source := 3, tierPort := x.port, hank := 0xFF, level := 0, peerPart := x.peerPart, granFlow := f, peerNode := x.peerNode }
  let s := s.alarm x.part a
  if x.peerNode = s.node ∧ x.peerPart < 80 then s.alarm x.peerPart { a with peerPart := x.part, granFlow := x.peerFlow, peerNode := s.node } else s

/-- A sequenced frame at a receive context. -/
def Sys.seqFrame (s : Sys) (f : Nat) (a : Arrived) : Sys :=
  let x := s.flow f
  let n := fieldN a.t 8 8
  let x := { x with ce := x.ce || a.ce }
  let s := s.setFlow f x
  if n < x.seq ∨ x.early.any (fun fr => fr.seq == n) then (s.dropFrame f).sendAck f
  else if x.seq + 256 ≤ n then s.dropFrame f
  else match (if lengthOk a.t then openFrame (x.kFwd.getD 0#256) (frameNonce n false) a.t else none) with
    | none =>
      let s := s.setFlow f { x with tagFails := x.tagFails + 1, failed := x.failed ++ [n] }
      let s := (s.dropFrame f).portCount x.port 4 1
      if x.failed.contains n then s.linkAlarm f else s
    | some b =>
      let fr := frameOf a.t b
      let x := { x with failed := x.failed.filter (· != n), sinceAck := x.sinceAck + 1 }
      if n = x.seq then
        let s := (s.setFlow f x).takeFrame f fr
        let s := s.takeEarly 256 f
        if (s.flow f).state = .open ∧ 8 ≤ (s.flow f).sinceAck then s.sendAck f else s
      else (s.setFlow f { x with early := x.early ++ [fr] }).sendAck f

/-- The context of this port that a frame names, when it is one that the row serves. -/
def Sys.onFlow (s : Sys) (q : Nat) (t : Bytes) (ok : Flow → Bool) : Option Nat :=
  let f := dstFlow t
  let x := s.flow f
  if f < flowCount ∧ x.port = q ∧ ok x then some f else none

/-- The transport frame within what arrives, its fields unchecked (R258, R259). -/
def Sys.carried (s : Sys) (q : Nat) (d : Bytes) : Bytes :=
  if s.portSwitched q then d.drop (if beField d 12 2 = 0x8100 then 66 else 62) else d

/-- A frame with an uncorrectable codeword counts on the flow that it names (R264; DEDUCED, log 159). -/
def Sys.fecDrop (s : Sys) (r : FrameF) (ok : Flow → Bool) : Sys :=
  if r.fec ∧ (s.port r.q.val).link = .up then
    (match s.onFlow r.q.val (s.carried r.q.val r.data) ok with
     | some f => s.setFlow f { s.flow f with dropped := (s.flow f).dropped + 1 }
     | none => s)
  else s

/-- The contexts that sequenced frames, ACK frames and OPEN frames are for. -/
def Flow.takesSeq (x : Flow) : Bool := x.role == 1 && x.state == .open
def Flow.takesAck (x : Flow) : Bool := x.role == 0 && (x.state == .open || x.state == .closing)
def Flow.takesOpen (x : Flow) : Bool := x.state == .opening || x.state == .open

/-- A sequenced frame of one type. -/
def Sys.rxSeq (s : Sys) (r : FrameF) (kind : Nat) : Sys :=
  let q := r.q.val
  match (s.fecDrop r Flow.takesSeq).arrive r with
  | (s, none) => s
  | (s, some a) =>
    if typeOf a.t ≠ kind then s.discard q
    else match s.onFlow q a.t Flow.takesSeq with
      | some f => (s.seqFrame f a).collChecks
      | none => s.discard q

def execDataFrame (f : FrameF) (s : State) : Host.Outcome State Fault Refusal := s.onSys (fun y => y.rxSeq f 0)
def execSlowFrame (f : FrameF) (s : State) : Host.Outcome State Fault Refusal := s.onSys (fun y => y.rxSeq f 1)
def execAbortFrame (f : FrameF) (s : State) : Host.Outcome State Fault Refusal := s.onSys (fun y => y.rxSeq f 2)

/-! ACK frames (R268, R269, R271) -/

/-- Sends an unacknowledged frame again. -/
def Sys.resend (s : Sys) (f : Nat) (fr : Frame) : Sys :=
  let x := s.flow f
  (s.setFlow f { x with retx := x.retx + 1 }).sendFrame f fr true

/-- A verified ACK. -/
def Sys.ackIn (s : Sys) (f n cum : Nat) (ce : Bool) (body : Bytes) : Sys :=
  let x := s.flow f
  let moved := decide (x.acked < cum) && decide (cum ≤ x.seq)
  let sack := fieldN body 0 32
  let cut := ce && s.portSwitched x.port && !x.ceCut
  let x := { x with
    lastAck := some n, acked := if moved then cum else x.acked, credit := fieldN body 32 8
    unacked := x.unacked.filter (fun fr => decide ((if moved then cum else x.acked) ≤ fr.seq))
    ceMet := x.ceMet || ce, ceCut := x.ceCut || cut, rate := if cut then max 16 (x.rate - x.rate / 8) else x.rate }
  let s := s.setFlow f x
  let s := if moved then s.setPort x.port { s.port x.port with fails := 0 } else s
  let bit := fun (q : Nat) => cum + 1 ≤ q && decide (q < cum + 257) && sack.testBit (q - cum - 1)
  let hi := foldFn 256 0 (fun h i => if sack.testBit i then cum + 1 + i else h)
  let s := (x.unacked.filter (fun fr => decide (fr.seq < hi) && !bit fr.seq)).foldl (fun s fr => s.resend f fr) s
  (s.tx f).collChecks

def Sys.rxAck (s : Sys) (r : FrameF) : Sys :=
  let q := r.q.val
  match (s.fecDrop r Flow.takesAck).arrive r with
  | (s, none) => s
  | (s, some a) =>
    if typeOf a.t ≠ 3 then s.discard q
    else match s.onFlow q a.t Flow.takesAck with
      | none => s.discard q
      | some f =>
        let x := s.flow f
        let n := fieldN a.t 8 8
        match (if lengthOk a.t ∧ lengthOf a.t = 48 then openFrame (x.kRev.getD 0#256) (frameNonce n true) a.t else none) with
        | none => ((s.setFlow f { x with tagFails := x.tagFails + 1 }).dropFrame f).portCount q 4 1
        | some b => if x.lastAck.any (fun l => decide (n ≤ l)) then s.dropFrame f
          else s.ackIn f n (fieldN a.t 0x10 8) ((fieldN a.t 1 1).testBit 4) b
def execAckFrame (f : FrameF) (s : State) : Host.Outcome State Fault Refusal := s.onSys (fun y => y.rxAck f)

/-! OPEN frames (R265, R266, R282) -/

/-- An accepted OPEN frame: its payload from SRC_FLOW on. -/
def Sys.openIn (s : Sys) (f : Nat) (b : Bytes) : Sys :=
  let x := s.flow f
  let echo := sliceB b 28 16 == x.nLocal
  let s := s.setFlow f { x with
    nPeer := some (sliceB b 12 16), credit := if x.state = .opening ∧ x.role = 0 then fieldN b 44 8 else x.credit }
  if !echo then s.sendOpen f true
  else if x.state = .opening then
    let s := s.setFlow f { s.flow f with kFwd := some (s.flowKey f false), kRev := some (s.flowKey f true) }
    (s.setFlow f { s.flow f with state := .open }).endOpener f stOK |>.tx f
  else s

def Sys.rxOpen (s : Sys) (r : FrameF) : Sys :=
  let q := r.q.val
  match (s.fecDrop r Flow.takesOpen).arrive r with
  | (s, none) => s
  | (s, some a) =>
    if typeOf a.t ≠ 4 then s.discard q
    else match s.onFlow q a.t Flow.takesOpen with
      | none => s.discard q
      | some f =>
        let x := s.flow f
        let k := s.kOpen x.part x.peerNode x.peerPart
        let n := sliceB a.t 32 12
        let ct := (a.t.drop 44).take 52
        if a.t.length ≠ 112 ∨ lengthOf a.t ≠ 64 ∨ tagBytes (Config.gcmTag k n (authHead a.t) ct) ≠ a.t.drop 96 then
          ((s.setFlow f { x with tagFails := x.tagFails + 1 }).dropFrame f).portCount q 4 1
        else
          let b := gcmCrypt k n ct
          if fieldN b 0 4 = x.peerFlow ∧ fieldN b 4 4 = x.peerNode ∧ fieldN b 8 2 = x.peerPart then s.openIn f b else s.dropFrame f
def execOpenFrame (f : FrameF) (s : State) : Host.Outcome State Fault Refusal := s.onSys (fun y => y.rxOpen f)

/-! Timers (R265, R268, R269, R271) -/

/-- A retransmission timer expires: the frame again, RATE halved in switched mode, one failure of the port (R256). -/
def Sys.retxTimeout (s : Sys) (f seq : Nat) : Sys :=
  let x := s.flow f
  match (if x.state = .open ∨ x.state = .closing then x.unacked.find? (fun fr => fr.seq == seq) else none) with
  | none => s
  | some fr =>
    let s := s.setFlow f { x with rate := if s.portSwitched x.port then max 16 (x.rate / 2) else x.rate }
    let s := s.resend f fr
    let P := s.port x.port
    let s := s.setPort x.port { P with fails := P.fails + 1 }
    if 16 ≤ P.fails + 1 then s.losePort x.port 1 else s
def execRetransmissionTimeout (flow seq : Nat) (s : State) : Host.Outcome State Fault Refusal := s.onSys (fun y => y.retxTimeout flow seq)

def execAckTimer (flow : Nat) (s : State) : Host.Outcome State Fault Refusal :=
  s.onSys (fun y => let x := y.flow flow; if x.role = 1 ∧ x.state = .open ∧ x.sinceAck ≠ 0 then y.sendAck flow else y)

/-- The end of a window of 2^14 cycles (R271). -/
def Sys.rateWindow (s : Sys) (f : Nat) : Sys :=
  let x := s.flow f
  if x.role = 0 ∧ s.portSwitched x.port ∧ (x.state = .open ∨ x.state = .closing) then
    s.setFlow f { x with rate := if x.ceMet then x.rate else min 4096 (x.rate + 32), ceMet := false, ceCut := false }
  else s
def execRateIncrease (flow : Nat) (s : State) : Host.Outcome State Fault Refusal := s.onSys (fun y => y.rateWindow flow)

/-- The OPEN frame of a retransmission timeout period carries no echo, so that the peer answers it in OPENING and in OPEN (R265; DEDUCED, log 158). -/
def execOpenRetransmit (flow : Nat) (s : State) : Host.Outcome State Fault Refusal :=
  s.onSys (fun y => if (y.flow flow).state = .opening then y.sendOpen flow false else y)

/-! Links (R255, R256) -/

def execLinkUp (q : Fin 12) (s : State) : Host.Outcome State Fault Refusal :=
  s.onSys (fun y => if (y.port q).link = .training then y.setPort q { y.port q with link := .up } else y)
def execLockLost (q : Fin 12) (s : State) : Host.Outcome State Fault Refusal :=
  s.onSys (fun y => if (y.port q).link = .up then y.losePort q 0 else y)

/-- Whether the Hawser die of a port lets it train: READY, or DEGRADED without this port failed (R255, R420). -/
def Sys.mayTrain (s : Sys) (q : Nat) : Bool :=
  let x := s.fn (fnHawser (q / 2))
  x.state == .ready || (x.state == .degraded && x.cause != 0x101 + q % 2)

/-- A write of PORT_ENABLE, once its value is in force; also what a port does when its die becomes READY. -/
def Sys.portSet (s : Sys) (q : Nat) : Sys :=
  let P := s.port q
  if s.portEnable q then
    (if P.link = .disabled ∧ s.mayTrain q then s.setPort q { P with link := .training } else s)
  else if P.link = .up then s.losePort q 0
  else s.setPort q { P with link := .disabled }

end Sys2Proof.Machine
end

