-- ==== Sys2Proof/Machine/MemRows.lean ====
section
/-!
DEFINITION. Accesses of memory controllers and home slices: the symbol code, tags and tree MACs, and what becomes of a line
(R199 to R209, R227 to R240, R248 to R252, R428, R437).
-/

namespace Sys2Proof.Machine

/-! The symbol code (R199, R200) -/

/-- Multiplication by α in GF(16). -/
def gfX (a : BitVec 4) : BitVec 4 := if a.getLsbD 3 then (a <<< 1) ^^^ 3#4 else a <<< 1
def gfMul (a b : BitVec 4) : BitVec 4 :=
  (if b.getLsbD 0 then a else 0#4) ^^^ (if b.getLsbD 1 then gfX a else 0#4) ^^^ (if b.getLsbD 2 then gfX (gfX a) else 0#4)
    ^^^ (if b.getLsbD 3 then gfX (gfX (gfX a)) else 0#4)

/-- Four components over GF(16). -/
structure Synd where
  s0 : BitVec 4
  s1 : BitVec 4
  s2 : BitVec 4
  s3 : BitVec 4
  deriving DecidableEq, Repr

def Synd.zero : Synd := ⟨0#4, 0#4, 0#4, 0#4⟩
/-- The syndrome of a poison mark. -/
def Synd.poison : Synd := ⟨0#4, 0#4, 0#4, 15#4⟩
def Synd.add (a b : Synd) : Synd := ⟨a.s0 ^^^ b.s0, a.s1 ^^^ b.s1, a.s2 ^^^ b.s2, a.s3 ^^^ b.s3⟩
def Synd.scale (k : BitVec 4) (a : Synd) : Synd := ⟨gfMul k a.s0, gfMul k a.s1, gfMul k a.s2, gfMul k a.s3⟩

/-- The column of symbol 0 to 31 (data) or 32 to 35 (check). -/
def column (j : Nat) : Synd :=
  let x : BitVec 4 := BitVec.ofNat 4 (if j < 32 then j % 16 else (j - 32) % 2)
  let y : BitVec 4 := BitVec.ofNat 4 (if j < 32 then 2 + j / 16 else (j - 32) / 2)
  ⟨1#4, x, y, gfMul x x ^^^ gfMul x y ^^^ gfMul 8#4 (gfMul y y)⟩

/-- Symbol `j` of a 144-bit word, and the word with a value XORed into it. -/
def symbolOf (w : BitVec 144) (j : Nat) : BitVec 4 := w.extractLsb' (4 * j) 4
def flipSymbol (w : BitVec 144) (j : Nat) (v : BitVec 4) : BitVec 144 := w ^^^ (v.setWidth 144 <<< (4 * j))

def syndrome (w : BitVec 144) : Synd := foldFn 36 Synd.zero (fun s j => s.add ((column j).scale (symbolOf w j)))

/-- The outcomes of R200. -/
inductive CodeOut where
  | clean | corrected (j : Nat) | poison | poisonErr (j : Nat) | bad
  deriving DecidableEq, Repr

/-- The symbol whose column, scaled by S0, is a syndrome. -/
def symbolAt (s : Synd) : Option Nat := if s.s0 = 0#4 then none else leastFn 36 (fun j => (column j).scale s.s0 == s)

/-- The classification of a syndrome. -/
def classify (s : Synd) : CodeOut :=
  if s = Synd.zero then .clean
  else match symbolAt s with
    | some j => .corrected j
    | none =>
      if s = Synd.poison then .poison
      else match symbolAt (s.add Synd.poison) with
        | some j => .poisonErr j
        | none => .bad

/-- What a codeword that holds valid check bits, inverted when it is marked poisoned, is read as under an error pattern: its
outcome, and the error that is left in its data. -/
def readWord (marked : Bool) (e : BitVec 144) : CodeOut × BitVec 128 :=
  let s := (syndrome e).add (if marked then Synd.poison else Synd.zero)
  match classify s with
  | .corrected j => (.corrected j, (flipSymbol e j s.s0).setWidth 128)
  | .poisonErr j => (.poisonErr j, (flipSymbol e j s.s0).setWidth 128)
  | o => (o, e.setWidth 128)

/-! What an access reads of the protection area (R239, R248, R249) -/

/-- Whether an access goes on. -/
inductive Prot where
  | ok (s : Sys)
  /-- its pages are listed unknown -/
  | unknown (s : Sys)
  /-- a MAC fails: level and index of the item -/
  | tagFail (s : Sys) (level index : Nat)

/-- The store of a tier (R442): 0 and 1; the Splice cache is 2. -/
def storeOf (tier : Nat) : Nat := tier

/-- A corrected codeword of a region. -/
def Sys.correctedAt (s : Sys) (tier hank off : Nat) : Sys :=
  s.corrected (tierDomain tier hank) (tierUnit tier hank) (storeOf tier) ((s.part ((s.holder hank).getD 0)).location (physKey tier hank off))

/-- Lists the pages of an item, with its record. -/
def Sys.listUnknown (s : Sys) (tier hank level index : Nat) : Sys :=
  let z := s.region tier hank
  if z.unknownAll || z.unknown.contains (level, index) then s else
  let page := if z.unknown.length < 16 then index * 8 ^ level else 0
  (s.setRegion tier hank (z.list level index)).logTier tier hank (4096 * page) 0x0302 hank page

/-- The outcomes and errors of codewords that carry no poison mark. -/
def readWords (fs : List (BitVec 144)) : List (CodeOut × BitVec 128) := (List.range 4).map (fun i => readWord false (fs.getD i 0#144))

/-- An outcome of the protection area that is neither clean nor corrected: the module writes no poison mark there. -/
def CodeOut.lost (o : CodeOut) : Bool :=
  match o with
  | .clean => false
  | .corrected _ => false
  | _ => true
/-- Read with a poison mark. -/
def CodeOut.marked (o : CodeOut) : Bool :=
  match o with
  | .poison => true
  | .poisonErr _ => true
  | _ => false
def CodeOut.fixed (o : CodeOut) : Bool := match o with | .corrected _ => true | .poisonErr _ => true | _ => false

/-- Reads a counter block (level 0) or node from memory and verifies it. One that changes and still has its MAC counts as unchanged
(log 109). -/
def Sys.readItem (s : Sys) (tier hank level index : Nat) (fs : List (BitVec 144)) : Prot :=
  let ws := readWords fs
  if ws.any (fun w => w.1.lost) then .unknown (s.listUnknown tier hank level index)
  else
    let s := ws.foldl (fun s w => if w.1.fixed then s.correctedAt tier hank (4096 * (index * 8 ^ level)) else s) s
    let z := s.region tier hank
    let ok := ws.all (fun w => w.2 == 0#128) || (match z.keysAt (index * 8 ^ level) with
      | none => true
      | some k =>
        let c := z.treeItem k tier hank level index
        macOf k tier hank level index (List.zipWith (· ^^^ ·) c (ws.map (fun w => w.2))) == macOf k tier hank level index c)
    if ok then .ok (s.setRegion tier hank (z.hold level index false)) else .tagFail (s.setRegion tier hank (z.fail level index)) level index

/-- Reads a pinned node in the cache's own SRAM (R249). -/
def Sys.readPinned (s : Sys) (tier hank level index : Nat) (fs : List (BitVec 144)) : Prot :=
  let ws := readWords fs
  if ws.any (fun w => w.1.lost) then .unknown (s.listUnknown tier hank level index)
  else .ok (ws.foldl (fun s w => if w.1.fixed then
    s.corrected (tierDomain tier hank) (tierUnit tier hank) 6 ((s.part ((s.holder hank).getD 0)).location (physKey tier hank (4096 * (index * 8 ^ level)))) else s) s)

/-- What the memory gives back of a page's items at a level. -/
def tierFlips (f : TierF) (level : Nat) : List (BitVec 144) :=
  if level = 0 then f.ctrFlips else ((f.nodeFlips.find? (fun e => e.1 == level)).map (fun e => e.2)).getD []

/-- Obtains the page's counter block: from its lowest ancestor on die downwards, each item that the cache does not hold is read and
verified against its parent, and enters the cache (R236, R238, R239). -/
def Sys.readPath (s : Sys) (f : TierF) : Prot :=
  let t := f.tier.val
  let h := f.hank.val
  let z := s.region t h
  let page := f.line / 64
  if z.listed page then .unknown s else
  match z.pathFails f.line with
  | some e => .tagFail s e.1 e.2
  | none =>
    let r := [7, 6, 5].foldl (fun (r : Prot) l => match r with
      | .ok s => s.readPinned t h l (page / 8 ^ l) (tierFlips f l)
      | r => r) (.ok s)
    (z.missing page).foldl (fun (r : Prot) e => match r with
      | .ok s => s.readItem t h e.1 e.2 (tierFlips f e.1)
      | r => r) r

/-- The alarm of a failed tag or MAC against the partition that owns the region (R250, R366). -/
def Sys.memAlarm (s : Sys) (tier hank level index : Nat) : Sys :=
  match s.holder hank with
  | none => s
  | some p =>
    let line := level = 0xFF
    let first := if line then 64 * index else 4096 * (index * 8 ^ level)
    s.alarm p { source := if line then 1 else 2, tierPort := tier, hank := hank, level := level, peerPart := 0, granFlow := first / granuleBytes, peerNode := 0 }

/-- Raises the alarms of the checks that failed as commands read and wrote (R250). -/
def Sys.raiseAlarms (s : Sys) : Sys :=
  s.mem.alarms.foldl (fun s e => s.memAlarm e.1 e.2.1 e.2.2.1 e.2.2.2) { s with mem := { s.mem with alarms := [] } }

/-- Whether a page of a region may be accessed: its region is keyed, and its key set is held (R226, R241). -/
def Seize.usable (z : Seize) (page : Nat) : Bool := z.keyed && (z.keysAt page).isSome

/-! Delivery -/

/-- Lines of a data region (R227). -/
def lineCount : Nat := 218726400

/-- What a requester receives. -/
def Sys.handOver (s : Sys) (kind hank off : Nat) (words : List (Mark × Bytes)) : Sys :=
  { s with mem := { s.mem with delivered := some { kind := kind, hank := hank, offset := off, words := words } } }

/-- The codewords of a blob that starts at a multiple of 16: a poisoned one delivers no bytes (R201). -/
def Blob.words (b : Blob) : List (Mark × Bytes) :=
  (List.range (b.data.length / 16)).map (fun i =>
    let m := ((b.bad.find? (fun e => e.1 == i)).map (fun e => e.2)).getD .clean
    (m, if m.isBad then [] else (b.data.drop (16 * i)).take 16))

/-- Delivers a range of partition memory as a reader of partition `p` finds it, from its place: with what the read leaves, and the event of
poison in a shared object (R437, R438). -/
def Sys.deliverRange (s : Sys) (p a kind hank off n : Nat) : Sys :=
  let b := s.readPart p a n
  ((s.noteRead p a n).sharedPoison p a b).handOver kind hank off b.words

/-- Delivers a 64-byte line with one cause of poison for all of it. -/
def Sys.deliverBad (s : Sys) (tier hank line : Nat) (m : Mark) : Sys := s.handOver tier hank (64 * line) (List.replicate 4 (m, []))

/-- The codewords of a line as they were decoded: one that was read with a poison mark, or that cannot be corrected, is poisoned with cause
POISONED, whatever cause it was written with (R203, R249). -/
def Sys.decoded (s : Sys) (tier hank line : Nat) (ws : List (CodeOut × BitVec 128)) : List (Mark × Bytes) :=
  let k := s.memKey tier hank line
  ws.mapIdx (fun i w =>
    if w.1.marked || w.1 == CodeOut.bad then (.poisoned, [])
    else (.clean, List.zipWith (· ^^^ ·) (s.mem.data.read (k + 16 * i) 16) (leBytes 16 w.2.toNat)))

/-- The partition address of a place in a tier. -/
def Sys.addrOf (s : Sys) (p tier hank off : Nat) : Nat := mkAddr tier ((((s.part p).hanks.findIdx? (· == hank)).getD 0) * unitBytes + off)

/-- A mirror's copy of a line: its bytes, the object and its number, and the place of the mirror (R437). -/
def Sys.mirrorLine (s : Sys) (tier hank line : Nat) : Option (Bytes × Nat × Obj × Nat) :=
  (s.holder hank).bind (fun p =>
    let a := s.addrOf p tier hank (64 * line)
    (s.fromMirror p a 64).bind (fun d => ((s.part p).objAt (addrSpace a) (addrOffset a / granuleBytes)).bind (fun o =>
      (((s.part p).mirrorAddr a).bind (s.part p).place).map (fun key => (d, o.1, o.2, key)))))

/-- Puts 64 bytes into a line's memory. -/
def Sys.putLine (s : Sys) (tier hank line : Nat) (d : Bytes) : Sys :=
  let s := s.forMemory tier hank line
  { s with mem := { s.mem with data := s.mem.data.put (s.memKey tier hank line) d } }

/-- The codewords of a line that cannot be corrected are poisoned in its memory (R203). -/
def Sys.lineLost (s : Sys) (tier hank line : Nat) (bad : List Nat) : Sys :=
  let s : Sys := bad.foldl (fun s c => s.poisonLine tier hank line (16 * c) 16 .poisoned) s
  (s.bump errPoisoned bad.length).logTier tier hank (64 * line) 0x0101 (storeOf tier) bad.length

/-- The record of a line that a mirror serves (R442): the function of the mirror's memory, and the object. -/
def Sys.logMirror (s : Sys) (tier hank line : Nat) (m : Bytes × Nat × Obj × Nat) : Sys :=
  s.logTier tier hank (64 * line) 0x0104 (tierUnit (keyKind m.2.2.2) (keyHank m.2.2.2)) (mkHandle 0 m.2.2.1.gen m.2.1)

/-- A line that its mirror serves is written anew from it, as any write is, and the read counts as corrected, once (R240, R437). -/
def Sys.lineMirrored (s : Sys) (tier hank line : Nat) (m : Bytes × Nat × Obj × Nat) : Sys :=
  let (s, out) := s.writeLine tier hank line
  let s := if out.wrote then s.putLine tier hank line m.1 else s
  (s.correctedAt tier hank (64 * line)).logMirror tier hank line m

/-- Delivers a line from its mirror. -/
def Sys.deliverMirror (s : Sys) (tier hank line : Nat) (m : Bytes × Nat × Obj × Nat) : Sys :=
  s.handOver tier hank (64 * line) (Blob.ofBytes m.1).words

/-- The tag codeword of a line is uncorrectable: the two lines whose tags it holds are poisoned and their page is listed. -/
def Sys.tagLost (s : Sys) (tier hank line : Nat) : Sys :=
  let l := line / 2 * 2
  (((s.poisonLine tier hank l 0 64 .unknown).poisonLine tier hank (l + 1) 0 64 .unknown).bump errPoisoned 8).listUnknown tier hank 0 (line / 64)

/-- Events of poison in shared memory (R438). -/
def Sys.sharedLine (s : Sys) (tier hank line : Nat) : Sys :=
  match s.holder hank with
  | none => s
  | some p => let a := s.addrOf p tier hank (64 * line); s.sharedPoison p a (s.readRaw p a 64)

/-- What the check of a line whose counters have verified gives (R233, R249). -/
inductive LineRead where
  | ok (s : Sys) (words : List (CodeOut × BitVec 128))
  /-- codewords that cannot be corrected, beside all of them -/
  | lost (s : Sys) (bad : List Nat) (words : List (CodeOut × BitVec 128))
  | unknown (s : Sys)
  | tagFail (s : Sys)

/-- Reads a line, decodes it and checks its tag. A failed tag is noted: memory is left as it was read (R250). -/
def Sys.checkLine (s : Sys) (t h line : Nat) (flips : List (BitVec 144)) (tagFlip : BitVec 144) : LineRead :=
  let tag := readWord false tagFlip
  if tag.1.lost then .unknown (s.tagLost t h line)
  else
    let k := s.memKey t h line
    let ws := (List.range 4).map (fun i => readWord (s.mem.data.mark (k / 16 + i)).isBad (flips.getD i 0#144))
    let s := if tag.1.fixed then s.correctedAt t h (64 * line) else s
    let s := (ws.zipIdx).foldl (fun (s : Sys) (w : (CodeOut × BitVec 128) × Nat) => if w.1.1.fixed then s.correctedAt t h (64 * line + 16 * w.2) else s) s
    let bad := ((ws.zipIdx).filter (fun w => w.1.1 == CodeOut.bad)).map (fun w => w.2)
    if !bad.isEmpty then .lost s bad ws
    else
      let z := s.region t h
      let pass : Bool := !z.failed.contains (0xFF, line) && (match z.keysAt (line / 64) with
        | none => true
        | some ks =>
          let c := z.cipher ks t h line (s.mem.data.read k 64)
          let tagErr := tag.2.extractLsb' (64 * (line % 2)) 64
          (ws.all (fun w => w.2 == 0#128) && tagErr == 0#64) ||
            z.tag ks t h line (List.zipWith (· ^^^ ·) c (ws.map (fun w => w.2))) == z.tag ks t h line c ^^^ tagErr)
      if pass then .ok s ws else .tagFail (s.setRegion t h (z.fail 0xFF line))

/-- A read of a line in a listed range: served from its mirror, which rewrites nothing, or poisoned (R248, R437, R438). -/
def Sys.unknownLine (s : Sys) (tier hank line : Nat) : Sys :=
  match s.mirrorLine tier hank line with
  | some m => (s.logMirror tier hank line m).deliverMirror tier hank line m
  | none => (s.sharedLine tier hank line).deliverBad tier hank line .unknown

/-- A data line whose counters have verified. -/
def Sys.readData (s : Sys) (f : TierF) : Sys :=
  let t := f.tier.val
  let h := f.hank.val
  match s.checkLine t h f.line f.flips f.tagFlip with
  | .unknown s => s.unknownLine t h f.line
  | .lost s bad ws =>
    (match s.mirrorLine t h f.line with
     | some m => (s.lineMirrored t h f.line m).deliverMirror t h f.line m
     | none =>
       let words := s.decoded t h f.line ws
       ((s.lineLost t h f.line bad).sharedLine t h f.line).handOver t h (64 * f.line) words)
  | .ok s ws => (s.sharedLine t h f.line).handOver t h (64 * f.line) (s.decoded t h f.line ws)
  | .tagFail s => (s.memAlarm t h 0xFF f.line).deliverBad t h f.line .tagFail

/-- TIER_READ (R239, R249, R250). Under no key set, or before the region is keyed, nothing is delivered (R226, R241). -/
def Sys.tierRead (s : Sys) (f : TierF) : Sys :=
  let t := f.tier.val
  let h := f.hank.val
  if !(s.region t h).usable (f.line / 64) then { s with mem := { s.mem with delivered := none } } else
  match s.readPath f with
  | .ok s => (s.fitThimble 8 t h (f.line / 64)).readData f
  | .unknown s => s.unknownLine t h f.line
  | .tagFail s level index => (s.memAlarm t h level index).deliverBad t h f.line .tagFail

/-- A request waits while its controller holds requests back, and behind an earlier request to its region that waits (R197, R217).
`replay` is cleared when it is served. -/
def Sys.tierServe (s : Sys) (i : Instr) (f : TierF) (g : Sys → Sys) : Sys :=
  if s.tierWaits f.tier f.hank || s.behind f.tier f.hank then s.holdAt i [(f.tier.val, f.hank.val)]
  else { g s with replay := none }

def execTierRead (f : TierF) (s : State) : Host.Outcome State Fault Refusal :=
  if lineCount ≤ f.line then .fault .noSuchAddress else s.onSys (fun y => y.tierServe (.tierRead f) f (fun y => y.tierRead f))

/-- Reads other lines for a write: uncorrectable ones are poisoned; a failed tag ends the write (R198, R245, R250). -/
def Sys.readOthers (s : Sys) (t h : Nat) (ls : List (Nat × List (BitVec 144) × BitVec 144)) : Sys × Option Nat :=
  match ls with
  | [] => (s, none)
  | e :: rest =>
    match s.checkLine t h e.1 e.2.1 e.2.2 with
    | .ok s _ => s.readOthers t h rest
    | .lost s bad _ => (s.lineLost t h e.1 bad).readOthers t h rest
    | .unknown s => s.readOthers t h rest
    | .tagFail s => (s, some e.1)

/-- The lines that a write reads before it writes: all of its page when its line's counter is at its end (R245), all of its segment
where the write comes from no slice that holds it (R198). -/
def Sys.readBefore (s : Sys) (f : TierF) : List (Nat × List (BitVec 144) × BitVec 144) :=
  let t := f.tier.val
  let z := s.region t f.hank.val
  let at_ := fun (l : Nat) => if l = f.line then (l, f.flips, f.tagFlip) else
    ((f.others.find? (fun e => e.1 == l % 64)).map (fun e => (l, e.2.1, e.2.2))).getD (l, [], 0#144)
  let full := z.minor f.line = 127 && z.major f.line != majorEnd && !z.stuck.contains (f.line / 64)
  if full then (List.range 64).map (fun i => at_ (f.line / 64 * 64 + i))
  else if t = 1 || !(s.mem.line f.hank (f.line / 4)).present then (List.range 4).map (fun i => at_ (f.line / 4 * 4 + i))
  else []

/-- TIER_WRITE (R198, R240, R245, R246, R248, R250, R252). Under no key set, or before the region is keyed, nothing is written (R226, R241). -/
def Sys.tierWrite (s : Sys) (f : TierF) : Sys :=
  let t := f.tier.val
  let h := f.hank.val
  if !(s.region t h).usable (f.line / 64) then s else
  match s.readPath f with
  | .tagFail s level index => s.memAlarm t h level index
  | .unknown s => s.lineEffects t h f.line .discarded
  | .ok s =>
    match s.readOthers t h (s.readBefore f) with
    | (s, some l) => s.memAlarm t h 0xFF l
    | (s, none) =>
      let (s, out) := s.writeLine t h f.line
      -- a tier-1 line that its home slice holds is written back from the slice
      if !out.wrote then s
      else if t = 0 ∧ (s.mem.line h (f.line / 4)).present then
        if (s.mem.line h (f.line / 4)).apart then
          { s with mem := { s.mem with data := s.mem.data.copyRange (physKey 0 h (64 * f.line)) (physKey 3 h (64 * f.line)) 64 } }
        else s
      else s.putLine t h f.line (sliceB f.data 0 64)

def execTierWrite (f : TierF) (s : State) : Host.Outcome State Fault Refusal :=
  if lineCount ≤ f.line then .fault .noSuchAddress else s.onSys (fun y => y.tierServe (.tierWrite f) f (fun y => y.tierWrite f))

/-! The scrub (R204) -/

/-- What a region offset holds. -/
inductive Area where
  | data (line : Nat)
  | tag (line : Nat)
  | node (level index : Nat)
  deriving DecidableEq, Repr

/-- The layout of R227. -/
def areaOf (off : Nat) : Area :=
  if off < 13998489600 then .data (off / 64)
  else if off < 15748300800 then .tag ((off - 13998489600) / 8)
  else if off < 15967027200 then .node 0 ((off - 15748300800) / 64)
  else if off < 15994368000 then .node 1 ((off - 15967027200) / 64)
  else if off < 15997785600 then .node 2 ((off - 15994368000) / 64)
  else if off < 15998212800 then .node 3 ((off - 15997785600) / 64)
  else if off < 15998266240 then .node 4 ((off - 15998212800) / 64)
  else if off < 15998272960 then .node 5 ((off - 15998266240) / 64)
  else if off < 15998273856 then .node 6 ((off - 15998272960) / 64)
  else .node 7 ((off - 15998273856) / 64)

/-- Codewords that a scrub reads in a region, and in the regions of a controller. -/
def regionWords : Nat := 999892124
def ctlHanks (c : Nat) : Nat := if c < 20 then 4 else 8

/-- One scrub read (the first position is a DESIGN CHOICE, log 5). -/
def Sys.scrubRead (s : Sys) (f : ScrubF) : Sys :=
  let c := f.ctl.val
  let tier := if c < 20 then 0 else 1
  let pos := s.mem.scrubAt.get 0 c
  let hank := (if c < 20 then 4 * c else 8 * (c - 20)) + pos / regionWords
  let off := 16 * (pos % regionWords)
  let s : Sys := { s with mem := { s.mem with scrubAt := s.mem.scrubAt.set 0 c ((pos + 1) % (ctlHanks c * regionWords)) } }
  match areaOf off with
  | .data line =>
    let w := readWord (s.mem.data.mark (s.memKey tier hank line / 16 + off % 64 / 16)).isBad f.flip
    if w.1 = .bad then s.lineLost tier hank line [off % 64 / 16]
    else if w.1.fixed then s.correctedAt tier hank off else s
  | .tag line =>
    let w := readWord false f.flip
    if w.1.lost then s.tagLost tier hank line else if w.1.fixed then s.correctedAt tier hank (64 * line) else s
  | .node level index =>
    -- the places of the pinned levels are not read while the region has a key set (R236)
    if decide (5 ≤ level) && (s.region tier hank).keys.isSome then s else
    let w := readWord false f.flip
    if w.1.lost then s.listUnknown tier hank level index else if w.1.fixed then s.correctedAt tier hank (4096 * (index * 8 ^ level)) else s

/-- The value of 0x2010 that a controller uses: the one in force, or, where that was committed while the controller was not READY, the one
before it, until its next WAKING (R398). Stacks are 0 to 19, packages 20 to 29. -/
def Sys.limitOf (s : Sys) (u sub : Nat) : Nat := (s.plat.kept.get? (8 * u + sub)).getD (s.dv 0x2010 sub)

def execScrubRead (f : ScrubF) (s : State) : Host.Outcome State Fault Refusal :=
  s.onSys (fun y => if y.limitOf f.ctl.val 1 = 0 then y else y.scrubRead f)

/-! The Splice cache (R207 to R209) -/

/-- A record of a Splice slice. -/
def Sys.logSlice (s : Sys) (hank k event arg0 arg1 : Nat) : Sys :=
  s.logRec { domain := domSplice (hank / 8), unit := fnStrand (hank / 8), part := s.holderByte hank,
             location := (s.part ((s.holder hank).getD 0)).location k, event := event, arg0 := arg0, arg1 := arg1, slack := false }

/-- Codewords of a slice that are uncorrectable: poisoned where no clean copy can be read again. -/
def Sys.sliceLost (s : Sys) (hank k : Nat) (bad : List Nat) : Sys :=
  let s : Sys := bad.foldl (fun s c => { s with mem := { s.mem with data := s.mem.data.poisonRange (k + 16 * c) 16 .poisoned } }) s
  (s.bump errPoisoned bad.length).logSlice hank k 0x0101 2 bad.length

/-- Codewords of a slice that were corrected, or read again (R203, R209). -/
def Sys.sliceFixed (s : Sys) (hank k : Nat) (fixed : List Nat) : Sys :=
  fixed.foldl (fun s _ => s.corrected (domSplice (hank / 8)) (fnStrand (hank / 8)) 2 ((s.part ((s.holder hank).getD 0)).location k)) s

/-- Writes one of the four lines of a dirty cache line back; where a check fails, that of a counter block or node or that of a line to be
encrypted anew, it is noted and the line's memory is left (R240, R245, R250, R252). Under no key set nothing is written (R226). -/
def Sys.writeBack (s : Sys) (hank line : Nat) : Sys :=
  if !(s.region 0 hank).usable (line / 64) then s else
  match s.writeLine 0 hank line with
  | (s, .failed level index) => s.noteFail 0 hank level index
  | (s, out) => if out.wrote then
      { s with mem := { s.mem with data := s.mem.data.copyRange (physKey 0 hank (64 * line)) (physKey 3 hank (64 * line)) 64 } } else s

/-- Gives up a line: a dirty one is written back, its four lines under advanced counters (R209, R240). -/
def Sys.evictLine (s : Sys) (hank line : Nat) : Sys :=
  let s := if (s.mem.line hank line).dirty then (List.range 4).foldl (fun s i => s.writeBack hank (4 * line + i)) s else s
  { s with mem := s.mem.drop hank line }

/-- Codewords of a cached line that a slice finds uncorrectable: poisoned in a dirty line; a clean line is given up, to be read again (R209). -/
def Sys.cacheLost (s : Sys) (h line : Nat) (bad : List Nat) : Sys :=
  let k := physKey 0 h (256 * line)
  let c := s.mem.line h line
  if bad.isEmpty || !c.present then s
  else if c.dirty then s.sliceLost h k bad
  else s.sliceFixed h k bad |> fun s => { s with mem := s.mem.drop h line }

/-- The codewords that an access finds uncorrectable, and those that it finds corrected. -/
def lostWords (f : CacheF) : List Nat := (f.bad.filter (fun i => decide (i < 16))).eraseDups
def fixedWords (f : CacheF) : List Nat := (f.fixed.filter (fun i => decide (i < 16) && !(lostWords f).contains i)).eraseDups

/-- What the home slice's own store gives of a line: corrected and lost codewords. -/
def Sys.sliceErrors (s : Sys) (f : CacheF) : Sys :=
  let k := physKey 0 f.hank (256 * f.line)
  if (s.mem.line f.hank f.line).present then (s.sliceFixed f.hank k (fixedWords f)).cacheLost f.hank f.line (lostWords f) else s

/-- The same of the copy that the slice of another hank holds. A copy is a clean line: it is invalidated, to be read again (R209). -/
def Sys.copyErrors (s : Sys) (f : CacheF) (e : Copy) : Sys :=
  let k := physKey 0 f.hank (256 * f.line)
  let fixed := fun (s : Sys) (ws : List Nat) => ws.foldl (fun s _ => s.corrected (domSplice (f.from_ / 8)) (fnStrand (f.from_ / 8)) 2
    ((s.part ((s.holder f.hank).getD 0)).location k)) s
  let s := fixed s (fixedWords f)
  if (lostWords f).isEmpty then s else
  let s := fixed s (lostWords f)
  { s with mem := { s.mem with copies := s.mem.copies.filter (· != e) } }

/-- A read of a shared line of partition `p` by another partition: its copy in the slice of the hank that asks, or what the home slice or
the memory delivers, copied there; the home slice stays as it was (R208). What a frozen partition shared is unknown (R365). -/
def Sys.importRead (s : Sys) (p : Nat) (f : CacheF) : Sys :=
  let off := 256 * f.line
  let a := s.addrOf p 0 f.hank off
  if (s.part p).state = .frozen then s.handOver 0 f.hank off (List.replicate 16 (.unknown, []))
  else
    let s := match s.copyOf f.from_ f.hank f.line with
      | some e => s.copyErrors f e
      | none => s.sliceErrors f
    if (s.copyOf f.from_ f.hank f.line).isNone && !(s.mem.line f.hank f.line).present && !(s.region 0 f.hank).usable (f.line / 16) then
      { s with mem := { s.mem with delivered := none } }
    else
      let b := s.withCopies f.from_ p a (s.readPart p a 256)
      let s := if (s.copyOf f.from_ f.hank f.line).isSome then s else (s.noteRead p a 256).takeCopy f.from_ f.hank f.line
      let s := (s.sharedPoison p a b).handOver 0 f.hank off b.words
      if f.evict then { s with mem := { s.mem with copies := s.mem.copies.filter (fun e => !(e.to_ == f.from_.val && e.from_ == f.hank.val && e.line == f.line)) } } else s

/-- An access through the home slice. A read fills the line when it is read from memory clean of listed and failing lines. -/
def Sys.cacheAccess (s : Sys) (p : Nat) (f : CacheF) : Sys :=
  let h := f.hank.val
  let k := physKey 0 h (256 * f.line)
  let s := s.sliceErrors f
  let c := s.mem.line h f.line
  let z := s.region 0 h
  if !c.present && !z.usable (f.line / 16) then (if f.write.isSome then s else { s with mem := { s.mem with delivered := none } }) else
  let s := match f.write with
    | some (o, bs) =>
      let d := bs.take (256 - o)
      if 256 ≤ o ∨ d.isEmpty then s else s.pokeRun (k + o) d.length 0 d.toArray (fun _ => .clean)
    | none =>
      let s := s.deliverRange p (s.addrOf p 0 h (256 * f.line)) 0 h (256 * f.line) 256
      if c.present || z.listed (f.line / 16) || z.segmentFails f.line then s else { s with mem := s.mem.setLine h f.line ⟨true, false, false⟩ }
  if f.evict then s.evictLine h f.line else s

/-- An access to a window line. -/
def Sys.windowAccess (s : Sys) (p : Nat) (f : CacheF) : Sys :=
  let off := sliceBytes - (s.part p).windowBytes + 256 * f.line
  let k := physKey 2 f.hank off
  let s := s.sliceFixed f.hank k (fixedWords f)
  let s := if (lostWords f).isEmpty then s else s.sliceLost f.hank k (lostWords f)
  match f.write with
  | some (o, bs) =>
    let d := bs.take (256 - o)
    if 256 ≤ o ∨ d.isEmpty then s else s.pokeRun (k + o) d.length 0 d.toArray (fun _ => .clean)
  | none => s.deliverRange p (s.addrOf p 0 f.hank 0 |> fun a => mkAddr 2 (addrOffset a / unitBytes * windowStep + 256 * f.line)) 2 f.hank off 256

/-- CACHE_ACCESS. Only the partition that holds the hank writes its lines; another partition's hank reads through an import. -/
def Sys.sliceAccess (s : Sys) (f : CacheF) : Sys :=
  match s.holder f.hank with
  | none => s
  | some p =>
    if s.holder f.from_ = some p then
      if f.window then (if 256 * f.line < (s.part p).windowBytes then s.windowAccess p f else s) else s.cacheAccess p f
    else if f.write.isSome ∨ f.window then s
    else
      let a := s.addrOf p 0 f.hank (256 * f.line)
      match s.holder f.from_, (s.part p).objAt 0 (addrOffset a / granuleBytes) with
      | some q, some (i, _) => if (s.part q).objs.any (fun e => e.2.source == some (p, i)) then s.importRead p f else s
      | _, _ => s

/-- Whether an access has to wait: for its slice, for a memory that it reads to fill a line or writes back to, or behind an earlier request
to that memory (R197, R217, R424). -/
def Sys.cacheWaits (s : Sys) (f : CacheF) : Bool :=
  let h := f.hank.val
  let c := s.mem.line h f.line
  let memory := s.tierWaits 0 h || s.behind 0 h
  if f.window then !s.sliceServes h
  else if s.holder f.from_ = s.holder h then
    !s.sliceServes h || (memory && ((!c.present && !f.write.any (fun w => w.1 == 0 && decide (256 ≤ w.2.length))) || (f.evict && (c.dirty || f.write.isSome))))
  else !s.sliceServes f.from_ || ((s.copyOf f.from_ h f.line).isNone && (if c.present then !s.sliceServes h else memory))

def execCacheAccess (f : CacheF) (s : State) : Host.Outcome State Fault Refusal :=
  if !f.window ∧ lineCount ≤ 4 * f.line then .fault .noSuchAddress
  else s.onSys (fun y =>
    if y.cacheWaits f then y.holdAt (.cacheAccess f) [(0, f.hank.val)] else { (y.sliceAccess f).raiseAlarms with replay := none })

end Sys2Proof.Machine
end

