-- ==== Sys2Proof/Machine/Intake.lean ====
section
/-!
DEFINITION. Intake of ring entries, and which contexts are resident and hold the Bights (R284, R288, R292 to R301, R306, R355).
-/

namespace Sys2Proof.Machine

/-! Counters of a virtual function (R405) -/

def Sys.vfCount (s : Sys) (v sub : Nat) : Sys := s.bump (errKey (0x7180 + v) sub) 1
/-- An intake record: context and ring, lay count. -/
def Sys.logIntake (s : Sys) (p event arg0 lay : Nat) : Sys :=
  s.logRec { domain := domHost, unit := fnHost, part := p, location := locNone, event := event, arg0 := arg0, arg1 := lay, slack := false }
/-- An entry rejected, in the usage record. -/
def Sys.useRejected (s : Sys) (c : Nat) : Sys := let x := s.ctx c; s.setCtx c { x with usage := { x.usage with rejected := x.usage.rejected + 1 } }
def ctxRing (c r : Nat) : Nat := c + r * 65536

/-! Entries (R288) -/

/-- The 128 bytes of a slot. -/
def Ring.slot (g : Ring) (i : Nat) : Bytes := (g.storage.window 0 (128 * i) 128).toList
def Ring.tailAt (g : Ring) (i : Nat) : Bool := g.tail.getLsbD i
def Ring.setTail (g : Ring) (i : Nat) (v : Bool) : Ring :=
  { g with tail := (g.tail &&& ~~~(1#128 <<< i)) ||| (if v then 1#128 <<< i else 0#128) }

/-- CONSUMED after an entry's COMP_CONSUMED (R297). -/
def consumedAfter (consumed written cc : Nat) : Nat :=
  let v := consumed + (cc + 2 ^ 32 - consumed % 2 ^ 32) % 2 ^ 32
  if v ≤ written then v else consumed

/-- Why an entry is rejected: a status, and whether its tag failed under a good header. -/
structure Reject where
  status : Nat
  tag : Bool
  deriving DecidableEq, Repr

/-- The checks of an entry: its payload, or why it is rejected (R292, R294, R295). -/
def Sys.checkEntry (s : Sys) (c r : Nat) (e : Bytes) : Except Reject Bytes :=
  let x := s.ctx c
  let fl := fieldN e 0xB 1
  let pay := sliceB e 16 96
  if fieldN e 8 2 ≠ c ∨ fieldN e 0xA 1 ≠ r ∨ 8 ≤ fl then .error ⟨stTAG_FAIL, false⟩
  else if fl.testBit 0 then
    if x.isBase ∧ x.key.isNone ∧ r = 3 then
      (if fl.testBit 1 ∨ fieldN pay 0 1 = 0x70 ∨ fieldN pay 0 1 = 0x71 then .ok pay else .error ⟨stNO_SESSION, false⟩)
    else .error ⟨stDENIED, false⟩
  else match x.key with
    | none => .error ⟨stTAG_FAIL, true⟩
    | some k =>
      let n := recNonce c 0 r (fieldN e 0 8)
      if tagBytes (Config.gcmTag k n (e.take 16) pay) = sliceB e 112 16 then .ok (gcmCrypt k n pay) else .error ⟨stTAG_FAIL, true⟩

/-- An entry is rejected: EXPECT stays, and a REJECTED record is made. -/
def Sys.rejectEntry (s : Sys) (c r n : Nat) (why : Reject) : Sys :=
  let p := (s.ctx c).part
  let s := (s.vfCount p 3).useRejected c
  let s := if why.tag then (s.vfCount p 4).logIntake p 0x0202 c n else s
  let s := s.logIntake p 0x0204 (ctxRing c r) n
  let x := s.ctx c
  s.setCtx c { x with outbox := x.outbox ++ [{ kind := 2, lay := n, ring := r, status := why.status, result := [], irq := false, plain := x.key.isNone }] }

/-! Joining a ring (R169, R306, R315) -/

/-- The batch that a command joins: its own for number 0, else the open one of its number or a new one; BATCH_END closes it. -/
def Context.joinBatch (x : Context) (n : Nat) (close : Bool) : Context × Nat :=
  let fresh := fun (closed : Bool) => ({ x with
    batches := x.batches ++ [{ id := x.batchNext, number := n, closed := closed, pins := [], spec := false, hauled := false, cut := false }], batchNext := x.batchNext + 1 }, x.batchNext)
  if n = 0 then fresh true
  else match x.batches.find? (fun b => b.number == n && !b.closed) with
    | none => fresh close
    | some b => (if close then x.setBatch { b with closed := true } else x, b.id)

/-- Whether a handle names an object, fence or weight set that stands. -/
def Partition.lives (P : Partition) (h : Nat) : Bool := (P.objOf [] h).isSome || (P.fenceOf [] h).isSome || (P.wsetOf h).isSome

/-- The live objects, fences and weight sets of its partition that a command names, in its manifest too (R306; DEDUCED, log 166). -/
def Sys.liveHandles (s : Sys) (p : Nat) (k : Cmd) : List Nat :=
  ((k.handles.map (fun h => h.1) ++ (s.manifestRefs p k).map (fun e => e.1)).filter (s.part p).lives).eraseDups

/-- The exporter's object or set that an OBJ_SHARE ACCEPT names, while it stands: partition and handle (R306). -/
def Sys.farHandle (s : Sys) (k : Cmd) : Option (Nat × Nat) :=
  let q := k.field 0x12 2
  if k.opcode = 0x12 ∧ k.field 0x10 1 = 1 ∧ q < 80 ∧ (s.part q).lives (k.field 8 8) then some (q, k.field 8 8) else none

/-- A command of an undefined opcode begins in its turn, and completes with BAD_OPCODE (R316; DEDUCED, log 167). It has no row of its own. -/
def Sys.runUndefined (s : Sys) (c r l : Nat) : Sys :=
  if h : c < 16384 ∧ r < 4 then
    let key : CmdKey := ⟨⟨c, h.1⟩, ⟨r, h.2⟩, l⟩
    ({ s with replay := none } : Sys).runCmd (.ctxQuery key) key (fun k => !opcodeDefined k.opcode) noRanges (fun _ _ _ s => .done s stBAD_OPCODE [])
  else s

/-- An accepted entry's command joins its ring. -/
def Sys.joinRing (s : Sys) (c r n : Nat) (e pay : Bytes) : Sys :=
  let fl := fieldN e 0xB 1
  let k0 : Cmd := { lay := n, ring := r, payload := pay, irq := fl.testBit 2, plain := fl.testBit 0, batch := 0, refs := [], progress := .waiting }
  let (x, id) := (s.ctx c).joinBatch k0.batchNumber k0.batchEnd
  let k := { k0 with batch := id, refs := s.liveHandles x.part k0, far := s.farHandle k0 }
  let g := (x.rings[r]?).getD Ring.empty
  let x := x.setRing r { g with cmds := g.cmds ++ [k] }
  let s := s.setCtx c { x with intakeHeld := x.intakeHeld || (x.isBase && x.key.isNone && k.opcode == 0x71) }
  if opcodeDefined k.opcode then s else s.runUndefined c r n

/-- Checks a slot whose TAIL bit is set and whose LAY_COUNT is EXPECT, then the next slot (R294). What lands while its context is being
evicted is only stored (R314). -/
def Sys.examine (s : Sys) (fuel c r i : Nat) : Sys :=
  match fuel with
  | 0 => s
  | fuel + 1 =>
    let x := s.ctx c
    let g := s.ring c r
    let e := g.slot i
    let n := fieldN e 0 8
    if !x.opened || !x.resident || x.evictFor.isSome || x.closing || x.intakeHeld || !g.tailAt i || n != g.expect then s else
    match s.checkEntry c r e with
    | .error why => (s.setRing c r (g.setTail i false)).rejectEntry c r n why
    | .ok pay =>
      let s := s.setRing c r { (g.setTail i false) with expect := n + 1 }
      let x := s.ctx c
      let s : Sys := { s.setCtx c { x with consumed := consumedAfter x.consumed x.seq0 (fieldN e 0xC 4), lastUse := s.useNext } with useNext := s.useNext + 1 }
      let s := if (fieldN e 0xB 1).testBit 1 then s else s.joinRing c r n e pay
      Sys.examine s fuel c r ((i + 1) % 128)

/-- Examines a ring from EXPECT. -/
def Sys.examineRing (s : Sys) (c r : Nat) : Sys := s.examine 128 c r (((s.ring c r).expect - 1) % 128)
def Sys.examineAll (s : Sys) (c : Nat) : Sys := foldFn 4 s (fun s r => s.examineRing c r)

/-- A completing write of a slot (R294, R299). -/
def Sys.completing (s : Sys) (c r i : Nat) : Sys :=
  let x := s.ctx c
  let g := s.ring c r
  let n := fieldN (g.slot i) 0 8
  let s := if x.resident then s else s.setCtx c { x with want := true }
  if n < g.expect then ((s.vfCount x.part 2).useRejected c).logIntake x.part 0x0203 (ctxRing c r) n
  else if g.expect + 128 ≤ n then (s.vfCount x.part 3).logIntake x.part 0x0204 (ctxRing c r) n
  else (s.setRing c r (g.setTail i true)).examine 128 c r i

/-- A read of `n` bytes of BAR2 (R284). -/
def bar2Read (n : Nat) : Bytes := List.replicate n 0

/-- A write to the aperture of a context lands (R284, R293). A frozen partition discards what its own contexts are sent (R320, R343); nothing
crosses a link that is held in reset (R451). -/
def Sys.aperture (s : Sys) (v c r off : Nat) (d : Bytes) : Sys :=
  let x := s.ctx c
  let P := s.part v
  if s.linkHeld || !P.enabled then s
  else if !x.opened ∨ x.part ≠ v then s.vfCount v 1
  else if P.state = .frozen ∨ 16384 ≤ off ∨ d.isEmpty then s
  else
    let d := d.take (16384 - off)
    let g := s.ring c r
    let arr := d.toArray
    let s := s.setRing c r { g with storage := g.storage.setFn 0 off d.length (fun i => (arr[i]?).getD 0) }
    if (off + d.length) % 128 = 0 then s.completing c r ((off + d.length) / 128 - 1) else s
def execIntakeEntry (vf : Fin 80) (ctx : Fin 16384) (ring : Fin 4) (offset : Nat) (data : Bytes) (s : State) : Host.Outcome State Fault Refusal :=
  s.onSys (fun y => y.aperture vf.val ctx.val ring.val offset data)

/-! Residency (R298 to R300) -/

/-- The reserved share and pool limit of a partition (R341). -/
def Partition.share (P : Partition) : Nat := fieldN P.config 0x12 1
def Partition.poolLimit (P : Partition) : Nat := fieldN P.config 0x13 1

/-- Resident contexts, as number and context. -/
def Sys.residents (s : Sys) : List (Nat × Context) := s.ctxs.filter (fun e => e.2.opened && e.2.resident)
/-- Slots that no share reserves. -/
def Sys.poolSlots (s : Sys) : Nat := 96 - ((List.range 80).map (fun p => if (s.part p).state = .absent then 0 else (s.part p).share)).sum
/-- Slots that a partition holds on its share. -/
def Sys.ownSlots (s : Sys) (p : Nat) : Nat := s.residents.countP (fun e => e.2.part == p && !e.2.pool)
/-- Slots that a partition holds beyond a share that has been lowered: they count as pool slots (R344; DEDUCED, log 164). -/
def Sys.excess (s : Sys) (p : Nat) : Nat := s.ownSlots p - (s.part p).share
/-- Pool slots that a partition holds, and that all hold. -/
def Sys.poolOf (s : Sys) (p : Nat) : Nat := s.residents.countP (fun e => e.2.part == p && e.2.pool) + s.excess p
def Sys.poolUsed (s : Sys) : Nat := ((List.range 80).map (fun p => s.poolOf p)).sum
/-- Whether a partition may hold one more pool slot: it has more wanting contexts than it holds slots (R298, R341; DEDUCED, log 59). -/
def Sys.mayPool (s : Sys) (p : Nat) : Bool :=
  decide (s.poolOf p < (s.part p).poolLimit) &&
  decide (s.residents.countP (fun e => e.2.part == p) < (s.ctxsOf p).countP (fun d => (s.ctx d).want))

/-- Whether a context is idle. -/
def Context.idle (x : Context) : Bool :=
  x.cmds.isEmpty && !x.mayWrite && x.rings.toList.all (fun g => (List.range 128).all (fun i => !(g.tailAt i && fieldN (g.slot i) 0 8 == g.expect)))

/-- The least recently used of some contexts. -/
def lru (l : List (Nat × Context)) : Option (Nat × Context) :=
  l.foldl (fun b e => match b with
    | none => some e
    | some x => if e.2.lastUse < x.2.lastUse then some e else b) none

/-- Whether a Bight has nothing dispatched and no open region. -/
def Sys.quiet (s : Sys) (b : Nat) : Bool :=
  let x := s.bight b
  x.region.isNone && x.drains.isEmpty && !s.waiting.any (fun h => h.bight == some b && h.cap.isSome)

/-- The Bights that run a context. -/
def Sys.bightsOf (s : Sys) (c : Nat) : List Nat := (List.range 80).filter (fun b => s.liveOn c b)

/-- Saves a quiet Bight to its context's area and leaves it idle; instructions that it has not dispatched are fetched again. -/
def Sys.saveBight (s : Sys) (b : Nat) : Sys :=
  let x := s.bight b
  match x.run with
  | none => s
  | some r =>
    let s : Sys := { s with waiting := s.waiting.filter (fun h => h.bight != some b) }
    (s.setSaved r.ctx b { x with stopped := false }).setBight b { Bight.idle with turn := r.ctx }

/-- A context takes a slot; its commands that were over complete, intake examines its rings, and its RUNs may take Bights. -/
def Sys.makeResident (s : Sys) (c : Nat) (pool : Bool) : Sys :=
  let p := (s.ctx c).part
  let s := (s.ctxsOf p).foldl (fun s d => if (s.ctx d).spared then s.setCtx d { s.ctx d with spared := false } else s) s
  let x := s.ctx c
  let s : Sys := { s.setCtx c { x with resident := true, pool := pool, want := false, lastUse := s.useNext } with useNext := s.useNext + 1 }
  (s.part p).hanks.foldl (fun s b => s.takeBight b) ((s.finishReady c).examineAll c)

/-- A context gives up its slot. -/
def Sys.giveSlot (s : Sys) (c : Nat) : Sys :=
  let bs := s.bightsOf c
  let s := bs.foldl (fun s b => s.saveBight b) s
  let s := s.setCtx c { s.ctx c with resident := false, pool := false, evictFor := none }
  bs.foldl (fun s b => s.takeBight b) s

/-- Stops or resumes the Bights of a context; those of a Strand die that drains stay stopped (R422). -/
def Sys.setStopped (s : Sys) (c : Nat) (v : Bool) : Sys :=
  (s.bightsOf c).foldl (fun s b => s.setBight b { s.bight b with stopped := v || !s.fnReady (fnStrand (b / 8)) }) s

/-- A context is not evicted after all: its Bights resume, intake examines what has landed meanwhile, and another context is chosen
(R300, R314). -/
def Sys.spare (s : Sys) (c : Nat) : Sys :=
  ((s.setCtx c { s.ctx c with evictFor := none, spared := true }).setStopped c false).examineAll c

/-- What the firmware does for a wanting context. -/
inductive Slot4 where
  /-- a free slot of the share or the pool -/
  | take (pool : Bool)
  /-- an idle context gives its slot -/
  | swap (d : Nat) (pool : Bool)
  /-- a busy context is stopped -/
  | evict (d : Nat)
  | none
  deriving DecidableEq, Repr

/-- Whether the open step region of its partition is a context's. -/
def Sys.opensSigma (s : Sys) (c : Nat) : Bool := (s.part (s.ctx c).part).sigma.any (fun z => z.ctx == c)
/-- Whether a busy context may be chosen to be evicted (R190, R300). -/
def Sys.evictable (s : Sys) (e : Nat × Context) : Bool := !e.2.spared && e.2.evictFor.isNone && !s.opensSigma e.1
/-- Whether a context has held its slot for a residency quantum, RESIDENCY_LOG2; how long it has is a free value (R299; log 165). -/
def Sys.heldQuantum (s : Sys) (c : Nat) : Bool := decide (2 ^ s.dv 0x2020 1 ≤ Config.slotAge s.free c)

/-- Idle contexts give up the slots that stand beyond a lowered share (R344). -/
def Sys.shedExcess (s : Sys) : Sys :=
  foldFn 80 s (fun s p => foldFn (s.excess p) s (fun s _ =>
    match lru (s.residents.filter (fun e => e.2.part == p && !e.2.pool && e.2.idle)) with
    | some e => s.giveSlot e.1
    | none => s))

/-- The first way that is available (R299). -/
def Sys.chooseSlot (s : Sys) (c : Nat) : Slot4 :=
  let p := (s.ctx c).part
  let P := s.part p
  let rs := s.residents
  let mine := rs.filter (fun e => e.2.part == p)
  let last := fun (_ : Unit) =>
    match lru (mine.filter (fun e => e.2.idle)) with
    | some e => Slot4.swap e.1 e.2.pool
    | none =>
      match lru (mine.filter (fun e => s.evictable e && s.heldQuantum e.1)) with
      | some e => Slot4.evict e.1
      | none => Slot4.none
  if s.ownSlots p < P.share then
    if rs.length < 96 then .take false
    else match lru (rs.filter (fun e => e.2.pool && e.2.idle)) with
      | some e => .swap e.1 false
      | none => match lru (rs.filter (fun e => e.2.pool && s.evictable e)) with
        | some e => .evict e.1
        | none => last ()
  else if s.poolUsed < s.poolSlots ∧ rs.length < 96 ∧ s.mayPool p then .take true
  else last ()

/-- The context of a slot that has fallen quiet gives it to another context. -/
def Sys.passSlot (s : Sys) (d c : Nat) : Sys :=
  let p := (s.ctx c).part
  let pool := if (s.ctx d).part = p then (s.ctx d).pool else !decide (s.ownSlots p < (s.part p).share)
  (s.giveSlot d).makeResident c pool

/-- CONTEXT_RESIDENT: tried again until a slot is free. A context that has opened a step region since it was stopped is not evicted:
its Bights resume, and another is chosen (R190, R300). -/
def Sys.resident (s : Sys) (i : Instr) (c : Nat) : Sys :=
  let x := s.ctx c
  let P := s.part x.part
  if !x.opened ∨ x.resident ∨ !x.want ∨ !(P.state = .joining ∨ P.state = .active) then s
  else
    let s := s.shedExcess
    match s.ctxs.find? (fun e => e.2.evictFor == some c) with
    | some (d, _) =>
      if s.opensSigma d then (s.spare d).hold i
      else if (s.bightsOf d).all s.quiet then s.passSlot d c
      else s.hold i
    | none => match s.chooseSlot c with
      | .take pool => s.makeResident c pool
      | .swap d pool => (s.giveSlot d).makeResident c pool
      | .evict d =>
        let s := (((s.took 1).setCtx d { s.ctx d with evictFor := some c }).setStopped d true)
        if (s.bightsOf d).all s.quiet then s.passSlot d c else s.hold i
      | .none => (s.took 1).hold i

def execContextResident (ctx : Fin 16384) (s : State) : Host.Outcome State Fault Refusal :=
  s.onSys (fun y => { y.resident (.contextResident ctx) ctx.val with replay := none })

/-- EVICTION_TIMEOUT: the context is not evicted, and another is chosen (R300). -/
def execEvictionTimeout (ctx : Fin 16384) (s : State) : Host.Outcome State Fault Refusal :=
  s.onSys (fun y =>
    let c := ctx.val
    let x := y.ctx c
    if x.evictFor.isSome then y.spare c else y)

/-! The Bight quantum (R301) -/

/-- Switches a quiet Bight to another resident context's RUN; one that is not quiet stops dispatching first. -/
def Sys.quantum (s : Sys) (i : Instr) (b : Nat) : Sys :=
  let x := s.bight b
  match x.run with
  | none => s
  | some r =>
    if (s.ctx r.ctx).evictFor.isSome then s
    else if !(s.ctxsOf r.part).any (fun c => c != r.ctx && s.wantsBight c b) then (if x.stopped then s.setBight b { x with stopped := !s.fnReady (fnStrand (b / 8)) } else s)
    else if s.quiet b then (s.saveBight b).takeBight b
    else (s.setBight b { x with stopped := true }).hold i

def execBightQuantumExpiry (b : Fin 80) (s : State) : Host.Outcome State Fault Refusal :=
  s.onSys (fun y => { y.quantum (.bightQuantumExpiry b) b.val with replay := none })

end Sys2Proof.Machine
end

