-- ==== Sys2Proof/Machine/Fuse.lean ====
section
/-!
DEFINITION. The fuses, the life-cycle state, the measurements and the certificates
(R347, R353, R361, R362, R364, R368 to R370, R372).
-/

namespace Sys2Proof

/-! How fuses behave (R370) -/

/-- The copies of a bit that take, of its first `n`. -/
def BurnF.takes (b : BurnF) (i n : Nat) : List Nat :=
  let m := match b.fail with | some (j, m) => if j = i then m else 15#4 | none => 15#4
  (List.range 4).filter (fun k => decide (k < n) && m.getLsbD k)
/-- How many copies of the next bit are programmed before power is lost: four, or fewer. -/
def BurnF.reach (b : BurnF) : Nat := match b.cut with | some n => min n 4 | none => 4
/-- After the next bit. -/
def BurnF.next (b : BurnF) : BurnF := { b with cut := b.cut.map (fun n => n - 4) }
/-- Power is lost now. -/
def BurnF.ends (b : BurnF) : Bool := b.cut == some 0
/-- What the next programming of the same command meets: the rest of the copies before power is lost; with none, what is ahead. -/
def BurnF.orElse (b ahead : BurnF) : BurnF := ⟨ahead.fail, if b.cut.isSome then b.cut else ahead.cut⟩

end Sys2Proof

namespace Sys2Proof.Machine

/-! Fuses (R368, R370) -/

/-- A resolved word: a bit is set when at least three of its four copies are. -/
def resolve (v : Vector (BitVec 64) 4) : BitVec 64 :=
  (v[0] &&& v[1] &&& v[2]) ||| (v[0] &&& v[1] &&& v[3]) ||| (v[0] &&& v[2] &&& v[3]) ||| (v[1] &&& v[2] &&& v[3])

/-- One bit of a word. -/
def bitWord (i : Nat) : BitVec 64 := 1#64 <<< i

/-- How the programming of bits ends: every bit resolves set; a bit keeps resolving clear; power is lost part-way. -/
inductive Burnt where
  | done
  | failed (bit : Nat)
  | cut
  deriving DecidableEq, Repr

/-- Bit `i` programmed in the copies given. -/
def burnBit (v : Vector (BitVec 64) 4) (i : Nat) (copies : List Nat) : Vector (BitVec 64) 4 :=
  v.mapIdx (fun k w => if copies.contains k then w ||| bitWord i else w)

/-- Programs bits in order (R370): the copies, how it ends, and what is left of the fuses' behaviour. -/
def burnAll (v : Vector (BitVec 64) 4) (bits : List Nat) (b : BurnF) : Vector (BitVec 64) 4 × Burnt × BurnF :=
  match bits with
  | [] => (v, .done, b)
  | i :: t =>
    let v := burnBit v i (b.takes i b.reach)
    if b.reach < 4 then (v, .cut, b)
    else if !(resolve v).getLsbD i then (v, .failed i, b)
    else burnAll v t b.next

/-- Programs bits of a word of which only the resolved bits are held (DESIGN CHOICE, log 198). -/
def burnWord {n : Nat} (w : BitVec n) (bits : List Nat) (b : BurnF) : BitVec n × Burnt × BurnF :=
  match bits with
  | [] => (w, .done, b)
  | i :: t =>
    let w := if 3 ≤ (b.takes i b.reach).length then w ||| BitVec.twoPow n i else w
    if b.reach < 4 then (w, .cut, b)
    else if !w.getLsbD i then (w, .failed i, b)
    else burnWord w t b.next

/-! Life cycle (R369) -/

inductive LcState where
  | blank | test | production | eol
  /-- completion-only, toward 1 Test, 2 Production, 3 End of life -/
  | partial_ (dest : Nat)
  deriving DecidableEq, Repr

def wordTest : BitVec 64 := 0xFFFF#64
def wordProduction : BitVec 64 := 0xFFFFFFFF#64
def wordEol : BitVec 64 := BitVec.allOnes 64

def lcDecode (w : BitVec 64) : LcState :=
  if w = 0#64 then .blank else if w = wordTest then .test else if w = wordProduction then .production else if w = wordEol then .eol
  else if w &&& ~~~wordTest = 0#64 then .partial_ 1 else if w &&& ~~~wordProduction = 0#64 then .partial_ 2 else .partial_ 3

def Fuses.word (f : Fuses) : BitVec 64 := resolve f.lc
def Fuses.lcState (f : Fuses) : LcState := lcDecode f.word
/-- The done-word resolves with every bit set. -/
def Fuses.wiped (f : Fuses) : Bool := resolve f.done == BitVec.allOnes 64
/-- LIFE_CYCLE of reports. -/
def Fuses.lifeByte (f : Fuses) : Nat := match f.lcState with | .test => 1 | .production => 2 | _ => 0
/-- A bit of the DS-written marker is set. -/
def Fuses.dsWritten (f : Fuses) : Bool := f.dsMark != 0#16
/-- The thermometer's count: one more than the highest set bit (R364). -/
def Fuses.amendCount (f : Fuses) : Nat := foldFn 64 0 (fun c i => if f.thermo.getLsbD i then i + 1 else c)

/-- The bits that programming toward a codeword passes over, in the order of R370. -/
def codeBits (dest : Nat) : List Nat :=
  match dest with
  | 1 => List.range 16
  | 2 => List.range 32
  | _ => (List.range 64).reverse
/-- Programs the bits of a codeword that the life-cycle word lacks. -/
def Fuses.commit (f : Fuses) (dest : Nat) (b : BurnF) : Fuses × Burnt × BurnF :=
  let r := burnAll f.lc ((codeBits dest).filter (fun i => !f.word.getLsbD i)) b
  ({ f with lc := r.1 }, r.2)

/-- The wipe of the fuses (R379): the done-word last. -/
def Fuses.wipe (f : Fuses) (b : BurnF) : Fuses × Burnt × BurnF :=
  let r := burnAll f.done (List.range 64) b
  ({ f with ds := BitVec.allOnes 256, dsMark := BitVec.allOnes 16, thermo := BitVec.allOnes 64, trimWiped := true, done := r.1 }, r.2)

/-- DS programmed with a drawn value, then its marker (R372). -/
def Fuses.writeDs (f : Fuses) (v : BitVec 256) (b : BurnF) : Fuses × Burnt × BurnF :=
  let r := burnWord (f.dsMark ++ f.ds) ((List.range 272).filter (fun i => v.getLsbD i || decide (256 ≤ i))) b
  ({ f with ds := r.1.setWidth 256, dsMark := r.1.extractLsb' 256 16 }, r.2)
/-- Bits `lo` to `hi - 1` of the thermometer programmed (R364). -/
def Fuses.raise (f : Fuses) (lo hi : Nat) (b : BurnF) : Fuses × Burnt × BurnF :=
  let r := burnWord f.thermo ((List.range hi).filter (fun i => decide (lo ≤ i))) b
  ({ f with thermo := r.1 }, r.2)

/-- What the fuses do at the programming after this one (log 191). -/
def State.nextAhead (s : State) : State :=
  { s with fuses := { s.fuses with ahead := ⟨Config.burnFail s.sys.free, Config.burnCut s.sys.free⟩ }, sys := s.sys.took 1 }

/-! Measurements and keys (R347, R361) -/

/-- Exactly `n` bytes. -/
def pad (n : Nat) (b : Bytes) : Bytes := (b ++ List.replicate n 0).take n

def digest (b : Bytes) : Bytes := keyBytes (Config.sha3 b)
def mRom : Bytes := keyBytes Config.romMeasure
def Trust.mAmend (t : Trust) : Bytes := digest (t.inForce.getD [])
def Partition.mConfig (P : Partition) : Bytes := digest P.config
def Partition.mPolicy (P : Partition) : Bytes := digest P.policy

def debugByte (t : Trust) : Bytes := [if t.debug then 1 else 0]
/-- What AK and BINDING depend on. -/
def Fuses.binding (f : Fuses) (t : Trust) : Bytes := mRom ++ t.mAmend ++ leBytes 1 f.lifeByte ++ debugByte t

def serialBytes : Bytes := leBytes 16 Config.serial.toNat
def Fuses.akSeed (f : Fuses) (t : Trust) : BitVec 256 := Config.kmac (keyBytes f.ds) (f.binding t) "CZ3220 ATTEST"
def Fuses.dikSeed (f : Fuses) : BitVec 256 := Config.kmac (keyBytes f.ds) serialBytes "CZ3220 DEVICE ID"
def Fuses.dikPublic (f : Fuses) : Bytes := pad 1312 (Config.dsaPk f.dikSeed)

/-- The configuration key (R347). -/
def Fuses.configKey (f : Fuses) : BitVec 256 := Config.kmac (keyBytes f.ds) [] "CZ3220 CONFIG"

/-! The banks of the configuration flash (R401) -/

/-- The bytes that a bank's tag is over (DESIGN CHOICE, log 193). -/
def Bank.bytes (b : Bank) : Bytes :=
  leBytes 8 b.seqNo ++ b.vals.flatMap (fun e => leBytes 4 e.1 ++ leBytes 4096 e.2) ++ (match b.image with | some i => 1 :: i | Option.none => [0])
/-- The tag of a bank under the configuration key. -/
def Bank.tagUnder (b : Bank) (f : Fuses) : BitVec 256 := Config.kmac (keyBytes f.configKey) b.bytes "CZ3220 PERSIST"
/-- Whether a bank verifies. -/
def Bank.ok (b : Bank) (f : Fuses) : Bool := b.written && b.tag == b.tagUnder f
/-- The valid bank with the higher sequence number. -/
def Dict.newer (d : Dict) (f : Fuses) : Option (Fin 2) :=
  match d.banks[0].ok f, d.banks[1].ok f with
  | true, true => some (if d.banks[0].seqNo < d.banks[1].seqNo then 1 else 0)
  | true, false => some 0
  | false, true => some 1
  | false, false => none
/-- A bank with its tag. -/
def Bank.seal (b : Bank) (f : Fuses) : Bank := { b with written := true, tag := b.tagUnder f }

/-! Certificates (R362) -/

/-- The signed part of a certificate. -/
def certBody (kind : Nat) (issuer binding pk : Bytes) : Bytes :=
  leBytes 4 0x45435A43 ++ leBytes 1 kind ++ [0, 0, 0] ++ serialBytes ++ digest issuer ++ pad 32 binding ++ pad 1312 pk

/-- Derives AK: a new certificate, signed with DIK. -/
def Sys.deriveAk (s : Sys) (f : Fuses) : Sys :=
  let body := certBody 4 f.dikPublic (digest (f.binding s.trust)) (Config.dsaPk (f.akSeed s.trust))
  { s.took 1 with trust := { s.trust with akCert := body ++ pad 2420 (Config.dsaSign f.dikSeed body s.drawn) } }

/-! The session key pair (R353, R363) -/

/-- A partition's pending session key pair is discarded. -/
def Sys.dropEk (s : Sys) (p : Nat) : Sys := s.setPart p { s.part p with ekPair := none }
/-- Every partition's is. -/
def Sys.dropEks (s : Sys) : Sys := foldFn 80 s (fun s p => s.dropEk p)

/-! The device nonce (R381) -/

def Sys.redrawNonce (s : Sys) : Sys := { s.took 1 with trust := { s.trust with nonce := s.drawn } }

/-- A checked request record: the nonce is redrawn and failures in a row are counted. -/
def Sys.recordChecked (s : Sys) (passed : Bool) : Sys :=
  let s := s.redrawNonce
  { s with trust := { s.trust with fails := if passed then 0 else s.trust.fails + 1 } }

end Sys2Proof.Machine
end

