-- ==== Sys2Proof/Machine/Request.lean ====
section
/-!
DEFINITION. Dictionary requests: abort codes, roles, when the module answers, responses (R375, R379, R386 to R390, R392 to R395).
-/

namespace Sys2Proof

/-- Whom a path's requests come from: for a datagram, its source address and port (R388). -/
def Path.source (p : Path) : Path := match p with | .mgmt a n _ _ => .mgmt a n 0 0 | p => p

end Sys2Proof

namespace Sys2Proof.Machine

/-! Abort codes (R395) -/

def abBAD_KIND : Nat := 0x01010001
def abRESERVED_SET : Nat := 0x01010002
def abBAD_LENGTH : Nat := 0x01010003
def abBAD_SEGMENT : Nat := 0x01010004
def abTRANSFER_IN_USE : Nat := 0x01010005
def abTRANSFER_IDLE : Nat := 0x01010006
def abNO_ENTRY : Nat := 0x01010007
def abOUT_OF_RANGE : Nat := 0x01010008
def abRECORD_INVALID : Nat := 0x01010009
def abSTEP_PASSED : Nat := 0x0101000A
def abNO_SET : Nat := 0x0101000B
def abNO_ACCESS : Nat := 0x02010001
def abWRONG_STATE : Nat := 0x02010002
def abBAD_SIGNATURE : Nat := 0x02010003
def abNONCE_LOCKOUT : Nat := 0x02010004
def abREQUIRES_QUIESCE : Nat := 0x03010001
def abSTAGED_PENDING : Nat := 0x03010002
def abUNIT_REFUSED : Nat := 0x03010003
def abBUSY : Nat := 0x03010004
def abCOMMIT_PLACED : Nat := 0x03010005
def abNUMBER_IN_USE : Nat := 0x04010001
def abHANK_NOT_FREE : Nat := 0x04010002
def abHANK_NOT_READY : Nat := 0x04010003
def abMARGINING : Nat := 0x04010004
def abSHARE_EXCEEDED : Nat := 0x04010005
def abCREATE_RECORD_INVALID : Nat := 0x04010006
def abENTROPY : Nat := 0x04010007
def abTRANSITION_NOT_ALLOWED : Nat := 0x05010001
def abPRECONDITION : Nat := 0x05010002
def abSTRAP : Nat := 0x05010003
def abFUSE_FAILURE : Nat := 0x05010004
def abDS_WRITTEN : Nat := 0x05010005

/-- Power is lost inside an operation, and no response is sent (R370, R384). -/
def noAnswer : Nat := 2 ^ 32

/-- The DICT_READ or DICT_WRITE status of an abort code (R338, R395). -/
def abStatus (code : Nat) : Nat :=
  if code = 0 then stOK else if code / 65536 = 0x0201 then stDENIED else if code / 65536 = 0x0301 then stREQUIRES_QUIESCE else stBAD_VALUE

/-! Roles (R387) -/

/-- Who asks: a role, and for the context role its partition and whether it holds the owner's rights. -/
inductive Who where
  | operator
  | context (part : Nat) (owner : Bool)
  | vendor
  deriving DecidableEq, Repr

/-- When the management port grants the vendor debug role. -/
def State.vendorOk (s : State) : Bool :=
  match s.fuses.lcState with
  | .blank => true
  | .test => true
  | .production => s.sys.trust.debug
  | .partial_ d => d != 3
  | .eol => false

/-- The role that a request on a path holds; none for a role that it does not hold. -/
def State.who (s : State) (path : Path) (role : Nat) : Option Who :=
  match path, role with
  | .mgmt _ _ _ _, 0 => some .operator
  | .mgmt _ _ _ _, 3 => if s.vendorOk then some .vendor else none
  | .inband _, 0 => some .operator
  | .window fn, 0 => if fn = 80 then some .operator else none
  | .window fn, 2 => if fn < 80 then some (.context fn false) else none
  | _, _ => none

/-! When the dictionary answers (R373, R375, R379, R416) -/

/-- Whether an index holds identity entries, readiness entries, or life-cycle entries. -/
def isIdentity (index : Nat) : Bool := index == 0x1000
def isReadiness (index : Nat) : Bool := decide (0x1200 ≤ index) && decide (index < 0x1300)
def isLifeCycle (index : Nat) : Bool := decide (0x8000 ≤ index) && decide (index < 0x9000)

/-- Whether a path reaches the dictionary: a datagram only at the port's own address and MGMT_UDP_PORT (R388). -/
def Sys.reaches (s : Sys) (path : Path) : Bool :=
  let up := fun (f : Nat) => (s.fn f).state == .ready || (s.fn f).state == .degraded || (s.fn f).state == .draining
  match path with
  | .window fn => up fnHost && !s.plat.perst &&
      (fn == 80 || (decide (fn < 80) && (s.part fn).enabled))
  | .mgmt _ _ to_ toPort => to_ == s.dv 0x1100 2 && toPort == s.dv 0x1100 3
  | _ => true

/-- What the module does with a request for an index. -/
inductive Answer where
  /-- no response -/
  | silent
  /-- the entry does not run in this life-cycle state -/
  | shut
  | serve
  deriving DecidableEq, Repr

def State.answer (s : State) (path : Path) (index : Nat) : Answer :=
  if !s.sys.reaches path then .silent else
  match (s.sys.fn fnBowline).state with
  | .failed => if isIdentity index || isReadiness index then .serve else .silent
  | .ready =>
    (match s.fuses.lcState with
     | .partial_ _ => if isIdentity index || isLifeCycle index then .serve else .shut
     | .eol => if !s.fuses.wiped then (if isLifeCycle index then .serve else .silent) else if isIdentity index || isLifeCycle index then .serve else .shut
     | _ => .serve)
  | _ => .silent

/-! Responses (R392) -/

/-- The 24-byte header. -/
def msgHeader (kind role transfer index sub flags length code data : Nat) : Bytes :=
  leBytes 1 kind ++ leBytes 1 role ++ leBytes 2 transfer ++ leBytes 2 index ++ leBytes 1 sub ++ leBytes 1 flags ++ leBytes 4 length
    ++ leBytes 4 code ++ leBytes 8 data

/-! The windows of BAR0 (R390) -/

/-- Bytes written from the start of an area. -/
def overWrite (old new : Bytes) : Bytes := new ++ old.drop new.length
/-- The areas of a function's window. -/
def Sys.areas (s : Sys) (fn : Nat) : Window := s.dict.windows.get Window.empty fn
def Sys.setAreas (s : Sys) (fn : Nat) (x : Window) : Sys := { s with dict := { s.dict with windows := s.dict.windows.set Window.empty fn x } }
/-- The byte that a read of the window finds at an offset; every other offset reads as 0. -/
def Sys.windowByte (s : Sys) (fn off : Nat) : Byte :=
  let x := s.areas fn
  if off < 0xFF8 then x.request.getD off 0#8
  else if off < 0x1000 then (leBytes 8 (s.dict.submits.get 0 fn)).getD (off - 0xFF8) 0#8
  else if off < 0x1FF8 then x.response.getD (off - 0x1000) 0#8
  else if off < 0x2000 then (leBytes 8 x.count).getD (off - 0x1FF8) 0#8
  else 0#8

/-- Sends a response on its path; to a window it is written, then RESPONSE_COUNT. -/
def Sys.reply (s : Sys) (path : Path) (d : Bytes) : Sys :=
  let s : Sys := { s with dict := { s.dict with replies := s.dict.replies ++ [⟨path, d⟩] } }
  match path with
  | .window fn => s.setAreas fn { s.areas fn with response := overWrite (s.areas fn).response d, count := s.dict.submits.get 0 fn }
  | _ => s

/-- Whether a request is taken from its path: a window's SUBMIT must be one above the last value accepted (R390). -/
def Sys.submitOk (s : Sys) (path : Path) (n : Nat) : Bool :=
  match path with
  | .window fn => n == s.dict.submits.get 0 fn + 1
  | _ => true
/-- The request is taken; a window's request area holds its bytes. -/
def Sys.submitted (s : Sys) (path : Path) (d : Bytes) : Sys :=
  match path with
  | .window fn =>
    let s := s.setAreas fn { s.areas fn with request := overWrite (s.areas fn).request d }
    { s with dict := { s.dict with submits := s.dict.submits.set 0 fn (s.dict.submits.get 0 fn + 1) } }
  | _ => s

/-- Whether a transfer number is open on a path. -/
def Sys.transferOpen (s : Sys) (path : Path) (t : Nat) : Bool := s.dict.transfers.any (fun x => x.path == path && x.id == t)

/-- A write to an entry that has a row of its own: the checks that every request passes, the effect, the response. A window's request area
holds the header of an expedited WRITE (DESIGN CHOICE, log 196). -/
def State.request (s : State) (r : ReqF) (index sub : Nat) (may : Who → Bool) (op : Who → State → State × Nat) : State :=
  if !s.sys.reaches r.path || !s.sys.submitOk r.path r.submit then s else
  let s := { s with sys := s.sys.submitted r.path (msgHeader 2 r.role r.transfer index sub 1 0 0 0) }
  let done := fun (t : State) (code : Nat) =>
    if code = noAnswer then t else { t with sys := t.sys.reply r.path.source (msgHeader 0x82 r.role r.transfer index sub 0 0 code 0) }
  match s.answer r.path index with
  | .silent => s
  | .shut => done s abWRONG_STATE
  | .serve =>
    if r.role ≠ 0 ∧ r.role ≠ 2 ∧ r.role ≠ 3 then done s abBAD_KIND
    else if s.sys.transferOpen r.path.source r.transfer then done s abTRANSFER_IN_USE
    else match s.who r.path r.role with
      | none => done s abNO_ACCESS
      | some w => if may w then (let t := op w s; done t.1 t.2) else done s abNO_ACCESS

/-- The operator; the vendor debug role; either. -/
def Who.isOp (w : Who) : Bool := w == .operator
def Who.isVendor (w : Who) : Bool := w == .vendor
def Who.opOrVendor (w : Who) : Bool := w.isOp || w.isVendor

/-- An effect on the units that answers an abort code. -/
def State.onCode (s : State) (f : Sys → Sys × Nat) : State × Nat := let t := f s.sys; ({ s with sys := t.1 }, t.2)

end Sys2Proof.Machine
end

