-- ==== Sys2Proof/Machine/Parts.lean ====
section
/-!
DEFINITION. Creation, configuration and destruction of partitions (R206, R241, R292, R341 to R345, R350, R361).
-/

namespace Sys2Proof.Machine

/-! Records (R341, R350) -/

def allZero (b : Bytes) : Bool := b.all (· == 0)

/-- Reserved fields of a configuration record are zero. -/
def configReserved (b : Bytes) : Bool := allZero (sliceB b 2 2) && allZero (sliceB b 0xE 2) && allZero (sliceB b 0x1A 2) && allZero (sliceB b 0x20 32)
/-- The fields of a configuration record are in range and it names its partition. -/
def configRanges (p : Nat) (b : Bytes) : Bool :=
  let f := fieldN b
  f 0 2 == p && decide (1 ≤ f 0x10 2) && decide (f 0x10 2 ≤ 16384) && decide (1 ≤ f 0x12 1) && decide (f 0x12 1 ≤ 96) && decide (f 0x13 1 ≤ 95)
    && decide (f 0x14 4 ≤ 1572864) && decide (f 0x18 1 ≤ 64) && f 0x19 1 % 4 == 0 && decide (4 ≤ f 0x19 1) && decide (f 0x19 1 ≤ 64)
    && decide (f 0x18 1 + f 0x19 1 ≤ 128)

/-- A braid policy record is well formed. -/
def policyOk (b : Bytes) : Bool :=
  let n := fieldN b 8 1
  let outs := fieldN b 0xC 2
  let progs := fieldN b 0xE 2
  decide (0x220 ≤ b.length) && b.length == 0x220 + 24 * outs + 32 * progs && decide (1 ≤ n) && decide (n ≤ 16)
    && decide (1 ≤ fieldN b 9 1) && decide (fieldN b 9 1 ≤ n) && decide (fieldN b 0xA 1 < n) && decide (fieldN b 0xB 1 < 4)
    && decide (outs ≤ 64) && decide (progs ≤ 256) && allZero (sliceB b 0x10 16)
    && allZero (sliceB b (0x20 + 32 * n) (32 * (16 - n)))
    && (List.range outs).all (fun i =>
      let e := sliceB b (0x220 + 24 * i) 24
      decide (fieldN e 0 1 ≤ 2) && allZero (sliceB e 1 1) && allZero (sliceB e 4 4) && decide (1 ≤ fieldN e 0x10 8))

/-- The hanks of a configuration record. -/
def configHanks (b : Bytes) : List Nat := maskPositions (BitVec.ofNat 80 (fieldN b 4 10))

/-! Margining (R219) -/

/-- The hanks that a target, stack 0 to 19 or package 0x40 + p, serves. -/
def targetHanks (t : Nat) : List Nat := if t < 20 then (List.range 4).map (4 * t + ·) else (List.range 8).map (8 * (t - 0x40) + ·)
/-- The tier of a target. -/
def targetTier (t : Nat) : Nat := if t < 20 then 0 else 1
def Margin.running (m : Margin) : Bool := m.status == 1
def Sys.margins (s : Sys) (h : Nat) : Bool := s.plat.margin.running && (targetHanks s.plat.margin.target).contains h

/-! Regions (R241) -/

/-- A memory region reads as zeros, and no slice holds a line of it. -/
def MemSys.clearRegion (m : MemSys) (t h : Nat) : MemSys :=
  let d := m.data.dropRange (physKey t h 0) unitBytes
  if t = 0 then { m with data := d.dropRange (physKey 3 h 0) unitBytes, cache := m.cache.delRange (cacheKey h 0) (2 ^ 26)
                         copies := m.copies.filter (fun e => e.from_ != h) }
  else { m with data := d }

/-- One region reads as zeros, under counters at 0: keyed anew, or under no key set. -/
def Sys.clearRegion (s : Sys) (t h : Nat) (keys : Option KeySet) : Sys :=
  ({ s with mem := s.mem.clearRegion t h }).setRegion t h ((keys.map (fun k => Seize.keying k t h)).getD Seize.empty)

/-- A slice holds nothing: slack buffer, cache and window. -/
def Sys.clearSlice (s : Sys) (h : Nat) : Sys :=
  { s with mem := { s.mem with data := s.mem.data.dropRange (physKey 2 h 0) sliceBytes, copies := s.mem.copies.filter (fun e => e.to_ != h) } }

/-- Draws the key sets of a hank's two regions, whose keying begins. -/
def Sys.keyHankRegions (s : Sys) (h : Nat) : Sys :=
  (((s.clearRegion 0 h (some (drawKeys s.free))).clearRegion 1 h (some (drawKeys (s.free + 3)))).clearSlice h).took 6

/-- Both regions of a hank are usable. -/
def Sys.keyedHank (s : Sys) (h : Nat) : Sys :=
  [0, 1].foldl (fun s t => s.setRegion t h { s.region t h with keyed := true }) s

/-! Creation (R342, R343) -/

/-- The reasons of R342 in their order; 0 when there is none. -/
def Sys.createCheck (s : Sys) (p : Nat) : Nat :=
  let P := s.part p
  let hs := configHanks P.config
  if P.state ≠ .absent then abNUMBER_IN_USE
  else if hs.isEmpty ∨ hs.any (fun h => (s.holder h).isSome) then abHANK_NOT_FREE
  else if hs.any (fun h => !s.hankReady h) then abHANK_NOT_READY
  else if hs.any s.margins then abMARGINING
  else if 96 < P.share + ((List.range 80).map (fun q => if (s.part q).state = .absent then 0 else (s.part q).share)).sum then abSHARE_EXCEEDED
  else if !configReserved P.config || !configRanges p P.config || !policyOk P.policy then abCREATE_RECORD_INVALID
  else if s.noEntropy then abENTROPY
  else 0

/-- Whether partitions may exist in this life-cycle state (R373, R375). -/
def LcState.operates (l : LcState) : Bool := l == .test || l == .production

/-- CREATE. -/
def Sys.create (s : Sys) (f : Fuses) (p : Nat) : Sys × Nat :=
  if !f.lcState.operates then (s, abWRONG_STATE) else
  let code := s.createCheck p
  if code ≠ 0 then (s, code) else
  let P := s.part p
  let hs := configHanks P.config
  let s := hs.foldl (fun s h => s.keyHankRegions h) s
  (s.setPart p { Partition.absent with state := .keying, config := P.config, policy := P.policy, hanks := hs }, 0)

/-- Keying completes: the base context exists, in the PLAIN mode of R292. -/
def Sys.keyingComplete (s : Sys) (p : Nat) : Sys :=
  let P := s.part p
  if P.state ≠ .keying then s else
  let s := P.hanks.foldl (fun s h => s.keyedHank h) s
  let c := ((List.range 16384).find? (fun c => !(s.ctx c).opened)).getD 0
  let k := P.hanks.length
  let s := [1, 2, 3].foldl (fun s i => s.setDv (dictKey (dictPart p 4) i) (dictDefault (dictKey (dictPart p 4) i))) s
  let s := s.setPart p { P with state := .joining, base := c }
  let x : Context := { Context.closed with opened := true, part := p, isBase := true, hankMask := BitVec.ofNat 80 (2 ^ k - 1)
                                           area := (s.freeArea p k).getD [], lastUse := s.useNext }
  { s.setCtx c x with useNext := s.useNext + 1, saved := s.saved.delRange (80 * c) 80 }
def execRegionKeyingComplete (part : Fin 80) (s : State) : Host.Outcome State Fault Refusal := s.onSys (fun y => y.keyingComplete part.val)

/-- PARTITION_CMD 1. -/
def State.create (p : Nat) (s : State) : State × Nat := s.onCode (fun y => y.entropySettled.create s.fuses p)
def execCreate (r : ReqF) (part : Fin 80) (s : State) : Host.Outcome State Fault Refusal :=
  .next (s.request r (dictPart part.val 2) 1 Who.isOp (fun _ => State.create part.val))

/-! Destruction (R345) -/

/-- The flows of a partition become FREE, their keys zeroised. -/
def Sys.freeFlows (s : Sys) (p : Nat) : Sys :=
  (s.flowsOf p).foldl (fun s f => (s.endFlow f .free stCANCELLED 1).setFlow f Flow.empty) s

/-- Whether another partition still holds one of a partition's weight sets: by an import, or by a batch that pins a version of it. -/
def Sys.wsetHeldElsewhere (s : Sys) (p i : Nat) : Bool :=
  s.wsetImports p i != 0 || s.ctxs.any (fun e => e.2.part != p && e.2.batches.any (fun b => b.pins.any (fun n => n.part == p && n.wset == i)))

/-- DESTROY, in the order of R345 up to the clearing: what is shared with other partitions stays until they let go of it. -/
def Sys.destroy (s : Sys) (p : Nat) : Sys × Nat :=
  let P := s.part p
  if P.state = .absent ∨ P.state = .destroying then (s, abWRONG_STATE) else
  let s := (s.cutSigma p stCUT 0#8 0xFF).endAll p stCANCELLED 1
  let s := s.freeFlows p
  let s := (s.ctxsOf p).foldl (fun s c => s.flushAll c) s
  let s := (s.zeroKeys p).zeroRegions p
  let cs := s.ctxsOf p
  let s := (cs.flatMap (fun c => s.bightsOf c)).foldl (fun s b => s.setBight b Bight.idle) s
  let s := cs.foldl (fun s c => { s.setCtx c Context.closed with saved := s.saved.delRange (80 * c) 80 }) s
  let s := s.discardSet p
  let P := s.part p
  let own := P.objs.map (fun e => (e.1, { e.2 with live := false }))
  -- imports that this partition holds end
  let ends := P.objs.filterMap (fun e => e.2.source)
  let s := s.setPart p { P with state := .destroying, objs := own.filter (fun e => e.2.source.isNone), fences := [], loads := [], sigma := none,
                                 wsets := P.wsets.filter (fun e => e.2.source.isNone && s.wsetHeldElsewhere p e.1) }
  let s := ends.foldl (fun s q => s.releaseObj q.1 q.2) s
  ((P.wsets.filterMap (fun e => e.2.source)).foldl (fun s q => s.releaseVersions q.1) s, 0)

/-- Whether another partition still holds one of a partition's objects or weight sets. -/
def Sys.importedElsewhere (s : Sys) (p : Nat) : Bool :=
  (List.range 80).any (fun q => q != p && (s.part q).objs.any (fun e => e.2.source.any (fun x => x.1 == p)))
    || (s.part p).wsets.any (fun e => e.2.source.isNone && s.wsetHeldElsewhere p e.1)

/-- Clearing completes: number and hanks are free. -/
def Sys.clearingComplete (s : Sys) (p : Nat) : Sys :=
  let P := s.part p
  if P.state ≠ .destroying ∨ s.importedElsewhere p then s else
  let s := P.hanks.foldl (fun s h => ((s.clearRegion 0 h none).clearRegion 1 h none).clearSlice h) s
  s.setPart p Partition.absent
def execRegionClearingComplete (part : Fin 80) (s : State) : Host.Outcome State Fault Refusal := s.onSys (fun y => y.clearingComplete part.val)

/-- PARTITION_CMD 2. -/
def State.destroy (p : Nat) (s : State) : State × Nat := s.onCode (fun y => y.destroy p)
def execDestroy (r : ReqF) (part : Fin 80) (s : State) : Host.Outcome State Fault Refusal :=
  .next (s.request r (dictPart part.val 2) 1 Who.isOp (fun _ => State.destroy part.val))

/-! The configuration record (R206, R341, R344) -/

/-- A slice is laid out anew: dirty lines are written back, the cache is invalid, window and slack buffer are zero. -/
def Sys.relayHank (s : Sys) (h : Nat) : Sys :=
  let lines := s.mem.cache.filterMap (fun e => if e.1 / 2 ^ 26 = h then some (e.1 % 2 ^ 26) else none)
  (lines.foldl (fun s l => s.evictLine h l) s).clearSlice h

/-- A write of CONFIG: any record before creation; R344's fields, and R206's when the partition is quiet, while it exists. A change of the
measurement discards the pending session key pair (R353). -/
def Sys.writeConfig (s : Sys) (p : Nat) (b : Bytes) : Sys × Nat :=
  let P := s.part p
  if P.state = .absent then (if !configReserved b then (s, abRESERVED_SET) else (s.setPart p { P with config := b }, 0))
  else if !configReserved b then (s, abRESERVED_SET)
  else if !configRanges p b then (s, abRECORD_INVALID)
  else if sliceB b 0 0x10 ≠ sliceB P.config 0 0x10 then (s, abWRONG_STATE)
  else if 96 < fieldN b 0x12 1 + ((List.range 80).map (fun q => if (s.part q).state = .absent ∨ q = p then 0 else (s.part q).share)).sum then (s, abSHARE_EXCEEDED)
  else
    let moved := sliceB b 0x18 2 != sliceB P.config 0x18 2
    if moved && (s.residents.any (fun e => e.2.part == p)) then (s, abREQUIRES_QUIESCE) else
    let s := s.setPart p { P with config := b, ekPair := if b = P.config then P.ekPair else none }
    (if moved then P.hanks.foldl (fun s h => s.relayHank h) s else s, 0)

end Sys2Proof.Machine
end

