-- ==== Sys2Proof/Machine/Platform.lean ====
section
/-!
DEFINITION. Functions, boot and resets, temperature, power, margining
(R215 to R222, R279, R285, R401, R406 to R426, R430, R451, R457).
-/

namespace Sys2Proof.Machine

/-! Functions (R413) -/

/-- Every function number. -/
def functions : List Nat :=
  [fnBowline, fnHost] ++ (List.range 10).map fnStrand ++ (List.range 20).map fnStack ++ (List.range 6).map fnHawser
    ++ (List.range 5).map fnCleat ++ (List.range 10).map fnPackage
def isFunction (f : Nat) : Bool := functions.contains f
def isStrand (f : Nat) : Bool := decide (0x10 ≤ f) && decide (f < 0x1A)
def isStack (f : Nat) : Bool := decide (0x20 ≤ f) && decide (f < 0x34)
def isHawser (f : Nat) : Bool := decide (0x40 ≤ f) && decide (f < 0x46)
def isCleat (f : Nat) : Bool := decide (0x50 ≤ f) && decide (f < 0x55)
def isPackage (f : Nat) : Bool := decide (0x60 ≤ f) && decide (f < 0x6A)

/-- The main clock domain of a function. -/
def mainDomain (f : Nat) : Nat :=
  if f = fnBowline then domBowline else if f = fnHost then domHost
  else if isStrand f then domArith (f - 0x10) else if isStack f then domMemc (f - 0x20)
  else if isHawser f then domLink (f - 0x40) else if isCleat f then domCleat (f - 0x50) else domSlow (f - 0x60)

/-- The hanks that a function holds (R415). -/
def fnHanks (f : Nat) : List Nat := (List.range 80).filter (fun h => (hankFns h).contains f)

/-- Strand die to which a Hawser die attaches (R10). -/
def hawserStrand (w : Nat) : Nat := if w = 5 then 9 else 2 * w

def Sys.fnUp (s : Sys) (f : Nat) : Bool := let st := (s.fn f).state; st == .ready || st == .degraded

/-- Whether every function that one depends on is there (R413, R414). -/
def Sys.depsUp (s : Sys) (f : Nat) : Bool :=
  if f = fnHost then s.fnUp fnBowline && !s.plat.perst
  else if isStrand f then s.fnUp fnBowline
  else if isStack f then s.fnUp (fnStrand ((f - 0x20) / 2))
  else if isHawser f then s.fnUp (fnStrand (hawserStrand (f - 0x40)))
  else if isCleat f then s.fnReady (fnStrand (2 * (f - 0x50))) || s.fnReady (fnStrand (2 * (f - 0x50) + 1))
  else if isPackage f then s.fnUp (fnCleat ((f - 0x60) / 2))
  else false

/-- ENABLE of a function. -/
def Sys.fnEnabled (s : Sys) (f : Nat) : Bool := s.dv (0x1200 + f) 2 == 1

/-! State changes (R363, R419) -/

/-- The tier of a stack or package, and its number among the controllers. -/
def fnTier (f : Nat) : Nat := if isStack f then 0 else 1
def fnCtl (f : Nat) : Nat := if isStack f then f - 0x20 else 20 + (f - 0x60)

/-- A memory wakes: what an uncontained error had lost is listed unknown (R430), and the values in force hold (R398). -/
def Sys.wakeMemory (s : Sys) (f : Nat) : Sys :=
  let t := fnTier f
  let s := (fnHanks f).foldl (fun s h =>
    let z := s.region t h
    z.doubt.foldl (fun s e => s.listUnknown t h e.1 e.2) (s.setRegion t h { z with doubt := [] })) s
  { s with plat := { s.plat with kept := s.plat.kept.delRange (8 * fnCtl f) 8 } }

/-- What a function loses as it switches off (R423): its update shares, or its temperature; what it keeps, and what its drain has saved, apart. -/
def Sys.loseState (s : Sys) (f : Nat) : Sys :=
  if isCleat f then { s with cleats := s.cleats.delRange (cleatKey (f - 0x50) 0) 80 }
  else if isStack f || isPackage f then { s with plat := { s.plat with therm := s.plat.therm.del (fnCtl f) } }
  else s

/-- A function enters a state: a record, and the session key pairs of the partitions on it are discarded when its reset begins (R353, R363,
R427). Its local counts are 0 when it leaves OFF (R19). FAIL_CAUSE stays until it next wakes (R420). -/
def Sys.enter (s : Sys) (f : Nat) (st : FnState) (pending : Bool) (cause : Nat) : Sys :=
  let code := match st with | .off => 0 | .waking => 1 | .ready => 2 | .degraded => 3 | .draining => 4 | .failed => 5
  let cause := match st with | .waking => 0 | .failed => cause | .degraded => cause | _ => (s.fn f).cause
  let s := (if (s.fn f).state = .off then s.zeroCounts f else s).setFn f ⟨st, pending, cause⟩
  let s := s.logRec { domain := domBowline, unit := f, part := partNone, location := locNone, event := 0x0603, arg0 := code, arg1 := cause, slack := false, maker := some fnBowline }
  let s : Sys := { s with plat := { s.plat with offBound := s.plat.offBound.filter (fun g => g != f) } }
  let s := match st with
    | .waking => if isStack f || isPackage f then s.wakeMemory f else s
    | .off => s.loseState f
    | _ => s
  if st = .off ∨ st = .waking ∨ st = .draining then
    foldFn 80 s (fun s p => if (s.part p).hanks.any (fun h => (fnHanks f).contains h) then s.dropEk p else s)
  else s

/-- FUNCTION_WAKE. -/
def Sys.wake (s : Sys) (lc : LcState) (f : Nat) : Sys :=
  if isFunction f ∧ f ≠ fnBowline ∧ lc.operates ∧ (s.fn f).state = .off ∧ s.fnEnabled f ∧ s.depsUp f then s.enter f .waking false 0 else s
def execFunctionWake (fn : Nat) (s : State) : Host.Outcome State Fault Refusal := s.onSys (fun y => y.wake s.fuses.lcState fn)

/-- The Bights of a Strand die. -/
def dieBights (d : Nat) : List Nat := (List.range 8).map (8 * d + ·)

/-- A function other than the Bowline die has passed its tests. -/
def Sys.becomeReady (s : Sys) (f : Nat) (st : FnState) (cause : Nat) : Sys :=
  let s := s.enter f st false cause
  if isHawser f then [2 * (f - 0x40), 2 * (f - 0x40) + 1].foldl (fun s q => s.portSet q) s
  else if isStrand f then
    (dieBights (f - 0x10)).foldl (fun s b => (s.setBight b { s.bight b with stopped := false }).takeBight b) s
  else s

/-- WAKE_LIMIT. -/
def Sys.wakeLimit (s : Sys) (f : Nat) : Sys := if (s.fn f).state = .waking then s.enter f .failed false 1 else s
def execWakeLimit (fn : Nat) (s : State) : Host.Outcome State Fault Refusal := s.onSys (fun y => y.wakeLimit fn)

/-! The persisted set (R401, R405) -/

/-- Entries with Persist "yes" that the dictionary stores. -/
def persisted (key : Nat) : Bool :=
  let i := key / 256
  let sub := key % 256
  (i == 0x1100 && decide (1 ≤ sub) && decide (sub ≤ 5)) || i == 0x1101 || (decide (0x1110 ≤ i) && decide (i < 0x111C) && decide (sub ≤ 0xB)) ||
  (decide (0x1200 ≤ i) && decide (i < 0x1300) && sub == 2) || i == 0x2000 || (i == 0x2010 && sub != 4) || i == 0x2020 ||
  (i == 0x8002 && sub == 1) || (i == 0x8003 && sub == 2)

/-- Writes the persisted set into the older bank, under its tag, once DS is written. -/
def Sys.persist (s : Sys) (f : Fuses) : Sys :=
  if !f.dsWritten then s else
  let d := s.dict
  let (i, n) : Fin 2 × Nat := match d.newer f with
    | some j => (if j = 0 then 1 else 0, (d.banks[j]).seqNo + 1)
    | none => (0, 1)
  let b : Bank := { Bank.none with seqNo := n, vals := d.vals.filter (fun e => persisted e.1), image := s.trust.flash }
  { s with dict := { d with banks := d.banks.set i (b.seal f) } }

/-- Stores a value, and the persisted set when the entry is persisted. -/
def Sys.storeDv (s : Sys) (f : Fuses) (key v : Nat) : Sys := let s := s.setDv key v; if persisted key then s.persist f else s

/-! Amendment images (R364) -/

def amendVersion (b : Bytes) : Nat := fieldN b 6 1
/-- The public key that verifies an image's signature is Lomnel's amendment key, whose digest the ROM holds. -/
def amendSigned (b : Bytes) : Bool :=
  let n := fieldN b 0x28 4
  decide (0x30 + n + 2420 = b.length) && Config.digestVerify Config.amendKeyDigest (b.take (0x30 + n)) (sliceB b (0x30 + n) 2420)
/-- Whether an image may come into force at a thermometer count. -/
def amendOk (b : Bytes) (c : Nat) : Bool :=
  amendSigned b && fieldN b 0 4 == 0x4D415A43 && sliceB b 8 32 == mRom && fieldN b 4 2 == 1 && fieldN b 7 1 == 0 && fieldN b 0x2C 4 == 0 &&
  decide (fieldN b 0x28 4 ≤ 259676) && decide (1 ≤ amendVersion b) && decide (amendVersion b ≤ 63) && decide (c ≤ amendVersion b)

/-! Boot and resets (R401, R416 to R418) -/

/-- What survives a loss of power: the flash, the level of PERST_N, and what the outside has already received. -/
def Sys.afterLoss (s : Sys) : Sys :=
  { Sys.cold with
    hostOut := s.hostOut, msixOut := s.msixOut, free := s.free, useNext := s.useNext
    fab := { Fabric.empty with wire := s.fab.wire }
    dict := { Dict.empty with replies := s.dict.replies, adverts := s.dict.adverts, banks := s.dict.banks }
    plat := { Plat.dark with perst := s.plat.perst, latched := s.plat.latched } }

/-- Function 0x00 leaves reset. -/
def Sys.startBowline (s : Sys) : Sys := (s.zeroCounts fnBowline).setFn fnBowline ⟨.waking, false, 0⟩

/-- The warm reset: Logline and error counters are kept. `cause`: 0 life cycle, 1 watchdog. -/
def Sys.warm (s : Sys) (cause : Nat) : Sys :=
  let t := s.afterLoss
  let t : Sys := { t with
    log := { s.log with firsts := [], shared := [] }, wraps := s.wraps
    dict := { t.dict with i3cAddr := s.dict.i3cAddr }
    plat := { t.plat with powered := true, reduced := s.plat.reduced, power := { Power.zero with low := s.plat.power.low, level := if s.plat.power.low then 7 else 0 } } }
  let t := t.startBowline
  if s.log.frozen then t else t.logBowline partNone locNone 0x0702 cause 0

/-- Loss of power (R407). `rise`: V56_IN rose above the overvoltage level; else it fell below the falling lockout, which
also ends the wait of R457. -/
def Sys.shutdown (s : Sys) (rise : Bool) : Sys :=
  let t := s.afterLoss
  { t with plat := { t.plat with latched := t.plat.latched && rise } }
def execShutdown (rise : Bool) (s : State) : Host.Outcome State Fault Refusal := s.onSys (fun y => y.shutdown rise)

/-- A die reading above 115 °C (R457). -/
def Sys.overtemp (s : Sys) : Sys := if s.plat.powered then (let t := s.afterLoss; { t with plat := { t.plat with latched := true } }) else s
def execOvertempShutdown (s : State) : Host.Outcome State Fault Refusal := s.onSys (fun y => y.overtemp)

/-- V56_IN rises above the rising lockout. -/
def Sys.boot (s : Sys) : Sys :=
  if s.plat.powered || s.plat.latched then s else ({ s with plat := { s.plat with powered := true } } : Sys).startBowline
def execBoot (s : State) : Host.Outcome State Fault Refusal := s.onSys (fun y => y.boot)

/-- The Bowline watchdog expires. -/
def execWatchdogExpiry (s : State) : Host.Outcome State Fault Refusal := s.onSys (fun y => if y.plat.powered then y.warm 1 else y)

/-- The End-of-life wipe of keys and flash (R379). -/
def Sys.wipeKeys (s : Sys) : Sys :=
  let s := foldFn 80 s (fun s p => let s := (s.zeroKeys p).zeroRegions p; (s.flowsOf p).foldl (fun s f => s.zeroFlow f) s)
  { s with dict := { s.dict with banks := Vector.replicate 2 Bank.none, vals := s.dict.vals.filter (fun e => !persisted e.1) }
           trust := { s.trust with flash := none, inForce := none, amendState := 0, akCert := [] } }

/-! Programming fuses (R370, R379) -/

/-- A fuse failure leaves a record; where power is lost part-way, what does not survive that is lost. -/
def State.burnt (s : State) (how : Burnt) : State :=
  match how with
  | .done => s
  | .failed b => { s with sys := s.sys.logBowline partNone locNone 0x0704 b 0 }
  | .cut => { s with sys := s.sys.afterLoss }

/-- The wipe: keys, fuses and flash, and the done-word last. -/
def State.wipe (s : State) (b : BurnF) : State × Burnt :=
  let r := s.fuses.wipe b
  (({ s with fuses := r.1, sys := s.sys.wipeKeys } : State).burnt r.2.1, r.2.1)

/-- The amendment check at boot (R364); none in completion-only mode (R375). -/
def Sys.bootAmend (s : Sys) (f : Fuses) : Sys :=
  if !(f.lcState == .blank || f.lcState.operates) then s else
  match s.trust.flash with
  | none => s
  | some b =>
    if amendOk b f.amendCount then { s with trust := { s.trust with inForce := some b, amendState := 2 } }
    else ({ s with trust := { s.trust with amendState := 3 } } : Sys).logBowline partNone locNone 0x0703 (amendVersion b) 0

/-- What a boot programs: the rest of an interrupted End-of-life commit, then the wipe while the done-word is incomplete (R376, R379). How
the fuses behave is a free value (log 191); false when power is lost part-way. -/
def State.bootFuses (s : State) : State × Bool :=
  let b := s.fuses.ahead
  if s.fuses.lcState = .partial_ 3 then
    (let r := s.fuses.commit 3 b
     let s := ({ s with fuses := r.1 } : State).nextAhead
     match r.2.1, r.2.2.ends with
     | .done, false => let w := s.wipe (r.2.2.orElse s.fuses.ahead); (w.1.nextAhead, w.2 != .cut)
     | .failed i, _ => (s.burnt (.failed i), true)
     | _, _ => (s.burnt .cut, false))
  else if s.fuses.lcState = .eol ∧ !s.fuses.wiped then (let w := s.wipe b; (w.1.nextAhead, w.2 != .cut))
  else (s, true)

/-- The persisted set of the valid bank with the higher sequence number is in force; with neither, a record (R401). -/
def Sys.loadBank (s : Sys) (f : Fuses) : Sys :=
  match s.dict.newer f with
  | some i => { s with dict := { s.dict with vals := (s.dict.banks[i]).vals }, trust := { s.trust with flash := (s.dict.banks[i]).image } }
  | none => s.logBowline partNone locNone 0x0705 0 0

/-- What function 0x00 has done by the time it is READY. -/
def State.bootDone (s : State) : State :=
  match s.bootFuses with
  | (s, false) => s
  | (s, true) =>
  let f := s.fuses
  let y := (s.sys.enter fnBowline .ready false 0).loadBank f
  let y := y.bootAmend f
  let free_ := f.lcState == .blank || f.lcState == .test
  let y : Sys := { y with trust := { y.trust with debug := free_, scope := if free_ then 0xF else 0, fails := 0 } }
  { s with sys := (y.redrawNonce).deriveAk f }

/-- FUNCTION_READY: `cause` is 0 when every test passes, else the FAIL_CAUSE. A WAKING that is bound for OFF ends there (R419; log 200). -/
def State.functionReady (s : State) (f cause : Nat) : State :=
  if (s.sys.fn f).state ≠ .waking then s else
  if s.sys.plat.offBound.contains f then { s with sys := s.sys.enter f .off false 0 } else
  if cause = 0 then (if f = fnBowline then s.bootDone else { s with sys := s.sys.becomeReady f .ready 0 })
  else if (isHawser f && (cause == 0x101 || cause == 0x102)) || (f == fnHost && cause == 0x103) then
    { s with sys := s.sys.becomeReady f .degraded cause }
  else { s with sys := s.sys.enter f .failed false cause }
def execFunctionReady (fn cause : Nat) (s : State) : Host.Outcome State Fault Refusal := .next (s.functionReady fn cause)

/-! The host link (R285, R413, R419, R420) -/

/-- PERST_N is asserted. -/
def Sys.assertPerst (s : Sys) : Sys :=
  let s : Sys := ({ s with plat := { s.plat with perst := true } } : Sys).resetHost
  match (s.fn fnHost).state with
  | .off => s
  | .failed => s
  | _ => s.enter fnHost .off false 0
def execPerstNAssert (s : State) : Host.Outcome State Fault Refusal := s.onSys (fun y => y.assertPerst)

/-- PERST_N is deasserted: a host link that has failed wakes, and operator events made while it was held are written. The release of a PCIe
reset is not the HOST domain's leaving reset: its local count is 0 only as function 0x01 leaves OFF (R19; DESIGN CHOICE, log 195). -/
def Sys.releasePerst (s : Sys) (lc : LcState) : Sys :=
  if !s.plat.perst then s else
  let s := ({ s with plat := { s.plat with perst := false } } : Sys).flushOpEvents
  if (s.fn fnHost).state = .failed ∧ lc.operates ∧ s.fnUp fnBowline then s.enter fnHost .waking false 0 else s.wake lc fnHost
def execPerstNDeassert (s : State) : Host.Outcome State Fault Refusal := s.onSys (fun y => y.releasePerst s.fuses.lcState)

/-- The host link retrains: to ×16 at 64.0 GT/s, or below. -/
def Sys.retrain (s : Sys) (full : Bool) : Sys :=
  let s : Sys := { s with plat := { s.plat with reduced := !full } }
  match (s.fn fnHost).state, full with
  | .ready, false => s.enter fnHost .degraded false 0x103
  | .degraded, true => s.enter fnHost .ready false 0
  | _, _ => s
def execHostLinkRetrain (full : Bool) (s : State) : Host.Outcome State Fault Refusal := s.onSys (fun y => y.retrain full)

/-! ENABLE and draining (R419, R421 to R425) -/

/-- A drain begins: the Bights of a Strand die stop dispatching. -/
def Sys.startDrain (s : Sys) (f : Nat) : Sys :=
  let s := s.enter f .draining false 0
  if isStrand f then (dieBights (f - 0x10)).foldl (fun s b => s.setBight b { s.bight b with stopped := true }) s else s

/-- A write of ENABLE. -/
def State.setEnable (f : Nat) (on : Bool) (s : State) : State × Nat :=
  let key := dictKey (0x1200 + f) 2
  let x := s.sys.fn f
  if !isFunction f then (s, abNO_ENTRY)
  else if !on ∧ (f = fnBowline ∨ f = fnHost) then (s, abWRONG_STATE)
  else if !on ∧ s.sys.plat.margin.running ∧ (f = (if s.sys.plat.margin.target < 20 then fnStack s.sys.plat.margin.target else fnPackage (s.sys.plat.margin.target - 0x40))) then (s, abBUSY)
  else if on ∧ x.state = .waking ∧ s.sys.plat.offBound.contains f then (s, 0)
  else
    let y := s.sys.storeDv s.fuses key (if on then 1 else 0)
    let y := if on then (if x.state = .draining then y.setFn f { x with pending := true } else y)
      else match x.state with
        | .off => y
        -- the test step that runs ends first
        | .waking => { y with plat := { y.plat with offBound := y.plat.offBound.filter (fun g => g != f) ++ [f] } }
        | .ready => y.startDrain f
        | .degraded => y.startDrain f
        | .draining => y.setFn f { x with pending := false }
        | .failed => y.enter f .off false 0
    ({ s with sys := y }, 0)
def execEnable (r : ReqF) (fn : Nat) (on : Bool) (s : State) : Host.Outcome State Fault Refusal :=
  .next (s.request r (0x1200 + fn) 2 Who.isOp (fun _ => State.setEnable fn on))

/-- Whether the step region of a partition has work on some Bights: RUNs of it that started there, or items that it holds there (R188, R422). -/
def Sys.workOn (s : Sys) (p : Nat) (bs : List Nat) : Bool :=
  match (s.part p).sigma with
  | some z => z.lockers.any (fun k => bs.contains k.hank) || z.items.any (fun i => bs.contains i.hank)
  | none => false

/-- Whether requests stand in the queue of a memory's controller. -/
def Sys.queued (s : Sys) (f : Nat) : Bool :=
  let here := fun (t h : Nat) => t == fnTier f && (fnHanks f).contains h
  s.waiting.any (fun w => w.asks.any (fun a => here a.1 a.2)) ||
    s.mem.posted.any (fun e => (s.runsOf e.part e.addr e.blob.data.length).any (fun r => here (keyKind r.1) (keyHank r.1)))

/-- Whether a function has finished the work of its drain. -/
def Sys.drained (s : Sys) (f : Nat) : Bool :=
  if isStrand f then
    (dieBights (f - 0x10)).all s.quiet && (List.range 80).all (fun p => !s.workOn p (dieBights (f - 0x10)))
  else if isHawser f then
    s.fab.flows.all (fun e => !(flowDie e.1 == f - 0x40 && e.2.state != .free))
  else if isCleat f then (s.begunOn (f - 0x50)).isEmpty
  else if isStack f || isPackage f then !s.queued f
  else true

/-- What a drain leaves: Bights saved, dirty lines and Thimble items written back, ports DISABLED. -/
def Sys.finishDrain (s : Sys) (f : Nat) : Sys :=
  if isStrand f then
    let s := (dieBights (f - 0x10)).foldl (fun s b => s.saveBight b) s
    let lines := s.mem.cache.filterMap (fun e => if (fnHanks f).contains (e.1 / 2 ^ 26) then some e.1 else none)
    let s := lines.foldl (fun s k => s.evictLine (k / 2 ^ 26) (k % 2 ^ 26)) s
    { s with mem := { s.mem with copies := s.mem.copies.filter (fun e => !(fnHanks f).contains e.to_) } }
  else if isHawser f then [2 * (f - 0x40), 2 * (f - 0x40) + 1].foldl (fun s q => s.setPort q ⟨.disabled, 0⟩) s
  else if isStack f || isPackage f then
    let t := if isStack f then 0 else 1
    (fnHanks f).foldl (fun s h => s.setRegion t h (s.region t h).flush) s
  else s

/-- DRAIN_COMPLETE: held until the last item is done; then OFF, and WAKING when an enable is pending and the dependencies are met. -/
def Sys.drainComplete (s : Sys) (i : Instr) (f : Nat) : Sys :=
  let x := s.fn f
  if x.state ≠ .draining then s
  else if !s.drained f then s.hold i
  else
    let s := (s.finishDrain f).enter f .off false 0
    if x.pending ∧ s.depsUp f then s.enter f .waking false 0 else s
def execDrainComplete (fn : Nat) (s : State) : Host.Outcome State Fault Refusal :=
  s.onSys (fun y => { y.drainComplete (.drainComplete fn) fn with replay := none })

/-! The pre-rings (R443) -/

/-- A unit whose pre-ring has an entry free again first writes PRE_RING_LOST. -/
def Sys.lostRecord (s : Sys) (unit : Nat) : Sys :=
  let n := s.log.lost.get 0 unit
  if n = 0 ∨ 240 ≤ (s.log.pre.get [] unit).length then s else
  ({ s with log := { s.log with lost := s.log.lost.set 0 unit 0 } } : Sys).logRec
    { domain := mainDomain unit, unit := unit, part := partNone, location := locNone, event := 0x0801, arg0 := n, arg1 := 0, slack := false }

/-- The Bowline die takes the oldest record of a unit's pre-ring. -/
def Sys.logTake (s : Sys) (unit : Nat) : Sys :=
  match s.log.pre.get [] unit with
  | [] => s
  | r :: t => (({ s with log := { s.log with pre := s.log.pre.set [] unit t } } : Sys).takeRecord r).lostRecord unit

/-! Uncontained errors (R419, R430) -/

/-- Every Bight of a Strand die stops and its unsaved state is lost. -/
def Sys.loseStrand (s : Sys) (f : Nat) : Sys :=
  let bs := dieBights (f - 0x10)
  -- step regions with work on the die are cut
  let s := foldFn 80 s (fun s p => if s.workOn p bs then s.cutSigma p stCUT 0#8 0xFF else s)
  -- commands with work running on the die complete with POISONED
  let runs := (bs.filterMap (fun b => (s.bight b).run.map (fun r => (r.ctx, r.ring, r.lay)))).eraseDups
  let s := runs.foldl (fun (s : Sys) (r : Nat × Nat × Nat) => match s.cmdAt r.1 r.2.1 r.2.2 with
    | some k => s.endCmd r.1 k stPOISONED 1 true
    | none => s) s
  let s := bs.foldl (fun s b => let t := (s.bight b).turn
    { s with waiting := s.waiting.filter (fun h => h.bight != some b) }.setBight b { Bight.idle with turn := t }) s
  -- dirty and window lines stay, poisoned
  let s := bs.foldl (fun s h =>
    let dirty := s.mem.cache.filterMap (fun e => if e.1 / 2 ^ 26 = h ∧ e.2.dirty then some (e.1 % 2 ^ 26) else none)
    let lines := s.mem.cache.filterMap (fun e => if e.1 / 2 ^ 26 = h then some (e.1 % 2 ^ 26) else none)
    let s := dirty.foldl (fun s l => { s with mem := { s.mem with data := s.mem.data.poisonRange (physKey 0 h (256 * l)) 256 .poisoned } }) s
    let s := lines.foldl (fun s l => s.evictLine h l) s
    match s.holder h with
    | some p =>
      let w := (s.part p).windowBytes
      { s with mem := { s.mem with data := s.mem.data.poisonRange (physKey 2 h (sliceBytes - w)) w .poisoned } }
    | none => s) s
  { s with mem := { s.mem with copies := s.mem.copies.filter (fun e => !bs.contains e.to_) } }

/-- What the Thimble cache held is lost: the pages that each dirty item covers are listed unknown at the next wake (R248, R430). -/
def Sys.loseThimble (s : Sys) (t : Nat) (hs : List Nat) : Sys :=
  hs.foldl (fun s h =>
    let z := s.region t h
    s.setRegion t h { z with held := [], doubt := z.doubt ++ (z.held.filter (fun e => e.2)).map (fun e => (thimbleLevel e.1, thimbleIndex e.1)) }) s

/-- The UPDATEs whose descriptor at hand has begun on a die stop there, with POISONED (R160, R430). -/
def Sys.loseCleat (s : Sys) (c : Nat) : Sys :=
  (s.begunOn c).foldl (fun s w => match s.cmdAt w.1 w.2.1 w.2.2 with
    | some k => s.endCmd w.1 k stPOISONED 1 true
    | none => s) s

/-- The Bowline die takes every record of its own pre-ring: the trigger of its own error freezes the ring before it stops (R430, R444). -/
def Sys.takeOwn (s : Sys) : Sys := foldFn (s.log.pre.get [] fnBowline).length s (fun s _ => s.logTake fnBowline)

/-- An uncontained error of a running function. -/
def Sys.uncontained (s : Sys) (f store : Nat) : Sys :=
  let st := (s.fn f).state
  if !(st = .ready ∨ st = .degraded ∨ st = .draining) then s else
  let s := (s.bump errUncontained 1).logRec
    { domain := mainDomain f, unit := f, part := partNone, location := locNone, event := 0x0102, arg0 := store, arg1 := 7, slack := false }
  let s := if f = fnHost then s.resetHost
    else if isStrand f then s.loseStrand f
    else if isStack f then s.loseThimble 0 (fnHanks f)
    else if isPackage f then s.loseThimble 1 (fnHanks f)
    else if isCleat f then s.loseCleat (f - 0x50)
    else if f = fnBowline then s.takeOwn
    else if isHawser f then
      let s := (s.fab.flows.filterMap (fun e => if flowDie e.1 = f - 0x40 then some e.1 else none)).foldl (fun s g => s.loseFlow g) s
      [2 * (f - 0x40), 2 * (f - 0x40) + 1].foldl (fun s q => s.setPort q ⟨.disabled, 0⟩) s
    else s
  s.enter f .failed false 7
def execUncontainedError (fn store : Nat) (s : State) : Host.Outcome State Fault Refusal := s.onSys (fun y => y.uncontained fn store)

/-! Throttling and its notices (R215, R279, R409) -/

def Sys.thermOf (s : Sys) (u : Nat) : Therm := s.plat.therm.get Therm.zero u
def Sys.setTherm (s : Sys) (u : Nat) (x : Therm) : Sys := { s with plat := { s.plat with therm := s.plat.therm.set Therm.zero u x } }
/-- The die level: the higher of the two stacks, CRITICAL counted as 3. -/
def Sys.dieLevel (s : Sys) (d : Nat) : Nat := min 3 (max (s.thermOf (2 * d)).level (s.thermOf (2 * d + 1)).level)
def Sys.highestLevel (s : Sys) : Nat := foldFn 10 0 (fun m d => max m (s.dieLevel d))
def Sys.throttled (s : Sys) : Bool :=
  decide (s.plat.power.level ≠ 0) || decide (s.highestLevel ≠ 0) || (List.range 30).any (fun u => (s.thermOf u).level == 4)

/-- A SLOW frame of one collective (R279). -/
def slowNotice (node level : Nat) (c : Coll) : Frame :=
  { kind := 1, first := true, last := true, coll := true, seq := 0, collId := c.plan.collId, msg := 0, offset := 0, poison := 0
    payload := leBytes 4 node ++ leBytes 1 level ++ [0, 0, 0] ++ leBytes 4 c.plan.collId ++ leBytes 4 c.plan.pos }

/-- The module becomes throttled or ceases to be: SLOW frames, and an event. -/
def Sys.notice (s : Sys) : Sys :=
  let on := s.throttled
  let level := if on then s.highestLevel else 0
  let s := s.fab.colls.foldl (fun s c => (s.openSends c.part [c.plan.upTx, c.plan.downTx]).foldl (fun s f => s.enqueue f [slowNotice s.node level c]) s) s
  if on then s.eventAll 0x0001 (leBytes 1 level) else s.eventAll 0x0002 []

/-- A change of level or power, with the notices of R279. -/
def Sys.withNotice (s : Sys) (g : Sys → Sys) : Sys := let t := g s; if t.throttled = s.throttled then t else t.notice

/-! Temperature (R215 to R218, R222) -/

/-- WARN and CRIT of a stack or package. -/
def Sys.warnC (s : Sys) (u : Nat) : Int := s.limitOf u (if u < 20 then 2 else 5)
def Sys.critC (s : Sys) (u : Nat) : Int := s.limitOf u (if u < 20 then 3 else 6)
/-- Domain and function of a controller. -/
def unitFn (u : Nat) : Nat := if u < 20 then fnStack u else fnPackage (u - 20)
/-- The margining target that a controller is. -/
def unitTarget (u : Nat) : Nat := if u < 20 then u else 0x40 + (u - 20)

/-- The regions of a margining target are as fresh (R219, R241). -/
def Sys.refresh (s : Sys) (t : Nat) : Sys := (targetHanks t).foldl (fun s h => s.clearRegion (targetTier t) h none) s

/-- The record of line or step `i` from what was measured: LINE is its number, for channel or sub-channel times lines plus line too, and the
reserved bytes are 0 (R220, R221). -/
def marginRecord (i : Nat) (b : Bytes) : Bytes := leBytes 2 i ++ sliceB b 2 4 ++ [0, 0] ++ sliceB b 8 8
/-- The records `i .. i + n - 1`, in line or step order. -/
def marginBuffer (i n : Nat) (b : Bytes) : Bytes :=
  match n with
  | 0 => []
  | n + 1 => marginRecord i (b.take 16) ++ marginBuffer (i + 1) n (b.drop 16)

/-- Records of a complete run. -/
def Margin.records (m : Margin) : Nat := if m.supply then 21 else if m.target < 20 then 2304 else 192

/-- A run ends early: its records so far are kept, the target is re-initialised (R222). -/
def Sys.endRun (s : Sys) (status : Nat) : Sys :=
  let m := s.plat.margin
  let kept := (Config.runRecords s.free)
  ({ s.took 1 with plat := { s.plat with margin := { m with status := status, buffer := marginBuffer 0 (min m.records (kept.length / 16)) kept } } } : Sys).refresh m.target

/-- A new level: a record; a margining run of the target ends when it leaves level 0. -/
def Sys.setLevel (s : Sys) (u level : Nat) : Sys :=
  let leaves := (s.thermOf u).level = 0 ∧ level ≠ 0
  let s := s.setTherm u { s.thermOf u with level := level }
  let s := s.logRec { domain := mainDomain (unitFn u), unit := unitFn u, part := partNone, location := locNone, event := 0x0601,
                      arg0 := if u < 20 then u else u - 20, arg1 := level, slack := false }
  if s.plat.margin.running ∧ s.plat.margin.target = unitTarget u ∧ leaves then s.endRun 4 else s

/-- Whether a controller runs. -/
def Sys.measures (s : Sys) (u : Nat) : Bool := let st := (s.fn (unitFn u)).state; st == .ready || st == .draining

/-- A reading in °C. -/
def Sys.reading (s : Sys) (u : Nat) (raw : Int) : Sys :=
  if !s.measures u then s else
  let x := s.thermOf u
  let s := s.setTherm u { x with sum := x.sum + raw, count := x.count + 1 }
  if x.level ≠ 4 ∧ s.critC u ≤ raw then s.setLevel u 4
  else if x.level = 4 ∧ raw < s.critC u - 3 then s.setLevel u 3
  else s
def execThermalReading (unit : Fin 30) (raw : Int) (s : State) : Host.Outcome State Fault Refusal :=
  s.onSys (fun y => y.withNotice (fun y => y.reading unit.val raw))

/-- The end of a window of 2^20 cycles. -/
def Sys.thermalWindow (s : Sys) (u : Nat) : Sys :=
  if !s.measures u then s else
  let x := s.thermOf u
  let s := s.setTherm u { x with sum := 0, count := 0, lastSum := x.sum, lastCount := x.count }
  if x.count = 0 then s
  else if x.level ≤ 2 ∧ s.warnC u * x.count ≤ x.sum then s.setLevel u (x.level + 1)
  else if 1 ≤ x.level ∧ x.level ≤ 3 ∧ x.sum < (s.warnC u - 3) * x.count then s.setLevel u (x.level - 1)
  else s
def execThermalWindowEnd (unit : Fin 30) (s : State) : Host.Outcome State Fault Refusal :=
  s.onSys (fun y => y.withNotice (fun y => y.thermalWindow unit.val))

/-! Power (R409 to R411) -/

def Sys.setPower (s : Sys) (x : Power) : Sys := { s with plat := { s.plat with power := x } }
/-- Level 7 at once. -/
def Sys.level7 (s : Sys) (why : Nat) (x : Power) : Sys := (s.setPower { x with level := 7 }).logBowline partNone locNone 0x0602 why 0

/-- A sample of the input power. -/
def Sys.sample (s : Sys) (ma mv : Nat) : Sys :=
  let x := s.plat.power
  let uw := ma * mv
  let y := { x with sum := x.sum + uw, count := x.count + 1, millivolts := mv, microwatts := uw }
  if 7700000000 < uw then s.level7 0 { y with spike := true } else s.setPower y
def execPowerSample (milliamps millivolts : Nat) (s : State) : Host.Outcome State Fault Refusal :=
  s.onSys (fun y => y.withNotice (fun y => if y.plat.powered then y.sample milliamps millivolts else y))

/-- The end of a control window. -/
def Sys.powerWindow (s : Sys) : Sys :=
  let x := s.plat.power
  let lim := s.dv 0x2000 1 * 1000000 * x.count
  let low95 := decide (x.count ≠ 0) && decide (x.sum * 100 < lim * 95)
  let below := if low95 then min 8 (x.below + 1) else 0
  let level := if x.low || x.spike || x.count == 0 then x.level
    else if lim < x.sum then min 7 (x.level + 1)
    else if below = 8 then x.level - 1
    else x.level
  s.setPower { x with level := level, below := below, sum := 0, count := 0, spike := false }
def execPowerWindowEnd (s : State) : Host.Outcome State Fault Refusal := s.onSys (fun y => y.withNotice (fun y => if y.plat.powered then y.powerWindow else y))

/-- V56_IN falls below 51.0 V. -/
def execLowInput (s : State) : Host.Outcome State Fault Refusal :=
  s.onSys (fun y => y.withNotice (fun y => if y.plat.powered then y.level7 1 { y.plat.power with low := true } else y))
/-- V56_IN returns to 52.0 V or above: R410 governs again. -/
def execV56InReturn (s : State) : Host.Outcome State Fault Refusal :=
  s.onSys (fun y => y.setPower { y.plat.power with low := false })

/-! Margining (R219 to R222, R426) -/

/-- Starts a run. -/
def Sys.startRun (s : Sys) (supply : Bool) : Sys × Nat :=
  let t := s.dv 0x9000 2
  let f := if t < 20 then fnStack t else fnPackage (t - 0x40)
  if !s.fnReady f then (s, abWRONG_STATE)
  else if (targetHanks t).any (fun h => (s.holder h).isSome) then (s, abREQUIRES_QUIESCE)
  else if s.plat.margin.running then (s, abBUSY)
  else ({ s with plat := { s.plat with margin := { status := 1, supply := supply, target := t, buffer := [] } } }, 0)
/-- MARGIN_CMD 3. -/
def Sys.abortRun (s : Sys) : Sys × Nat := if s.plat.margin.running then (s.endRun 3, 0) else (s, abWRONG_STATE)

def execTimingScan (r : ReqF) (s : State) : Host.Outcome State Fault Refusal :=
  .next (s.request r 0x9000 1 Who.opOrVendor (fun _ t => t.onCode (fun y => y.startRun false)))
def execSupplyScan (r : ReqF) (s : State) : Host.Outcome State Fault Refusal :=
  .next (s.request r 0x9000 1 Who.opOrVendor (fun _ t => t.onCode (fun y => y.startRun true)))
def execMarginAbort (r : ReqF) (s : State) : Host.Outcome State Fault Refusal :=
  .next (s.request r 0x9000 1 Who.opOrVendor (fun _ t => t.onCode (fun y => y.abortRun)))

/-- A run ends: its records stand in the buffer, the target is re-initialised. -/
def Sys.runComplete (s : Sys) (buffer : Bytes) : Sys :=
  let m := s.plat.margin
  if !m.running then s else
  ({ s with plat := { s.plat with margin := { m with status := 2, buffer := marginBuffer 0 m.records buffer } } } : Sys).refresh m.target
def execMarginRunComplete (buffer : Bytes) (s : State) : Host.Outcome State Fault Refusal := s.onSys (fun y => y.runComplete buffer)

/-! Output pins (R451) -/

def Sys.pinPwrgd (s : Sys) : Bool := s.plat.powered
/-- FAULT_N is low. -/
def Sys.pinFault (s : Sys) : Bool := functions.any (fun f => (s.fn f).state == .failed)
/-- THERM_ALERT_N is low. -/
def Sys.pinThermAlert (s : Sys) : Bool := (List.range 30).any (fun u => (s.thermOf u).level != 0)

end Sys2Proof.Machine
end

