-- ==== Sys2Proof/Machine/Trust.lean ====
section
/-!
DEFINITION. Attestation, owner sessions, key shares, release and key rotation
(R247, R339, R347, R348, R353 to R363).
-/

namespace Sys2Proof.Machine

/-! Policy fields (R350) -/

def Partition.threshold (P : Partition) : Nat := fieldN P.policy 9 1
def Partition.braidId (P : Partition) : Bytes := sliceB P.policy 0 8
def Partition.ownerDigest (P : Partition) (o : Nat) : Bytes := sliceB P.policy (0x20 + 32 * o) 32

/-- Whether a function is on its way through a reset, from ENABLE 0 until it is READY again (R363, R427). An uncontained error of a running
function is no reset (DEDUCED, log 201). -/
def Sys.resetting (s : Sys) (f : Nat) : Bool :=
  let x := s.fn f
  match x.state with
  | .ready => false
  | .degraded => false
  | .failed => x.cause != 7 || !s.fnEnabled f
  | _ => true
/-- Whether a partition is in a partial reset: a function that holds one of its hanks is (R363). -/
def Sys.inTransition (s : Sys) (p : Nat) : Bool := (s.part p).hanks.any (fun h => (hankFns h).any s.resetting)
/-- Whether an amendment is being installed (R363). -/
def Sys.installs (s : Sys) : Bool := s.trust.installing.isSome

/-! ATTEST (R339, R353, R360, R363) -/

/-- SHARES_HELD. -/
def Partition.sharesHeld (P : Partition) : Nat := P.shares.foldl (fun m x => m ||| 2 ^ x.owner) 0

/-- A pending session key pair, drawn when there is none. -/
def Sys.needEk (s : Sys) (p : Nat) : Sys :=
  match (s.part p).ekPair with
  | some _ => s
  | none => let n := s.free; (s.took 1).setPart p { s.part p with ekPair := some (n, pad 1184 (Config.kemEk (Config.draw n))) }

/-- Bytes 0x0000 to 0x057F of a report. The measurements of what a transition touches are zero and marked invalid (R360, R363). -/
def Sys.reportBody (s : Sys) (f : Fuses) (p : Nat) (nonce : Bytes) : Bytes :=
  let P := s.part p
  let transition := s.installs || s.inTransition p
  let flags := (if s.trust.debug then 1 else 0) + 2 + (if s.installs then 0 else 4) + (if s.inTransition p then 0 else 8) + 16
  leBytes 4 0x54525A43 ++ leBytes 2 1 ++ leBytes 1 (if transition then 1 else 0) ++ leBytes 1 f.lifeByte ++ leBytes 4 flags
    ++ leBytes 2 p ++ leBytes 2 P.sharesHeld ++ serialBytes ++ leBytes 4 s.node ++ leBytes 1 f.amendCount ++ [0, 0, 0] ++ pad 32 nonce
    ++ mRom ++ (if s.installs then List.replicate 32 0 else s.trust.mAmend) ++ (if s.inTransition p then List.replicate 32 0 else P.mConfig) ++ P.mPolicy
    ++ pad 1184 (if transition then [] else (P.ekPair.map (fun e => e.2)).getD []) ++ List.replicate 24 0

/-- A report of 11,468 bytes, signed with the AK in force. -/
def Sys.report (s : Sys) (f : Fuses) (p : Nat) (nonce : Bytes) : Sys × Bytes :=
  let body := s.reportBody f p nonce
  (s.took 1, body ++ pad 2420 (Config.dsaSign (f.akSeed s.trust) body s.drawn) ++ pad 3820 s.trust.akCert ++ leBytes 3820 (s.dv 0x8003 2))

def reportBytes : Nat := 11468

def attestBody (f : Fuses) (p c : Nat) (k : Cmd) (s : Sys) : Did :=
  let a := k.field 0x28 8
  if k.field 0x30 4 < reportBytes then .done s stBAD_VALUE (leBytes 4 reportBytes)
  else if !k.plain ∧ a % 4096 ≠ 0 then .done s stBAD_VALUE []
  else if s.noEntropy then .done s stNOT_READY []
  else
    let tr := s.installs || s.inTransition p
    let s := if tr then s else s.needEk p
    let (s, d) := s.report f p (sliceB k.payload 8 32)
    let (s, seq) := s.writeMsg c k.plain a d
    .done s (if tr then stATTEST_TRANSITION else stOK) (leBytes 4 reportBytes ++ leBytes 8 seq)
def execAttest (k : CmdKey) (s : State) : Host.Outcome State Fault Refusal :=
  s.onSys (fun y => y.entropySettled.runOrdered (.attest k) k (isOp 0x70) (attestBody s.fuses))

/-! SESSION_OPEN (R354, R355) -/

/-- The checks of R354, in their order: a status when one fails. -/
def Sys.sessionCheck (s : Sys) (p : Nat) (m : Bytes) : Option Nat :=
  let P := s.part p
  let o := fieldN m 4 1
  let pk := sliceB m 0x4A0 1312
  if m.length ≠ 4916 ∨ fieldN m 0 4 ≠ 0x4F535A43 ∨ !allZero (sliceB m 5 3) then some stBAD_DESCRIPTOR
  else if P.owners ≤ o ∨ digest pk ≠ P.ownerDigest o then some stDENIED
  else if !Config.dsaVerify pk (m.take 0x9C0) (sliceB m 0x9C0 2420) then some stBAD_SIGNATURE
  else if (P.session o).isSome then some stBUSY
  else if !(P.ekPair.any (fun e => digest e.2 == sliceB m 8 32)) then some stSTALE_VALUE
  else none

/-- K_SESS of an owner. -/
def Sys.sessionKey (s : Sys) (p : Nat) (m : Bytes) (ek : Nat) : BitVec 256 :=
  let ss := Config.kemDecaps (Config.draw ek) (sliceB m 0x60 1088)
  Config.kmac (keyBytes ss) (sliceB m 8 32 ++ sliceB m 0x28 32 ++ digest (sliceB m 0x4A0 1312) ++ leBytes 4 s.node ++ leBytes 2 p ++ leBytes 1 (fieldN m 4 1))
    "CZ3220 SESSION"

/-- The 48-byte response. -/
def sessionResponse (kSess : BitVec 256) (o c : Nat) (nonce : Bytes) : Bytes :=
  let head := leBytes 4 0x52535A43 ++ leBytes 1 o ++ [0] ++ leBytes 2 c ++ List.replicate 8 0
  head ++ keyBytes (Config.kmac (keyBytes kSess) (head ++ nonce) "CZ3220 CONFIRM")

/-- The session of a message that passed: the first takes the base context, a later one opens a context. -/
def Sys.openSession (s : Sys) (p : Nat) (m : Bytes) (ek c : Nat) (area : Option (List Nat)) : Sys × BitVec 256 :=
  let o := fieldN m 4 1
  let ks := s.sessionKey p m ek
  let ses : Session := { owner := o, pk := sliceB m 0x4A0 1312, kSess := ks, openings := 0, epoch := 0, ctx0 := c }
  let P := s.part p
  let s := s.setPart p { P with ekPair := none, sessions := P.sessions ++ [ses] }
  match area with
  | some a => (s.openCtx p c o (ctxFields m 0x48) a, ks)
  | none =>
    let s := s.setPart p ((s.part p).setSession { ses with openings := 1 })
    (s.setCtx c { s.ctx c with owner := some o, key := some (sessionCtxKey ks c 0) }, ks)

def sessionOpenBody (rs : List Bytes) (p c : Nat) (k : Cmd) (s : Sys) : Did :=
  let n := k.field 0x10 4
  let ra := k.field 0x18 8
  if !k.plain ∧ k.field 8 8 % 4096 ≠ 0 then .done s stBAD_VALUE []
  else if n ≠ 4916 then .done s stBAD_DESCRIPTOR []
  else if k.field 0x20 4 < 48 ∨ (!k.plain ∧ ra % 4096 ≠ 0) then .done s stBAD_VALUE []
  else
    let (s, st, m) := s.readMsg c k.plain (k.field 0x28 8) (recordsFor n) rs
    if st ≠ stOK then .done s st [] else
    match s.sessionCheck p m with
    | some e => .done s e []
    | none =>
      let ek := (((s.part p).ekPair).map (fun e => e.1)).getD 0
      let opened : Except Nat (Nat × Option (List Nat)) :=
        if (s.part p).sessions.isEmpty then .ok ((s.part p).base, none)
        else (match s.ctxCheck p (ctxFields m 0x48) with | .ok (d, a) => .ok (d, some a) | .error e => .error e)
      match opened with
      | .error e => .done s e []
      | .ok (d, area) =>
        let (s, ks) := s.openSession p m ek d area
        let (s, seq) := s.writeMsg c k.plain ra (sessionResponse ks (fieldN m 4 1) d (sliceB m 0x28 32))
        .done s stOK (leBytes 4 48 ++ leBytes 8 seq)

/-- Intake of the base context goes on when no SESSION_OPEN is outstanding any more (R355). -/
def Sys.resumeIntake (s : Sys) (c : Nat) : Sys :=
  let x := s.ctx c
  if x.intakeHeld ∧ !x.cmds.any (fun k => k.opcode == 0x71) then (s.setCtx c { x with intakeHeld := false }).examineAll c else s
def execSessionOpen (k : CmdKey) (records : List Bytes) (s : State) : Host.Outcome State Fault Refusal :=
  s.onSys (fun y => (y.runOrdered (.sessionOpen k records) k (isOp 0x71) (sessionOpenBody records)).resumeIntake k.ctx.val)

/-! KEY_SHARE (R356, R357) -/

/-- K_MODEL, when every owner's share is held. -/
def Partition.modelKey (P : Partition) : Option (BitVec 256) :=
  let held := (List.range P.owners).map (fun o => P.shares.find? (fun x => x.owner == o))
  if held.all (fun e => e.isSome) then
    some (Config.kmac (held.flatMap (fun e => (e.map (fun x => keyBytes x.share)).getD [])) (P.braidId ++ P.mPolicy) "CZ3220 MODEL")
  else none

/-- A share is held; with the last one the partition is ACTIVE. -/
def Partition.addShare (P : Partition) (x : Share) : Partition :=
  let P := { P with shares := P.shares ++ [x] }
  match P.modelKey with
  | some k => { P with kModel := some k, state := .active }
  | none => P

def keyShareBody (rs : List Bytes) (p c : Nat) (k : Cmd) (s : Sys) : Did :=
  let P := s.part p
  if (s.ctx c).owner.isNone then .done s stNO_SESSION []
  else if k.field 0x10 8 % 4096 ≠ 0 then .done s stBAD_VALUE []
  else
    let (s, st, m) := s.readMsg c k.plain (k.field 0x18 8) (k.field 0x20 4) rs
    if st ≠ stOK then .done s st []
    else if m.length ≠ 112 ∨ fieldN m 0 4 ≠ 0x534B5A43 ∨ !allZero (sliceB m 5 3) ∨ !allZero (sliceB m 0x1C 4) then .done s stBAD_DESCRIPTOR []
    else
      let o := fieldN m 4 1
      match P.session o with
      | none => .done s stNO_SESSION []
      | some ses =>
        if sliceB m 8 8 ≠ P.braidId ∨ sliceB k.payload 8 8 ≠ P.braidId then .done s stBAD_VALUE []
        else
          let kw := Config.kmac (keyBytes ses.kSess) [] "CZ3220 WRAP"
          let ct := sliceB m 0x20 64
          let nonce := sliceB m 0x10 12
          if tagBytes (Config.gcmTag kw nonce (m.take 0x20) ct) ≠ sliceB m 0x60 16 then .done s stTAG_FAIL []
          else if P.shares.any (fun x => x.owner == o) then .done s stBUSY []
          else
            let b := gcmCrypt kw nonce ct
            let Q := (s.part p).addShare { owner := o, share := BitVec.ofNat 256 (fieldN b 0 32), dataKey := BitVec.ofNat 256 (fieldN b 32 32) }
            .done (s.setPart p Q) stOK (leBytes 2 Q.sharesHeld ++ leBytes 2 Q.owners)
def execKeyShare (k : CmdKey) (records : List Bytes) (s : State) : Host.Outcome State Fault Refusal :=
  s.onSys (fun y => y.runOrdered (.keyShare k records) k (isOp 0x72) (keyShareBody records))

/-! BRAID_RELEASE (R358, R359) -/

/-- Whether the signature of an authorisation verifies under its owner's key. -/
def Partition.authSigned (P : Partition) (a : Bytes) : Bool :=
  (P.session (fieldN a 4 1)).any (fun e => Config.dsaVerify e.pk (a.take 0x68) (sliceB a 0x68 2420))

/-- What is wrong with an authorisation for an encapsulation key: BAD_SIGNATURE for a signature that fails, else BAD_VALUE. Without an owner
there is no signature to check. -/
def Partition.authFault (P : Partition) (ek a : Bytes) : Option Nat :=
  if P.owners ≤ fieldN a 4 1 then some stBAD_VALUE
  else if !P.authSigned a then some stBAD_SIGNATURE
  else if fieldN a 0 4 ≠ 0x42525A43 ∨ !allZero (sliceB a 5 3) ∨ !allZero (sliceB a 0x60 8) ∨ sliceB a 8 8 ≠ P.braidId
      ∨ sliceB a 0x40 32 ≠ P.mPolicy ∨ sliceB a 0x20 32 ≠ digest ek then some stBAD_VALUE
  else none

/-- The counted owners of a triple after an authorisation. -/
def Partition.countAuth (P : Partition) (job step : Nat) (r : BitVec 256) (o : Nat) : Partition × List Nat :=
  match P.auths.find? (fun x => x.job == job && x.step == step && x.recipient == r) with
  | some x =>
    let os := if x.owners.contains o then x.owners else x.owners ++ [o]
    ({ P with auths := P.auths.map (fun y => if y.job == job && y.step == step && y.recipient == r then { y with owners := os } else y) }, os)
  | none => ({ P with auths := P.auths ++ [{ job := job, step := step, recipient := r, owners := [o] }] }, [o])

/-- A release record of 1,192 bytes; `draw` is the randomness of the encapsulation. -/
def Partition.releaseRecord (P : Partition) (ek : Bytes) (job step : Nat) (draw : BitVec 256) : Bytes :=
  let js := leBytes 8 job ++ leBytes 8 step
  let head := leBytes 4 0x4C525A43 ++ leBytes 4 0 ++ digest ek ++ js
  let kx := Config.kmac (keyBytes (P.kModel.getD 0#256)) js "CZ3220 BEXPORT"
  let kr := Config.kmac (keyBytes (Config.kemSs ek draw)) js "CZ3220 RELEASE"
  let n := List.replicate 12 0
  let ct := gcmCrypt kr n (keyBytes kx)
  head ++ pad 1088 (Config.kemCt ek draw) ++ ct ++ tagBytes (Config.gcmTag kr n head ct)

/-- Counts one authorisation; the release takes effect when the owners reach the threshold. Four records are kept. -/
def Sys.authorise (s : Sys) (p : Nat) (ek a : Bytes) : Sys × Nat :=
  let P := s.part p
  let job := fieldN a 0x10 8
  let step := fieldN a 0x18 8
  let r := Config.sha3 ek
  let before := ((P.auths.find? (fun x => x.job == job && x.step == step && x.recipient == r)).map (fun x => x.owners.length)).getD 0
  let (Q, os) := P.countAuth job step r (fieldN a 4 1)
  if before < P.threshold ∧ P.threshold ≤ os.length then
    let all := Q.releases ++ [{ job := job, step := step, record := Q.releaseRecord ek job step s.drawn }]
    ((s.took 1).setPart p { Q with releases := all.drop (all.length - 4) }, os.length)
  else (s.setPart p Q, os.length)

/-- The authorisations of a message after its encapsulation key. -/
def authsOf (b : Bytes) : List Bytes := (List.range (b.length / 2524)).map (fun i => sliceB b (2524 * i) 2524)

def braidReleaseBody (rs : List Bytes) (p c : Nat) (k : Cmd) (s : Sys) : Did :=
  let P := s.part p
  if (s.ctx c).owner.isNone then .done s stNO_SESSION []
  else if k.field 0x10 8 % 4096 ≠ 0 then .done s stBAD_VALUE []
  else if s.noEntropy then .done s stNOT_READY []
  else
    let (s, st, m) := s.readMsg c k.plain (k.field 0x18 8) (k.field 0x20 4) rs
    let ek := m.take 1184
    let as := authsOf (m.drop 1184)
    if st ≠ stOK then .done s st []
    else if m.length < 1184 + 2524 ∨ (m.length - 1184) % 2524 ≠ 0 ∨ sliceB k.payload 8 8 ≠ P.braidId then .done s stBAD_VALUE []
    else
      let faults := as.filterMap (P.authFault ek)
      if faults.contains stBAD_SIGNATURE then .done s stBAD_SIGNATURE []
      else if !faults.isEmpty then .done s stBAD_VALUE []
      else
        let (s, n) := as.foldl (fun (t : Sys × Nat) a => t.1.authorise p ek a) (s, 0)
        .done s stOK (leBytes 2 n ++ leBytes 2 P.threshold)
def execBraidRelease (k : CmdKey) (records : List Bytes) (s : State) : Host.Outcome State Fault Refusal :=
  s.onSys (fun y => y.entropySettled.runOrdered (.braidRelease k records) k (isOp 0x73) (braidReleaseBody records))

/-! KEY_ROTATE (R247, R339) -/

/-- Whether a command rotates a region now. -/
def Sys.rotates (s : Sys) (p t h : Nat) : Bool :=
  (s.ctxsOf p).any (fun c => (s.ctx c).cmds.any (fun k => match k.progress with
    | .rotating _ true (g :: _) _ _ => g == h && k.field 8 1 == t
    | _ => false))

/-- Goes on with a rotation, region after region, over `pages` pages. A failed check raises its alarm; where that freezes the partition the
command has ended. A region that another command rotates is waited for (R217, R247, R250, R252). -/
def Sys.rotateOn (p c : Nat) (k : Cmd) (todo : List Nat) (done : Nat) (begun : Bool) (others : List Nat) (worst : Mark) (pages : Nat) (s : Sys) : Did :=
  let t := k.field 8 1
  match todo with
  | [] =>
    if others.any (fun h => s.rotates p t h) then .more (s.setProgress c k.ring k (.rotating done false [] others worst))
    else .done s (if worst.isBad then markStatus worst else stOK) (leBytes 4 (done + others.length))
  | h :: rest =>
    if !begun && s.rotates p t h then s.rotateOn p c k rest done false (others ++ [h]) worst pages
    else if s.tierWaits t h || s.behind t h then .asks (s.setProgress c k.ring k (.rotating done begun todo others worst)) [(t, h)]
    else
      let s := if begun || (s.region t h).rot.isSome then s else s.startRotation t h
      let z := s.region t h
      let n := min pages (pageCount - z.rotated)
      let fails := z.failedIn z.rotated n
      let s := s.rotatePages t h n
      let s := (fails.foldl (fun s e => s.noteFail t h e.1 e.2) s).raiseAlarms
      let worst := if fails.isEmpty then worst else worst.worse .tagFail
      if (s.region t h).rot.isNone then .running s
      else if (s.region t h).rotated < pageCount then .running (s.setProgress c k.ring k (.rotating done true todo others worst))
      else (s.finishRotation t h).rotateOn p c k rest (done + 1) false others worst (pages - n)

/-- KEY_ROTATE. A command of the row passes over `pages` pages. -/
def keyRotateBody (pages : Nat) (p c : Nat) (k : Cmd) (s : Sys) : Did :=
  match k.progress with
  | .rotating done begun todo others worst => s.rotateOn p c k todo done begun others worst pages
  | _ =>
    let t := k.field 8 1
    let o := k.field 0x10 8
    let n := k.field 0x18 8
    let hs := (s.part p).hanks
    if 2 ≤ t then .done s stBAD_VALUE []
    else if hs.length * unitBytes < o + n then .done s stBAD_RANGE []
    else if s.noEntropy then .done s stNOT_READY []
    else s.rotateOn p c k ((hs.zipIdx.filter (fun e => rangesMeet o n (e.2 * unitBytes) unitBytes)).map (fun e => e.1)) 0 false [] .clean pages
def execKeyRotate (k : PacedF) (s : State) : Host.Outcome State Fault Refusal :=
  s.onSys (fun y => y.entropySettled.runOrdered (.keyRotate k) k.key (isOp 0x74) (keyRotateBody k.count))

end Sys2Proof.Machine
end

