-- ==== Sys2Proof/Machine/Life.lean ====
section
/-!
DEFINITION. Life-cycle transitions, debug authorisation, the operator key and amendments
(R364, R370 to R383, R402).
-/

namespace Sys2Proof.Machine

/-- Sets LC_RESULT to the abort code of a life-cycle request; none where power is lost inside it. -/
def lcResult (t : State × Nat) : State × Nat := if t.2 = noAnswer then t else ({ t.1 with sys := { t.1.sys with trust := { t.1.sys.trust with result := t.2 } } }, t.2)

/-! Installs (R364, R384) -/

/-- An image whose install has come to its last step is in force, at a boundary between commands: AK is derived again. -/
def State.finishInstall (s : State) : State :=
  match s.sys.trust.installing with
  | none => s
  | some b =>
    let y : Sys := { s.sys with trust := { s.sys.trust with installing := none, inForce := some b, amendState := 2 } }
    { s with sys := (y.dropEks).deriveAk s.fuses }

/-! Programming the life-cycle word (R370, R374, R375, R417) -/

/-- Every function but the Bowline die is OFF, and every port DISABLED. -/
def Sys.shutFns (s : Sys) : Sys :=
  let s := functions.foldl (fun s f => if f = fnBowline ∨ (s.fn f).state = .off then s else s.enter f .off false 0) s
  (List.range 12).foldl (fun s q => s.setPort q ⟨.disabled, 0⟩) s

/-- Completion-only mode without a boot: the ROM alone runs, without an amendment (R370, R375; log 199). -/
def State.completionOnly (s : State) : State :=
  match s.fuses.lcState with
  | .partial_ _ =>
    let y := s.sys.shutFns
    let y : Sys := { y with trust := { y.trust with inForce := none, installing := none, amendState := 0 } }
    { s with sys := y.deriveAk s.fuses }
  | _ => s

/-- Programs toward a codeword, and what is left of the fuses' behaviour. -/
def State.program (s : State) (dest : Nat) (b : BurnF) : State × Burnt × BurnF :=
  let r := s.fuses.commit dest b
  (({ s with fuses := r.1 } : State).burnt r.2.1, r.2)

/-- A transition that takes effect through a warm reset. -/
def State.transition (s : State) (dest : Nat) (b : BurnF) : State × Nat :=
  match s.program dest b with
  | (s, .done, _) => ({ s with sys := s.sys.warm 0 }, 0)
  | (s, .failed _, _) => (s.completionOnly, abFUSE_FAILURE)
  | (s, .cut, _) => (s, noAnswer)

/-- The DIK certificate in flash verifies under the product certificate and certifies the DIK of the fused DS (R362, R371, R384). -/
def State.dikCertOk (s : State) : Bool :=
  let b := leBytes 3820 (s.sys.dv 0x8003 2)
  fieldN b 0 4 == 0x45435A43 && fieldN b 4 1 == 3 && allZero (sliceB b 5 3) && sliceB b 8 16 == serialBytes &&
  sliceB b 0x58 1312 == s.fuses.dikPublic && Config.digestVerify Config.productKeyDigest (b.take 0x578) (sliceB b 0x578 2420)

/-- Whether a partition exists. -/
def Sys.anyPart (s : Sys) : Bool := s.parts.toList.any (fun P => P.state != .absent)

/-- LC_TRANSITION 1. -/
def State.toTest (b : BurnF) (s : State) : State × Nat :=
  let s := s.finishInstall
  lcResult (if s.fuses.lcState = .blank then s.transition 1 b else (s, abTRANSITION_NOT_ALLOWED))
/-- LC_TRANSITION 2. -/
def State.toProduction (b : BurnF) (s : State) : State × Nat :=
  let s := s.finishInstall
  lcResult (if s.fuses.lcState ≠ .test then (s, abTRANSITION_NOT_ALLOWED)
    else if !s.fuses.dsWritten || !s.dikCertOk || s.sys.anyPart then (s, abPRECONDITION)
    else s.transition 2 b)
/-- LC_TRANSITION 3 (R376). -/
def State.complete (b : BurnF) (s : State) : State × Nat :=
  let s := s.finishInstall
  lcResult (match s.fuses.lcState with
    | .partial_ 1 => s.transition 1 b
    | .partial_ 2 => if !s.fuses.dsWritten || !s.dikCertOk then (s, abPRECONDITION) else s.transition 2 b
    | _ => (s, abTRANSITION_NOT_ALLOWED))

def execLcToTest (r : ReqF) (failBit : BurnF) (s : State) : Host.Outcome State Fault Refusal :=
  .next (s.request r 0x8001 1 Who.isVendor (fun _ => State.toTest failBit))
def execLcToProduction (r : ReqF) (failBit : BurnF) (s : State) : Host.Outcome State Fault Refusal :=
  .next (s.request r 0x8001 1 Who.isVendor (fun _ => State.toProduction failBit))
def execLcComplete (r : ReqF) (failBit : BurnF) (s : State) : Host.Outcome State Fault Refusal :=
  .next (s.request r 0x8001 1 Who.isVendor (fun _ => State.complete failBit))

/-! DS_GENERATE (R372) -/

/-- DS_GENERATE. A bit that keeps resolving clear ends it under R370; where power is lost part-way, DS stays partly programmed (R384). -/
def State.dsGenerate (s : State) : State × Nat :=
  let s := ({ s with sys := s.sys.entropySettled } : State).finishInstall
  lcResult (if s.fuses.lcState ≠ .test then (s, abWRONG_STATE)
    else if s.fuses.dsWritten then (s, abDS_WRITTEN)
    else if s.sys.noEntropy then (s, abENTROPY)
    else
      let r := s.fuses.writeDs s.sys.drawn s.fuses.ahead
      let s := ({ s with fuses := r.1, sys := (s.sys.took 1).deriveAk r.1 } : State).nextAhead
      match r.2.1, r.2.2.ends with
      | .done, false => (s, 0)
      | .failed i, _ => (s.burnt (.failed i), abFUSE_FAILURE)
      | _, _ => (s.burnt .cut, noAnswer))
def execDsGenerate (r : ReqF) (s : State) : Host.Outcome State Fault Refusal :=
  .next (s.request r 0x8001 3 Who.isVendor (fun _ => State.dsGenerate))

/-! Signed request records (R380, R381) -/

/-- MAGIC, reserved fields, SERIAL, NONCE and signature of a life-cycle request record, under the key with a digest. -/
def Sys.requestOk (s : Sys) (b : Bytes) (key : BitVec 256) : Bool :=
  let scope := fieldN b 6 2
  fieldN b 0 4 == 0x4C445A43 && fieldN b 5 1 == 0 && allZero (sliceB b 0x38 8) && (if fieldN b 4 1 = 1 then decide (scope < 16) else scope == 0)
    && sliceB b 8 16 == serialBytes && sliceB b 0x18 32 == keyBytes s.trust.nonce
    && Config.digestVerify key (b.take 0x40) (sliceB b 0x40 2420)

def recordBytes : Nat := 2484

/-- Debug opens: every partition is alarmed and frozen, AK is derived again, the facilities open (R382). -/
def State.openDebug (s : State) (scope : Nat) : State :=
  let y := foldFn 80 s.sys (fun y p => y.alarm p { source := 4, tierPort := 0, hank := 0xFF, level := 0, peerPart := 0, granFlow := 0, peerNode := 0 })
  let y : Sys := { y with trust := { y.trust with debug := true } }
  let y := (y.dropEks).deriveAk s.fuses
  { s with sys := { y with trust := { y.trust with scope := y.trust.scope ||| scope } } }

/-- A DEBUG_OPEN token. One that arrives during an install waits until that is complete (R384); what an earlier one opened stays open (R383). -/
def State.debugToken (b : Bytes) (s : State) : State × Nat :=
  let s := s.finishInstall
  lcResult (if b.length ≠ recordBytes then (s, abBAD_LENGTH)
    else if fieldN b 4 1 ≠ 1 then (s, abRECORD_INVALID)
    else if s.fuses.lcState ≠ .production then (s, abWRONG_STATE)
    else if 8 ≤ s.sys.trust.fails then (s, abNONCE_LOCKOUT)
    else
      let ok := s.sys.requestOk b Config.debugKeyDigest
      let s := { s with sys := s.sys.recordChecked ok }
      if ok then (s.openDebug (fieldN b 6 2), 0) else (s, abBAD_SIGNATURE))
def execDebugOpen (r : ReqF) (record : Bytes) (s : State) : Host.Outcome State Fault Refusal :=
  .next (s.request r 0x8001 2 Who.opOrVendor (fun _ => State.debugToken record))

/-! End of life (R377 to R379) -/

/-- EOL_CONFIRM_N as sampled: true when it reads high. Its level is a free value
(DESIGN CHOICE, log 94). -/
def Sys.strapHigh (s : Sys) : Bool := s.drawn.getLsbD 0

/-- The End-of-life codeword in full, then the wipe (R379). A done-word that fails leaves WIPING to the next boot. -/
def State.commitEol (s : State) (b : BurnF) : State × Nat :=
  match s.program 3 b with
  | (s, .failed _, _) => (s.completionOnly, abFUSE_FAILURE)
  | (s, .cut, _) => (s, noAnswer)
  | (s, .done, r) =>
    if r.ends then (s.burnt .cut, noAnswer) else
    match s.wipe (r.orElse s.fuses.ahead) with
    | (s, .cut) => (s.nextAhead, noAnswer)
    | (s, how) =>
      let s := s.nextAhead
      ({ s with sys := s.sys.shutFns }, if how = .done then 0 else abFUSE_FAILURE)

/-- The checks of R378 from the strap on. -/
def State.eolStraps (s : State) (burn : BurnF) : State × Nat :=
  let high1 := s.sys.strapHigh
  let s := { s with sys := s.sys.took 1 }
  if high1 then (s, abSTRAP)
  else if s.sys.anyPart then (s, abREQUIRES_QUIESCE)
  else
    let high2 := s.sys.strapHigh
    let s := { s with sys := s.sys.took 1 }
    if high2 then (s, abSTRAP) else s.commitEol burn

/-- An END_OF_LIFE request. -/
def State.endOfLife (b : Bytes) (burn : BurnF) (s : State) : State × Nat :=
  let s := s.finishInstall
  let key := BitVec.ofNat 256 (s.sys.dv 0x8002 1)
  lcResult (if b.length ≠ recordBytes then (s, abBAD_LENGTH)
    else if fieldN b 4 1 ≠ 2 then (s, abRECORD_INVALID)
    else if !s.fuses.lcState.operates then (s, abTRANSITION_NOT_ALLOWED)
    else if key = 0#256 then (s, abPRECONDITION)
    else if 8 ≤ s.sys.trust.fails then (s, abNONCE_LOCKOUT)
    else
      let ok := s.sys.requestOk b key
      let s := { s with sys := s.sys.recordChecked ok }
      if ok then s.eolStraps burn else (s, abBAD_SIGNATURE))
def execEndOfLife (r : ReqF) (record : Bytes) (failBit : BurnF) (s : State) : Host.Outcome State Fault Refusal :=
  .next (s.request r 0x8001 2 Who.isOp (fun _ => State.endOfLife record failBit))

/-! OPERATOR_KEY_CHANGE (R402) -/

def State.operatorKey (b : Bytes) (s : State) : State × Nat :=
  let key := BitVec.ofNat 256 (s.sys.dv 0x8002 1)
  if b.length ≠ 2508 then (s, abBAD_LENGTH)
  else if 8 ≤ s.sys.trust.fails then (s, abNONCE_LOCKOUT)
  else
    let ok := fieldN b 0 4 == 0x4B4F5A43 && allZero (sliceB b 4 4) && sliceB b 8 16 == serialBytes && sliceB b 0x18 32 == keyBytes s.sys.trust.nonce
      && key != 0#256 && Config.digestVerify key (b.take 0x58) (sliceB b 0x58 2420)
    let y := s.sys.recordChecked ok
    if ok then ({ s with sys := y.storeDv s.fuses (dictKey 0x8002 1) (fieldN b 0x38 32) }, 0) else ({ s with sys := y }, abBAD_SIGNATURE)
def execOperatorKeyChange (r : ReqF) (record : Bytes) (s : State) : Host.Outcome State Fault Refusal :=
  .next (s.request r 0x8002 2 Who.isOp (fun _ => State.operatorKey record))

/-! AMEND_IMAGE (R364) -/

/-- An install: a transition begins with its verification (R353, R363). An image that passes stands in the flash, and comes into force at the
next boundary between commands (`State.finishInstall`; log 194); one that fails changes nothing. Where power is lost before the flash is
written, no amendment will be in force. -/
def State.amend (b : Bytes) (s : State) : State × Nat :=
  let s := s.finishInstall
  if 262144 < b.length ∨ b.isEmpty then (s, abBAD_LENGTH)
  else if !(s.fuses.lcState == .blank || s.fuses.lcState.operates || s.fuses.lcState == .eol) then (s, abWRONG_STATE)
  else
    let y := s.sys.dropEks
    let c := s.fuses.amendCount
    if !amendOk b c then ({ s with sys := y }, if amendSigned b then abRECORD_INVALID else abBAD_SIGNATURE)
    else
      let r := s.fuses.raise c (amendVersion b) ⟨none, s.fuses.ahead.cut⟩
      let s := ({ s with fuses := r.1, sys := y } : State).nextAhead
      if r.2.1 = .cut || r.2.2.ends then (s.burnt .cut, noAnswer)
      else
        let y : Sys := { s.sys with trust := { s.sys.trust with flash := some b, installing := some b, amendState := 1 } }
        ({ s with sys := y.persist s.fuses }, 0)
def execAmendImage (r : ReqF) (record : Bytes) (s : State) : Host.Outcome State Fault Refusal :=
  .next (s.request r 0x8004 1 Who.opOrVendor (fun _ => State.amend record))

end Sys2Proof.Machine
end

