-- ==== Sys2Proof/Machine/LogRows.lean ====
section
/-!
DEFINITION. The Logline ring, its freeze, the wrap of a local count, PORT_ENABLE (R19, R255, R439 to R446).
-/

namespace Sys2Proof.Machine

/-! The ring (R439, R443, R444) -/

/-- The units that stand before `unit` in the round from the one served last, and `unit` itself (R439). -/
def Log.roundTo (l : Log) (unit : Nat) : List Nat :=
  (List.range 256).map (fun i => (l.turn + 1 + i) % 256) |>.takeWhile (fun u => u != unit % 256) |> fun us => us ++ [unit]

/-- The Bowline die takes records in round robin, one of each unit whose turn comes first, until it has taken `unit`'s (R439). -/
def Sys.logRound (s : Sys) (unit : Nat) : Sys :=
  (s.log.roundTo unit).foldl (fun s u => if (s.log.pre.get [] u).isEmpty then s else ({ s with log := { s.log with turn := u } } : Sys).logTake u) s
def execLogRecord (unit : Nat) (s : State) : Host.Outcome State Fault Refusal :=
  s.onSys (fun y => if (y.fn fnBowline).state = .ready && !(y.log.pre.get [] unit).isEmpty then y.logRound unit else y)

/-! LOG_FREEZE and LOG_UNFREEZE (R444, R445) -/

/-- The path of a write in a LOG_FREEZE record. -/
def pathCode (p : Path) : Nat := match p with | .mgmt _ _ _ _ => 0 | .inband _ => 1 | .window _ => 2 | .i3c => 0

/-- The trigger record of a LOG_FREEZE; the ring freezes when it is taken. -/
def Sys.logFreeze (s : Sys) (path : Path) : Sys := s.logBowline partNone locNone 0x0808 (pathCode path) 0
/-- The ring runs again. -/
def Sys.logResume (s : Sys) : Sys :=
  let n := s.log.dropped
  ({ s with log := { s.log with frozen := false, cause := 0#8, after := 0, dropped := 0, frozenAt := [] } } : Sys).logBowline partNone locNone 0x0802 n 0

def execLogFreeze (r : ReqF) (s : State) : Host.Outcome State Fault Refusal :=
  .next (s.request r 0x7000 1 Who.isOp (fun _ t => ({ t with sys := t.sys.logFreeze r.path }, 0)))
def execLogUnfreeze (r : ReqF) (s : State) : Host.Outcome State Fault Refusal :=
  .next (s.request r 0x7000 7 Who.isOp (fun _ t => ({ t with sys := t.sys.logResume }, 0)))

/-! Local counts (R19, R446) -/

/-- The count of a domain whose clock runs returns to 0: a record, stamped 0. -/
def Sys.wrap (s : Sys) (d : Nat) : Sys :=
  if !domains.contains d || !s.clockRuns d then s else
  let n := s.wraps.get 0 d + 1
  ({ s.closeWindows d with counts := s.counts.set 0#48 d 0#48, wraps := s.wraps.set 0 d n } : Sys).logAt
    { domain := d, unit := domainUnit d, part := partNone, location := locNone, event := 0x0701, arg0 := 0, arg1 := n, slack := false } 0#48
def execCountWrap (domain : Nat) (s : State) : Host.Outcome State Fault Refusal := s.onSys (fun y => y.wrap domain)

/-! PORT_ENABLE (R255) -/

def State.setPort (q : Nat) (on : Bool) (s : State) : State × Nat :=
  ({ s with sys := (s.sys.storeDv s.fuses (dictKey (0x1110 + q) 1) (if on then 1 else 0)).portSet q }, 0)
def execPortEnable (r : ReqF) (q : Fin 12) (on : Bool) (s : State) : Host.Outcome State Fault Refusal :=
  .next (s.request r (0x1110 + q.val) 1 Who.isOp (fun _ => State.setPort q.val on))

end Sys2Proof.Machine
end

