-- ==== Sys2Proof/Machine/Entries.lean ====
section
/-!
DEFINITION. The entries of the object dictionary: types, access, persistence, quiet conditions, values as they are read
(R264, R313, R385 to R387, R396, R403, R405, R440, R445).
-/

namespace Sys2Proof.Machine

/-! Types and access (R385, R386) -/

inductive Ty where
  | bool
  /-- unsigned, of n bytes -/
  | u (n : Nat)
  | f32
  | oct (n : Nat)
  /-- 1 to n bytes -/
  | upTo (n : Nat)
  | str
  deriving DecidableEq, Repr

/-- Whether a value's length fits a type. -/
def Ty.fits (t : Ty) (n : Nat) : Bool :=
  match t with
  | .bool => n == 1
  | .u k => n == k
  | .f32 => n == 4
  | .oct k => n == k
  | .upTo k => decide (1 ≤ n) && decide (n ≤ k)
  | .str => decide (1 ≤ n) && decide (n ≤ 64)
/-- Size of the zeros that a WO entry reads as. -/
def Ty.size (t : Ty) : Nat :=
  match t with
  | .bool => 1
  | .u k => k
  | .f32 => 4
  | .oct k => k
  | .upTo k => k
  | .str => 64

inductive Cls where
  | const | ro | rw | wo | rws
  deriving DecidableEq, Repr

/-- An entry: type, classes of O, W, C and V, quiet condition (0 none, 1 port, 2 module), marked I. -/
structure Entry where
  ty : Ty
  o : Option Cls
  w : Option Cls
  c : Option Cls
  v : Option Cls
  quiet : Nat
  i3c : Bool
  deriving DecidableEq, Repr

/-- An entry of one class for every role. -/
def allOf (t : Ty) (k : Cls) (i3c : Bool) : Entry := ⟨t, some k, some k, some k, some k, 0, i3c⟩
/-- The operator's entry. -/
def opOnly (t : Ty) (k : Cls) (quiet : Nat) : Entry := ⟨t, some k, none, none, none, quiet, false⟩
/-- Operator and vendor debug. -/
def opVendor (t : Ty) (k : Cls) (i3c : Bool) : Entry := ⟨t, some k, none, none, some k, 0, i3c⟩
/-- Operator and context. -/
def opContext (t : Ty) (k : Cls) : Entry := ⟨t, some k, none, some k, none, 0, false⟩
/-- Vendor debug only. -/
def vendorOnly (t : Ty) (k : Cls) : Entry := ⟨t, none, none, none, some k, 0, false⟩
/-- Context only. -/
def contextOnly (t : Ty) (k : Cls) : Entry := ⟨t, none, none, some k, none, 0, false⟩

/-! The tables (R405) -/

/-- Port entries 0x1110 + q. -/
def portEntry (sub : Nat) : Option Entry :=
  match sub with
  | 1 => some (opOnly .bool .rw 0)
  | 2 => some (opOnly (.u 1) .rw 1)
  | 3 => some (opOnly (.u 1) .rw 1)
  | 4 => some (opOnly (.oct 6) .rw 0)
  | 5 => some (opOnly (.oct 16) .rw 0)
  | 6 => some (opOnly (.u 2) .rw 1)
  | 7 => some (opOnly (.u 1) .rw 0)
  | 8 => some (opOnly (.u 1) .rw 0)
  | 9 => some (opOnly (.u 2) .rw 1)
  | 0xA => some (opOnly (.u 2) .rw 1)
  | 0xB => some (opOnly (.u 1) .rws 0)
  | 0xC => some (allOf (.u 1) .ro true)
  | _ => none

/-- Partition entries P + off. -/
def partEntry (off sub : Nat) : Option Entry :=
  match off, sub with
  -- R346 lets the vendor debug role read the configuration record too (DEDUCED, log 168)
  | 0, 1 => some ⟨.oct 64, some .rw, some .ro, some .ro, some .ro, 0, false⟩
  | 1, 1 => some ⟨.upTo 10272, some .rw, some .ro, some .ro, some .ro, 0, false⟩
  | 2, 1 => some (opOnly (.u 1) .wo 0)
  | 3, 1 => some (allOf (.u 1) .ro false)
  | 3, 2 => some (allOf (.oct 32) .ro false)
  | 3, 3 => some (allOf (.oct 32) .ro false)
  | 4, 1 => some (contextOnly (.u 8) .rw)
  | 4, 2 => some (contextOnly (.u 4) .rw)
  | 4, 3 => some (contextOnly (.u 2) .rw)
  | 6, 1 => some ⟨.oct 18, none, some .ro, none, none, 0, false⟩
  | 7, 1 => some ⟨.u 1, some .rws, some .rws, some .rws, none, 0, false⟩
  | 5, n => if 1 ≤ n ∧ n ≤ 4 then some (allOf (.oct 1192) .ro false) else none
  | 8, n => if 1 ≤ n ∧ n ≤ 16 then some ⟨.u 8, some .ro, some .ro, some .ro, none, 0, false⟩ else none
  | _, _ => none

/-- Entries of 0x1000 to 0x11FF. -/
def commEntry (i sub : Nat) : Option Entry :=
  match i, sub with
  | 0x1000, 1 => some (allOf .str .const true)
  | 0x1000, 2 => some (allOf .str .const true)
  | 0x1000, 3 => some (allOf (.oct 16) .const true)
  | 0x1000, 4 => some (allOf (.u 4) .const true)
  | 0x1000, 5 => some (allOf (.u 4) .const true)
  | 0x1000, 6 => some (allOf (.u 4) .ro true)
  | 0x1100, 1 => some ⟨.u 4, some .rw, some .ro, some .ro, none, 2, false⟩
  | 0x1100, 2 => some (opOnly (.oct 16) .rw 0)
  | 0x1100, 3 => some (opOnly (.u 2) .rw 0)
  | 0x1100, 4 => some (opOnly (.u 2) .rw 0)
  | 0x1100, 5 => some (opOnly (.oct 32) .wo 0)
  | 0x1100, 6 => some (allOf (.oct 6) .const false)
  | 0x1101, n => if 1 ≤ n ∧ n ≤ 64 then some (opOnly (.oct 8) .rw 0) else none
  | 0x1180, 1 => some (opContext (.u 4) .rw)
  | 0x1180, 2 => some (opContext (.oct 128) .ro)
  | 0x1190, 1 => some (opOnly (.u 8) .rw 0)
  | 0x1190, 2 => some (opOnly (.u 4) .rw 0)
  | 0x1190, 3 => some (opOnly (.u 2) .rw 0)
  | 0x1190, 4 => some (opOnly (.u 8) .rw 0)
  | i, n => if 0x1110 ≤ i ∧ i < 0x111C then portEntry n else none

/-- Readiness entries. -/
def fnEntry (sub : Nat) : Option Entry :=
  match sub with
  | 1 => some (allOf (.u 1) .ro true)
  | 2 => some (opOnly .bool .rw 0)
  | 3 => some (opOnly .bool .ro 0)
  | 4 => some (opVendor (.u 4) .ro false)
  | _ => none

/-- Entries of 0x2000 to 0x2FFF. -/
def configEntry (i sub : Nat) : Option Entry :=
  match i, sub with
  | 0x2000, 1 => some (opOnly (.u 4) .rws 0)
  | 0x2010, 4 => some (allOf (.u 1) .const false)
  | 0x2020, 1 => some (opOnly (.u 1) .rws 0)
  | 0x2100, 1 => some (opContext (.u 2) .rw)
  | 0x2101, 1 => some (opContext (.u 1) .ro)
  | 0x2101, 2 => some (opContext (.u 2) .ro)
  | 0x2101, 3 => some (opContext (.u 8) .ro)
  | 0x2101, 4 => some (opContext (.u 2) .ro)
  | 0x2101, 5 => some (opContext (.u 4) .ro)
  | 0x2101, 6 => some (opContext (.upTo 1024) .ro)
  | 0x2010, n => if 1 ≤ n ∧ n ≤ 6 then some (opOnly (.u 1) .rws 0) else none
  | _, _ => none

/-- Entries of 0x5000 to 0x7FFF. -/
def telemetryEntry (i sub : Nat) : Option Entry :=
  match i, sub with
  | 0x5000, 1 => some (opContext (.u 2) .rw)
  | 0x5001, 1 => some (opContext (.oct 128) .ro)
  | 0x5002, n => if 1 ≤ n ∧ n ≤ 4 then some (opContext (.u 8) .ro) else none
  | 0x6000, 1 => some (allOf (.u 4) .ro true)
  | 0x6000, 2 => some (allOf (.u 4) .ro true)
  | 0x6000, 3 => some (allOf .bool .ro true)
  | 0x7000, 1 => some (opOnly (.u 1) .wo 0)
  | 0x7000, 2 => some (opVendor .bool .ro false)
  | 0x7000, 3 => some (opVendor (.u 1) .ro false)
  | 0x7000, 4 => some (opVendor (.u 4) .ro false)
  | 0x7000, 5 => some (opVendor (.u 4) .rw false)
  | 0x7000, 6 => some (opVendor (.upTo 8192) .ro false)
  | 0x7000, 7 => some (opOnly (.u 1) .wo 0)
  | 0x7100, n => if 1 ≤ n ∧ n ≤ 8 then some (opVendor (.u 8) .ro false) else none
  | 0x71D0, 1 => some (opOnly (.u 8) .ro 0)
  | i, n =>
    if (0x6010 ≤ i ∧ i < 0x6024) ∨ (0x6030 ≤ i ∧ i < 0x603A) then
      (if n = 1 then some (opVendor .f32 .ro true) else if n = 2 then some (opVendor (.u 1) .ro true) else none)
    else if 0x6040 ≤ i ∧ i < 0x604A then
      (if n = 1 then some (opVendor .f32 .ro true) else if n = 2 then some (opVendor (.u 4) .ro false) else none)
    else if 0x7110 ≤ i ∧ i < 0x711C then (if 1 ≤ n ∧ n ≤ 5 then some (opVendor (.u 8) .ro false) else none)
    else if 0x7180 ≤ i ∧ i < 0x71D0 then (if 1 ≤ n ∧ n ≤ 4 then some (opContext (.u 8) .ro) else none)
    else none

/-- Entries of 0x8000 to 0x9FFF. -/
def securityEntry (i sub : Nat) : Option Entry :=
  match i, sub with
  | 0x8000, 1 => some (allOf (.u 1) .ro true)
  | 0x8000, 2 => some (allOf (.u 1) .ro false)
  | 0x8000, 3 => some (allOf (.u 8) .ro false)
  | 0x8000, 4 => some (allOf (.oct 32) .ro false)
  | 0x8000, 5 => some (allOf .bool .ro true)
  | 0x8000, 6 => some (allOf (.u 8) .ro false)
  | 0x8000, 7 => some (allOf .bool .ro false)
  | 0x8001, 1 => some (vendorOnly (.u 1) .wo)
  | 0x8001, 2 => some (opVendor (.oct 2484) .wo false)
  | 0x8001, 3 => some (vendorOnly (.u 1) .wo)
  | 0x8001, 4 => some (allOf (.u 4) .ro false)
  | 0x8002, 1 => some ⟨.oct 32, some .rw, some .ro, some .ro, some .ro, 0, false⟩
  | 0x8002, 2 => some (opOnly (.oct 2508) .wo 0)
  | 0x8003, 1 => some (allOf (.oct 1312) .ro false)
  | 0x8003, 2 => some ⟨.oct 3820, some .ro, some .ro, some .ro, some .rw, 0, false⟩
  | 0x8004, 1 => some (opVendor (.upTo 262144) .wo false)
  | 0x8004, 2 => some (allOf (.u 1) .ro false)
  | 0x8004, 3 => some (allOf (.u 8) .ro false)
  | 0x8005, 1 => some (allOf (.u 1) .ro false)
  | 0x9000, 1 => some (opVendor (.u 1) .wo false)
  | 0x9000, 2 => some (opVendor (.u 1) .rw false)
  | 0x9000, 3 => some (opVendor (.u 1) .ro false)
  | 0x9000, 4 => some (opVendor (.u 4) .ro false)
  | 0x9001, 1 => some (opVendor (.upTo 36864) .ro false)
  | _, _ => none

/-- An entry of sub-index 1 or above. -/
def fieldEntry (i sub : Nat) : Option Entry :=
  if i < 0x1200 then commEntry i sub
  else if i < 0x1300 then (if isFunction (i - 0x1200) then fnEntry sub else none)
  else if i < 0x3000 then configEntry i sub
  else if i < 0x4000 then
    (if i % 16 = 0 ∧ isFunction ((i - 0x3000) / 16) then
      (match sub with | 1 => some (allOf (.u 4) .ro false) | 2 => some (opVendor (.u 8) .ro false) | _ => none) else none)
  else if i < 0x4A00 then partEntry (i % 0x20) sub
  else if i < 0x8000 then telemetryEntry i sub
  else securityEntry i sub

/-- The highest sub-index in use of an index; 0 for an index that is not defined. -/
def subMax (i : Nat) : Nat := foldFn 65 0 (fun m n => if n ≠ 0 ∧ (fieldEntry i n).isSome then n else m)

/-- An entry; sub-index 0 gives the highest sub-index in use (R385). -/
def entryOf (i sub : Nat) : Option Entry :=
  if sub = 0 then (if subMax i = 0 then none else some (allOf (.u 1) .const false)) else fieldEntry i sub

/-! Rights (R386, R387) -/

/-- The classes that a requester holds on an entry. -/
def Entry.classes (e : Entry) (w : Who) : List Cls :=
  match w with
  | .operator => e.o.toList
  | .vendor => e.v.toList
  | .context _ owner => e.c.toList ++ (if owner then e.w.toList else [])

def mayRead (l : List Cls) : Bool := !l.isEmpty
def mayWrite (l : List Cls) : Bool := l.contains .rw || l.contains .wo
def mayStage (l : List Cls) : Bool := l.contains .rws

/-- The partition whose entry an index is. -/
def indexPart (i : Nat) : Option Nat :=
  if 0x4000 ≤ i ∧ i < 0x4A00 then some ((i - 0x4000) / 0x20) else if 0x7180 ≤ i ∧ i < 0x71D0 then some (i - 0x7180) else none
/-- A context request that names another partition's entry (R387). -/
def Who.foreign (w : Who) (i : Nat) : Bool :=
  match w, indexPart i with
  | .context p _, some q => p != q
  | _, _ => false

/-! Selectors (R403) -/

/-- The selectors of a path. -/
def Sys.selectors (s : Sys) (path : Path) : Selectors := (s.dict.selects.find? (fun x => x.path == path)).getD ⟨path, 0, 0xFFFFF, 0, 0⟩
def Sys.setSelectors (s : Sys) (x : Selectors) : Sys :=
  { s with dict := { s.dict with selects := s.dict.selects.filter (fun y => y.path != x.path) ++ [x] } }
/-- STAGE_SELECT: 0xFFFF, or for a context its partition, until it is written. -/
def Sys.stageSelect (s : Sys) (w : Who) (path : Path) : Nat :=
  let n := (s.selectors path).stage
  if n = 0xFFFFF then (match w with | .context p _ => p | _ => 0xFFFF) else n

/-- The partition of a context request. -/
def Who.part? (w : Who) : Option Nat := match w with | .context p _ => some p | _ => none
/-- Whether a flow, or a context, may be named by a requester. -/
def Sys.flowNamed (s : Sys) (w : Who) (f : Nat) : Bool := w.part?.all (fun p => s.holdsFlow p f)
def Sys.ctxNamed (s : Sys) (w : Who) (c : Nat) : Bool := w.part?.all (fun p => (s.ctx c).opened && (s.ctx c).part == p)

/-! Values -/

/-- A flow context as software sees it (R264). -/
def Flow.view (x : Flow) : Bytes :=
  let st := match x.state with | .free => 0 | .opening => 1 | .open => 2 | .closing => 3 | .lost => 4 | .alarmed => 5
  leBytes 1 st ++ leBytes 1 x.port ++ leBytes 1 x.role ++ leBytes 1 x.target ++ leBytes 4 x.peerFlow ++ leBytes 4 x.peerNode ++ leBytes 2 x.part
    ++ leBytes 2 x.peerPart ++ pad 16 x.peerIp ++ pad 6 x.nextHop ++ [0, 0] ++ leBytes 8 x.seq ++ leBytes 8 x.acked ++ leBytes 4 x.msg
    ++ leBytes 4 x.credit ++ leBytes 8 x.winBase ++ leBytes 4 x.slotBytes ++ leBytes 2 x.slots ++ leBytes 1 x.destBight ++ leBytes 1 x.destHitch
    ++ leBytes 2 x.rate ++ [0, 0] ++ leBytes 4 x.retx ++ leBytes 4 x.dropped ++ leBytes 4 x.tagFails ++ List.replicate 32 0

/-- The 32 bytes of a Logline record (R440). -/
def LogRec.bytes (r : LogRec) : Bytes :=
  leBytes 6 r.localCount.toNat ++ [r.domain, r.flags] ++ leBytes 4 r.seq.toNat ++ leBytes 2 r.event.toNat ++ [r.unit, r.partition]
    ++ leBytes 4 r.location.toNat ++ leBytes 4 r.arg0.toNat ++ leBytes 8 r.arg1.toNat

/-- LOG_RECORDS from a SEQ (R445). -/
def Log.records (l : Log) (first : Nat) : Bytes :=
  let n := l.ring.length
  let back := (l.nextSeq - BitVec.ofNat 32 first).toNat
  let start := if back = 0 ∨ 2 ^ 31 < back then n else if n < back then 0 else n - back
  ((l.ring.drop start).take 256).flatMap LogRec.bytes

/-- Codes of LC_STATE and LC_DESTINATION. -/
def Fuses.lcCode (f : Fuses) : Nat :=
  match f.lcState with
  | .blank => 0
  | .test => 1
  | .production => 2
  | .eol => if f.wiped then 3 else 5
  | .partial_ _ => 4
def Fuses.lcDest (f : Fuses) : Nat :=
  match f.lcState with
  | .blank => 1
  | .test => 1
  | .production => 2
  | .eol => 3
  | .partial_ d => d

def FnState.code (x : FnState) : Nat := match x with | .off => 0 | .waking => 1 | .ready => 2 | .degraded => 3 | .draining => 4 | .failed => 5
def LinkState.code (x : LinkState) : Nat := match x with | .disabled => 0 | .training => 1 | .up => 2 | .lost => 3
def PState.code (x : PState) : Nat := match x with | .absent => 0 | .keying => 1 | .joining => 2 | .active => 3 | .frozen => 4 | .destroying => 5
def StageState.code (x : StageState) : Nat := match x with | .empty => 0 | .opened => 1 | .preparing => 2 | .armed => 3 | .applied => 4 | .aborted => 5

/-- The FP32 average of a window's readings; a free value before a window has ended. -/
def Sys.averageC (s : Sys) (u : Nat) : Word32 :=
  let x := s.thermOf u
  if x.lastCount = 0 then s.drawn.setWidth 32 else fpDiv (intToFp (BitVec.ofInt 32 x.lastSum)) (intToFp (BitVec.ofNat 32 x.lastCount))

/-- The ARITH clock of a Strand die in MHz: the lower of its level's and the power level's (R215, R409). -/
def Sys.arithMhz (s : Sys) (d : Nat) : Nat :=
  let lv := s.plat.power.level
  let n := 25000 - 3125 * lv
  let byPower := n / 10 + (if n % 10 ≠ 0 ∧ Config.mhzUp lv then 1 else 0)
  min (2500 - 625 * s.dieLevel d) byPower

/-- "Lomnel" and "CZ-3220". -/
def vendorName : Bytes := [0x4C, 0x6F, 0x6D, 0x6E, 0x65, 0x6C]
def partName : Bytes := [0x43, 0x5A, 0x2D, 0x33, 0x32, 0x32, 0x30]

/-- Values of 0x2101. -/
def Sys.stageValue (s : Sys) (scope sub : Nat) : Bytes :=
  let z := (s.dict.sets.get? scope).getD StageSet.none
  match sub with
  | 1 => leBytes 1 z.state.code
  | 2 => leBytes 2 z.entries.length
  | 3 => leBytes 8 z.step
  | 4 => leBytes 2 z.refusing
  | 5 => leBytes 4 z.abort
  | _ => (z.entries.take 256).flatMap (fun e => leBytes 2 (e.1 / 256) ++ leBytes 1 (e.1 % 256) ++ [0])

/-- Values of a partition's entries. -/
def Sys.partValue (s : Sys) (p off sub : Nat) : Bytes :=
  let P := s.part p
  match off, sub with
  | 0, _ => P.config
  | 1, _ => P.policy
  | 3, 1 => leBytes 1 P.state.code
  | 3, 2 => P.mConfig
  | 3, _ => P.mPolicy
  | 4, 1 => leBytes 8 (s.dv (dictPart p 4) 1)
  | 4, 2 => leBytes 4 (s.dv (dictPart p 4) 2)
  | 4, _ => leBytes 2 (s.dv (dictPart p 4) 3)
  | 5, n => pad 1192 ((P.releases[n - 1]?).map (fun x => x.record) |>.getD [])
  | 6, _ => P.lastAlarm
  | 7, _ => leBytes 1 (s.dv (dictPart p 7) 1)
  | _, n => leBytes 8 (((P.session (n - 1)).map (fun e => e.epoch)).getD 0)

/-- What a read of an entry does to the units: a local count advances, free values are used. -/
def Sys.beforeRead (s : Sys) (i sub : Nat) : Sys :=
  if 0x3000 ≤ i ∧ i < 0x4000 ∧ sub = 2 then s.readCount (mainDomain ((i - 0x3000) / 16)) else s
/-- Free values that a read has used. -/
def Sys.afterRead (s : Sys) (i : Nat) : Sys :=
  if i = 0x5001 then s.took 6 else if 0x6010 ≤ i ∧ i < 0x604A then s.took 1 else s

/-- The value of an entry that a requester on a path may read; an abort code when a selector names nothing. -/
def State.value (t : State) (w : Who) (path : Path) (i sub : Nat) : Except Nat Bytes :=
  let s := t.sys
  let f := t.fuses
  let sel := s.selectors path
  if sub = 0 then .ok (leBytes 1 (subMax i))
  else if 0x1200 ≤ i ∧ i < 0x1300 then
    (let x := s.fn (i - 0x1200)
     .ok (match sub with | 1 => leBytes 1 x.state.code | 2 => leBytes 1 (s.dv i 2) | 3 => [if x.pending then 1 else 0] | _ => leBytes 4 x.cause))
  else if 0x3000 ≤ i ∧ i < 0x4000 then
    (let g := (i - 0x3000) / 16
     .ok (if sub = 1 then leBytes 4 (Config.unitRevision g).toNat else leBytes 8 (s.count (mainDomain g)).toNat))
  else if 0x4000 ≤ i ∧ i < 0x4A00 then .ok (s.partValue ((i - 0x4000) / 0x20) (i % 0x20) sub)
  else if 0x6010 ≤ i ∧ i < 0x6024 then .ok (if sub = 1 then leBytes 4 (s.averageC (i - 0x6010)).toNat else leBytes 1 (s.thermOf (i - 0x6010)).level)
  else if 0x6030 ≤ i ∧ i < 0x603A then
    .ok (if sub = 1 then leBytes 4 (s.averageC (20 + (i - 0x6030))).toNat else leBytes 1 (s.thermOf (20 + (i - 0x6030))).level)
  else if 0x6040 ≤ i ∧ i < 0x604A then .ok (if sub = 1 then leBytes 4 (s.drawn.setWidth 32).toNat else leBytes 4 (s.arithMhz (i - 0x6040)))
  else if 0x7100 ≤ i ∧ i < 0x8000 then .ok (leBytes 8 (s.log.counters.get 0 (errKey i sub)))
  else match i, sub with
  | 0x1000, 1 => .ok vendorName
  | 0x1000, 2 => .ok partName
  | 0x1000, 3 => .ok serialBytes
  | 0x1000, 4 => .ok (leBytes 4 1)
  | 0x1000, 5 => .ok (leBytes 4 1)
  | 0x1000, _ => .ok (leBytes 4 ((s.trust.inForce.map amendVersion).getD 0))
  | 0x1100, 6 => .ok (leBytes 6 Config.mgmtMac.toNat)
  | 0x1180, 1 => .ok (leBytes 4 sel.flow)
  | 0x1180, _ => if s.flowNamed w sel.flow then .ok (s.flow sel.flow).view else .error abNO_ACCESS
  | 0x2010, 4 => .ok [3]
  | 0x2100, _ => .ok (leBytes 2 (s.stageSelect w path))
  | 0x2101, n => .ok (s.stageValue (s.stageSelect w path) n)
  | 0x5000, _ => .ok (leBytes 2 sel.ctx)
  | 0x5001, _ => if !s.ctxNamed w sel.ctx then .error abNO_ACCESS else if !(s.ctx sel.ctx).opened then .error abNO_ENTRY else .ok (s.usageRec sel.ctx)
  | 0x5002, n => if !s.ctxNamed w sel.ctx then .error abNO_ACCESS else if !(s.ctx sel.ctx).opened then .error abNO_ENTRY
      else .ok (leBytes 8 ((s.ring sel.ctx (n - 1)).expect - 1))
  | 0x6000, 1 => .ok (leBytes 4 s.plat.power.millivolts)
  | 0x6000, 2 => .ok (leBytes 4 (s.plat.power.microwatts / 1000000))
  | 0x6000, _ => .ok [if s.throttled then 1 else 0]
  | 0x7000, 2 => .ok [if s.log.frozen then 1 else 0]
  | 0x7000, 3 => .ok [s.log.cause]
  | 0x7000, 4 => .ok (leBytes 4 s.log.nextSeq.toNat)
  | 0x7000, 5 => .ok (leBytes 4 sel.logFirst)
  | 0x7000, _ => .ok (s.log.records sel.logFirst)
  | 0x8000, 1 => .ok (leBytes 1 f.lcCode)
  | 0x8000, 2 => .ok (leBytes 1 f.lcDest)
  | 0x8000, 3 => .ok (leBytes 8 f.word.toNat)
  | 0x8000, 4 => .ok (keyBytes s.trust.nonce)
  | 0x8000, 5 => .ok (debugByte s.trust)
  | 0x8000, 6 => .ok (leBytes 8 (resolve f.done).toNat)
  | 0x8000, _ => .ok [if f.dsWritten then 1 else 0]
  | 0x8001, _ => .ok (leBytes 4 s.trust.result)
  | 0x8002, 1 => .ok (leBytes 32 (s.dv 0x8002 1))
  | 0x8003, 1 => .ok f.dikPublic
  | 0x8003, _ => .ok (leBytes 3820 (s.dv 0x8003 2))
  | 0x8004, 2 => .ok (leBytes 1 s.trust.amendState)
  | 0x8004, _ => .ok (leBytes 8 f.thermo.toNat)
  | 0x8005, _ => .ok (leBytes 1 s.trust.entropy)
  | 0x9000, 3 => .ok (leBytes 1 s.plat.margin.status)
  | 0x9000, 4 => .ok (leBytes 4 (s.plat.margin.buffer.length / 16))
  | 0x9001, _ => .ok s.plat.margin.buffer
  | i, n => if 0x1110 ≤ i ∧ i < 0x111C ∧ n = 0xC then .ok (leBytes 1 (s.port (i - 0x1110)).link.code)
      else .ok (leBytes (((fieldEntry i n).map (fun e => e.ty.size)).getD 0) (s.dv i n))

/-- A READ: the checks and the value. -/
def State.readEntry (t : State) (w : Who) (path : Path) (i sub : Nat) : State × Except Nat Bytes :=
  match entryOf i sub with
  | none => (t, .error abNO_ENTRY)
  | some e =>
    let cs := e.classes w
    if w.foreign i ∨ !mayRead cs then (t, .error abNO_ACCESS)
    else if i = 0x8002 ∧ sub = 1 ∧ t.sys.dv 0x8002 1 = 0 ∧ w ≠ .operator then (t, .error abNO_ACCESS)
    else if !cs.any (fun c => c != .wo) then (t, .ok (List.replicate e.ty.size 0))
    else
      let t := { t with sys := t.sys.beforeRead i sub }
      let v := t.value w path i sub
      ({ t with sys := t.sys.afterRead i }, v)

end Sys2Proof.Machine
end

