-- ==== Sys2Proof/Machine/Dictionary.lean ====
section
/-!
DEFINITION. Writing dictionary entries, staging sets, messages and transfers, DICT_READ and DICT_WRITE, the management and
I3C ports, in-band frames (R206, R338, R386 to R405).
-/

namespace Sys2Proof.Machine

/-! Ranges of values (R405) -/

/-- A power of two from 64 to 65,536. -/
def powerOf2 (n : Nat) : Bool := entriesOk n

/-- Whether a number lies in the range that the Notes give; `ok` for entries without one. -/
def inRange (i sub v : Nat) : Bool :=
  if 0x1110 ≤ i ∧ i < 0x111C then
    (match sub with
     | 2 => decide (v ≤ 2)
     | 3 => decide (v ≤ 1)
     | 6 => decide (v ≤ 4094)
     | 7 => decide (v ≤ 63)
     | 8 => decide (1 ≤ v)
     | 0xA => v == 1024 || v == 2048 || v == 4096
     | 0xB => v == 0 || (decide (12 ≤ v) && decide (v ≤ 24))
     | _ => true)
  else if 0x4000 ≤ i ∧ i < 0x4A00 then
    (match i % 0x20, sub with
     | 2, _ => v == 1 || v == 2
     | 4, 2 => powerOf2 v
     | 4, 3 => decide (v < 2048) || v == 0xFFFF
     | 7, _ => decide (20 ≤ v) && decide (v ≤ 28)
     | _, _ => true)
  else match i, sub with
  | 0x1100, 1 => v != 0 && v != 0xFFFFFFFF
  | 0x1101, _ => decide (v / 2 ^ 32 % 256 ≤ 32) && decide (v / 2 ^ 40 % 256 ≤ 11)
  | 0x1180, 1 => decide (v < flowCount)
  | 0x1190, 1 => v % 4096 == 0
  | 0x1190, 2 => v == 0 || powerOf2 v
  | 0x1190, 3 => decide (v ≤ 63) || v == 0xFFFF
  | 0x2000, 1 => decide (3500 ≤ v) && decide (v ≤ 7000)
  | 0x2010, 1 => v == 0 || (decide (40 ≤ v) && decide (v ≤ 47))
  | 0x2010, 2 => decide (70 ≤ v) && decide (v ≤ 90)
  | 0x2010, 5 => decide (70 ≤ v) && decide (v ≤ 90)
  | 0x2010, _ => decide (80 ≤ v) && decide (v ≤ 105)
  | 0x2020, 1 => decide (24 ≤ v) && decide (v ≤ 34)
  | 0x2100, 1 => decide (v < 80) || v == 0xFFFF
  | 0x5000, 1 => decide (v < 16384)
  | 0x7000, 1 => v == 1
  | 0x7000, 7 => v == 1
  | 0x8001, 1 => decide (1 ≤ v) && decide (v ≤ 3)
  | 0x8001, 3 => v == 1
  | 0x9000, 1 => decide (1 ≤ v) && decide (v ≤ 3)
  | 0x9000, 2 => decide (v < 20) || (decide (0x40 ≤ v) && decide (v < 0x4A))
  | _, _ => true

/-- Reserved bits of a value. -/
def valueReserved (i sub v : Nat) : Bool :=
  match i, sub with
  | 0x1100, 4 => decide (4096 ≤ v)
  | 0x1101, _ => v / 2 ^ 48 != 0
  -- bytes 5 to 7 of a certificate (R362)
  | 0x8003, 2 => v / 2 ^ 40 % 2 ^ 24 != 0
  | _, _ => false

/-! Writing (R386, R396) -/

/-- Whether an entry's scope is quiet. -/
def Sys.quietFor (s : Sys) (e : Entry) (i : Nat) : Bool :=
  match e.quiet with
  | 1 => (s.flowsOn (i - 0x1110)).isEmpty
  | 2 => !s.anyPart
  | _ => true

/-- Scope of an RWS entry. -/
def scopeOf (i : Nat) : Nat := if 0x4000 ≤ i ∧ i < 0x4A00 then (i - 0x4000) / 0x20 else 0xFFFF
/-- Whether an entry is held by a set that is PREPARING or ARMED. -/
def Sys.stagedHeld (s : Sys) (i sub : Nat) : Bool :=
  match s.dict.sets.get? (scopeOf i) with
  | some z => (z.state == .preparing || z.state == .armed) && z.entries.any (fun e => e.1 == dictKey i sub)
  | none => false

/-- Stores a value of an entry that needs nothing else. -/
def State.store (i sub v : Nat) (t : State) : State × Nat := ({ t with sys := t.sys.storeDv t.fuses (dictKey i sub) v }, 0)

/-- BASE_COMP_BASE, BASE_COMP_ENTRIES, BASE_MSIX (R292). -/
def State.writeBase (p sub v : Nat) (t : State) : State × Nat :=
  let P := t.sys.part p
  if P.state ≠ .joining ∨ !P.sessions.isEmpty then (t, abWRONG_STATE) else
  let s := t.sys.setDv (dictKey (dictPart p 4) sub) v
  let x := s.ctx P.base
  let x := match sub with | 1 => { x with compBase := v } | 2 => { x with compEntries := v } | _ => { x with msix := v }
  ({ t with sys := s.setCtx P.base x }, 0)

/-- A write of a partition entry. A POLICY record that breaks its layout, a non-zero reserved field included, is RECORD_INVALID (DESIGN CHOICE,
log 188). -/
def State.writePartEntry (p off sub : Nat) (b : Bytes) (t : State) : State × Nat :=
  let v := leNat b
  match off with
  | 0 => t.onCode (fun s => s.writeConfig p b)
  | 1 => if (t.sys.part p).state ≠ .absent then (t, abWRONG_STATE)
    else if !policyOk b then (t, abRECORD_INVALID)
    else ({ t with sys := t.sys.setPart p { t.sys.part p with policy := b } }, 0)
  | 2 => if v = 1 then State.create p t else State.destroy p t
  | 4 => State.writeBase p sub v t
  | _ => (t, abNO_ACCESS)

/-- A LC_REQUEST record, by its KIND; how the fuses behave is a free value (log 191). -/
def State.lcRequest (w : Who) (b : Bytes) (t : State) : State × Nat :=
  if fieldN b 4 1 = 2 then (if w = .operator then (let burn := t.fuses.ahead; State.endOfLife b burn t.nextAhead) else (t, abNO_ACCESS)) else State.debugToken b t

/-- LC_TRANSITION; how the fuses behave is a free value (log 191). -/
def State.lcTransition (v : Nat) (t : State) : State × Nat :=
  let burn := t.fuses.ahead
  let t := t.nextAhead
  match v with | 1 => State.toTest burn t | 2 => State.toProduction burn t | _ => State.complete burn t

/-- The effect of a write whose rights, length and range have been checked. -/
def State.writeValue (w : Who) (path : Path) (i sub : Nat) (b : Bytes) (t : State) : State × Nat :=
  let v := leNat b
  let sel := t.sys.selectors path
  let stored := State.store i sub v t
  if 0x4000 ≤ i ∧ i < 0x4A00 then State.writePartEntry ((i - 0x4000) / 0x20) (i % 0x20) sub b t
  else if 0x1200 ≤ i ∧ i < 0x1300 then State.setEnable (i - 0x1200) (v == 1) t
  else if 0x1110 ≤ i ∧ i < 0x111C ∧ sub = 1 then State.setPort (i - 0x1110) (v == 1) t
  else match i, sub with
  | 0x1180, _ => if t.sys.flowNamed w v then ({ t with sys := t.sys.setSelectors { sel with flow := v } }, 0) else (t, abNO_ACCESS)
  | 0x2100, _ => if w.part?.all (fun p => v == p) then ({ t with sys := t.sys.setSelectors { sel with stage := v } }, 0) else (t, abNO_ACCESS)
  | 0x5000, _ => if t.sys.ctxNamed w v then ({ t with sys := t.sys.setSelectors { sel with ctx := v } }, 0) else (t, abNO_ACCESS)
  | 0x1190, _ => ({ stored.1 with sys := stored.1.sys.flushOpEvents }, stored.2)
  | 0x7000, 1 => ({ t with sys := t.sys.logFreeze path }, 0)
  | 0x7000, 5 => ({ t with sys := t.sys.setSelectors { sel with logFirst := v } }, 0)
  | 0x7000, _ => ({ t with sys := t.sys.logResume }, 0)
  | 0x8001, 1 => State.lcTransition v t
  | 0x8001, 2 => State.lcRequest w b t
  | 0x8001, _ => State.dsGenerate t
  | 0x8002, 1 => if t.sys.dv 0x8002 1 = 0 then stored else (t, abNO_ACCESS)
  | 0x8002, _ => State.operatorKey b t
  | 0x8003, _ => if t.fuses.lcState = .test then stored else (t, abWRONG_STATE)
  | 0x8004, _ => State.amend b t
  | 0x9000, 1 => t.onCode (fun s => if v = 3 then s.abortRun else s.startRun (v == 2))
  | _, _ => stored

/-- The checks that a WRITE and a WRITE_STAGED of an entry pass before their value stands: 0 when they pass. -/
def State.mayEnter (t : State) (w : Who) (i sub len : Nat) (staged : Bool) : Nat :=
  match entryOf i sub with
  | none => abNO_ENTRY
  | some e =>
    let cs := e.classes w
    if w.foreign i then abNO_ACCESS
    else if (mayWrite cs || mayStage cs) && t.sys.stagedHeld i sub then abSTAGED_PENDING
    else if !(if staged then mayStage cs else mayWrite cs) then abNO_ACCESS
    else if !e.ty.fits len then abBAD_LENGTH
    else 0

/-- The checks of a value. -/
def valueCheck (e : Entry) (i sub : Nat) (b : Bytes) : Nat :=
  let v := leNat b
  if e.ty = .bool ∧ 1 < v then abOUT_OF_RANGE
  else if valueReserved i sub v then abRESERVED_SET
  else match e.ty with
    | .oct 8 => if inRange i sub v then 0 else abOUT_OF_RANGE
    | .u _ => if inRange i sub v then 0 else abOUT_OF_RANGE
    | _ => 0

/-- A WRITE. -/
def State.writeEntry (w : Who) (path : Path) (i sub : Nat) (b : Bytes) (t : State) : State × Nat :=
  let c := t.mayEnter w i sub b.length false
  if c ≠ 0 then (t, c) else
  match entryOf i sub with
  | none => (t, abNO_ENTRY)
  | some e =>
    let c := valueCheck e i sub b
    if c ≠ 0 then (t, c)
    else if !t.sys.quietFor e i then (t, abREQUIRES_QUIESCE)
    else State.writeValue w path i sub b t

/-! Staging (R397 to R400) -/

def Sys.stageSet (s : Sys) (scope : Nat) : StageSet := (s.dict.sets.get? scope).getD StageSet.none
def Sys.setStage (s : Sys) (scope : Nat) (z : StageSet) : Sys := { s with dict := { s.dict with sets := s.dict.sets.put scope z } }

/-- A WRITE_STAGED. -/
def State.stageEntry (w : Who) (i sub : Nat) (b : Bytes) (t : State) : State × Nat :=
  let c := t.mayEnter w i sub b.length true
  if c ≠ 0 then (t, c) else
  match entryOf i sub with
  | none => (t, abNO_ENTRY)
  | some e =>
    let c := valueCheck e i sub b
    if c ≠ 0 then (t, c) else
    let scope := scopeOf i
    let z := t.sys.stageSet scope
    if z.state = .preparing ∨ z.state = .armed then (t, abSTAGED_PENDING) else
    let z := if z.state = .opened then z else { StageSet.none with state := .opened }
    let key := dictKey i sub
    let es := if z.entries.any (fun x => x.1 == key) then z.entries.map (fun x => if x.1 = key then (key, leNat b) else x) else z.entries ++ [(key, leNat b)]
    ({ t with sys := t.sys.setStage scope { z with entries := es } }, 0)

/-- Whether a requester may commit or abort a scope. -/
def Who.scopeOk (w : Who) (scope : Nat) : Bool :=
  match w with
  | .operator => true
  | .context p _ => scope == p
  | .vendor => false

/-- A value in force, or staged over it. -/
def Sys.staged (s : Sys) (z : StageSet) (i sub : Nat) : Nat := ((z.entries.find? (fun e => e.1 == dictKey i sub)).map (fun e => e.2)).getD (s.dv i sub)

/-- The function that refuses a set of the module's scope: the first READY controller whose CRIT would be below WARN + 5 (R216, R398). -/
def Sys.refuser (s : Sys) (scope : Nat) (z : StageSet) : Option Nat :=
  if scope ≠ 0xFFFF then none else
  let hbm := decide (s.staged z 0x2010 3 < s.staged z 0x2010 2 + 5)
  let lp := decide (s.staged z 0x2010 6 < s.staged z 0x2010 5 + 5)
  functions.find? (fun f => s.fnReady f && ((isStack f && hbm) || (isPackage f && lp)))

/-- A COMMIT: prepare, then arm. -/
def State.commitSet (w : Who) (scope step : Nat) (t : State) : State × Nat :=
  let s := t.sys
  let z := s.stageSet scope
  if !w.scopeOk scope then (t, abNO_ACCESS)
  else if z.state ≠ .opened then (t, abNO_SET)
  else if scope = 0xFFFF ∧ step ≠ 0 then (t, abOUT_OF_RANGE)
  else if scope ≠ 0xFFFF ∧ step ≠ 0 ∧ (s.part scope).stepDone.any (fun n => decide (step ≤ n)) then (t, abSTEP_PASSED)
  else match s.refuser scope z with
    | some f => ({ t with sys := s.setStage scope { z with state := .aborted, step := step, refusing := f, abort := abUNIT_REFUSED } }, abUNIT_REFUSED)
    | none => ({ t with sys := s.setStage scope { z with state := .armed, step := step, placed := step == 0 } }, 0)

/-- An ABORT. -/
def State.abortSet (w : Who) (scope : Nat) (t : State) : State × Nat :=
  let z := t.sys.stageSet scope
  if !w.scopeOk scope then (t, abNO_ACCESS)
  else if z.placed then (t, abCOMMIT_PLACED)
  else if z.state = .opened ∨ z.state = .armed then ({ t with sys := t.sys.setStage scope { z with state := .aborted, entries := [] } }, 0)
  else (t, abNO_SET)

/-- The controllers that are not READY go on with the value that stands, until their next WAKING (R398, R427). -/
def Sys.keepLimit (s : Sys) (key : Nat) : Sys :=
  if key / 256 ≠ 0x2010 then s else
  let sub := key % 256
  let us := if sub = 1 then List.range 30 else if sub ≤ 3 then List.range 20 else (List.range 10).map (20 + ·)
  let us := us.filter (fun u => !s.fnReady (unitFn u) && (s.plat.kept.get? (8 * u + sub)).isNone)
  { s with plat := { s.plat with kept := us.foldl (fun m u => m.put (8 * u + sub) (s.dv 0x2010 sub)) s.plat.kept } }

/-- STAGED_SET_APPLY: once the markers are placed, the values are in force, and persisted entries are written. -/
def Sys.applySet (s : Sys) (f : Fuses) (scope : Nat) : Sys :=
  let z := s.stageSet scope
  if z.state ≠ .armed ∨ !z.placed then s else
  let s := z.entries.foldl (fun s e => (s.keepLimit e.1).setDv e.1 e.2) s
  let s := if z.entries.any (fun e => persisted e.1) then s.persist f else s
  s.setStage scope { z with state := .applied }
def execStagedSetApply (scope : Nat) (s : State) : Host.Outcome State Fault Refusal := s.onSys (fun y => y.applySet s.fuses scope)

/-! Messages and transfers (R390, R392, R393) -/

def Sys.transfer? (s : Sys) (path : Path) (id : Nat) : Option Transfer := s.dict.transfers.find? (fun x => x.path == path && x.id == id)
def Sys.dropTransfer (s : Sys) (path : Path) (id : Nat) : Sys :=
  { s with dict := { s.dict with transfers := s.dict.transfers.filter (fun x => !(x.path == path && x.id == id)) } }
def Sys.putTransfer (s : Sys) (x : Transfer) : Sys :=
  let s := s.dropTransfer x.path x.id
  { s with dict := { s.dict with transfers := s.dict.transfers ++ [x] } }
/-- Whether a path may open another transfer: 16 for a source of the management port, one for a window. -/
def Sys.transferRoom (s : Sys) (path : Path) : Bool :=
  let n := s.dict.transfers.countP (fun x => x.path == path)
  match path with
  | .window _ => n == 0
  | _ => decide (n < 16)

/-- A response to a message: its KIND with bit 7 set (R392); none where power is lost inside the operation. -/
def State.respond (t : State) (m : DictMsg) (kind flags length code data : Nat) (seg : Bytes) : State :=
  if code = noAnswer then t else
  { t with sys := t.sys.reply m.path (msgHeader (0x80 + kind % 128) m.role m.transfer m.index m.sub flags length code data ++ seg) }

/-- A READ: an expedited value, or a transfer over its snapshot. -/
def State.msgRead (m : DictMsg) (w : Who) (t : State) : State :=
  match t.readEntry w m.path m.index m.sub with
  | (t, .error c) => t.respond m 1 0 0 c 0 []
  | (t, .ok b) =>
    if b.length ≤ 8 then t.respond m 1 1 b.length 0 (leNat b) []
    else if !t.sys.transferRoom m.path then t.respond m 1 0 0 abTRANSFER_IN_USE 0 []
    else
      let x : Transfer := { path := m.path, id := m.transfer, role := m.role, kind := 1, index := m.index, sub := m.sub, length := b.length, data := b, next := 0 }
      ({ t with sys := t.sys.putTransfer x }).respond m 1 0 b.length 0 0 []

/-- A WRITE (kind 2) or WRITE_STAGED (kind 3) performed whole. -/
def State.perform (kind : Nat) (w : Who) (path : Path) (i sub : Nat) (b : Bytes) (t : State) : State × Nat :=
  if kind = 3 then State.stageEntry w i sub b t else State.writeEntry w path i sub b t

/-- A WRITE or WRITE_STAGED: an expedited value, or the start of a transfer. -/
def State.msgWrite (kind : Nat) (m : DictMsg) (w : Who) (t : State) : State :=
  if m.flags % 2 = 1 then
    (if 8 < m.length then t.respond m kind 0 0 abBAD_LENGTH 0 []
     else let r := State.perform kind w m.path m.index m.sub ((leBytes 8 m.data.toNat).take m.length) t
          r.1.respond m kind 0 m.length r.2 0 [])
  else
    let c := t.mayEnter w m.index m.sub m.length (kind == 3)
    if c ≠ 0 then t.respond m kind 0 0 c 0 []
    else if !t.sys.transferRoom m.path then t.respond m kind 0 0 abTRANSFER_IN_USE 0 []
    else
      let x : Transfer := { path := m.path, id := m.transfer, role := m.role, kind := kind, index := m.index, sub := m.sub, length := m.length, data := [], next := 0 }
      ({ t with sys := t.sys.putTransfer x }).respond m kind 0 m.length 0 0 []

/-- One SEGMENT of a read: segment `next` of the snapshot. -/
def State.segmentRead (m : DictMsg) (x : Transfer) (t : State) : State :=
  let d := (x.data.drop (1024 * x.next)).take 1024
  let last := decide (x.length ≤ 1024 * (x.next + 1))
  let s := if last then t.sys.dropTransfer x.path x.id else t.sys.putTransfer { x with next := x.next + 1 }
  ({ t with sys := s }).respond m 6 (if last then 2 else 0) x.length 0 0 d

/-- One SEGMENT of a write; the last one performs it. -/
def State.segmentWrite (m : DictMsg) (x : Transfer) (w : Option Who) (t : State) : State :=
  let d := x.data ++ m.segment
  let last := m.flags / 2 % 2 = 1
  let ended := { t with sys := t.sys.dropTransfer x.path x.id }
  if 1024 < m.segment.length ∨ x.length < d.length ∨ (last ∧ d.length ≠ x.length) then ended.respond m 6 0 0 abBAD_SEGMENT 0 []
  else if last then
    (match w with
     | some w => let r := State.perform x.kind w x.path x.index x.sub d ended; r.1.respond m 6 2 x.length r.2 0 []
     | none => ended.respond m 6 0 0 abNO_ACCESS 0 [])
  else ({ t with sys := t.sys.putTransfer { x with data := d, next := x.next + 1 } }).respond m 6 0 x.length 0 0 []

/-- A SEGMENT message. -/
def State.msgSegment (m : DictMsg) (t : State) : State :=
  match t.sys.transfer? m.path m.transfer with
  | none => t.respond m 6 0 0 abBAD_SEGMENT 0 []
  | some x =>
    if m.code ≠ x.next then ({ t with sys := t.sys.dropTransfer x.path x.id }).respond m 6 0 0 abBAD_SEGMENT 0 []
    else if x.kind = 1 then State.segmentRead m x t
    else State.segmentWrite m x (t.who m.path x.role) t

/-- A message of any kind but SEGMENT, of a requester that holds its role. -/
def State.msgServe (kind : Nat) (m : DictMsg) (w : Who) (t : State) : State :=
  match kind with
  | 1 => State.msgRead m w t
  | 2 => State.msgWrite 2 m w t
  | 3 => State.msgWrite 3 m w t
  | 4 => let r := State.commitSet w m.index m.data.toNat t; r.1.respond m 4 0 0 r.2 0 []
  | _ => let r := State.abortSet w m.index t; r.1.respond m 5 0 0 r.2 0 []

/-- The entry whose range decides whether a message is answered: a SEGMENT's is its transfer's; a scope is no entry. -/
def State.msgIndex (t : State) (kind : Nat) (m : DictMsg) : Nat :=
  if kind = 6 then ((t.sys.transfer? m.path m.transfer).map (fun x => x.index)).getD m.index else if kind = 4 ∨ kind = 5 then 0x2100 else m.index

/-- The bytes of a message. -/
def msgBytes (kind : Nat) (m : DictMsg) : Bytes := msgHeader kind m.role m.transfer m.index m.sub m.flags m.length m.code m.data.toNat ++ m.segment

/-- A message taken from its path. Its source owns the transfers and selectors, and the response goes there (R388, R390, R403). -/
def State.message (kind : Nat) (m : DictMsg) (t : State) : State :=
  if !t.sys.reaches m.path || !t.sys.submitOk m.path m.submit then t else
  let t := { t with sys := t.sys.submitted m.path (msgBytes kind m) }
  let at_ := m.path
  let m := { m with path := at_.source }
  match t.answer at_ (t.msgIndex kind m) with
  | .silent => t
  | .shut => t.respond m kind 0 0 abWRONG_STATE 0 []
  | .serve =>
    if m.role ≠ 0 ∧ m.role ≠ 2 ∧ m.role ≠ 3 then t.respond m kind 0 0 abBAD_KIND 0 []
    else if 4 ≤ m.flags then t.respond m kind 0 0 abRESERVED_SET 0 []
    else if kind = 6 then State.msgSegment m t
    else if t.sys.transferOpen m.path m.transfer then t.respond m kind 0 0 abTRANSFER_IN_USE 0 []
    else match t.who m.path m.role with
      | none => t.respond m kind 0 0 abNO_ACCESS 0 []
      | some w => State.msgServe kind m w t

def execDictMsgRead (m : DictMsg) (s : State) : Host.Outcome State Fault Refusal := .next (State.message 1 m s)
def execDictMsgWrite (m : DictMsg) (s : State) : Host.Outcome State Fault Refusal := .next (State.message 2 m s)
def execDictMsgWriteStaged (m : DictMsg) (s : State) : Host.Outcome State Fault Refusal := .next (State.message 3 m s)
def execDictMsgCommit (m : DictMsg) (s : State) : Host.Outcome State Fault Refusal := .next (State.message 4 m s)
def execDictMsgAbort (m : DictMsg) (s : State) : Host.Outcome State Fault Refusal := .next (State.message 5 m s)
def execDictMsgSegment (m : DictMsg) (s : State) : Host.Outcome State Fault Refusal := .next (State.message 6 m s)

/-- A transfer that receives nothing ends. -/
def Sys.idleTransfer (s : Sys) (path : Path) (id : Nat) : Sys :=
  match s.transfer? path id with
  | none => s
  | some x => (s.dropTransfer path id).reply path (msgHeader (0x80 + x.kind) x.role id x.index x.sub 0 0 abTRANSFER_IDLE 0)
def execTransferIdle (path : Path) (transfer : Nat) (s : State) : Host.Outcome State Fault Refusal := s.onSys (fun y => y.idleTransfer path.source transfer)

/-! DICT_READ and DICT_WRITE (R338) -/

/-- The requester that a command's context is. -/
def Sys.cmdWho (s : Sys) (c : Nat) : Who := .context (s.ctx c).part (s.ctx c).owner.isSome

def dictReadBody (f : Fuses) (p c : Nat) (k : Cmd) (s : Sys) : Did :=
  let r := State.readEntry ⟨[], f, s⟩ (s.cmdWho c) (.window p) (k.field 8 2) (k.field 0x0A 1)
  let s := r.1.sys
  match r.2 with
  | .error e => .done s (abStatus e) (leBytes 4 e)
  | .ok b =>
    if b.length ≤ 12 then .done s stOK (leBytes 4 0 ++ leBytes 4 b.length ++ b)
    else if k.field 0x10 8 % 4096 ≠ 0 then .done s stBAD_VALUE []
    else let (s, _) := s.giveRecord p c k (k.field 0x10 8) b; .done s stOK (leBytes 4 0 ++ leBytes 4 b.length)
def execDictRead (k : CmdKey) (s : State) : Host.Outcome State Fault Refusal :=
  s.onSys (fun y => y.runOrdered (.dictRead k) k (isOp 0x60) (dictReadBody s.fuses))

/-- MODE of DICT_WRITE. -/
def Cmd.dictMode (k : Cmd) : Nat := k.field 0x0B 1
/-- An abort code as a completion. -/
def dictDone (r : State × Nat) (ok : Nat) : Did := .done r.1.sys (if r.2 = 0 then ok else abStatus r.2) (leBytes 4 r.2)

/-- The value of a DICT_WRITE; a status when its range or its bytes are bad. -/
def Sys.dictValue (s : Sys) (p : Nat) (k : Cmd) : Except Nat Bytes :=
  let n := k.field 0x0C 4
  if n ≤ 64 then .ok (sliceB k.payload 0x18 n)
  else if !(s.part p).owns (k.field 0x10 8) n then .error stBAD_RANGE
  else let b := s.readPart p (k.field 0x10 8) n; if b.worst.isBad then .error (markStatus b.worst) else .ok b.data

/-- MODE 0 and 1. -/
def dictWriteBody (staged : Bool) (f : Fuses) (p c : Nat) (k : Cmd) (s : Sys) : Did :=
  if 3 < k.dictMode then .done s stBAD_VALUE []
  else
    let t : State := ⟨[], f, s⟩
    let w := s.cmdWho c
    let i := k.field 8 2
    let sub := k.field 0x0A 1
    -- rights and length come before the value is read
    let e := t.mayEnter w i sub (k.field 0x0C 4) staged
    if e ≠ 0 then dictDone (t, e) stOK
    else match s.dictValue p k with
      | .error st => .done s st []
      | .ok b => if staged then dictDone (State.stageEntry w i sub b t) stDEFERRED else dictDone (State.writeEntry w (.window p) i sub b t) stOK
def dictCommitBody (f : Fuses) (_p c : Nat) (k : Cmd) (s : Sys) : Did :=
  dictDone (State.commitSet (s.cmdWho c) (k.field 8 2) (k.field 0x58 8) ⟨[], f, s⟩) stOK
def dictAbortBody (f : Fuses) (_p c : Nat) (k : Cmd) (s : Sys) : Did := dictDone (State.abortSet (s.cmdWho c) (k.field 8 2) ⟨[], f, s⟩) stOK

def isDict (mode : Nat) (k : Cmd) : Bool := k.opcode == 0x61 && (k.dictMode == mode || (mode == 0 && decide (3 < k.dictMode)))
def execDictWrite (k : CmdKey) (s : State) : Host.Outcome State Fault Refusal :=
  s.onSys (fun y => y.runOrdered (.dictWrite k) k (isDict 0) (dictWriteBody false s.fuses))
def execDictWriteStaged (k : CmdKey) (s : State) : Host.Outcome State Fault Refusal :=
  s.onSys (fun y => y.runOrdered (.dictWriteStaged k) k (isDict 1) (dictWriteBody true s.fuses))
def execDictCommit (k : CmdKey) (s : State) : Host.Outcome State Fault Refusal :=
  s.onSys (fun y => y.runOrdered (.dictCommit k) k (isDict 2) (dictCommitBody s.fuses))
def execDictAbort (k : CmdKey) (s : State) : Host.Outcome State Fault Refusal :=
  s.onSys (fun y => y.runOrdered (.dictAbort k) k (isDict 3) (dictAbortBody s.fuses))

/-! The management port and the I3C port (R388, R391, R459) -/

/-- A Neighbor Solicitation for the port's address, as a number of its 16 bytes. -/
def execNeighborSolicitation (target : Nat) (s : State) : Host.Outcome State Fault Refusal :=
  s.onSys (fun y => if (y.fn fnBowline).state = .ready ∧ target = y.dv 0x1100 2 then
    { y with dict := { y.dict with adverts := y.dict.adverts ++ [(target, Config.mgmtMac.toNat)] } } else y)

/-- A private write selects an entry, and the read that follows returns its value, while the module answers for its index; an empty
response is a NACK. -/
def State.i3cSelect (i sub : Nat) (t : State) : State :=
  match t.sys.dict.i3cAddr with
  | none => t
  | some _ =>
    let t := { t with sys := { t.sys with dict := { t.sys.dict with i3cSel := some (i, sub) } } }
    if t.answer .i3c i ≠ .serve ∨ !(entryOf i sub).any (fun e => e.i3c) then { t with sys := t.sys.reply .i3c [] }
    else match t.value .operator .i3c i sub with
      | .ok b => { t with sys := (t.sys.afterRead i).reply .i3c b }
      | .error _ => { t with sys := t.sys.reply .i3c [] }
def execI3cEntrySelect (index sub : Nat) (s : State) : Host.Outcome State Fault Refusal := .next (State.i3cSelect index sub s)

/-- ENTDAA: the target sends its provisional ID, formed from SERIAL (log 197), and takes a 7-bit address. -/
def execEntdaa (addr : Nat) (s : State) : Host.Outcome State Fault Refusal :=
  s.onSys (fun y => if y.plat.powered ∧ addr < 128 then
    (let y := y.reply .i3c (leBytes 6 (Config.provisionalId Config.serial).toNat)
     { y with dict := { y.dict with i3cAddr := some addr } }) else y)

/-! In-band frames (R261, R389) -/

/-- The port of the longest matching route. -/
def Sys.route (s : Sys) (node : Nat) : Option Nat :=
  ((List.range 64).foldl (fun (b : Option (Nat × Nat)) i =>
    let v := s.dv 0x1101 (i + 1)
    let n := v % 2 ^ 32
    let bits := v / 2 ^ 32 % 256
    if (bits = 0 ∧ n = 0) ∨ node / 2 ^ (32 - bits) ≠ n / 2 ^ (32 - bits) then b
    else match b with
      | some (l, q) => if l < bits then some (bits, v / 2 ^ 40 % 256) else some (l, q)
      | none => some (bits, v / 2 ^ 40 % 256)) none).map (fun e => e.2)

/-- A message's header and segment data. -/
def parseMsg (path : Path) (b : Bytes) : DictMsg :=
  { path := path, role := fieldN b 1 1, transfer := fieldN b 2 2, index := fieldN b 4 2, sub := fieldN b 6 1, flags := fieldN b 7 1
    length := fieldN b 8 4, code := fieldN b 12 4, data := BitVec.ofNat 64 (fieldN b 16 8), segment := b.drop 24, submit := 0 }

/-- Forwards an in-band frame with HOPS decreased, on a port that is UP. -/
def Sys.forward (s : Sys) (q : Nat) (t : Bytes) : Sys :=
  let d := setField t (32 + 0x10) (leBytes 1 (fieldN t (32 + 0x10) 1 - 1))
  { s.took 22 with fab := { s.fab with wire := s.fab.wire ++ [⟨q, s.encap q 0 (freeBytes s.free 6) (freeBytes (s.free + 6) 16) d⟩] } }

/-- Remembers the highest SEQ of a source: the last 1,024 sources. -/
def Sys.sawSource (s : Sys) (src n : Nat) : Sys :=
  { s with dict := { s.dict with inband := ((src, n) :: s.dict.inband.filter (fun e => e.1 != src)).take 1024 } }

/-- An in-band frame addressed to the module (R389). Bytes 0x11 to 0x17 of its prefix are ignored (DESIGN CHOICE, log 139). -/
def State.inband (q : Nat) (pay : Bytes) (t : State) : State :=
  let s := t.sys
  let key := s.dv 0x1100 5
  let n := pay.length - 16
  let src := fieldN pay 4 4
  let seqNo := fieldN pay 8 8
  let high := (s.dict.inband.find? (fun e => e.1 == src)).map (fun e => e.2)
  if key = 0 ∨ leBytes 16 (Config.kmac128 (leBytes 32 key) (pay.take n) "CZ3220 INBAND").toNat ≠ pay.drop n ∨ high.any (fun h => decide (seqNo ≤ h)) then
    { t with sys := s.discard q }
  else
    let m := parseMsg (.inband src) ((pay.take n).drop 24)
    let kind := fieldN pay 24 1
    let t := { t with sys := s.sawSource src seqNo }
    if 1 ≤ kind ∧ kind ≤ 6 then State.message kind m t else t.respond m kind 0 0 abBAD_KIND 0 []

/-- A MGMT frame on a port: forwarded, accepted, or discarded and counted. -/
def State.mgmtFrame (f : FrameF) (t : State) : State :=
  let q := f.q.val
  match t.sys.arrive f with
  | (s, none) => { t with sys := s }
  | (s, some a) =>
    let pay := (a.t.drop 32).take (lengthOf a.t)
    let dst := fieldN pay 0 4
    let t := { t with sys := s }
    if typeOf a.t ≠ 5 ∨ a.t.length ≠ 32 + lengthOf a.t ∨ pay.length < 64 ∨ !(s.dv 0x1100 4).testBit q then { t with sys := s.discard q }
    else if dst = s.node then State.inband q pay t
    else match s.route dst with
      | some r => if fieldN pay 0x10 1 = 0 ∨ (s.port r).link ≠ .up then { t with sys := s.discard q } else { t with sys := s.forward r a.t }
      | none => { t with sys := s.discard q }
def execMgmtFrame (f : FrameF) (s : State) : Host.Outcome State Fault Refusal := .next (State.mgmtFrame f s)

end Sys2Proof.Machine
end

