-- ==== Sys2Proof/Machine/Dispatch.lean ====
section
/-!
DEFINITION. The meaning of every command: one arm per row of the table.
-/

namespace Sys2Proof.Machine

def exec (i : Instr) (s : State) : Host.Outcome State Fault Refusal :=
  match i with
  | .add f => Sys2Proof.Machine.execAdd f s
  | .sub f => Sys2Proof.Machine.execSub f s
  | .mul f => Sys2Proof.Machine.execMul f s
  | .mulhu f => Sys2Proof.Machine.execMulhu f s
  | .divu f => Sys2Proof.Machine.execDivu f s
  | .remu f => Sys2Proof.Machine.execRemu f s
  | .div f => Sys2Proof.Machine.execDiv f s
  | .rem f => Sys2Proof.Machine.execRem f s
  | .and f => Sys2Proof.Machine.execAnd f s
  | .or f => Sys2Proof.Machine.execOr f s
  | .xor f => Sys2Proof.Machine.execXor f s
  | .shl f => Sys2Proof.Machine.execShl f s
  | .shr f => Sys2Proof.Machine.execShr f s
  | .sra f => Sys2Proof.Machine.execSra f s
  | .min f => Sys2Proof.Machine.execMin f s
  | .max f => Sys2Proof.Machine.execMax f s
  | .minu f => Sys2Proof.Machine.execMinu f s
  | .maxu f => Sys2Proof.Machine.execMaxu f s
  | .slt f => Sys2Proof.Machine.execSlt f s
  | .sltu f => Sys2Proof.Machine.execSltu f s
  | .seq f => Sys2Proof.Machine.execSeq f s
  | .movhi f => Sys2Proof.Machine.execMovhi f s
  | .fadd f => Sys2Proof.Machine.execFadd f s
  | .fsub f => Sys2Proof.Machine.execFsub f s
  | .fmul f => Sys2Proof.Machine.execFmul f s
  | .fdiv f => Sys2Proof.Machine.execFdiv f s
  | .fmin f => Sys2Proof.Machine.execFmin f s
  | .fmax f => Sys2Proof.Machine.execFmax f s
  | .flt f => Sys2Proof.Machine.execFlt f s
  | .fcvti f => Sys2Proof.Machine.execFcvti f s
  | .icvtf f => Sys2Proof.Machine.execIcvtf f s
  | .ld f => Sys2Proof.Machine.execLd f s
  | .st f => Sys2Proof.Machine.execSt f s
  | .reservedOpcode b word => Sys2Proof.Machine.execReservedOpcode b word s
  | .nop f => Sys2Proof.Machine.execNop f s
  | .br f => Sys2Proof.Machine.execBr f s
  | .jal f => Sys2Proof.Machine.execJal f s
  | .jr f => Sys2Proof.Machine.execJr f s
  | .sumPop f => Sys2Proof.Machine.execSumPop f s
  | .stat f => Sys2Proof.Machine.execStat f s
  | .hitchWait f => Sys2Proof.Machine.execHitchWait f s
  | .hitchSet f => Sys2Proof.Machine.execHitchSet f s
  | .hitchClear f => Sys2Proof.Machine.execHitchClear f s
  | .slackOpen f => Sys2Proof.Machine.execSlackOpen f s
  | .haul f => Sys2Proof.Machine.execHaul f s
  | .cut f => Sys2Proof.Machine.execCut f s
  | .qwait f => Sys2Proof.Machine.execQwait f s
  | .halt f => Sys2Proof.Machine.execHalt f s
  | .slackRegionHaul b => Sys2Proof.Machine.execSlackRegionHaul b s
  | .slackRegionCut b => Sys2Proof.Machine.execSlackRegionCut b s
  | .vadd f => Sys2Proof.Machine.execVadd f s
  | .vsub f => Sys2Proof.Machine.execVsub f s
  | .vmul f => Sys2Proof.Machine.execVmul f s
  | .vfma f => Sys2Proof.Machine.execVfma f s
  | .vdiv f => Sys2Proof.Machine.execVdiv f s
  | .vrcp f => Sys2Proof.Machine.execVrcp f s
  | .vsqrt f => Sys2Proof.Machine.execVsqrt f s
  | .vrsqrt f => Sys2Proof.Machine.execVrsqrt f s
  | .vexp f => Sys2Proof.Machine.execVexp f s
  | .vexp2 f => Sys2Proof.Machine.execVexp2 f s
  | .vlog f => Sys2Proof.Machine.execVlog f s
  | .vlog2 f => Sys2Proof.Machine.execVlog2 f s
  | .vtanh f => Sys2Proof.Machine.execVtanh f s
  | .vsigmoid f => Sys2Proof.Machine.execVsigmoid f s
  | .verf f => Sys2Proof.Machine.execVerf f s
  | .vmin f => Sys2Proof.Machine.execVmin f s
  | .vmax f => Sys2Proof.Machine.execVmax f s
  | .vabs f => Sys2Proof.Machine.execVabs f s
  | .vneg f => Sys2Proof.Machine.execVneg f s
  | .vmov f => Sys2Proof.Machine.execVmov f s
  | .vsel f => Sys2Proof.Machine.execVsel f s
  | .vcmp f => Sys2Proof.Machine.execVcmp f s
  | .vand f => Sys2Proof.Machine.execVand f s
  | .vor f => Sys2Proof.Machine.execVor f s
  | .vxor f => Sys2Proof.Machine.execVxor f s
  | .vnot f => Sys2Proof.Machine.execVnot f s
  | .vshl f => Sys2Proof.Machine.execVshl f s
  | .vshr f => Sys2Proof.Machine.execVshr f s
  | .vsra f => Sys2Proof.Machine.execVsra f s
  | .pand f => Sys2Proof.Machine.execPand f s
  | .por f => Sys2Proof.Machine.execPor f s
  | .pxor f => Sys2Proof.Machine.execPxor f s
  | .pnot f => Sys2Proof.Machine.execPnot f s
  | .prange f => Sys2Proof.Machine.execPrange f s
  | .vperm f => Sys2Proof.Machine.execVperm f s
  | .vrot f => Sys2Proof.Machine.execVrot f s
  | .vscan f => Sys2Proof.Machine.execVscan f s
  | .vred f => Sys2Proof.Machine.execVred f s
  | .vsoftmax f => Sys2Proof.Machine.execVsoftmax f s
  | .vcvt f => Sys2Proof.Machine.execVcvt f s
  | .vblkSt f => Sys2Proof.Machine.execVblkSt f s
  | .vblkLd f => Sys2Proof.Machine.execVblkLd f s
  | .vld f => Sys2Proof.Machine.execVld f s
  | .vst f => Sys2Proof.Machine.execVst f s
  | .vslot f => Sys2Proof.Machine.execVslot f s
  | .vemit f => Sys2Proof.Machine.execVemit f s
  | .layMma f => Sys2Proof.Machine.execLayMma f s
  | .layOpen f => Sys2Proof.Machine.execLayOpen f s
  | .layDrain f => Sys2Proof.Machine.execLayDrain f s
  | .laySpill f => Sys2Proof.Machine.execLaySpill f s
  | .layDiscard f => Sys2Proof.Machine.execLayDiscard f s
  | .drainPipelineSlot b => Sys2Proof.Machine.execDrainPipelineSlot b s
  | .movLoad f => Sys2Proof.Machine.execMovLoad f s
  | .movStore f => Sys2Proof.Machine.execMovStore f s
  | .movImport f => Sys2Proof.Machine.execMovImport f s
  | .movCopy f => Sys2Proof.Machine.execMovCopy f s
  | .movSend f => Sys2Proof.Machine.execMovSend f s
  | .send f => Sys2Proof.Machine.execSend f s
  | .release f => Sys2Proof.Machine.execRelease f s
  | .collWait f => Sys2Proof.Machine.execCollWait f s
  | .atomicNone f => Sys2Proof.Machine.execAtomicNone f s
  | .atomicAdd f => Sys2Proof.Machine.execAtomicAdd f s
  | .atomicSmin f => Sys2Proof.Machine.execAtomicSmin f s
  | .atomicSmax f => Sys2Proof.Machine.execAtomicSmax f s
  | .atomicUmin f => Sys2Proof.Machine.execAtomicUmin f s
  | .atomicUmax f => Sys2Proof.Machine.execAtomicUmax f s
  | .atomicAnd f => Sys2Proof.Machine.execAtomicAnd f s
  | .atomicOr f => Sys2Proof.Machine.execAtomicOr f s
  | .atomicXor f => Sys2Proof.Machine.execAtomicXor f s
  | .swap f => Sys2Proof.Machine.execSwap f s
  | .cas f => Sys2Proof.Machine.execCas f s
  | .updNop f => Sys2Proof.Machine.execUpdNop f s
  | .lds f => Sys2Proof.Machine.execLds f s
  | .sts f => Sys2Proof.Machine.execSts f s
  | .updAdd f => Sys2Proof.Machine.execUpdAdd f s
  | .updSub f => Sys2Proof.Machine.execUpdSub f s
  | .updMul f => Sys2Proof.Machine.execUpdMul f s
  | .fma f => Sys2Proof.Machine.execFma f s
  | .updDiv f => Sys2Proof.Machine.execUpdDiv f s
  | .sqrt f => Sys2Proof.Machine.execSqrt f s
  | .rsqrt f => Sys2Proof.Machine.execRsqrt f s
  | .updMin f => Sys2Proof.Machine.execUpdMin f s
  | .updMax f => Sys2Proof.Machine.execUpdMax f s
  | .abs f => Sys2Proof.Machine.execAbs f s
  | .sign f => Sys2Proof.Machine.execSign f s
  | .clamp f => Sys2Proof.Machine.execClamp f s
  | .sel f => Sys2Proof.Machine.execSel f s
  | .sqr f => Sys2Proof.Machine.execSqr f s
  | .convert f => Sys2Proof.Machine.execConvert f s
  | .norm f => Sys2Proof.Machine.execNorm f s
  | .invroot f => Sys2Proof.Machine.execInvroot f s
  | .updEnd f => Sys2Proof.Machine.execUpdEnd f s
  | .carryRecordPoll die part => Sys2Proof.Machine.execCarryRecordPoll die part s
  | .ctxOpen k => Sys2Proof.Machine.execCtxOpen k s
  | .ctxClose k => Sys2Proof.Machine.execCtxClose k s
  | .ctxQuery k => Sys2Proof.Machine.execCtxQuery k s
  | .objAlloc k => Sys2Proof.Machine.execObjAlloc k s
  | .objFree k => Sys2Proof.Machine.execObjFree k s
  | .objectRelease part index => Sys2Proof.Machine.execObjectRelease part index s
  | .grant k => Sys2Proof.Machine.execGrant k s
  | .accept k => Sys2Proof.Machine.execAccept k s
  | .revoke k => Sys2Proof.Machine.execRevoke k s
  | .objQuery k => Sys2Proof.Machine.execObjQuery k s
  | .xferIn k records => Sys2Proof.Machine.execXferIn k records s
  | .xferOut k => Sys2Proof.Machine.execXferOut k s
  | .xferDevice k => Sys2Proof.Machine.execXferDevice k s
  | .wsetLoad k => Sys2Proof.Machine.execWsetLoad k s
  | .wsetPublish k => Sys2Proof.Machine.execWsetPublish k s
  | .wsetRetire k => Sys2Proof.Machine.execWsetRetire k s
  | .run k => Sys2Proof.Machine.execRun k s
  | .runCancel k => Sys2Proof.Machine.execRunCancel k s
  | .update k => Sys2Proof.Machine.execUpdate k s
  | .reefSet k => Sys2Proof.Machine.execReefSet k s
  | .stepCommitNone k => Sys2Proof.Machine.execStepCommitNone k s
  | .stepCommitWait k => Sys2Proof.Machine.execStepCommitWait k s
  | .stepCommitSpeculate k => Sys2Proof.Machine.execStepCommitSpeculate k s
  | .stepRegionHaul part => Sys2Proof.Machine.execStepRegionHaul part s
  | .stepRegionCut part => Sys2Proof.Machine.execStepRegionCut part s
  | .fenceCreate k => Sys2Proof.Machine.execFenceCreate k s
  | .fenceSignal k => Sys2Proof.Machine.execFenceSignal k s
  | .fenceWait k => Sys2Proof.Machine.execFenceWait k s
  | .fenceExport k => Sys2Proof.Machine.execFenceExport k s
  | .fenceImport k => Sys2Proof.Machine.execFenceImport k s
  | .signal m => Sys2Proof.Machine.execSignal m s
  | .signalAck m => Sys2Proof.Machine.execSignalAck m s
  | .fenceUpdate m => Sys2Proof.Machine.execFenceUpdate m s
  | .fenceImportMsg m => Sys2Proof.Machine.execFenceImportMsg m s
  | .fenceImportAck m => Sys2Proof.Machine.execFenceImportAck m s
  | .fenceRelease m => Sys2Proof.Machine.execFenceRelease m s
  | .chainReduce k => Sys2Proof.Machine.execChainReduce k s
  | .chainAllreduce k => Sys2Proof.Machine.execChainAllreduce k s
  | .allgather k => Sys2Proof.Machine.execAllgather k s
  | .broadcast k => Sys2Proof.Machine.execBroadcast k s
  | .flowOpen k => Sys2Proof.Machine.execFlowOpen k s
  | .flowClose k => Sys2Proof.Machine.execFlowClose k s
  | .ckptSave k => Sys2Proof.Machine.execCkptSave k s
  | .ckptRestore k records => Sys2Proof.Machine.execCkptRestore k records s
  | .takeover k records => Sys2Proof.Machine.execTakeover k records s
  | .dictRead k => Sys2Proof.Machine.execDictRead k s
  | .dictWrite k => Sys2Proof.Machine.execDictWrite k s
  | .dictWriteStaged k => Sys2Proof.Machine.execDictWriteStaged k s
  | .dictCommit k => Sys2Proof.Machine.execDictCommit k s
  | .dictAbort k => Sys2Proof.Machine.execDictAbort k s
  | .attest k => Sys2Proof.Machine.execAttest k s
  | .sessionOpen k records => Sys2Proof.Machine.execSessionOpen k records s
  | .keyShare k records => Sys2Proof.Machine.execKeyShare k records s
  | .braidRelease k records => Sys2Proof.Machine.execBraidRelease k records s
  | .keyRotate k => Sys2Proof.Machine.execKeyRotate k s
  | .intakeEntry vf ctx ring offset data => Sys2Proof.Machine.execIntakeEntry vf ctx ring offset data s
  | .completionRecord ctx => Sys2Proof.Machine.execCompletionRecord ctx s
  | .msixMessage ctx => Sys2Proof.Machine.execMsixMessage ctx s
  | .contextResident ctx => Sys2Proof.Machine.execContextResident ctx s
  | .bightQuantumExpiry b => Sys2Proof.Machine.execBightQuantumExpiry b s
  | .functionLevelReset fn => Sys2Proof.Machine.execFunctionLevelReset fn s
  | .perstNAssert => Sys2Proof.Machine.execPerstNAssert s
  | .perstNDeassert => Sys2Proof.Machine.execPerstNDeassert s
  | .hotReset => Sys2Proof.Machine.execHotReset s
  | .linkUp q => Sys2Proof.Machine.execLinkUp q s
  | .lockLost q => Sys2Proof.Machine.execLockLost q s
  | .portEnable r q on => Sys2Proof.Machine.execPortEnable r q on s
  | .retransmissionTimeout flow seq => Sys2Proof.Machine.execRetransmissionTimeout flow seq s
  | .ackTimer flow => Sys2Proof.Machine.execAckTimer flow s
  | .rateIncrease flow => Sys2Proof.Machine.execRateIncrease flow s
  | .openRetransmit flow => Sys2Proof.Machine.execOpenRetransmit flow s
  | .dataFrame f => Sys2Proof.Machine.execDataFrame f s
  | .slowFrame f => Sys2Proof.Machine.execSlowFrame f s
  | .abortFrame f => Sys2Proof.Machine.execAbortFrame f s
  | .ackFrame f => Sys2Proof.Machine.execAckFrame f s
  | .openFrame f => Sys2Proof.Machine.execOpenFrame f s
  | .mgmtFrame f => Sys2Proof.Machine.execMgmtFrame f s
  | .cacheAccess f => Sys2Proof.Machine.execCacheAccess f s
  | .tierRead f => Sys2Proof.Machine.execTierRead f s
  | .tierWrite f => Sys2Proof.Machine.execTierWrite f s
  | .scrubRead f => Sys2Proof.Machine.execScrubRead f s
  | .thermalReading unit raw => Sys2Proof.Machine.execThermalReading unit raw s
  | .thermalWindowEnd unit => Sys2Proof.Machine.execThermalWindowEnd unit s
  | .powerSample milliamps millivolts => Sys2Proof.Machine.execPowerSample milliamps millivolts s
  | .powerWindowEnd => Sys2Proof.Machine.execPowerWindowEnd s
  | .lowInput => Sys2Proof.Machine.execLowInput s
  | .shutdown rise => Sys2Proof.Machine.execShutdown rise s
  | .overtempShutdown => Sys2Proof.Machine.execOvertempShutdown s
  | .boot => Sys2Proof.Machine.execBoot s
  | .watchdogExpiry => Sys2Proof.Machine.execWatchdogExpiry s
  | .functionWake fn => Sys2Proof.Machine.execFunctionWake fn s
  | .functionReady fn cause => Sys2Proof.Machine.execFunctionReady fn cause s
  | .wakeLimit fn => Sys2Proof.Machine.execWakeLimit fn s
  | .enable r fn on => Sys2Proof.Machine.execEnable r fn on s
  | .drainComplete fn => Sys2Proof.Machine.execDrainComplete fn s
  | .uncontainedError fn store => Sys2Proof.Machine.execUncontainedError fn store s
  | .regionKeyingComplete part => Sys2Proof.Machine.execRegionKeyingComplete part s
  | .regionClearingComplete part => Sys2Proof.Machine.execRegionClearingComplete part s
  | .create r part => Sys2Proof.Machine.execCreate r part s
  | .destroy r part => Sys2Proof.Machine.execDestroy r part s
  | .timingScan r => Sys2Proof.Machine.execTimingScan r s
  | .supplyScan r => Sys2Proof.Machine.execSupplyScan r s
  | .marginAbort r => Sys2Proof.Machine.execMarginAbort r s
  | .marginRunComplete buffer => Sys2Proof.Machine.execMarginRunComplete buffer s
  | .dictMsgRead m => Sys2Proof.Machine.execDictMsgRead m s
  | .dictMsgWrite m => Sys2Proof.Machine.execDictMsgWrite m s
  | .dictMsgWriteStaged m => Sys2Proof.Machine.execDictMsgWriteStaged m s
  | .dictMsgCommit m => Sys2Proof.Machine.execDictMsgCommit m s
  | .dictMsgAbort m => Sys2Proof.Machine.execDictMsgAbort m s
  | .dictMsgSegment m => Sys2Proof.Machine.execDictMsgSegment m s
  | .transferIdle path transfer => Sys2Proof.Machine.execTransferIdle path transfer s
  | .stagedSetApply scope => Sys2Proof.Machine.execStagedSetApply scope s
  | .neighborSolicitation target => Sys2Proof.Machine.execNeighborSolicitation target s
  | .i3cEntrySelect index sub => Sys2Proof.Machine.execI3cEntrySelect index sub s
  | .entdaa addr => Sys2Proof.Machine.execEntdaa addr s
  | .lcToTest r failBit => Sys2Proof.Machine.execLcToTest r failBit s
  | .lcToProduction r failBit => Sys2Proof.Machine.execLcToProduction r failBit s
  | .lcComplete r failBit => Sys2Proof.Machine.execLcComplete r failBit s
  | .debugOpen r record => Sys2Proof.Machine.execDebugOpen r record s
  | .endOfLife r record failBit => Sys2Proof.Machine.execEndOfLife r record failBit s
  | .dsGenerate r => Sys2Proof.Machine.execDsGenerate r s
  | .operatorKeyChange r record => Sys2Proof.Machine.execOperatorKeyChange r record s
  | .amendImage r record => Sys2Proof.Machine.execAmendImage r record s
  | .logFreeze r => Sys2Proof.Machine.execLogFreeze r s
  | .logUnfreeze r => Sys2Proof.Machine.execLogUnfreeze r s
  | .logRecord unit => Sys2Proof.Machine.execLogRecord unit s
  | .countWrap domain => Sys2Proof.Machine.execCountWrap domain s
  | .evictionTimeout ctx => Sys2Proof.Machine.execEvictionTimeout ctx s
  | .hostLinkRetrain full => Sys2Proof.Machine.execHostLinkRetrain full s
  | .v56InReturn => Sys2Proof.Machine.execV56InReturn s

end Sys2Proof.Machine
end

