-- ==== Sys2Proof/Machine/Upset.lean ====
section
/-!
DEFINITION. Errors of on-die stores (R428, R429): what the next one is, and how it is treated. No command describes one, so it is a free
value, which a step with an empty queue meets (DESIGN CHOICE, log 189).
-/

namespace Sys2Proof.Machine

/-- The error that a free value spells. -/
def upsetOf (v : Nat × Nat × Nat × Nat) : Upset :=
  match v.1 % 7 with
  | 1 => .locker (v.2.1 % 80) v.2.2.1
  | 2 => .lane (v.2.1 % 80) (v.2.2.1 % 64) (v.2.2.2 % 512)
  | 3 => .slot (v.2.1 % 80) (v.2.2.1 % 8) (v.2.2.2 % 16384)
  | 4 => .staged v.2.1
  | 5 => .copy v.2.1
  | 6 => .ring v.2.1
  | _ => .none

/-- A lane with its value lost. -/
def Lane.lost (l : Lane) : Lane := { l with mark := .poisoned }

/-- A codeword of a Bight's store is poisoned: counted, with a record. -/
def Sys.bightLost (s : Sys) (h store : Nat) (g : BightArch → BightArch) : Sys :=
  let x := s.bight h
  ((s.setBight h { x with arch := g x.arch }).bump errPoisoned 1).logRec
    { domain := domArith (h / 8), unit := fnStrand (h / 8), part := (s.holder h).getD partNone, location := locNone, event := 0x0101, arg0 := store, arg1 := 1
      slack := x.region.isSome }

/-- The first payload codeword of the frame that a receive flow has staged longest carries the poison on (R429). -/
def Sys.stagedLost (s : Sys) (f : Nat) : Sys :=
  match (s.flow f).staged with
  | [] => s
  | e :: es =>
    ((s.setFlow f { s.flow f with staged := { e with poison := e.poison ||| 1 } :: es }).bump errPoisoned 1).logRec
      { domain := domLink (flowDie f), unit := fnHawser (flowDie f), part := (s.flow f).part, location := locNone, event := 0x0101, arg0 := 6, arg1 := 1, slack := false }

/-- The record that stands for a lost one. -/
def LogRec.lost (r : LogRec) (stamp : BitVec 48) : LogRec :=
  { ({ domain := domBowline, unit := fnBowline, part := partNone, location := locNone, event := 0x0807, arg0 := 0, arg1 := 0, slack := false } : LogItem).toRec stamp
    with seq := r.seq }

/-- A record of the ring is replaced (R429). -/
def Sys.ringLost (s : Sys) (i : Nat) : Sys :=
  let s := s.readCount domBowline
  { s with log := { s.log with ring := s.log.ring.mapIdx (fun j r => if j = i then r.lost (s.count domBowline) else r) } }

/-- The treatment of an error. The words of an instruction cache, of an update program store and of a captured descriptor are read again from
memory: the error is corrected. -/
def Sys.meet (s : Sys) (u : Upset) : Sys :=
  match u with
  | .none => s
  | .locker h g => if s.sliceServes h && inLocker (16 * g) 16 then s.bightLost h 3 (fun a => { a with locker := a.locker.poisonRange (16 * g) 16 .poisoned }) else s
  | .lane h r l => if s.sliceServes h then s.bightLost h 5 (fun a => { a with vregs := a.vregs.set Lane.zero (512 * r + l) (a.vregs.get Lane.zero (512 * r + l)).lost }) else s
  | .slot h i c =>
    let z := ((s.bight h).arch.slots[i]?).getD Slot.empty
    if s.sliceServes h && z.state != .free then
      s.bightLost h 4 (fun a => { a with slots := a.slots.setIfInBounds i { z with cells := z.cells.set Lane.zero c (z.cells.get Lane.zero c).lost } })
    else s
  | .staged f => s.stagedLost f
  | .copy n => if isFunction n then s.corrected (mainDomain n) n 6 locNone else s
  | .ring i => s.ringLost i

/-- Meets the error that is due; the next one is a free value. -/
def Sys.upsets (s : Sys) : Sys :=
  let t := s.meet s.plat.upset
  { t.took 1 with plat := { t.plat with upset := upsetOf (Config.upset t.free) } }

end Sys2Proof.Machine
end

