-- ==== Sys2Proof/Machine/Step.lean ====
section
/-!
DEFINITION. One step: the command at the front of the queue, or a retry of the commands that wait.
-/

namespace Sys2Proof.Machine

/-- Tries a waiting command again, under its age and what it captured when it was taken up. -/
def retry (s : State) (ord : Nat) : Host.Outcome State Fault Refusal :=
  match s.sys.waiting.find? (fun h => h.ord == ord) with
  | none => .next s
  | some h =>
    match exec h.cmd { s with sys := { s.sys with waiting := s.sys.waiting.filter (fun g => g.ord != ord), replay := some h } } with
    | .next t => .next { t with sys := { t.sys with replay := none } }
    | .fault r => .fault r
    | .refused r => .refused r

/-- Tries waiting commands again, in the order given. -/
def retryAll (ords : List Nat) (s : State) : Host.Outcome State Fault Refusal :=
  match ords with
  | [] => .next s
  | o :: t => match retry s o with
    | .next s => retryAll t s
    | .fault r => .fault r
    | .refused r => .refused r

/-- Each of the Bights given that executes a RUN takes the next instruction of its program (R80, R81). -/
def runPrograms (bs : List (Fin 80)) (s : State) : Host.Outcome State Fault Refusal :=
  match bs with
  | [] => .next s
  | b :: t => match s.sys.nextInstr b with
    | none => runPrograms t s
    | some i => match exec i { s with sys := s.sys.noteFetch b.val } with
      | .next s => runPrograms t s
      | .fault r => .fault r
      | .refused r => .refused r

/-- What comes about by itself between commands, beside what waits: writes that stood in queues are performed, an on-die store may err, the
entropy source is tested, an install ends (R217, R348, R364, R429; logs 177, 189, 190, 194). -/
def settle (s : State) : State := ({ s with sys := s.sys.flushPosted.upsets.healthTest } : State).finishInstall

/-- One step. With an empty queue the alarms of failed checks are raised, the waiting commands are tried again, oldest first, what comes about
by itself is done, and every Bight that executes a RUN takes an instruction of its program (DESIGN CHOICE, log 3). -/
def step (s : State) : Host.Outcome State Fault Refusal :=
  match s.pending with
  | c :: rest => exec c { s with pending := rest }
  | [] => match retryAll (s.sys.waiting.map (fun h => h.ord)) { s with sys := s.sys.raiseAlarms } with
    | .next s => runPrograms (List.finRange 80) (settle s)
    | .fault r => .fault r
    | .refused r => .refused r

/-- The command that a word spells, put at the front of the queue. -/
def State.withFetchWord (s : State) (nbits w : Nat) : State :=
  match decodeTableWord nbits w with
  | some c => { s with pending := c :: s.pending }
  | none => s

end Sys2Proof.Machine
end

