-- ==== Sys2Proof/Safety.lean ====
section
/-!
DEFINITION. What statements about the machine are stated in: a fuse that is programmed stays so, when a unit can execute
an instruction, what an instruction leaves unchanged.
-/

namespace Sys2Proof.Machine

/-! Fuses -/

/-- Every bit that is set in `a` is set in `b`. -/
def covers {n : Nat} (a b : BitVec n) : Prop := a &&& b = a

/-- No programmed fuse of `f` is clear in `g` (R368: OTP bits can only be changed from 0 to 1). -/
def Fuses.le (f g : Fuses) : Prop :=
  (∀ i : Fin 4, covers f.lc[i] g.lc[i]) ∧ covers f.ds g.ds ∧ covers f.dsMark g.dsMark ∧ covers f.thermo g.thermo
    ∧ (∀ i : Fin 4, covers f.done[i] g.done[i]) ∧ (f.trimWiped = true → g.trimWiped = true)

/-! Instructions of a Bight -/

/-- The architectural state of a Bight. -/
def State.arch (s : State) (b : Fin 80) : BightArch := (s.sys.bight b.val).arch

/-- The Halyard core of Bight `b` can execute its next instruction: it executes a RUN of a partition (R14), dispatch is not stopped, every earlier instruction is
executed or dispatched, PC names a word of the program (R81), whose memory serves the fetch (R217), and the codeword fetched is not poisoned (R432). -/
def CoreReady (s : State) (b : Fin 80) : Prop :=
  s.sys.runs b.val = true ∧ (s.sys.bight b.val).stopped = false ∧ (∀ h ∈ s.sys.waiting, h.bight = some b.val → h.cap.isSome = true)
    ∧ (s.sys.bight b.val).pcOutside = false ∧ s.sys.fetchWaits b.val = false ∧ (s.sys.fetchMark b.val).isBad = false

/-- Nothing outside Bight `b` differs: other Bights, memory, contexts, partitions, the fabric, the Logline, the dictionary,
the fuses, the queue. -/
def OnlyBight (s t : State) (b : Fin 80) : Prop :=
  t.pending = s.pending ∧ t.fuses = s.fuses ∧ { t.sys with bights := s.sys.bights, replay := s.sys.replay } = s.sys
    ∧ ∀ c : Fin 80, c ≠ b → t.sys.bight c.val = s.sys.bight c.val

/-- What of Bight `b` an instruction that acts on its registers leaves: its drains, its RUN, its poison record, and an open
region that it stands in. -/
def BightKept (x y : Bight) : Prop :=
  y.drains = x.drains ∧ y.run = x.run ∧ y.turn = x.turn ∧ y.seen = x.seen ∧ y.seenAt = x.seenAt ∧ y.stopped = x.stopped ∧ y.ending = x.ending
    ∧ (x.region = none → y.region = none) ∧ ∀ g, x.region = some g → g.first ≤ x.nextSeq → y.region = some g

/-- The instruction completes with `a` as the architectural state of Bight `b`, and changes nothing else. -/
def Ends (i : Instr) (s : State) (b : Fin 80) (a : BightArch) : Prop :=
  ∃ t, exec i s = .next t ∧ OnlyBight s t b ∧ t.arch b = a ∧ BightKept (s.sys.bight b.val) (t.sys.bight b.val)

/-- The instruction completes with `v` in s[d] and PC at the next instruction. -/
def Writes (i : Instr) (s : State) (b : Fin 80) (d : BitVec 5) (v : Word64) : Prop :=
  Ends i s b { (s.arch b).setS d v with pc := (s.arch b).pc + 8#64 }

/-- Bight `b` can execute its next instruction, and nothing else of it is outstanding: a matrix, vector or mover instruction that it
dispatches issues at once (R90, R91), outside any region (R107, R178). -/
def QueueReady (s : State) (b : Fin 80) : Prop :=
  CoreReady s b ∧ s.sys.replay = none ∧ (∀ h ∈ s.sys.waiting, h.bight ≠ some b.val) ∧ (s.sys.bight b.val).drains = []
    ∧ (s.sys.bight b.val).region = none ∧ s.sys.sigmaOf b.val = none

/-- The hitch that an instruction waits on is 1 (R92). -/
def HitchReady (s : State) (b : Fin 80) (waitEn : Bool) (waitH : BitVec 5) : Prop :=
  waitEn = true → (s.arch b).hitches.getLsbD waitH.toNat = true

/-- The Bight's state when the instruction takes effect: PC at the next instruction, the hitch waited on consumed. -/
def State.atIssue (s : State) (b : Fin 80) (waitEn : Bool) (waitH : BitVec 5) : BightArch :=
  let a := { s.arch b with pc := (s.arch b).pc + 8#64 }
  if waitEn then a.dropHitch waitH else a

/-- The Bight's state after the set that an instruction makes. -/
def BightArch.andSet (a : BightArch) (setEn : Bool) (setH : BitVec 5) (seq : Nat) (eng : Engine) : BightArch :=
  if setEn then a.setHitch setH (some (seq, eng)) else a

/-- An instruction of a queue completes at once: `post` relates the Bight's state at issue to its state after the effect, and the set
follows. When it consumes no poison it changes nothing but its Bight's state (R432). -/
def Queued (i : Instr) (s : State) (b : Fin 80) (waitEn : Bool) (waitH : BitVec 5) (setEn : Bool) (setH : BitVec 5) (eng : Engine)
    (poisoned : Prop) (post : BightArch → BightArch → Prop) : Prop :=
  ∃ t a, exec i s = .next t ∧ post (s.atIssue b waitEn waitH) a
    ∧ t.arch b = a.andSet setEn setH (s.sys.bight b.val).nextSeq eng
    ∧ (¬ poisoned → OnlyBight s t b ∧ BightKept (s.sys.bight b.val) (t.sys.bight b.val))

/-- The same of a vector instruction. -/
def Serves (i : Instr) (s : State) (f : VectorF) (poisoned : Prop) (post : BightArch → BightArch → Prop) : Prop :=
  Queued i s f.b f.waitEn f.waitH f.setEn f.setH .vector poisoned post

/-- A lane that PRED selects (R94); p0 selects all. -/
def laneOn (f : VectorF) (x : BightArch) (l : Nat) : Bool := f.pred == 0#4 || (x.pregs[f.pred.toNat]).getLsbD l

/-- The second vector operand (R94): with SB the low half of s[VB[4:0]] in every lane. -/
def second (f : VectorF) (s : State) (x : BightArch) (l : Nat) : Lane :=
  if f.sb then ⟨((s.arch f.b).s (f.vb.extractLsb' 0 5)).extractLsb' 0 32, .clean⟩ else x.lane f.vb.toNat l

/-- Some active lane of a result is poisoned. -/
def lanePoison (f : VectorF) (x : BightArch) (res : Nat → Lane) : Prop := ∃ l < 512, laneOn f x l = true ∧ (res l).mark.isBad = true

/-- SERVE_STATUS bits of a result (R100): NaN and infinity where the lanes are floating point, and poison. -/
def laneStatus (f : VectorF) (x : BightArch) (fp : Bool) (res : Nat → Lane) : Word16 :=
  (if fp && (List.range 512).any (fun l => laneOn f x l && fpIsNaN (res l).val) then 0x0001#16 else 0#16)
  ||| (if fp && (List.range 512).any (fun l => laneOn f x l && fpIsInf (res l).val) then 0x0002#16 else 0#16)
  ||| (if (List.range 512).any (fun l => laneOn f x l && (res l).mark.isBad) then 0x0008#16 else 0#16)

/-- A masked write (R96): active lanes of v[VD] take the result, the others keep their lane or, with ZERO, read 0 unpoisoned. Every
other register, predicate, slot, status word and the locker stay. -/
def LaneWrite (f : VectorF) (fp : Bool) (res : Nat → Lane) (x a : BightArch) : Prop :=
  (∀ l < 512, a.lane f.vd.toNat l = if laneOn f x l then res l else if f.zero then Lane.zero else x.lane f.vd.toNat l)
    ∧ (∀ r l, r < 64 → l < 512 → r ≠ f.vd.toNat → a.lane r l = x.lane r l)
    ∧ { a with vregs := x.vregs } = { x with serve := x.serve ||| laneStatus f x fp res }

/-- A masked write of p[VD[3:0]] (R95, R96); a write of p0 is discarded. -/
def PredWrite (f : VectorF) (res : Nat → Bool) (x a : BightArch) : Prop :=
  let d := f.vd.extractLsb' 0 4
  (∀ l < 512, d ≠ 0#4 → (a.pregs[d.toNat]).getLsbD l = if laneOn f x l then res l else if f.zero then false else (x.pregs[d.toNat]).getLsbD l)
    ∧ (∀ r : Fin 16, (r.val ≠ d.toNat ∨ d = 0#4) → a.pregs[r] = x.pregs[r])
    ∧ { a with pregs := x.pregs, serve := x.serve } = x

/-- The second operand of a scalar instruction (R84): the sign-extended IMM when IMM_EN is 1, else s[SB]. -/
def State.operand (s : State) (f : ScalarF) : Word64 := if f.immEn then f.imm.signExtend 64 else (s.arch f.b).s f.sb

/-! Memory -/

/-- No line, counter block or tree node of any memory fails its check (R250). -/
def Sys.memSound (s : Sys) : Prop := ∀ t < 2, ∀ h < 80, (s.region t h).failed = []

/-- A read of a range meets no failing check and needs no mirror: it leaves nothing beside its data (R250, R437). -/
def Sys.readsQuietly (s : Sys) (p a n : Nat) : Prop := s.failsIn p a n = [] ∧ s.servedIn p a n = []

/-- What no Thimble cache change touches: every region but for the items that its controller's cache holds (R237, R238). -/
def SameRegions (s t : Sys) : Prop := ∀ u h, { t.region u h with held := (s.region u h).held } = s.region u h

/-- Outside the copies that stacks keep of lines apart from their home slices, every byte reads as before: the bytes that any reader meets. -/
def SameBytes (s t : Sys) : Prop := ∀ a, keyKind a ≠ 3 → t.mem.data.byte a = s.mem.data.byte a

/-! Host commands -/

/-- The accepted command that a row names stands begun. -/
def Sys.begun (s : Sys) (key : CmdKey) (k : Cmd) : Sys := s.setProgress key.ctx.val k.ring k .begun

/-- `k` is the accepted command that `key` names, of opcode `op`; it has not begun, nothing holds it, and it passes the first checks
(R296, R316, R317). It belongs to no open step region. -/
def CmdReady (i : Instr) (s : State) (key : CmdKey) (k : Cmd) (op : Nat) : Prop :=
  s.sys.cmdOf key = some k ∧ k.opcode = op ∧ k.progress = .waiting ∧ k.ring = key.ring.val ∧ k.lay = key.lay ∧ s.sys.replay = none
    ∧ (∀ h ∈ s.sys.waiting, h.cmd ≠ i) ∧ (s.sys.ctx key.ctx.val).batchCut k = false ∧ s.sys.inSigma key.ctx.val k = false
    ∧ s.sys.mayBegin key.ctx.val k (fun e => s.sys.cmdExtra (s.sys.ctx key.ctx.val).part e) = true
    ∧ s.sys.firstCheck (s.sys.ctx key.ctx.val).part k = none

/-- From `y` command `k` completes with a status and a result: its record joins the context's records, it leaves its ring, and nothing
else changes but pins of its batch and the order of use (R169, R303, R306). -/
def Retired (key : CmdKey) (k : Cmd) (st : Nat) (res : Bytes) (y t : Sys) : Prop :=
  let c := key.ctx.val
  (t.ctx c).outbox = (y.ctx c).outbox ++ [⟨0, k.lay, k.ring, st, (res ++ List.replicate 20 0).take 20, k.irq, k.plain⟩]
    ∧ t.cmdOf key = none ∧ (∀ r l, (r ≠ key.ring.val ∨ l ≠ key.lay) → t.cmdAt c r l = y.cmdAt c r l)
    ∧ (∀ d, d ≠ c → t.ctx d = y.ctx d)
    ∧ { t.ctx c with rings := (y.ctx c).rings, outbox := (y.ctx c).outbox, batches := (y.ctx c).batches, lastUse := (y.ctx c).lastUse } = y.ctx c
    ∧ (∀ q, { t.part q with wsets := (y.part q).wsets, wsetGens := (y.part q).wsetGens } = y.part q)
    ∧ { t with ctxs := y.ctxs, parts := y.parts, useNext := y.useNext, replay := y.replay } = y

/-- The row answers a next state in which `k` has had the effect `eff`, from the state in which it began, and has completed. -/
def Completes (i : Instr) (s : State) (key : CmdKey) (k : Cmd) (st : Nat) (res : Bytes) (eff : Sys → Prop) : Prop :=
  ∃ (y : Sys) (t : State), exec i s = .next t ∧ t.pending = s.pending ∧ t.fuses = s.fuses ∧ eff y ∧ Retired key k st res y t.sys

/-! Dictionary requests -/

/-- The state in which a message of `kind` stands taken (R390). -/
def State.taken (s : State) (kind : Nat) (m : DictMsg) : State := { s with sys := s.sys.submitted m.path (msgBytes kind m) }
/-- The state in which a write to an entry that has a row of its own stands taken. -/
def State.takenReq (s : State) (r : ReqF) (index sub : Nat) : State :=
  { s with sys := s.sys.submitted r.path (msgHeader 2 r.role r.transfer index sub 1 0 0 0) }

/-- A request of `path` and `role` for `index` is served for requester `w`: the path reaches the dictionary, SUBMIT is in order, the function
answers, the role is held, no transfer of that number is open (R387, R390, R393). -/
def State.serves (s : State) (path : Path) (submit role transfer index : Nat) (w : Who) : Prop :=
  s.sys.reaches path = true ∧ s.sys.submitOk path submit = true ∧ s.answer path index = .serve ∧ (role = 0 ∨ role = 2 ∨ role = 3)
    ∧ s.sys.transferOpen path.source transfer = false ∧ s.who path role = some w

/-- A message as its source sends it (R388). -/
def DictMsg.fromSource (m : DictMsg) : DictMsg := { m with path := m.path.source }

/-- A message of kind `kind` that is served for `w`. -/
def State.readyFor (s : State) (m : DictMsg) (kind : Nat) (w : Who) : Prop :=
  s.serves m.path m.submit m.role m.transfer (s.msgIndex kind (DictMsg.fromSource m)) w ∧ m.flags < 4

/-- The row answers the message: the units become `u`, and one response to `m` is sent on its path. -/
def Answers (i : Instr) (s : State) (m : DictMsg) (kind flags length code data : Nat) (seg : Bytes) (u : Sys) : Prop :=
  exec i s = .next { s with sys := u.reply m.path.source (msgHeader (0x80 + kind) m.role m.transfer m.index m.sub flags length code data ++ seg) }

/-- The row answers the write of an entry that has a row of its own: units and fuses become those of `t`, and a response with an abort code
(0 for none) is sent. -/
def Grants (i : Instr) (s : State) (r : ReqF) (index sub code : Nat) (t : State) : Prop :=
  exec i s = .next { t with pending := s.pending, sys := t.sys.reply r.path.source (msgHeader 0x82 r.role r.transfer index sub 0 0 code 0) }

/-! Functions and resets -/

/-- Function `f` enters the state `x` (R413, R419): contexts, Bights, the fabric and the dictionary stay, and memory but for what a memory
that wakes lists unknown (R430); when its reset begins the session key pairs of the partitions on it are gone (R353, R363). -/
def Enters (s t : Sys) (f : Nat) (x : Fn) : Prop :=
  t.fn f = x ∧ (∀ g, g ≠ f → t.fn g = s.fn g) ∧ t.ctxs = s.ctxs ∧ t.bights = s.bights ∧ t.fab = s.fab ∧ t.dict = s.dict
    ∧ t.mem.data = s.mem.data ∧ ((x.state = .waking → isStack f = false ∧ isPackage f = false) → t.mem = s.mem)
    ∧ (∀ p < 80, { t.part p with ekPair := (s.part p).ekPair } = s.part p)
    ∧ (x.state = .off ∨ x.state = .waking ∨ x.state = .draining → ∀ p < 80, (∃ h ∈ (s.part p).hanks, h ∈ fnHanks f) → (t.part p).ekPair = none)

/-- Partition `p` has nothing in progress: no command, step region or collective; context numbers stand once. -/
def Sys.still (s : Sys) (p : Nat) : Prop :=
  (s.ctxs.map (fun e => e.1)).Nodup ∧ (∀ c, (s.ctx c).part = p → (s.ctx c).cmds = []) ∧ (s.part p).sigma = none ∧ ∀ x ∈ s.fab.colls, x.part ≠ p

/-- What a reset of a virtual function leaves of a partition (R285, R286): session contexts restart with a new key under their number, settings and area; every
other context is closed, and its number keeps its vector until it opens again (R304). Scrubbing areas may leave events (R246). -/
def HostReset (s t : Sys) (p : Nat) : Prop :=
  ∀ c, (s.ctx c).opened = true → (s.ctx c).part = p →
    let x := s.ctx c
    (c ∉ (s.part p).sessionCtxs → t.ctx c = { Context.closed with part := p, msix := x.msix })
    ∧ (c ∈ (s.part p).sessionCtxs → ∃ k : Option (BitVec 256),
        t.ctx c = { Context.closed with opened := true, part := p, isBase := x.isBase, owner := x.owner, hankMask := x.hankMask, msix := x.msix, compEntries := x.compEntries
                                        compBase := x.compBase, area := x.area, resident := x.resident, pool := x.pool, lastUse := x.lastUse, key := k
                                        outbox := (t.ctx c).outbox }
        ∧ (∀ e ∈ (t.ctx c).outbox, e.kind = 1)
        ∧ (x.owner = none → k = none)
        ∧ ∀ o e, x.owner = some o → (s.part p).session o = some e → ∃ n, e.openings ≤ n ∧ k = some (sessionCtxKey e.kSess c n))

end Sys2Proof.Machine
end

