-- ==== Sys2Proof/Certificates/Slice0/Obligations.lean ====
section
/-!
DEFINITION. The statements.
-/

open Sys2Proof Sys2Proof.Machine

/-! The step and the fuses -/

/-- A step runs the command at the front of the queue on the machine with the queue's rest. With an empty queue, and nothing that waits or is under
way, the module idles: a step only draws the next free values, of the on-die error to come and of the entropy source's tests (conventions of
the model, logs 3, 189, 190). -/
def Obligations.StepRunsFront : Prop :=
  (∀ (c : Instr) (s : State), step { s with pending := c :: s.pending } = exec c s)
  ∧ (∀ s : State, s.pending = [] → s.sys.waiting = [] → s.sys.mem.alarms = [] → s.sys.mem.posted = [] → s.sys.plat.upset = .none →
     s.sys.trust.entropy = 0 → s.sys.trust.retries = 0 → s.sys.trust.badTests = 0 → s.sys.trust.installing = none → (∀ b : Fin 80, s.sys.runs b.val = false) →
     ∃ (u : Upset) (n : Nat), step s = .next { s with sys := { s.sys with
       free := s.sys.free + 2, plat := { s.sys.plat with upset := u }, trust := { s.sys.trust with badTests := n } } })

/-- R368: OTP bits can only be changed from 0 to 1: whatever a step does, no fuse bit goes from 1 to 0. A bit of the life-cycle word resolves set when
at least three of its four copies are set; the word is 0 before anything is programmed, and its fields are all set in the states that the field map
names. -/
def Obligations.FusesNeverClear : Prop :=
  (∀ s t : State, step s = .next t → Fuses.le s.fuses t.fuses)
  ∧ (∀ (f : Fuses) (i : Nat), i < 64 → f.word.getLsbD i = decide (3 ≤ f.lc.toList.countP (fun w => w.getLsbD i)))
  ∧ State.reset.fuses.word = 0#64
  ∧ ∀ f : Fuses,
    (f.lcState = .eol → f.word.extractLsb' 32 32 = BitVec.allOnes 32)
    ∧ ((f.lcState = .production ∨ f.lcState = .eol) → f.word.extractLsb' 16 16 = BitVec.allOnes 16)
    ∧ ((f.lcState = .test ∨ f.lcState = .production ∨ f.lcState = .eol) → f.word.extractLsb' 0 16 = BitVec.allOnes 16)

/-- Before power is applied no fuse is programmed and nothing runs.
Conventions of the model that it rests on: log 1. -/
def Obligations.ResetIsBlank : Prop :=
  State.reset.fuses = Fuses.blank ∧ State.reset.pending = [] ∧ State.reset.sys.waiting = [] ∧ (∀ f, State.reset.sys.fnReady f = false)
    ∧ (∀ b : Fin 80, State.reset.arch b = BightArch.zero) ∧ ∀ g : Fuses, Fuses.le State.reset.fuses g

/-! Scalar and control instructions -/

/-- R83: s0 reads as 0 and writes to it are discarded; any other register reads as what was written, and a write leaves the others. R85: the integer operations, each with all operand forms, into s[SD] with PC at the next instruction and nothing else changed. R85, R35, R98: the floating-point operations act on bits [31:0] and write bits [63:32] as 0; FCVTI sign-extends.
Conventions of the model that it rests on: log 18. -/
def Obligations.ScalarArithmetic : Prop :=
  ((∀ (a : BightArch) (d r : BitVec 5) (v : Word64),
      (a.setS d v).s r = (if r = 0#5 then 0#64 else if r = d then v else a.s r)
      ∧ { a.setS d v with sregs := a.sregs } = a)
   ∧ (∀ (f : ScalarF) (s : State), CoreReady s f.b →
      let a := (s.arch f.b).s f.sa
      let b := s.operand f
      Writes (.add f) s f.b f.sd (BitVec.ofNat 64 (a.toNat + b.toNat))
      ∧ Writes (.sub f) s f.b f.sd (BitVec.ofInt 64 (a.toInt - b.toInt))
      ∧ Writes (.mul f) s f.b f.sd (BitVec.ofNat 64 (a.toNat * b.toNat))
      ∧ Writes (.mulhu f) s f.b f.sd (BitVec.ofNat 64 (a.toNat * b.toNat / 2 ^ 64))
      ∧ Writes (.and f) s f.b f.sd (BitVec.ofFnLE (fun i => a[i] && b[i]))
      ∧ Writes (.or f) s f.b f.sd (BitVec.ofFnLE (fun i => a[i] || b[i]))
      ∧ Writes (.xor f) s f.b f.sd (BitVec.ofFnLE (fun i => a[i] ^^ b[i]))
      ∧ Writes (.shl f) s f.b f.sd (BitVec.ofNat 64 (a.toNat * 2 ^ (b.toNat % 64)))
      ∧ Writes (.shr f) s f.b f.sd (BitVec.ofNat 64 (a.toNat / 2 ^ (b.toNat % 64)))
      ∧ Writes (.sra f) s f.b f.sd (BitVec.ofInt 64 (a.toInt / 2 ^ (b.toNat % 64)))
      ∧ Writes (.min f) s f.b f.sd (BitVec.ofInt 64 (min a.toInt b.toInt))
      ∧ Writes (.max f) s f.b f.sd (BitVec.ofInt 64 (max a.toInt b.toInt))
      ∧ Writes (.minu f) s f.b f.sd (BitVec.ofNat 64 (min a.toNat b.toNat))
      ∧ Writes (.maxu f) s f.b f.sd (BitVec.ofNat 64 (max a.toNat b.toNat))
      ∧ Writes (.slt f) s f.b f.sd (if a.toInt < b.toInt then 1#64 else 0#64)
      ∧ Writes (.sltu f) s f.b f.sd (if a.toNat < b.toNat then 1#64 else 0#64)
      ∧ Writes (.seq f) s f.b f.sd (if a = b then 1#64 else 0#64)
      ∧ Writes (.movhi f) s f.b f.sd (BitVec.ofNat 64 (f.imm.toNat * 2 ^ 32 + a.toNat % 2 ^ 32))))
  ∧ (∀ (f : ScalarF) (s : State), CoreReady s f.b →
     let a : Word32 := ((s.arch f.b).s f.sa).extractLsb' 0 32
     let b : Word32 := (s.operand f).extractLsb' 0 32
     Writes (.fadd f) s f.b f.sd (0#32 ++ fpAdd a b) ∧ Writes (.fsub f) s f.b f.sd (0#32 ++ fpSub a b)
     ∧ Writes (.fmul f) s f.b f.sd (0#32 ++ fpMul a b) ∧ Writes (.fdiv f) s f.b f.sd (0#32 ++ fpDiv a b)
     ∧ Writes (.fmin f) s f.b f.sd (0#32 ++ fpMin a b) ∧ Writes (.fmax f) s f.b f.sd (0#32 ++ fpMax a b)
     ∧ Writes (.flt f) s f.b f.sd (if fpIsNaN a ∨ fpIsNaN b then 0#64 else if fpLt a b then 1#64 else 0#64)
     ∧ Writes (.fcvti f) s f.b f.sd (BitVec.ofInt 64 (fpToInt a).1.toInt)
     ∧ Writes (.icvtf f) s f.b f.sd (0#32 ++ intToFp a))

/-- R86: quotients and remainders, the results for a zero divisor with DIV_ZERO set, and -2^63 by -1. -/
def Obligations.ScalarDivision : Prop :=
  ∀ (f : ScalarF) (s : State), CoreReady s f.b →
    let a := (s.arch f.b).s f.sa
    let b := s.operand f
    let done := fun (i : Instr) (v : Word64) => Ends i s f.b { (s.arch f.b).setS f.sd v with
      pc := (s.arch f.b).pc + 8#64, halyard := if b = 0#64 then (s.arch f.b).halyard ||| 0x0004#16 else (s.arch f.b).halyard }
    (b = 0#64 → done (.divu f) 0xFFFFFFFFFFFFFFFF#64 ∧ done (.remu f) a ∧ done (.div f) (BitVec.ofInt 64 (-1)) ∧ done (.rem f) a)
    ∧ (b ≠ 0#64 → done (.divu f) (BitVec.ofNat 64 (a.toNat / b.toNat)) ∧ done (.remu f) (BitVec.ofNat 64 (a.toNat % b.toNat))
        ∧ done (.div f) (BitVec.ofInt 64 (a.toInt.tdiv b.toInt)) ∧ done (.rem f) (BitVec.ofInt 64 (a.toInt.tmod b.toInt)))
    ∧ (a = 0x8000000000000000#64 → b = BitVec.ofInt 64 (-1) → done (.div f) 0x8000000000000000#64 ∧ done (.rem f) 0#64)

/-- R85: LD takes the 8 bytes, least significant first (R3), at (a + IMM)[23:3] x 8; from poisoned bytes it writes 0 (log 41). No
instruction that writes those bytes is outstanding. R85: ST stores the 8 bytes of s[SB] at (a + IMM)[23:3] x 8, writes no register, and leaves every other byte. The Bight stands
in no region, so nothing is saved for a cut. -/
def Obligations.ScalarMemory : Prop :=
  (∀ (f : ScalarF) (s : State), CoreReady s f.b →
     let x := s.arch f.b
     let addr := ((x.s f.sa).toNat + (f.imm.signExtend 64).toNat) % 2 ^ 24 / 8 * 8
     s.sys.hazard f.b.val s.sys.ordNow (s.sys.bight f.b.val).nextSeq { Foot.none with rd := [(addr, 8)] } = false →
     ((x.locker.mark (addr / 16)).isBad = false →
       Writes (.ld f) s f.b f.sd (BitVec.ofNat 64 ((List.range 8).foldr (fun i n => (x.locker.byte (addr + i)).toNat + 256 * n) 0)))
     ∧ ((x.locker.mark (addr / 16)).isBad = true →
       ∃ t, exec (.ld f) s = .next t ∧ t.arch f.b = { x.setS f.sd 0#64 with pc := x.pc + 8#64 }))
  ∧ (∀ (f : ScalarF) (s : State), CoreReady s f.b → (s.sys.bight f.b.val).region = none → s.sys.sigmaOf f.b.val = none →
     let x := s.arch f.b
     let addr := ((x.s f.sa).toNat + (f.imm.signExtend 64).toNat) % 2 ^ 24 / 8 * 8
     s.sys.hazard f.b.val s.sys.ordNow (s.sys.bight f.b.val).nextSeq { Foot.none with wr := [(addr, 8)] } = false →
     ∃ t, exec (.st f) s = .next t ∧ OnlyBight s t f.b ∧ BightKept (s.sys.bight f.b.val) (t.sys.bight f.b.val)
       ∧ { t.arch f.b with locker := x.locker } = { x with pc := x.pc + 8#64 }
       ∧ (∀ i, i < 8 → (t.arch f.b).locker.byte (addr + i) = BitVec.ofNat 8 ((x.s f.sb).toNat / 256 ^ i))
       ∧ ∀ p, (p < addr ∨ addr + 8 ≤ p) → (t.arch f.b).locker.byte p = x.locker.byte p)

/-- R88, R89: NOP, BR, JAL and JR. A reserved COND gives no branch and sets BAD_ENCODING. R92: HITCH.SET of a hitch that is 0, HITCH.WAIT on one that is 1 and that no older instruction waits on, HITCH.CLEAR; a set that
waits for the hitch then makes it 1 at once.
Conventions of the model that it rests on: log 19. -/
def Obligations.ControlFlowHitches : Prop :=
  (∀ (f : ControlF) (s : State), CoreReady s f.b →
     let x := s.arch f.b
     let a := x.s f.ra
     let b := x.s f.rb
     let m : Word64 := 0#56 ++ f.mask
     let dest := BitVec.ofInt 64 (x.pc.toInt + 8 * f.imm.toInt)
     let onward := fun (c : Prop) (_ : Decidable c) => Ends (.br f) s f.b { x with pc := if c then dest else x.pc + 8#64 }
     Ends (.nop f) s f.b { x with pc := x.pc + 8#64 }
     ∧ Ends (.jal f) s f.b { x.setS f.ra (x.pc + 8#64) with pc := dest }
     ∧ Ends (.jr f) s f.b { x with pc := BitVec.ofNat 64 (a.toNat / 8 * 8) }
     ∧ (f.cond = 0#4 → onward True inferInstance) ∧ (f.cond = 1#4 → onward (a = b) inferInstance)
     ∧ (f.cond = 2#4 → onward (a ≠ b) inferInstance) ∧ (f.cond = 3#4 → onward (a.toInt < b.toInt) inferInstance)
     ∧ (f.cond = 4#4 → onward (a.toInt ≥ b.toInt) inferInstance) ∧ (f.cond = 5#4 → onward (a.toNat < b.toNat) inferInstance)
     ∧ (f.cond = 6#4 → onward (a.toNat ≥ b.toNat) inferInstance) ∧ (f.cond = 7#4 → onward (a &&& m ≠ 0#64) inferInstance)
     ∧ (f.cond = 8#4 → onward (a &&& m = 0#64) inferInstance)
     ∧ (9 ≤ f.cond.toNat → Ends (.br f) s f.b { x with pc := x.pc + 8#64, halyard := x.halyard ||| 0x0001#16 }))
  ∧ (∀ (f : ControlF) (s : State), CoreReady s f.b →
     let x := s.arch f.b
     let h := f.imm.toNat % 32
     let low := fun (i : Instr) => ∃ t, exec i s = .next t ∧ OnlyBight s t f.b ∧ BightKept (s.sys.bight f.b.val) (t.sys.bight f.b.val)
       ∧ { t.arch f.b with hitches := x.hitches, hitchSets := x.hitchSets } = { x with pc := x.pc + 8#64 }
       ∧ (∀ n < 32, (t.arch f.b).hitches.getLsbD n = if n = h then x.hitches.getLsbD n && x.hitchSets.any (fun w => w.hitch.toNat == h) else x.hitches.getLsbD n)
       ∧ ∀ n < 32, (t.arch f.b).hitchSets.countP (fun w => w.hitch.toNat == n) = x.hitchSets.countP (fun w => w.hitch.toNat == n) - if n = h then 1 else 0
     (x.hitches.getLsbD h = false → ∃ t, exec (.hitchSet f) s = .next t ∧ OnlyBight s t f.b ∧ BightKept (s.sys.bight f.b.val) (t.sys.bight f.b.val)
       ∧ { t.arch f.b with hitches := x.hitches } = { x with pc := x.pc + 8#64 }
       ∧ ∀ n < 32, (t.arch f.b).hitches.getLsbD n = (n == h || x.hitches.getLsbD n))
     ∧ (x.hitches.getLsbD h = true → (∀ g ∈ s.sys.waiting, g.bight = some f.b.val → g.waitH ≠ some (BitVec.ofNat 5 h)) → low (.hitchWait f))
     ∧ low (.hitchClear f))

/-- R105: SUM.POP takes the oldest reserved entry that is not bound, once it is filled; with none it does not wait, returns value 0
and NONE and sets SUM_UNDERFLOW; behind one that is not filled it waits and changes nothing of the Bight. R104, R93: STAT of the Halyard core pushes the word with flags 0 and clears the bits of MASK; STAT of another unit, with nothing of
that unit outstanding, pushes the word with its bits [3:0] as flags.
Conventions of the model that it rests on: log 137 (where RA and RB of SUM.POP are one register, it holds the flags). -/
def Obligations.SummaryStatus : Prop :=
  (∀ (f : ControlF) (s : State), CoreReady s f.b →
     let x := s.arch f.b
     (∀ e pre post, x.fifo = pre ++ e :: post → (∀ d ∈ pre, d.bound = true) → e.bound = false → (∀ d ∈ pre ++ post, d.id ≠ e.id) →
       (e.filled = true → Ends (.sumPop f) s f.b
         { ({ x with fifo := pre ++ post }.setS f.ra e.value).setS f.rb (0#56 ++ e.flags) with pc := x.pc + 8#64 })
       ∧ (e.filled = false → ∃ t, exec (.sumPop f) s = .next t ∧ t.sys.bights = s.sys.bights ∧ ∃ h ∈ t.sys.waiting, h.cmd = .sumPop f))
     ∧ ((∀ d ∈ x.fifo, d.bound = true) → Ends (.sumPop f) s f.b
         { (x.setS f.ra 0#64).setS f.rb 0x80#64 with pc := x.pc + 8#64, halyard := x.halyard ||| 0x0008#16 }))
  ∧ (∀ (f : ControlF) (s : State), CoreReady s f.b → s.sys.replay = none → (∀ h ∈ s.sys.waiting, h.bight ≠ some f.b.val) →
     (s.arch f.b).fifo.length < 32 → (∀ e ∈ (s.arch f.b).fifo, e.id < (s.arch f.b).fifoNext) →
     (s.sys.bight f.b.val).drains = [] → (s.arch f.b).hitchSets = [] → s.sys.setPending f.b.val = false → (s.sys.bight f.b.val).region = none →
     s.sys.sigmaOf f.b.val = none →
     let x := s.arch f.b
     let keep : Word16 := ~~~(0#8 ++ f.mask)
     let out := fun (w : Word16) (fl : Byte) => ({ x with
       fifo := x.fifo ++ [⟨x.fifoNext, true, 0#48 ++ w, fl, false⟩], fifoNext := x.fifoNext + 1, pc := x.pc + 8#64 } : BightArch)
     (f.cond.toNat % 4 = 0 → Ends (.stat f) s f.b { out x.halyard 0#8 with halyard := x.halyard &&& keep })
     ∧ (f.cond.toNat % 4 = 1 → Ends (.stat f) s f.b { out x.serve (0#4 ++ x.serve.extractLsb' 0 4) with serve := x.serve &&& keep })
     ∧ (f.cond.toNat % 4 = 2 → Ends (.stat f) s f.b { out x.lay (0#4 ++ x.lay.extractLsb' 0 4) with lay := x.lay &&& keep })
     ∧ (f.cond.toNat % 4 = 3 → Ends (.stat f) s f.b { out x.fairlead (0#4 ++ x.fairlead.extractLsb' 0 4) with fairlead := x.fairlead &&& keep }))

/-- R106: SLACK.OPEN with no region open: a reserved COND sets BAD_ENCODING, no entry to bind sets SLACK_UNBOUND, else the oldest unbound
entry is bound and the test, the resume target, s[RA], RB and the Bight's state are recorded; where that entry is filled already the region resolves at once by its test (R190). R109, R110, R87: with no region open HAUL and CUT have no effect; QWAIT of queues with nothing outstanding goes on; while a region is
open HAUL waits, and nothing of the Bight changes. -/
def Obligations.SlackOpens : Prop :=
  (∀ (f : ControlF) (s : State), CoreReady s f.b → (s.sys.bight f.b.val).region = none → s.sys.sigmaOf f.b.val = none →
     let x := s.arch f.b
     (7 ≤ f.cond.toNat → Ends (.slackOpen f) s f.b { x with pc := x.pc + 8#64, halyard := x.halyard ||| 0x0001#16 })
     ∧ (f.cond.toNat < 7 → (∀ d ∈ x.fifo, d.bound = true) → Ends (.slackOpen f) s f.b { x with pc := x.pc + 8#64, halyard := x.halyard ||| 0x0010#16 })
     ∧ (∀ e pre post, f.cond.toNat < 7 → x.fifo = pre ++ e :: post → (∀ d ∈ pre, d.bound = true) → e.bound = false → (∀ d ∈ pre ++ post, d.id ≠ e.id) → e.filled = true →
       (∀ h ∈ s.sys.waiting, h.bight ≠ some f.b.val) →
       let a := x.s f.ra
       let holds := e.flags &&& f.mask = f.imm.extractLsb' 24 8 ∧ (f.cond = 0#4 ∨ (f.cond = 1#4 ∧ e.value = a) ∨ (f.cond = 2#4 ∧ e.value ≠ a)
         ∨ (f.cond = 3#4 ∧ e.value.toInt < a.toInt) ∨ (f.cond = 4#4 ∧ e.value.toInt ≥ a.toInt) ∨ (f.cond = 5#4 ∧ e.value.toNat < a.toNat) ∨ (f.cond = 6#4 ∧ e.value.toNat ≥ a.toNat))
       let left := ({ x with fifo := pre ++ post } : BightArch).setS f.rb (0#56 ++ e.flags)
       let over_ := fun (pc : Word64) => ∃ t, exec (.slackOpen f) s = .next t ∧ OnlyBight s t f.b ∧ (t.sys.bight f.b.val).region = none ∧ t.arch f.b = { left with pc := pc }
       (holds → over_ (x.pc + 8#64)) ∧ (¬ holds → over_ (BitVec.ofInt 64 (x.pc.toInt + 8 * (f.imm.extractLsb' 0 24).toInt))))
     ∧ (∀ e pre post, f.cond.toNat < 7 → x.fifo = pre ++ e :: post → (∀ d ∈ pre, d.bound = true) → e.bound = false → (∀ d ∈ pre ++ post, d.id ≠ e.id) → e.filled = false →
       ∃ t g, exec (.slackOpen f) s = .next t ∧ OnlyBight s t f.b ∧ (t.sys.bight f.b.val).region = some g
         ∧ t.arch f.b = { x with fifo := pre ++ { e with bound := true } :: post, pc := x.pc + 8#64 }
         ∧ { g.snap with pc := x.pc + 8#64 } = t.arch f.b ∧ g.bound = e.id ∧ g.cond = f.cond ∧ g.mask = f.mask
         ∧ g.expect = f.imm.extractLsb' 24 8 ∧ g.ra = x.s f.ra ∧ g.rb = f.rb
         ∧ g.resume = BitVec.ofInt 64 (x.pc.toInt + 8 * (f.imm.extractLsb' 0 24).toInt) ∧ g.items = []))
  ∧ (∀ (f : ControlF) (s : State), CoreReady s f.b →
     let x := s.arch f.b
     ((s.sys.bight f.b.val).region = none →
       Ends (.haul f) s f.b { x with pc := x.pc + 8#64 } ∧ Ends (.cut f) s f.b { x with pc := x.pc + 8#64 }
       ∧ ((∀ h ∈ s.sys.waiting, h.bight ≠ some f.b.val) → (s.sys.bight f.b.val).drains = [] → x.hitchSets = [] → s.sys.setPending f.b.val = false →
           Ends (.qwait f) s f.b { x with pc := x.pc + 8#64 }))
     ∧ ((s.sys.bight f.b.val).region.isSome = true →
       ∃ t, exec (.haul f) s = .next t ∧ t.sys.bights = s.sys.bights ∧ ∃ h ∈ t.sys.waiting, h.cmd = .haul f))

/-- R110, R111: CUT of an open region, and the resolution of a region whose test fails: the Bight is as at SLACK.OPEN without the
bound entry, s[RB] holds 0 or the flag byte, PC is the resume target, and nothing outside the Bight changes but in-region
instructions that go. R108: a region that holds no effects and whose test holds is hauled: the bound entry goes, s[RB] receives the flag byte, execution goes on.
Conventions of the model that it rests on: log 25. -/
def Obligations.SlackResolves : Prop :=
  (∀ (b : Fin 80) (g : Region) (s : State), (s.sys.bight b.val).region = some g → s.sys.sigmaOf b.val = none →
     let done := fun (i : Instr) (v : Word64) => ∃ t, exec i s = .next t ∧ (t.sys.bight b.val).region = none
       ∧ t.arch b = { ({ g.snap with fifo := g.snap.fifo.filter (fun e => e.id != g.bound) } : BightArch).setS g.rb v with pc := g.resume }
       ∧ (∀ h ∈ t.sys.waiting, h ∈ s.sys.waiting) ∧ (∀ c : Fin 80, c ≠ b → t.sys.bight c.val = s.sys.bight c.val)
       ∧ t.pending = s.pending ∧ t.fuses = s.fuses
       ∧ { t.sys with bights := s.sys.bights, waiting := s.sys.waiting, replay := s.sys.replay } = s.sys
     (∀ f : ControlF, f.b = b → CoreReady s b → done (.cut f) 0#64)
     ∧ ∀ e : SumEntry, e ∈ (s.arch b).fifo → e.id = g.bound → e.filled = true → (∀ d ∈ (s.arch b).fifo, d.id = g.bound → d = e) →
       ((e.flags &&& g.mask ≠ g.expect ∨ (g.cond = 1#4 ∧ e.value ≠ g.ra) ∨ (g.cond = 2#4 ∧ e.value = g.ra)
         ∨ (g.cond = 3#4 ∧ e.value.toInt ≥ g.ra.toInt) ∨ (g.cond = 4#4 ∧ e.value.toInt < g.ra.toInt)
         ∨ (g.cond = 5#4 ∧ e.value.toNat ≥ g.ra.toNat) ∨ (g.cond = 6#4 ∧ e.value.toNat < g.ra.toNat)) →
         done (.slackRegionCut b) (0#56 ++ e.flags)))
  ∧ (∀ (b : Fin 80) (g : Region) (s : State), (s.sys.bight b.val).region = some g → s.sys.sigmaOf b.val = none → g.items = [] →
     ∀ e : SumEntry, e ∈ (s.arch b).fifo → e.id = g.bound → e.filled = true → (∀ d ∈ (s.arch b).fifo, d.id = g.bound → d = e) →
       e.flags &&& g.mask = g.expect →
       (g.cond = 0#4 ∨ (g.cond = 1#4 ∧ e.value = g.ra) ∨ (g.cond = 2#4 ∧ e.value ≠ g.ra)
         ∨ (g.cond = 3#4 ∧ e.value.toInt < g.ra.toInt) ∨ (g.cond = 4#4 ∧ e.value.toInt ≥ g.ra.toInt)
         ∨ (g.cond = 5#4 ∧ e.value.toNat < g.ra.toNat) ∨ (g.cond = 6#4 ∧ e.value.toNat ≥ g.ra.toNat)) →
       ∃ t, exec (.slackRegionHaul b) s = .next t ∧ OnlyBight s t b ∧ (t.sys.bight b.val).region = none
         ∧ t.arch b = ({ s.arch b with fifo := (s.arch b).fifo.filter (fun d => d.id != g.bound) } : BightArch).setS g.rb (0#56 ++ e.flags))

/-- R14: an instruction on a Bight that executes no RUN of a partition has no effect. R88, R331: HALT with nothing outstanding: the context keeps the Bight's locker and hitches, the Bight runs nothing,
and the RUN's RESULT takes the status words: the last Bight completes it, no other RUN waiting for the Bight.
Conventions of the model that it rests on: log 142 (the instruction on a Bight that executes no RUN). -/
def Obligations.Halts : Prop :=
  (∀ (b : Fin 80) (s : State), s.sys.runs b.val = false → s.sys.replay = none → ∀ i : Instr,
    ((∃ f : ControlF, f.b = b ∧ i ∈ [Instr.halt f, .jal f, .hitchSet f]) ∨ (∃ f : ScalarF, f.b = b ∧ i ∈ [Instr.add f, .st f])
      ∨ (∃ f : VectorF, f.b = b ∧ i ∈ [Instr.vadd f, .vst f]) ∨ (∃ f : MmaF, f.b = b ∧ i = .layMma f) ∨ (∃ f : MoverF, f.b = b ∧ i ∈ [Instr.movLoad f, .movStore f])) →
    exec i s = .next s)
  ∧ ∀ (f : ControlF) (s : State), CoreReady s f.b → (∀ h ∈ s.sys.waiting, h.bight ≠ some f.b.val) → (s.sys.bight f.b.val).drains = [] →
    (s.arch f.b).hitchSets = [] → s.sys.setPending f.b.val = false → (s.sys.bight f.b.val).region = none →
    let x := s.arch f.b
    let words : Word64 := x.halyard ++ x.fairlead ++ x.serve ++ x.lay
    let over_ := fun (t : State) (r : RunRef) => t.sys.bight f.b.val = { Bight.idle with turn := r.ctx } ∧ t.pending = s.pending ∧ t.fuses = s.fuses
      ∧ t.sys.savedBight r.ctx f.b.val = { Bight.idle with arch := { BightArch.zero with locker := x.locker, hitches := x.hitches } }
      ∧ (∀ c : Fin 80, c ≠ f.b → t.sys.bight c.val = s.sys.bight c.val) ∧ t.sys.mem = s.sys.mem
    ∀ (r : RunRef) (k : Cmd) (ready active : List Nat) (st : Word64) (causes : List Mark) (spec : Bool),
      (s.sys.bight f.b.val).run = some r → r.ring < 4 → s.sys.cmdAt r.ctx r.ring r.lay = some k → k.ring = r.ring → k.ending = none → k.progress = .run ready active st causes spec →
      s.sys.inSigma r.ctx k = false → (∀ c, s.sys.readyRun c f.b.val = none ∧ (c ≠ r.ctx → (s.sys.savedBight c f.b.val).run = none)) →
      ((ready ≠ [] ∨ ∃ c ∈ active, c ≠ f.b.val) → ∃ t, exec (.halt f) s = .next t ∧ over_ t r
        ∧ t.sys.cmdAt r.ctx r.ring r.lay = some { k with progress := .run ready (active.filter (fun c => c != f.b.val)) (st ||| words) (causes ++ (s.sys.bight f.b.val).seen) spec })
      ∧ (ready = [] → (∀ c ∈ active, c = f.b.val) → ∃ t, exec (.halt f) s = .next t ∧ over_ t r ∧ t.sys.cmdAt r.ctx r.ring r.lay = none
        ∧ (t.sys.ctx r.ctx).outbox = (s.sys.ctx r.ctx).outbox
            ++ [doneRec k (markStatus (worstMark (causes ++ (s.sys.bight f.b.val).seen))) (leBytes 8 (st ||| words).toNat)])

/-- R82: a reserved word has no effect but BAD_ENCODING in the status of the unit that receives it; of a queue class it still waits on and sets its hitches. -/
def Obligations.ReservedWords : Prop :=
  ∀ (b : Fin 80) (w : Word64) (s : State), QueueReady s b → (s.sys.bight b.val).region = none →
    let cls := w.toNat / 2 ^ 60
    let wait := w.getLsbD 27
    let waitH := w.extractLsb' 22 5
    let queued := fun (eng : Engine) (g : BightArch → BightArch) => HitchReady s b wait waitH →
      Queued (.reservedOpcode b w) s b wait waitH (w.getLsbD 21) (w.extractLsb' 16 5) eng False (fun x a => a = g x)
    (cls = 2 → queued .matrix (fun x => { x with lay := x.lay ||| 0x0010#16 }))
    ∧ (cls = 3 → queued .vector (fun x => { x with serve := x.serve ||| 0x0020#16 }))
    ∧ (cls = 4 → queued .mover (fun x => { x with fairlead := x.fairlead ||| 0x0010#16 }))
    ∧ (cls < 2 ∨ 4 < cls → Ends (.reservedOpcode b w) s b { s.arch b with pc := (s.arch b).pc + 8#64, halyard := (s.arch b).halyard ||| 0x0001#16 })

/-! Vector instructions -/

/-- R94 to R98, R100: VADD, VSUB, VMUL, VFMA, VMIN, VMAX, VABS and VNEG act on each active lane by TYPE; TYPE 3 has no effect but BAD_ENCODING.
Conventions of the model that it rests on: logs 24, 135 (VABS and VNEG on the integer types, VABS of 0x8000_0000). -/
def Obligations.VectorArithmetic : Prop :=
  ∀ (f : VectorF) (s : State), QueueReady s f.b → HitchReady s f.b f.waitEn f.waitH →
    let x := s.atIssue f.b f.waitEn f.waitH
    let fp := f.type == 0#2
    let two := fun (i : Instr) (op : Word32 → Word32 → Word32) =>
      let res := fun l => (⟨op (x.lane f.va.toNat l).val (second f s x l).val, (x.lane f.va.toNat l).mark.worse (second f s x l).mark⟩ : Lane)
      Serves i s f (lanePoison f x res) (LaneWrite f fp res)
    let one := fun (i : Instr) (op : Word32 → Word32) =>
      let res := fun l => (⟨op (x.lane f.va.toNat l).val, (x.lane f.va.toNat l).mark⟩ : Lane)
      Serves i s f (lanePoison f x res) (LaneWrite f fp res)
    let three := fun (i : Instr) (op : Word32 → Word32 → Word32 → Word32) =>
      let res := fun l => (⟨op (x.lane f.va.toNat l).val (second f s x l).val (x.lane f.vc.toNat l).val,
        ((x.lane f.va.toNat l).mark.worse (second f s x l).mark).worse (x.lane f.vc.toNat l).mark⟩ : Lane)
      Serves i s f (lanePoison f x res) (LaneWrite f fp res)
    (f.type = 0#2 → two (.vadd f) fpAdd ∧ two (.vsub f) fpSub ∧ two (.vmul f) fpMul ∧ three (.vfma f) fpFma ∧ two (.vmin f) fpMin
      ∧ two (.vmax f) fpMax ∧ one (.vabs f) fpAbs ∧ one (.vneg f) fpNegate)
    ∧ (f.type = 1#2 ∨ f.type = 2#2 → two (.vadd f) (fun a b => BitVec.ofNat 32 (a.toNat + b.toNat))
      ∧ two (.vsub f) (fun a b => BitVec.ofInt 32 (a.toInt - b.toInt)) ∧ two (.vmul f) (fun a b => BitVec.ofNat 32 (a.toNat * b.toNat))
      ∧ three (.vfma f) (fun a b c => BitVec.ofNat 32 (a.toNat * b.toNat + c.toNat)) ∧ one (.vneg f) (fun a => BitVec.ofInt 32 (- a.toInt)))
    ∧ (f.type = 1#2 → two (.vmin f) (fun a b => BitVec.ofInt 32 (min a.toInt b.toInt)) ∧ two (.vmax f) (fun a b => BitVec.ofInt 32 (max a.toInt b.toInt))
      ∧ one (.vabs f) (fun a => if a = 0x80000000#32 then Config.absLeast else BitVec.ofInt 32 |a.toInt|))
    ∧ (f.type = 2#2 → two (.vmin f) (fun a b => BitVec.ofNat 32 (min a.toNat b.toNat)) ∧ two (.vmax f) (fun a b => BitVec.ofNat 32 (max a.toNat b.toNat))
      ∧ one (.vabs f) id)
    ∧ (f.type = 3#2 → ∀ i, i ∈ [Instr.vadd f, .vsub f, .vmul f, .vfma f, .vmin f, .vmax f, .vabs f, .vneg f, .vcmp f, .vscan f] →
      Serves i s f False (fun x a => a = { x with serve := x.serve ||| 0x0020#16 }))

/-- R95, R98, R99: the FP32 functions, the bitwise operations and the shifts (counts taken mod 32) act on each active lane whatever TYPE holds.
Conventions of the model that it rests on: logs 12, 24. -/
def Obligations.VectorFunctions : Prop :=
  ∀ (f : VectorF) (s : State), QueueReady s f.b → HitchReady s f.b f.waitEn f.waitH →
    let x := s.atIssue f.b f.waitEn f.waitH
    let one := fun (i : Instr) (op : Word32 → Word32) =>
      let res := fun l => (⟨op (x.lane f.va.toNat l).val, (x.lane f.va.toNat l).mark⟩ : Lane)
      Serves i s f (lanePoison f x res) (LaneWrite f true res)
    let two := fun (i : Instr) (op : Word32 → Word32 → Word32) =>
      let res := fun l => (⟨op (x.lane f.va.toNat l).val (second f s x l).val, (x.lane f.va.toNat l).mark.worse (second f s x l).mark⟩ : Lane)
      Serves i s f (lanePoison f x res) (LaneWrite f false res)
    (let res := fun l => (⟨fpDiv (x.lane f.va.toNat l).val (second f s x l).val, (x.lane f.va.toNat l).mark.worse (second f s x l).mark⟩ : Lane)
     Serves (.vdiv f) s f (lanePoison f x res) (LaneWrite f true res))
    ∧ one (.vrcp f) fpRcp ∧ one (.vsqrt f) fpSqrt ∧ one (.vrsqrt f) fpRsqrt ∧ one (.vexp f) fpExp ∧ one (.vexp2 f) fpExp2
    ∧ one (.vlog f) fpLog ∧ one (.vlog2 f) fpLog2 ∧ one (.vtanh f) fpTanh ∧ one (.vsigmoid f) fpSigmoid ∧ one (.verf f) fpErf
    ∧ two (.vand f) (fun a b => BitVec.ofFnLE (fun i => a[i] && b[i])) ∧ two (.vor f) (fun a b => BitVec.ofFnLE (fun i => a[i] || b[i]))
    ∧ two (.vxor f) (fun a b => BitVec.ofFnLE (fun i => a[i] ^^ b[i]))
    ∧ two (.vshl f) (fun a b => BitVec.ofNat 32 (a.toNat * 2 ^ (b.toNat % 32)))
    ∧ two (.vshr f) (fun a b => BitVec.ofNat 32 (a.toNat / 2 ^ (b.toNat % 32)))
    ∧ two (.vsra f) (fun a b => BitVec.ofInt 32 (a.toInt / 2 ^ (b.toNat % 32)))
    ∧ (let res := fun l => (⟨BitVec.ofFnLE (fun i => !(x.lane f.va.toNat l).val[i]), (x.lane f.va.toNat l).mark⟩ : Lane)
       Serves (.vnot f) s f (lanePoison f x res) (LaneWrite f false res))

/-- R95: VMOV, VSEL, VPERM and VROT move lanes with their poison, which they do not consume (R432). R95, R96: VCMP (legal TYPE and code), the predicate operations and PRANGE write p[VD[3:0]]; a poisoned element compares false. -/
def Obligations.VectorMovesPredicates : Prop :=
  (∀ (f : VectorF) (s : State), QueueReady s f.b → HitchReady s f.b f.waitEn f.waitH →
     let x := s.atIssue f.b f.waitEn f.waitH
     let va := fun l => x.lane f.va.toNat l
     let vb := fun l => second f s x l
     let by_ := ((s.arch f.b).s (f.vb.extractLsb' 0 5)).toNat
     let c := f.vc.extractLsb' 0 4
     Serves (.vmov f) s f False (LaneWrite f true (fun l => if f.sb then vb l else va l))
     ∧ Serves (.vsel f) s f False (LaneWrite f true (fun l => if c = 0#4 ∨ (x.pregs[c.toNat]).getLsbD l = true then va l else vb l))
     ∧ Serves (.vperm f) s f False (LaneWrite f true (fun l => ⟨(va ((vb l).val.toNat % 512)).val, (va ((vb l).val.toNat % 512)).mark.worse (vb l).mark⟩))
     ∧ Serves (.vrot f) s f False (LaneWrite f true (fun l => va ((l + by_) % 512))))
  ∧ (∀ (f : VectorF) (s : State), QueueReady s f.b → HitchReady s f.b f.waitEn f.waitH →
     let x := s.atIssue f.b f.waitEn f.waitH
     let p := fun (n : BitVec 6) (l : Nat) => n.extractLsb' 0 4 = 0#4 ∨ (x.pregs[(n.extractLsb' 0 4).toNat]).getLsbD l = true
     let only := fun (i : Instr) (res : Nat → Bool) => Serves i s f False (fun x a => PredWrite f res x a ∧ a.serve = x.serve)
     let lo := ((s.arch f.b).s (f.va.extractLsb' 0 5)).toNat
     let hi := ((s.arch f.b).s (f.vb.extractLsb' 0 5)).toNat
     only (.pand f) (fun l => decide (p f.va l ∧ p f.vb l)) ∧ only (.por f) (fun l => decide (p f.va l ∨ p f.vb l))
     ∧ only (.pxor f) (fun l => decide (¬ (p f.va l ↔ p f.vb l))) ∧ only (.pnot f) (fun l => decide (¬ p f.va l))
     ∧ only (.prange f) (fun l => decide (lo ≤ l ∧ l < hi))
     ∧ (f.type ≠ 3#2 → f.aux.toNat % 8 < 6 →
       let a := fun l => x.lane f.va.toNat l
       let b := fun l => second f s x l
       let bad := fun l => (a l).mark.isBad || (b l).mark.isBad
       let lt := fun (u v : Word32) => if f.type = 0#2 then fpLt u v else if f.type = 1#2 then decide (u.toInt < v.toInt) else decide (u.toNat < v.toNat)
       let eq := fun (u v : Word32) => if f.type = 0#2 then fpEq u v else decide (u = v)
       let cmp := fun (u v : Word32) => match f.aux.toNat % 8 with
         | 0 => eq u v | 1 => !eq u v | 2 => lt u v | 3 => lt u v || eq u v | 4 => lt v u | _ => lt v u || eq u v
       let anyBad := ∃ l < 512, laneOn f x l = true ∧ bad l = true
       Serves (.vcmp f) s f anyBad (fun x y => PredWrite f (fun l => !bad l && cmp (a l).val (b l).val) x y ∧ (anyBad → y.serve = x.serve ||| 0x0008#16) ∧ (¬ anyBad → y.serve = x.serve))))

/-- R95: VSCAN of kind sum, max or min. The first active lane gives its own element, every later one combines the result of the nearest
active lane below with its own; VC above 2 has no effect but BAD_ENCODING. No active element is poisoned. R35, R95: VCVT of unpoisoned lanes: integers with SATURATED and NAN_SEEN, and the widenings; codes above 5 have no effect but BAD_ENCODING.
Conventions of the model that it rests on: log 24. -/
def Obligations.VectorScanConvert : Prop :=
  (∀ (f : VectorF) (s : State), QueueReady s f.b → HitchReady s f.b f.waitEn f.waitH → f.type ≠ 3#2 →
     let x := s.atIssue f.b f.waitEn f.waitH
     let op := if f.vc = 0#6 then vAdd f.type else if f.vc = 1#6 then vMax f.type else vMin f.type
     (¬ lanePoison f x (fun l => x.lane f.va.toNat l) → f.vc.toNat ≤ 2 →
       Serves (.vscan f) s f False (fun x a => ∃ res : Nat → Lane, LaneWrite f (f.type == 0#2) res x a
         ∧ (∀ l < 512, laneOn f x l = true → (∀ k < l, laneOn f x k = false) →
             res l = ⟨if f.type = 0#2 ∧ fpIsNaN (x.lane f.va.toNat l).val then 0x7FC00000#32 else (x.lane f.va.toNat l).val, .clean⟩)
         ∧ ∀ k l, k < l → l < 512 → laneOn f x k = true → laneOn f x l = true → (∀ j, k < j → j < l → laneOn f x j = false) →
             res l = ⟨op (res k).val (x.lane f.va.toNat l).val, .clean⟩))
     ∧ (3 ≤ f.vc.toNat → Serves (.vscan f) s f False (fun x a => a = { x with serve := x.serve ||| 0x0020#16 })))
  ∧ (∀ (f : VectorF) (s : State), QueueReady s f.b → HitchReady s f.b f.waitEn f.waitH →
     let x := s.atIssue f.b f.waitEn f.waitH
     let code := f.aux.toNat % 16
     let va := fun l => (x.lane f.va.toNat l).val
     let any := fun (p : Nat → Bool) => (List.range 512).any (fun l => laneOn f x l && p l)
     let wide := fun (op : Word32 → Word32) => Serves (.vcvt f) s f False (LaneWrite f true (fun l => ⟨op (va l), .clean⟩))
     ¬ lanePoison f x (fun l => x.lane f.va.toNat l) →
     (code = 0 → Serves (.vcvt f) s f False (fun x a =>
         (∀ l < 512, a.lane f.vd.toNat l = if laneOn f x l then ⟨(fpToInt (va l)).1, .clean⟩ else if f.zero then Lane.zero else x.lane f.vd.toNat l)
         ∧ { a with vregs := x.vregs } = { x with serve := x.serve ||| (if any (fun l => (fpToInt (va l)).2.2) then 0x0001#16 else 0#16)
               ||| (if any (fun l => (fpToInt (va l)).2.1) then 0x0004#16 else 0#16) }))
     ∧ (code = 1 → wide intToFp) ∧ (code = 3 → wide (halfToFp .bf16)) ∧ (code = 5 → wide (halfToFp .fp16))
     ∧ (code = 2 ∨ code = 4 → Serves (.vcvt f) s f False (fun x a =>
         (∀ l < 512, a.lane f.vd.toNat l = if laneOn f x l then ⟨BitVec.ofNat 32 (encPlain (if code = 2 then .bf16 else .fp16) (fpVal (va l))), .clean⟩
           else if f.zero then Lane.zero else x.lane f.vd.toNat l)
         ∧ { a with vregs := x.vregs, serve := x.serve } = x))
     ∧ (6 ≤ code → Serves (.vcvt f) s f False (fun x a => a = { x with serve := x.serve ||| 0x0020#16 })))

/-- R44 to R47, R103: VRED of a legal kind writes one value to every lane of v[VD]; with AUX[7] it pushes the value and its flags, and
SERVE_STATUS takes the same bits. R48, R103: VSOFTMAX of a row with a finite maximum and no poison: exp(x - m) over the sum of them, masked lanes +0.0, record of m.
An empty reduction of FP32 may have an infinite result, which its flags say too.
Conventions of the model that it rests on: log 23. -/
def Obligations.VectorReduce : Prop :=
  (∀ (f : VectorF) (s : State) (k : RedKind), QueueReady s f.b → HitchReady s f.b f.waitEn f.waitH →
     (f.aux.getLsbD 7 = true → (s.arch f.b).fifo.length < 32) → (∀ e ∈ (s.arch f.b).fifo, e.id ≠ (s.arch f.b).fifoNext) →
     redKind (f.vc.toNat % 16) = some k →
     let x := s.atIssue f.b f.waitEn f.waitH
     let pred := f.aux.getLsbD 6
     let t : BitVec 2 := if pred then 2#2 else f.type
     let n := if pred then 1 else f.aux.toNat % 64 + 1
     let src := fun (j l : Nat) => if pred then (⟨if f.va.extractLsb' 0 4 = 0#4 ∨ (x.pregs[(f.va.extractLsb' 0 4).toNat]).getLsbD l = true then 1#32 else 0#32, .clean⟩ : Lane)
       else x.lane (f.va.toNat + j) l
     let elem := fun (j l : Nat) => if laneOn f x l then some (src j l).val else none
     let r := reduceVal k t n elem
     (f.type ≠ 3#2 ∨ pred = true) → ¬ (t = 0#2 ∧ (k = .and ∨ k = .or ∨ k = .xor)) → (∀ j l, j < n → l < 512 → laneOn f x l = true → (src j l).mark = .clean) →
       Serves (.vred f) s f False (fun x a => ∃ fl : Byte,
         (∀ l < 512, a.lane f.vd.toNat l = ⟨r.1, .clean⟩) ∧ (∀ g l, g < 64 → l < 512 → g ≠ f.vd.toNat → a.lane g l = x.lane g l)
         ∧ { a with vregs := x.vregs } = { x with
               serve := x.serve ||| (0#8 ++ fl), fifoNext := if f.aux.getLsbD 7 then x.fifoNext + 1 else x.fifoNext
               fifo := if f.aux.getLsbD 7 then x.fifo ++ [⟨x.fifoNext, true, 0#32 ++ r.1, fl, false⟩] else x.fifo }
         ∧ (r.2 = true → fl = if t = 0#2 ∧ (k = .max ∨ k = .min) then 0x12#8 else 0x10#8) ∧ (r.2 = false → fl.getLsbD 4 = false ∧ fl.getLsbD 3 = false
             ∧ (t = 0#2 → ((∃ j l v, j < n ∧ l < 512 ∧ elem j l = some v ∧ fpIsNaN v = true) → fl.getLsbD 0 = true)
                 ∧ ((∃ j l v, j < n ∧ l < 512 ∧ elem j l = some v ∧ fpIsInf v = true) → fl.getLsbD 1 = true)))))
  ∧ (∀ (f : VectorF) (s : State), QueueReady s f.b → HitchReady s f.b f.waitEn f.waitH →
     (f.aux.getLsbD 7 = true → (s.arch f.b).fifo.length < 32) → (∀ e ∈ (s.arch f.b).fifo, e.id ≠ (s.arch f.b).fifoNext) →
     let x := s.atIssue f.b f.waitEn f.waitH
     let n := f.aux.toNat % 64 + 1
     let elem := fun (j l : Nat) => if laneOn f x l then some (x.lane (f.va.toNat + j) l).val else none
     let r := reduceVal .max 0#2 n elem
     let ex := fun (j l : Nat) => fpExp (fpSub (x.lane (f.va.toNat + j) l).val r.1)
     let sum := (reduceRegs fpAdd n (fun j l => if laneOn f x l then some (ex j l) else none)).getD 0#32
     (∀ j l, j < n → l < 512 → laneOn f x l = true → (x.lane (f.va.toNat + j) l).mark = .clean) → r.2 = false → fpIsNaN r.1 = false → fpIsInf r.1 = false →
       Serves (.vsoftmax f) s f False (fun x a =>
         (∀ j l, j < n → l < 512 → a.lane (f.vd.toNat + j) l = if laneOn f x l then ⟨fpDiv (ex j l) sum, .clean⟩ else Lane.zero)
         ∧ (f.aux.getLsbD 7 = true → ∃ fl, a.fifo = x.fifo ++ [⟨x.fifoNext, true, 0#32 ++ r.1, fl, false⟩])
         ∧ { a with vregs := x.vregs, serve := x.serve, fifo := x.fifo, fifoNext := x.fifoNext } = x))

/-- R95, R104: VEMIT pushes one lane with its POISON flag and, of TYPE 0, NAN_SEEN and INF_SEEN, and sets no bit of SERVE_STATUS; of TYPE 3 it
pushes NONE and sets BAD_ENCODING. -/
def Obligations.VectorEmit : Prop :=
  ∀ (f : VectorF) (s : State), QueueReady s f.b → HitchReady s f.b f.waitEn f.waitH → (s.arch f.b).fifo.length < 32 →
    (∀ e ∈ (s.arch f.b).fifo, e.id ≠ (s.arch f.b).fifoNext) →
    let x := s.atIssue f.b f.waitEn f.waitH
    let v := x.lane f.va.toNat (if f.sb then ((s.arch f.b).s (f.vb.extractLsb' 0 5)).toNat % 512 else 0)
    let fl : Byte := (if v.mark.isBad then 0x08#8 else 0#8)
      ||| if f.type = 0#2 ∧ fpIsNaN v.val then 0x01#8 else if f.type = 0#2 ∧ fpIsInf v.val then 0x02#8 else 0#8
    (f.type ≠ 3#2 → Serves (.vemit f) s f False (fun x a => a = { x with fifo := x.fifo ++ [⟨x.fifoNext, true, 0#32 ++ v.val, fl, false⟩], fifoNext := x.fifoNext + 1 }))
    ∧ (f.type = 3#2 → Serves (.vemit f) s f False (fun x a => a = { x with
        fifo := x.fifo ++ [⟨x.fifoNext, true, 0#64, 0x80#8, false⟩], fifoNext := x.fifoNext + 1, serve := x.serve ||| 0x0020#16 }))

/-- R69, R95, R96, R461: VLD, VST, VBLK.LD and VBLK.ST move 2,048 bytes or a tile record at the locker address of s[VA[4:0]]; a range past the
locker's end gives BAD_ENCODING and no other effect. R64, R66, R69: VSLOT reads a slot that is not DRAINING as 32 registers, a FREE slot as +0.0 with SLOT_NOT_OPEN. -/
def Obligations.VectorLocker : Prop :=
  (∀ (f : VectorF) (s : State), QueueReady s f.b → HitchReady s f.b f.waitEn f.waitH →
     let x := s.atIssue f.b f.waitEn f.waitH
     let at_ := ((s.arch f.b).s (f.va.extractLsb' 0 5)).toNat / 256 % 65536 * 256
     let fm := (Fmt.ofCode (f.aux.toNat % 8)).getD .fp32
     let stored := fun (i : Instr) (n : Nat) (byte : Nat → Byte) => Serves i s f False (fun x a =>
       (∀ k < n, a.locker.byte (at_ + k) = byte k) ∧ (∀ p, (p < at_ ∨ at_ + n ≤ p) → a.locker.byte p = x.locker.byte p)
         ∧ { a with locker := x.locker, serve := x.serve } = x)
     let bad := fun (i : Instr) => Serves i s f False (fun x a => a = { x with serve := x.serve ||| 0x0020#16 })
     (at_ + 2048 ≤ 2 ^ 24 →
       Serves (.vld f) s f False (LaneWrite f true (fun l => ⟨(x.locker.byte (at_ + 4 * l + 3) ++ x.locker.byte (at_ + 4 * l + 2) ++ x.locker.byte (at_ + 4 * l + 1)
         ++ x.locker.byte (at_ + 4 * l) : BitVec 32), x.locker.mark (at_ / 16 + l / 4)⟩))
       ∧ stored (.vst f) 2048 (fun k => if laneOn f x (k / 4) then BitVec.ofNat 8 ((x.lane f.vd.toNat (k / 4)).val.toNat / 256 ^ (k % 4)) else x.locker.byte (at_ + k)))
     ∧ (2 ^ 24 < at_ + 2048 → bad (.vld f) ∧ bad (.vst f))
     ∧ (at_ + fmtRecord fm ≤ 2 ^ 24 →
       (f.aux.toNat / 8 % 4 ≠ 3 → stored (.vblkSt f) (fmtRecord fm)
         (tileByte (convertTile fm (if fm = .int8 then f.aux.toNat / 8 % 4 else 0) (fun r c => (x.lane (f.vd.toNat + r / 4) (128 * (r % 4) + c)).src))))
       ∧ Serves (.vblkLd f) s f False (fun x a => (∀ j l, j < 32 → l < 512 → a.lane (f.vd.toNat + j) l = (lockerTile x fm at_).lane ((512 * j + l) / 128) (l % 128))
           ∧ { a with vregs := x.vregs, serve := x.serve } = x))
     ∧ (2 ^ 24 < at_ + fmtRecord fm ∨ f.aux.toNat / 8 % 4 = 3 → bad (.vblkSt f)) ∧ (2 ^ 24 < at_ + fmtRecord fm → bad (.vblkLd f)))
  ∧ (∀ (f : VectorF) (s : State), QueueReady s f.b → HitchReady s f.b f.waitEn f.waitH →
     let n : Fin 8 := ⟨f.aux.toNat % 8, Nat.mod_lt _ (by decide)⟩
     ((s.arch f.b).slots[n].state = .free → Serves (.vslot f) s f False (fun x a =>
       (∀ j l, j < 32 → l < 512 → a.lane (f.vd.toNat + j) l = Lane.zero) ∧ { a with vregs := x.vregs } = { x with lay := x.lay ||| 0x0020#16 }))
     ∧ ((s.arch f.b).slots[n].state ≠ .free → Serves (.vslot f) s f False (fun x a =>
       (∀ r c, r < 128 → c < 128 → a.lane (f.vd.toNat + r / 4) (128 * (r % 4) + c) = (s.arch f.b).slots[n].cell r c)
         ∧ { a with vregs := x.vregs, serve := x.serve } = x)))

/-! Matrix instructions -/

/-- R36 to R42, R60 to R66: LAY.MMA. Reserved codes and operand ranges past the locker's end leave the slot with BAD_ENCODING, a slot of the
other TYPE leaves it with TYPE_MISMATCH. Else every element, from its value or from 0 of a FREE slot, takes the groups of products in
ascending k; operands and slot are not poisoned.
Conventions of the model that it rests on: logs 21, 22. -/
def Obligations.MatrixMultiply : Prop :=
  ∀ (f : MmaF) (s : State), QueueReady s f.b → HitchReady s f.b f.waitEn f.waitH → (s.arch f.b).slots[f.slot].state ≠ .draining →
    let x := s.atIssue f.b f.waitEn f.waitH
    let at_ := fun (r : BitVec 5) => ((s.arch f.b).s r).toNat / 256 % 65536 * 256
    let slot := x.slots[f.slot]
    let done := Queued (.layMma f) s f.b f.waitEn f.waitH f.setEn f.setH .matrix False
    let int := f.pair = 16#5
    (f.g = 3#2 ∨ f.kLast.toNat < f.kFirst.toNat ∨ 22 ≤ f.pair.toNat → done (fun x a => a = { x with lay := x.lay ||| 0x0010#16 }))
    ∧ ∀ fa fb, pairFmts f.pair.toNat = some (fa, fb) → f.g ≠ 3#2 → f.kFirst.toNat ≤ f.kLast.toNat →
      (2 ^ 24 < at_ f.aReg + fmtRecord fa ∨ 2 ^ 24 < at_ f.bReg + fmtRecord fb → done (fun x a => a = { x with lay := x.lay ||| 0x0010#16 }))
      ∧ (at_ f.aReg + fmtRecord fa ≤ 2 ^ 24 → at_ f.bReg + fmtRecord fb ≤ 2 ^ 24 →
        (slot.state = .opened → (slot.int = true ↔ ¬ int) → done (fun x a => a = { x with lay := x.lay ||| 0x0080#16 }))
        ∧ ((slot.state = .free ∨ (slot.int = true ↔ int)) → (∀ e ∈ x.locker.marks, e.2 = .clean) → (∀ e ∈ slot.cells, e.2.mark = .clean) →
          let A := lockerTile x fa (at_ f.aReg)
          let B := lockerTile x fb (at_ f.bReg)
          let iA := fun (i k : Nat) => if f.ta then tileIndex k i else tileIndex i k
          let iB := fun (k j : Nat) => if f.tb then tileIndex j k else tileIndex k j
          let ks := 16 * (f.kLast.toNat + 1 - f.kFirst.toNat)
          let k0 := 16 * f.kFirst.toNat
          let gs := 4 * 2 ^ f.g.toNat
          let old := fun (i j : Nat) => if slot.state = .free then 0#32 else (slot.cell i j).val
          let prod := fun (i j k : Nat) => xMul ((A.vals[iA i k]?).getD (.fin false 0)) ((B.vals[iB k j]?).getD (.fin false 0))
          let iprod := fun (i j k : Nat) => int8Val ((A.raw[iA i k]?).getD 0) * int8Val ((B.raw[iB k j]?).getD 0)
          done (fun x a => { a with slots := x.slots, lay := x.lay } = x ∧ (∀ n : Fin 8, n ≠ f.slot → a.slots[n] = x.slots[n])
            ∧ a.slots[f.slot].state = .opened ∧ (a.slots[f.slot].int = true ↔ int)
            ∧ (slot.state = .free → a.lay.getLsbD 5 = true)
            ∧ ∀ i j, i < 128 → j < 128 → a.slots[f.slot].cell i j = ⟨if int then (mmaInt (old i j) ((List.range ks).map (fun t => iprod i j (k0 + t)))).1
                else (mmaFp (old i j) ((List.range (ks / gs)).map (fun g => (List.range gs).map (fun t => prod i j (k0 + gs * g + t))))).1, .clean⟩)))

/-- R62 to R68: LAY.OPEN makes the slot OPEN with zeros or an image, LAY.DISCARD makes it FREE; reserved SRC or an image past the locker's end
gives BAD_ENCODING and no other effect. The slot is not DRAINING. R62, R64, R66: LAY.DRAIN and LAY.SPILL of an OPEN slot make it DRAINING and queue it for the drain pipeline, with the set they name made
later; of a FREE slot they set SLOT_NOT_OPEN and make the set. -/
def Obligations.MatrixSlots : Prop :=
  (∀ (f : SlotF) (s : State), QueueReady s f.b → HitchReady s f.b f.waitEn f.waitH → (s.arch f.b).slots[f.slot].state ≠ .draining →
     let at_ := ((s.arch f.b).s f.aReg).toNat / 256 % 65536 * 256
     let done := fun (i : Instr) => Queued i s f.b f.waitEn f.waitH f.setEn f.setH .matrix False
     let reopened := fun (x : BightArch) => if x.slots[f.slot].state = .opened then x.lay ||| 0x0040#16 else x.lay
     (2 ≤ f.src.toNat ∨ (f.src = 1#2 ∧ 2 ^ 24 < at_ + 65536) → done (.layOpen f) (fun x a => a = { x with lay := x.lay ||| 0x0010#16 }))
     ∧ (f.src = 0#2 → done (.layOpen f) (fun x a => { a with slots := x.slots } = { x with lay := reopened x } ∧ a.slots[f.slot].state = .opened
         ∧ a.slots[f.slot].int = f.type ∧ (∀ i j, a.slots[f.slot].cell i j = Lane.zero) ∧ ∀ n : Fin 8, n ≠ f.slot → a.slots[n] = x.slots[n]))
     ∧ (f.src = 1#2 → at_ + 65536 ≤ 2 ^ 24 → (∀ e ∈ (s.arch f.b).locker.marks, e.2 = .clean) → done (.layOpen f) (fun x a =>
         { a with slots := x.slots } = { x with lay := reopened x } ∧ a.slots[f.slot].state = .opened ∧ a.slots[f.slot].int = f.type
         ∧ (∀ i j, i < 128 → j < 128 → a.slots[f.slot].cell i j = ⟨BitVec.ofNat 32 ((List.range 4).foldr (fun k n =>
             (x.locker.byte (at_ + 4 * tileIndex i j + k)).toNat + 256 * n) 0), .clean⟩)
         ∧ ∀ n : Fin 8, n ≠ f.slot → a.slots[n] = x.slots[n]))
     ∧ done (.layDiscard f) (fun x a => { a with slots := x.slots } = x ∧ a.slots[f.slot].state = .free ∧ ∀ n : Fin 8, n ≠ f.slot → a.slots[n] = x.slots[n]))
  ∧ (∀ (f : SlotF) (s : State) (spill : Bool), QueueReady s f.b → HitchReady s f.b f.waitEn f.waitH →
     let i := if spill then Instr.laySpill f else .layDrain f
     let x := s.atIssue f.b f.waitEn f.waitH
     (x.slots[f.slot].state = .free → ∃ t, exec i s = .next t ∧ OnlyBight s t f.b
       ∧ t.arch f.b = ({ x with lay := x.lay ||| 0x0020#16 } : BightArch).andSet f.setEn f.setH (s.sys.bight f.b.val).nextSeq .matrix)
     ∧ (x.slots[f.slot].state = .opened → ∃ t d, exec i s = .next t ∧ OnlyBight s t f.b ∧ (t.sys.bight f.b.val).drains = [d]
       ∧ t.arch f.b = { x with slots := x.slots.set f.slot { x.slots[f.slot] with state := .draining } }
       ∧ d.slot = f.slot ∧ d.spill = spill ∧ d.addr = ((s.arch f.b).s f.aReg).toNat / 256 % 65536 * 256 ∧ d.setH = (if f.setEn then some f.setH else none)))

/-- R64, R67, R72, R76: the drain pipeline takes its oldest slot: the slot becomes FREE, the set is made, other slots and all registers stay.
A spill within the locker writes the slot's 65,536-byte image there and nothing else; without a slot to drain nothing happens. R74 to R77: a LAY.DRAIN whose descriptor is in order, of plain MODE without gate, dropout and statistics, writes at OUT_ADDR the tile of
ACT(slot x SCALE + bias), zero outside the valid rows and columns, and no other byte.
Conventions of the model that it rests on: log 115. -/
def Obligations.DrainPipeline : Prop :=
  (∀ (b : Fin 80) (s : State), (s.sys.bight b.val).region = none → s.sys.sigmaOf b.val = none → (s.sys.bight b.val).ending = false →
     ((s.sys.bight b.val).drains = [] → (∀ h ∈ s.sys.waiting, h.bight ≠ some b.val) → ∃ t, exec (.drainPipelineSlot b) s = .next t ∧ OnlyBight s t b ∧ t.sys.bights = s.sys.bights)
     ∧ ∀ d rest, (s.sys.bight b.val).drains = d :: rest →
       let x := s.arch b
       (∃ (t : State) (a : BightArch), exec (.drainPipelineSlot b) s = .next t ∧ (t.sys.bight b.val).drains = rest ∧ t.pending = s.pending ∧ t.fuses = s.fuses
         ∧ t.arch b = a.andSet d.setH.isSome (d.setH.getD 0#5) d.seq .matrix ∧ a.slots = x.slots.set d.slot Slot.empty
         ∧ { a with slots := x.slots, locker := x.locker, lay := x.lay } = x
         ∧ (d.spill = true → d.addr + 65536 ≤ 2 ^ 24 → a.lay = x.lay
             ∧ (∀ r c k, r < 128 → c < 128 → k < 4 → a.locker.byte (d.addr + 4 * tileIndex r c + k) = BitVec.ofNat 8 ((x.slots[d.slot].cell r c).val.toNat / 256 ^ k))
             ∧ ∀ p, (p < d.addr ∨ d.addr + 65536 ≤ p) → a.locker.byte p = x.locker.byte p)
         ∧ (d.spill = true → 2 ^ 24 < d.addr + 65536 → a.locker = x.locker ∧ a.lay = x.lay ||| 0x0010#16)))
  ∧ (∀ (b : Fin 80) (s : State) (d : DrainItem) (rest : List DrainItem), (s.sys.bight b.val).region = none → s.sys.sigmaOf b.val = none → (s.sys.bight b.val).ending = false →
     (s.sys.bight b.val).drains = d :: rest → d.spill = false → d.descMark = .clean → d.desc.length = 128 → d.addr + 128 ≤ 2 ^ 24 →
     (s.arch b).slots[d.slot].int = false →
     fieldN d.desc 0 1 < 0x0A → fieldN d.desc 1 1 = 0 → fieldN d.desc 2 1 < 8 → fieldN d.desc 3 1 < 3 → fieldN d.desc 4 1 < 8 → fieldN d.desc 6 1 < 8 →
     (fieldN d.desc 5 1 = 0x20 ∨ fieldN d.desc 5 1 = 0x21 ∨ fieldN d.desc 5 1 = 0x23) →
     let x := s.arch b
     let fm := (Fmt.ofCode (fieldN d.desc 2 1)).getD .fp32
     let out := fieldN d.desc 0x20 8 / 256 % 65536 * 256
     let bias := fieldN d.desc 0x18 8 / 256 % 65536 * 256
     let w := fun o => BitVec.ofNat 32 (fieldN d.desc o 4)
     let rows := fun o => if fieldN d.desc o 2 = 0 ∨ 128 < fieldN d.desc o 2 then 128 else fieldN d.desc o 2
     let bword := fun n => BitVec.ofNat 32 ((List.range 4).foldr (fun k v => (x.locker.byte (bias + 4 * n + k)).toNat + 256 * v) 0)
     let scaled := fun r c => fpMul (x.slots[d.slot].cell r c).val (w 8)
     let biased := fun r c => if fieldN d.desc 5 1 = 0x20 then scaled r c else fpAdd (scaled r c) (bword (if fieldN d.desc 5 1 = 0x23 then r else c))
     let y := fun r c => if r < rows 0x14 ∧ c < rows 0x16 then fpVal (actF (fieldN d.desc 0 1) (w 0x10) (biased r c)) else fpVal 0#32
     out + fmtRecord fm ≤ 2 ^ 24 → bias + 512 ≤ 2 ^ 24 → (∀ e ∈ x.locker.marks, e.2 = .clean) → (∀ e ∈ x.slots[d.slot].cells, e.2.mark = .clean) →
       ∃ t, exec (.drainPipelineSlot b) s = .next t ∧ OnlyBight s t b
         ∧ (∀ k < fmtRecord fm, (t.arch b).locker.byte (out + k) = tileByte (convertTile fm (if fm = .int8 then fieldN d.desc 3 1 else 0) (fun r c => (y r c, .clean))) k)
         ∧ ∀ p, (p < out ∨ out + fmtRecord fm ≤ p) → (t.arch b).locker.byte p = x.locker.byte p)

/-! The Fairlead mover -/

/-- R113, R115, R461: a MOV.LOAD in order copies LINES lines of partition memory into the locker, later lines over earlier ones, and leaves every
other locker byte and everything outside the Bight; a descriptor with a length out of range moves nothing and sets BAD_ENCODING. R113: a MOV.COPY in order copies LINES lines of the locker to other locker addresses, reading all before it writes (log 45). -/
def Obligations.MoverLoadCopy : Prop :=
  (∀ (f : MoverF) (s : State) (p : Nat), QueueReady s f.b → HitchReady s f.b f.waitEn f.waitH → s.sys.runPart f.b.val = some p →
     let x := s.atIssue f.b f.waitEn f.waitH
     let d := x.locker.read (((s.arch f.b).s f.descReg).toNat / 256 % 65536 * 256) 64
     (∀ e ∈ x.locker.marks, e.2 = .clean) →
     (mdLengths d = false → Queued (.movLoad f) s f.b f.waitEn f.waitH f.setEn f.setH .mover False (fun x a => a = { x with fairlead := x.fairlead ||| 0x0010#16 }))
     ∧ (s.sys.moveCheck f.b.val d true false false false = none → addrSpace (mdAddr d) ≠ 3 → s.sys.rangesWait f.b.val (mdMemRanges d) = false →
       (∀ l < mdLines d, (s.sys.readPart p (mdLine d l) (mdBytes d)).bad = [] ∧ s.sys.readsQuietly p (mdLine d l) (mdBytes d)) →
       Queued (.movLoad f) s f.b f.waitEn f.waitH f.setEn f.setH .mover False (fun x a =>
         { a with locker := x.locker } = x
         ∧ (∀ l k, l < mdLines d → k < mdBytes d →
             (∀ m, l < m → m < mdLines d → ¬ (mdLocker d + m * mdLockerStride d ≤ mdLocker d + l * mdLockerStride d + k
               ∧ mdLocker d + l * mdLockerStride d + k < mdLocker d + m * mdLockerStride d + mdBytes d)) →
             some (a.locker.byte (mdLocker d + l * mdLockerStride d + k)) = (s.sys.readPart p (mdLine d l) (mdBytes d)).data[k]?)
         ∧ ∀ q, (∀ l < mdLines d, q < mdLocker d + l * mdLockerStride d ∨ mdLocker d + l * mdLockerStride d + mdBytes d ≤ q) → a.locker.byte q = x.locker.byte q)))
  ∧ (∀ (f : MoverF) (s : State) (p : Nat), QueueReady s f.b → HitchReady s f.b f.waitEn f.waitH → s.sys.runPart f.b.val = some p →
     let x := s.atIssue f.b f.waitEn f.waitH
     let d := x.locker.read (((s.arch f.b).s f.descReg).toNat / 256 % 65536 * 256) 64
     (∀ e ∈ x.locker.marks, e.2 = .clean) → s.sys.moveCheck f.b.val d false false true false = none →
       Queued (.movCopy f) s f.b f.waitEn f.waitH f.setEn f.setH .mover False (fun x a =>
         { a with locker := x.locker } = x
         ∧ (∀ l k, l < mdLines d → k < mdBytes d →
             (∀ m, l < m → m < mdLines d → ¬ (mdLocker2 d + m * mdLockerStride d ≤ mdLocker2 d + l * mdLockerStride d + k
               ∧ mdLocker2 d + l * mdLockerStride d + k < mdLocker2 d + m * mdLockerStride d + mdBytes d)) →
             a.locker.byte (mdLocker2 d + l * mdLockerStride d + k) = x.locker.byte (mdLocker d + l * mdLockerStride d + k))
         ∧ ∀ q, (∀ l < mdLines d, q < mdLocker2 d + l * mdLockerStride d ∨ mdLocker2 d + l * mdLockerStride d + mdBytes d ≤ q) → a.locker.byte q = x.locker.byte q))

/-- R113, R207: a MOV.STORE in order writes LINES lines of the locker to memory that serves requests and passes its checks. Each line lies within one hank's tier-1
region or Splice window; every other byte that a reader meets of every memory, the fuses, contexts, partitions and the rest stay.
Conventions of the model that it rests on: logs 33, 42. -/
def Obligations.MoverStore : Prop :=
  ∀ (f : MoverF) (s : State) (p : Nat) (key : Nat → Nat), QueueReady s f.b → HitchReady s f.b f.waitEn f.waitH → s.sys.runPart f.b.val = some p →
    let x := s.atIssue f.b f.waitEn f.waitH
    let d := x.locker.read (((s.arch f.b).s f.descReg).toNat / 256 % 65536 * 256) 64
    (∀ e ∈ x.locker.marks, e.2 = .clean) → s.sys.moveCheck f.b.val d false true false false = none → addrSpace (mdAddr d) ≠ 3 →
    s.sys.rangesWait f.b.val (mdMemRanges d) = false → s.sys.memSound →
    (∀ l < mdLines d, (s.sys.part p).place (mdLine d l) = some (key l) ∧ keyKind (key l) ≠ 1 ∧ mdBytes d ≤ chunkRoom (s.sys.part p) (mdLine d l)) →
    ∃ t, exec (.movStore f) s = .next t ∧ t.arch f.b = x.andSet f.setEn f.setH (s.sys.bight f.b.val).nextSeq .mover
      ∧ t.pending = s.pending ∧ t.fuses = s.fuses ∧ (∀ c : Fin 80, c ≠ f.b → t.sys.bight c.val = s.sys.bight c.val)
      ∧ { t.sys with bights := s.sys.bights, mem := s.sys.mem, replay := s.sys.replay } = s.sys
      ∧ (∀ l k, l < mdLines d → k < mdBytes d →
          (∀ m, l < m → m < mdLines d → ¬ (key m ≤ key l + k ∧ key l + k < key m + mdBytes d)) →
          t.sys.mem.data.byte (key l + k) = x.locker.byte (mdLocker d + l * mdLockerStride d + k))
      ∧ ∀ q, keyKind q ≠ 3 → (∀ l < mdLines d, q < key l ∨ key l + mdBytes d ≤ q) → t.sys.mem.data.byte q = s.sys.mem.data.byte q

/-- R92, R114, R302: a MOV.SEND in order to another Bight that runs a RUN of the same context, of no open step region: its locker takes the lines, then
its hitch is set; the sender's own state is as at issue. R272, R273: a SEND on an OPEN send context posts the locker bytes as the next message and stays in flight until it is acknowledged; a RELEASE on an
OPEN receive context returns the credit of the oldest messages and records the oldest unreleased number; a COLL_WAIT of a completed collective records its outcome. -/
def Obligations.MoverSendFlows : Prop :=
  (∀ (f : MoverF) (s : State) (r : RunRef) (q : Fin 80), QueueReady s f.b → HitchReady s f.b f.waitEn f.waitH → (s.sys.bight f.b.val).run = some r →
     let x := s.atIssue f.b f.waitEn f.waitH
     let d := x.locker.read (((s.arch f.b).s f.descReg).toNat / 256 % 65536 * 256) 64
     (∀ e ∈ x.locker.marks, e.2 = .clean) → s.sys.moveCheck f.b.val d false false true true = none → mdDest d = q.val → q ≠ f.b →
     (s.sys.ctx r.ctx).opened = true → s.sys.liveOn r.ctx q.val = true → (s.sys.part (s.sys.ctx r.ctx).part).sigma = none →
     ∃ t, exec (.movSend f) s = .next t ∧ t.arch f.b = x.andSet f.setEn f.setH (s.sys.bight f.b.val).nextSeq .mover
       ∧ (∀ l k, l < mdLines d → k < mdBytes d →
           (∀ m, l < m → m < mdLines d → ¬ (mdLocker2 d + m * mdLockerStride d ≤ mdLocker2 d + l * mdLockerStride d + k
             ∧ mdLocker2 d + l * mdLockerStride d + k < mdLocker2 d + m * mdLockerStride d + mdBytes d)) →
           (t.arch q).locker.byte (mdLocker2 d + l * mdLockerStride d + k) = x.locker.byte (mdLocker d + l * mdLockerStride d + k))
       ∧ (∀ p, (∀ l < mdLines d, p < mdLocker2 d + l * mdLockerStride d ∨ mdLocker2 d + l * mdLockerStride d + mdBytes d ≤ p) → (t.arch q).locker.byte p = (s.arch q).locker.byte p)
       ∧ (t.arch q).hitches.getLsbD (fieldN d 0x25 1 % 32) = true
       ∧ { t.arch q with locker := (s.arch q).locker, hitches := (s.arch q).hitches, hitchSets := (s.arch q).hitchSets } = s.arch q
       ∧ t.sys.mem = s.sys.mem ∧ t.sys.parts = s.sys.parts ∧ t.sys.ctxs = s.sys.ctxs ∧ t.fuses = s.fuses)
  ∧ (∀ (f : MoverF) (s : State) (p : Nat), QueueReady s f.b → HitchReady s f.b f.waitEn f.waitH → s.sys.runPart f.b.val = some p →
     (s.arch f.b).fifo.length < 32 → (∀ e ∈ (s.arch f.b).fifo, e.id < (s.arch f.b).fifoNext) →
     let x := s.atIssue f.b f.waitEn f.waitH
     let d := x.locker.read (((s.arch f.b).s f.descReg).toNat / 256 % 65536 * 256) 64
     let fl := s.sys.flow (fieldN d 0 4)
     let records := fieldN d 5 1 % 2 = 1
     let pushed := fun (v : Word64) (g : Byte) => ({ x with fifo := x.fifo ++ [⟨x.fifoNext, true, v, g, false⟩], fifoNext := x.fifoNext + 1 } : BightArch)
     (∀ e ∈ x.locker.marks, e.2 = .clean) → d.length = 64 →
     (fieldN d 4 1 = 0 → s.sys.flowCheck f.b.val d = none → 0 < s.sys.portPayload fl.port →
       ∃ t, exec (.send f) s = .next t ∧ (∃ h ∈ t.sys.waiting, h.cmd = .send f ∧ h.inFlight = true)
         ∧ (t.sys.flow (fieldN d 0 4)).msg = (fl.msg + 1) % 2 ^ 32
         ∧ ((t.sys.flow (fieldN d 0 4)).unacked ++ (t.sys.flow (fieldN d 0 4)).queue).flatMap (fun fr => fr.payload)
             = (fl.unacked ++ fl.queue).flatMap (fun fr => fr.payload) ++ x.locker.read (fdLocker d) (fdBytes d)
         ∧ t.sys.mem = s.sys.mem ∧ t.fuses = s.fuses)
     ∧ (fieldN d 4 1 = 1 → s.sys.flowCheck f.b.val d = none →
       ∃ t, exec (.release f) s = .next t ∧ (t.sys.flow (fieldN d 0 4)).credit = min fl.msg (fl.credit + fieldN d 0x10 4)
         ∧ t.arch f.b = (if records then pushed (BitVec.ofNat 64 (min fl.msg (fl.credit + fieldN d 0x10 4))) 0#8 else x).andSet f.setEn f.setH (s.sys.bight f.b.val).nextSeq .mover)
     ∧ (fieldN d 4 1 = 2 → s.sys.collOf p (fieldN d 0x14 4) = none → ∀ o, (s.sys.part p).outcomes.find? (fun o => o.coll == fieldN d 0x14 4) = some o →
       ∃ t, exec (.collWait f) s = .next t ∧ OnlyBight s t f.b
         ∧ t.arch f.b = (pushed (BitVec.ofNat 64 o.element) (BitVec.ofNat 8 o.flags)).andSet f.setEn f.setH (s.sys.bight f.b.val).nextSeq .mover))

/-- R34, R54, R114: a MOV.IMPORT in order, from memory without poison, writes one tile record of the target format for each 128 x 128 tile of the
tensor, in the order of R54, and no other byte. -/
def Obligations.MoverImport : Prop :=
  ∀ (f : MoverF) (s : State) (p : Nat) (sf df : Fmt), QueueReady s f.b → HitchReady s f.b f.waitEn f.waitH → s.sys.runPart f.b.val = some p →
    let x := s.atIssue f.b f.waitEn f.waitH
    let d := x.locker.read (((s.arch f.b).s f.descReg).toNat / 256 % 65536 * 256) 64
    let tc := (mdCols d + 127) / 128
    let n := (mdRows d + 127) / 128 * tc
    let src := s.sys.importSrc f.b.val (s.sys.bight f.b.val).nextSeq p d sf
    (∀ e ∈ x.locker.marks, e.2 = .clean) → s.sys.importCheck f.b.val d = none → mdSrcFmt d = some sf → mdDstFmt d = some df →
    s.sys.rangesWait f.b.val (importReads d) = false → (∀ r ∈ importReads d, s.sys.readsQuietly p r.1 r.2) → src.scales.blob.bad = [] → (∀ x ∈ src.rows, x.blob.bad = []) →
      Queued (.movImport f) s f.b f.waitEn f.waitH f.setEn f.setH .mover False (fun x a =>
        { a with locker := x.locker, fairlead := x.fairlead } = x
        ∧ (∀ m k, m < n → k < fmtRecord df → a.locker.byte (mdLocker d + m * fmtRecord df + k)
            = tileByte (src.tile d sf df (src.bands d sf df (fieldN d 0x29 1)) (m / tc) (m % tc)) k)
        ∧ ∀ q, (q < mdLocker d ∨ mdLocker d + n * fmtRecord df ≤ q) → a.locker.byte q = x.locker.byte q)

/-- R211 to R214: one record of an atomic batch that returns responses, in order and in the Splice window of a hank: the location takes the result, the record
takes STATUS (1 for NONE, 5 for a CAS that did not match, else 0) and OLD, and every other byte of memory stays. -/
def Obligations.Atomics : Prop :=
  ∀ (f : AtomicF) (s : State) (p k : Nat), s.sys.runs f.b.val = true → (s.sys.bight f.b.val).region = none → s.sys.sigmaOf f.b.val = none → s.sys.runPart f.b.val = some p → f.respond = true →
    (f.size = 4 ∨ f.size = 8) → f.target.toNat % f.size = 0 → addrSpace f.target.toNat = 2 → (s.sys.part p).place f.target.toNat = some k →
    f.size ≤ chunkRoom (s.sys.part p) f.target.toNat → (s.sys.part p).touchesReadOnly f.target.toNat f.size = false →
    s.sys.rangesWait f.b.val [(f.target.toNat, f.size)] = false → f.place.toNat % 32 = 0 → (∀ e ∈ (s.arch f.b).locker.marks, e.2 = .clean) → (∀ e ∈ s.sys.mem.data.marks, e.2 = .clean) →
    let n := f.size
    let w := 8 * n
    let old := (List.range n).foldr (fun i v => (s.sys.mem.data.byte (k + i)).toNat + 256 * v) 0
    let x := f.operand.toNat % 2 ^ w
    let c := f.compare.toNat % 2 ^ w
    let sg := fun (v : Nat) => if v < 2 ^ (w - 1) then (v : Int) else (v : Int) - 2 ^ w
    let done := fun (i : Instr) (new st : Nat) => ∃ t, exec i s = .next t
      ∧ (∀ j < n, t.sys.mem.data.byte (k + j) = BitVec.ofNat 8 (new / 256 ^ j)) ∧ (∀ q, (q < k ∨ k + n ≤ q) → t.sys.mem.data.byte q = s.sys.mem.data.byte q)
      ∧ (t.arch f.b).locker.byte (f.place.toNat + 2) = BitVec.ofNat 8 st
      ∧ (∀ j < 8, (t.arch f.b).locker.byte (f.place.toNat + 0x18 + j) = BitVec.ofNat 8 (old / 256 ^ j))
      ∧ (∀ q, q ≠ f.place.toNat + 2 → (q < f.place.toNat + 0x18 ∨ f.place.toNat + 0x20 ≤ q) → (t.arch f.b).locker.byte q = (s.arch f.b).locker.byte q)
      ∧ { t.arch f.b with locker := (s.arch f.b).locker } = s.arch f.b ∧ t.fuses = s.fuses ∧ t.sys.parts = s.sys.parts ∧ t.sys.ctxs = s.sys.ctxs
    done (.atomicNone f) old 1 ∧ done (.atomicAdd f) ((old + x) % 2 ^ w) 0
    ∧ done (.atomicSmin f) (if sg x < sg old then x else old) 0 ∧ done (.atomicSmax f) (if sg old < sg x then x else old) 0
    ∧ done (.atomicUmin f) (min old x) 0 ∧ done (.atomicUmax f) (max old x) 0
    ∧ done (.atomicAnd f) (old &&& x) 0 ∧ done (.atomicOr f) (old ||| x) 0 ∧ done (.atomicXor f) (old ^^^ x) 0
    ∧ done (.swap f) x 0 ∧ done (.cas f) (if old = c then x else old) (if old = c then 0 else 5)


/-! The update engines of the Cleat dies -/

/-- R145, R147 to R149: an arithmetic update instruction in order computes every lane of r[D] from its operands and their poison, SEL from the one it chooses, and changes nothing
else; one that R143 refuses, and one after END, leaves the share as it is.
Conventions of the model that it rests on: log 114. -/
def Obligations.UpdateArithmetic : Prop :=
  ∀ (f : UpdF) (s : State),
    let x := s.sys.cleat f.die.val f.part.val
    let val := fun (c : BitVec 6) (l : Nat) =>
      if c.toNat < 0x20 then x.regs.get Lane.zero (256 * c.toNat + l) else if c.toNat < 0x30 then Lane.ok (x.ks.getD (c.toNat - 0x20) 0#32)
      else if c.toNat < 0x38 then Lane.ok (BitVec.ofNat 32 (fieldN x.desc (0x80 + 4 * (c.toNat - 0x30)) 4)) else if c.toNat = 0x38 then Lane.ok 0#32 else Lane.ok 0x3F800000#32
    let ok := fun (n : Nat) => f.d.toNat < 0x20 ∧ f.a.toNat < 0x3A ∧ (2 ≤ n → f.b.toNat < 0x3A) ∧ (3 ≤ n → f.c.toNat < 0x3A) ∧ x.ended = false
    let does := fun (i : Instr) (n : Nat) (res : Nat → Lane) =>
      (ok n → ∃ y : Cleat, exec i s = .next { s with sys := s.sys.setCleat f.die.val f.part.val y } ∧ { y with regs := x.regs } = x
        ∧ (∀ l < 256, y.regs.get Lane.zero (256 * f.d.toNat + l) = res l)
        ∧ ∀ r l, r ≠ f.d.toNat → l < 256 → y.regs.get Lane.zero (256 * r + l) = x.regs.get Lane.zero (256 * r + l))
      ∧ (¬ ok n → exec i s = .next { s with sys := s.sys.setCleat f.die.val f.part.val x })
    let one := fun (i : Instr) (op : Word32 → Word32) => does i 1 (fun l => ⟨op (val f.a l).val, (val f.a l).mark⟩)
    let two := fun (i : Instr) (op : Word32 → Word32 → Word32) => does i 2 (fun l => ⟨op (val f.a l).val (val f.b l).val, (val f.a l).mark.worse (val f.b l).mark⟩)
    let three := fun (i : Instr) (op : Word32 → Word32 → Word32 → Word32) => does i 3 (fun l => ⟨op (val f.a l).val (val f.b l).val (val f.c l).val,
      ((val f.a l).mark.worse (val f.b l).mark).worse (val f.c l).mark⟩)
    two (.updAdd f) fpAdd ∧ two (.updSub f) fpSub ∧ two (.updMul f) fpMul ∧ three (.fma f) fpFma ∧ two (.updDiv f) fpDiv ∧ one (.sqrt f) fpSqrt
    ∧ one (.rsqrt f) fpRsqrt ∧ two (.updMin f) fpMin ∧ two (.updMax f) fpMax ∧ one (.abs f) fpAbs
    ∧ one (.sign f) (fun a => if fpIsNaN a then 0x7FC00000#32 else if fpIsZero a then a else if fpNeg? a then 0xBF800000#32 else 0x3F800000#32)
    ∧ three (.clamp f) (fun a b c => fpMin (fpMax a b) c)
    ∧ does (.sel f) 3 (fun l => let chosen := if fpPos (val f.a l).val then val f.b l else val f.c l
        ⟨if fpIsNaN chosen.val then 0x7FC00000#32 else chosen.val, (val f.a l).mark.worse chosen.mark⟩)
    ∧ one (.sqr f) (fun a => fpMul a a)

/-- R145, R150, R151, R153, R155, R159: the other update instructions before END: NOP; LDS and NORM write r[D]; STS and CONVERT take lanes for the block; INVROOT of
unpoisoned elements; END of a one-sided block counts its elements, and stores the one stream that the program has stored, with padding +0.0, where the memory's checks pass.
Conventions of the model that it rests on: log 114. -/
def Obligations.UpdateBlock : Prop :=
  ∀ (f : UpdF) (s : State),
    let x := s.sys.cleat f.die.val f.part.val
    let here := fun (l : Nat) => udPresent x.desc x.tile x.panel l = true
    let becomes := fun (i : Instr) (y : Cleat) => exec i s = .next { s with sys := s.sys.setCleat f.die.val f.part.val y }
    let writes := fun (i : Instr) (res : Nat → Lane) => ∃ y : Cleat, becomes i y ∧ { y with regs := x.regs } = x
      ∧ (∀ l < 256, y.regs.get Lane.zero (256 * f.d.toNat + l) = res l)
      ∧ ∀ r l, r ≠ f.d.toNat → l < 256 → y.regs.get Lane.zero (256 * r + l) = x.regs.get Lane.zero (256 * r + l)
    x.ended = false →
    becomes (.updNop f) x
    ∧ (f.d.toNat < 0x20 → writes (.lds f) (fun l => x.streams.get Lane.zero (256 * f.a.toNat + l)) ∧ writes (.norm f) (fun _ => x.norm))
    ∧ (f.a.toNat < 0x3A → (∃ y : Cleat, becomes (.sts f) y ∧ { y with stores := x.stores, stored := x.stored } = x
        ∧ (∀ i, i ∈ y.stored ↔ i = f.d.toNat ∨ i ∈ x.stored)
        ∧ (∀ l < 256, y.stores.get Lane.zero (256 * f.d.toNat + l) = x.operand f.a.toNat l)
        ∧ ∀ r l, r ≠ f.d.toNat → l < 256 → y.stores.get Lane.zero (256 * r + l) = x.stores.get Lane.zero (256 * r + l)))
    ∧ (f.a.toNat < 0x3A → ∃ y : Cleat, becomes (.convert f) y ∧ { y with conv := x.conv, outs := x.outs } = x ∧ y.conv = true
        ∧ ∀ l < 256, y.outs.get Lane.zero l = x.operand f.a.toNat l)
    ∧ (f.d.toNat < 0x20 → f.a.toNat < 0x3A → udInvN x.desc ≤ 16 →
        (∀ r c, r < udInvN x.desc → c < udInvN x.desc → (x.operand f.a.toNat (16 * r + c)).mark = .clean) →
        let R := Machine.invroot (udInvN x.desc) (udInvP x.desc) (udEps x.desc) (udDelta x.desc)
          (Mat.of (udInvN x.desc) (fun r c => (x.operand f.a.toNat (16 * max r c + min r c)).val))
        ∃ y : Cleat, becomes (.invroot f) y ∧ { y with regs := x.regs, fallback := x.fallback } = x ∧ y.fallback = x.fallback + (if R.2 then 1 else 0)
          ∧ (∀ l < 256, y.regs.get Lane.zero (256 * f.d.toNat + l) = ⟨R.1.at_ (l / 16) (l % 16), .clean⟩)
          ∧ ∀ r l, r ≠ f.d.toNat → l < 256 → y.regs.get Lane.zero (256 * r + l) = x.regs.get Lane.zero (256 * r + l))
    ∧ (x.conv = false → udTwoSided x.desc = false →
        (x.stored = [] → ∃ y : Cleat, y.ended = true ∧ y.elements = x.elements + (List.range 256).countP (fun l => udPresent x.desc x.tile x.panel l)
          ∧ { y with ended := x.ended, elements := x.elements } = x
          ∧ ∃ t, exec (.updEnd f) s = .next t ∧ t.sys.cleat f.die.val f.part.val = y ∧ t.fuses = s.fuses ∧ t.pending = s.pending ∧ { t.sys with cleats := s.sys.cleats } = s.sys)
        ∧ ∀ i, x.stored = [i] → s.sys.memSound → (∀ l < 256, here l → (x.stores.get Lane.zero (256 * i + l)).mark = .clean) →
          ∃ (t : State) (y : Cleat), exec (.updEnd f) s = .next t ∧ t.fuses = s.fuses ∧ t.pending = s.pending
            ∧ t.sys = ((s.sys.setCleat f.die.val f.part.val { x with ended := true }).writePart f.part.val (udBlock x.desc x.wbase i x.tile x.panel)
                (lanesBlob (fun l => if udPresent x.desc x.tile x.panel l then x.stores.get Lane.zero (256 * i + l) else Lane.zero))).setCleat f.die.val f.part.val y
            ∧ y.elements = x.elements + (List.range 256).countP (fun l => udPresent x.desc x.tile x.panel l) ∧ y.poisoned = x.poisoned ∧ y.wrote = x.wrote)

/-! Host commands -/

/-- R313, R324, R355: CTX_OPEN under a session opens the context that its checks give, with the key of that opening; CTX_CLOSE of a context without
commands and records closes it and zeroises its key; CTX_QUERY sends a usage record; without a session, of the base context, of a context of another partition they are refused.
Conventions of the model that it rests on: logs 63, 64, 112. -/
def Obligations.ContextCommands : Prop :=
  ∀ (key : CmdKey) (s : State) (k : Cmd),
    let c := key.ctx.val
    let y := s.sys.begun key k
    let p := (s.sys.ctx c).part
    let t := k.field 8 2
    (CmdReady (.ctxOpen key) s key k 0x01 →
      ((y.ctx c).owner = none → Completes (.ctxOpen key) s key k stNO_SESSION [] (fun z => z = y))
      ∧ ∀ o e n area, (y.ctx c).owner = some o → (y.part p).session o = some e → y.ctxCheck p (ctxFields k.payload 8) = .ok (n, area) →
        Completes (.ctxOpen key) s key k stOK (leBytes 2 n) (fun z =>
          z.ctx n = { Context.closed with opened := true, part := p, owner := some o, hankMask := BitVec.ofNat 80 (k.field 8 10), msix := k.field 0x12 2
                                          compEntries := k.field 0x14 4, compBase := k.field 0x18 8, area := area, lastUse := y.useNext
                                          key := some (Config.kmac (keyBytes e.kSess) (leBytes 2 n ++ leBytes 8 e.openings) "CZ3220 CONTEXT") }
          ∧ (∀ d, d ≠ n → z.ctx d = y.ctx d) ∧ (∀ b : Fin 80, z.savedBight n b.val = Bight.idle)
          ∧ { z with ctxs := y.ctxs, parts := y.parts, saved := y.saved, useNext := y.useNext } = y
          ∧ ∀ q, { z.part q with sessions := (y.part q).sessions } = y.part q))
    ∧ (CmdReady (.ctxClose key) s key k 0x02 →
      ((y.ctx t).closing = false → (y.ctx t).opened = true → (y.ctx t).part = p → t = (y.part p).base → Completes (.ctxClose key) s key k stDENIED [] (fun z => z = y))
      ∧ ((y.ctx t).closing = false → ((y.ctx t).opened = false ∨ (y.ctx t).part ≠ p) → Completes (.ctxClose key) s key k stBAD_CONTEXT [] (fun z => z = y))
      ∧ ((y.ctx t).closing = false → (y.ctx t).opened = true → (y.ctx t).part = p → t ≠ (y.part p).base → t ≠ c → (y.ctx t).cmds = [] → (y.ctx t).outbox = [] →
          (y.part p).sigma = none → Completes (.ctxClose key) s key k stOK [] (fun z => z.ctx t = { Context.closed with part := p, msix := (y.ctx t).msix }
            ∧ (∀ d, d ≠ t → { z.ctx d with outbox := (y.ctx d).outbox } = y.ctx d)
            ∧ ∀ b : Fin 80, z.savedBight t b.val = Bight.idle)))
    ∧ (CmdReady (.ctxQuery key) s key k 0x03 →
      ((y.ctx t).opened = false ∨ (y.ctx t).part ≠ p → Completes (.ctxQuery key) s key k stBAD_CONTEXT [] (fun z => z = y))
      ∧ ((y.ctx t).opened = true → (y.ctx t).part = p → k.field 0x10 8 % 4096 = 0 →
          Completes (.ctxQuery key) s key k stOK (leBytes 8 (y.ctx c).seq2) (fun z => (z.ctx c).seq2 = (y.ctx c).seq2 + 1 ∧ z.parts = y.parts ∧ z.mem = y.mem
            ∧ ∃ rec_ : Bytes, rec_.take 4 = leBytes 2 t ++ leBytes 2 p
              ∧ z.hostOut = y.hostOut ++ [⟨k.field 0x10 8, sealRecord (y.ctxKey c) c (y.ctx c).seq2 rec_⟩])))

/-- R242, R305, R307, R325, R351: OBJ_ALLOC, OBJ_FREE, OBJECT_RELEASE, OBJ_SHARE and OBJ_QUERY of a memory object.
Conventions of the model that it rests on: logs 64, 112, 118. -/
def Obligations.ObjectCommands : Prop :=
  ∀ (key : CmdKey) (s : State) (k : Cmd),
    let c := key.ctx.val
    let y := s.sys.begun key k
    let p := (s.sys.ctx c).part
    let P := y.part p
    let h := k.field 8 8
    let j := k.field 0x0A 2
    let n := k.field 0x0C 4
    let q := k.field 0x12 2
    (CmdReady (.objAlloc key) s key k 0x10 →
      (2 < k.field 8 1 ∨ n = 0 → Completes (.objAlloc key) s key k stBAD_VALUE [] (fun z => z = y))
      ∧ (k.field 8 1 ≤ 2 → n ≠ 0 → j ≠ 0xFFFF → P.hanks.length ≤ j → Completes (.objAlloc key) s key k stBAD_HANK [] (fun z => z = y))
      ∧ ∀ first i, k.field 8 1 ≤ 2 → n ≠ 0 → (j = 0xFFFF ∨ j < P.hanks.length) → P.atQuota = false → P.nextObj = some i →
          lowestRun (y.usedRuns p (k.field 8 1)) (if j = 0xFFFF then 0 else j * hankGranules (k.field 8 1))
            (if j = 0xFFFF then P.hanks.length * hankGranules (k.field 8 1) else (j + 1) * hankGranules (k.field 8 1)) n = some first →
          let o : Obj := { gen := P.objGens.get 0 i, source := none, space := k.field 8 1, first := first, granules := n, owner := c, live := true
                           grants := [], readOnly := false, shared := false, mirror := none, listed := false }
          Completes (.objAlloc key) s key k stOK (leBytes 8 (mkHandle 0 (P.objGens.get 0 i) i) ++ leBytes 8 o.addr)
            (fun z => z = y.setPart p { P with objs := P.objs.put i o, objNext := max P.objNext (i + 1) }))
    ∧ (CmdReady (.objFree key) s key k 0x11 →
      (∀ o, P.objOf [] h = some o → Completes (.objFree key) s key k stOK []
        (fun z => z = y.setPart p { P with objs := P.objs.put (handleIndex h) { o with live := false } }))
      ∧ (P.objOf [] h = none → P.fenceOf [] h = none → Completes (.objFree key) s key k stBAD_HANDLE [] (fun z => z = y)))
    ∧ (∀ (part : Fin 80) (i : Nat) (o : Obj), (s.sys.part part.val).fences = [] → (s.sys.part part.val).objs.get? i = some o → o.source = none → s.sys.objRefs part.val i o = 0 →
        ∃ t, exec (.objectRelease part i) s = .next t ∧ (t.sys.part part.val).objs.get? i = none
          ∧ (t.sys.part part.val).objGens.get 0 i = o.gen + 1 ∧ (∀ d, { t.sys.ctx d with outbox := (s.sys.ctx d).outbox } = s.sys.ctx d)
          ∧ t.sys.bights = s.sys.bights ∧ t.fuses = s.fuses
          ∧ ∀ m, m ≠ i → (t.sys.part part.val).objs.get? m = (s.sys.part part.val).objs.get? m)
    ∧ (∀ o, q ≤ 79 → P.objOf k.refs h = some o → o.source = none →
      (CmdReady (.grant key) s key k 0x12 → k.field 0x10 1 = 0 → k.field 0x11 1 = 0 → fieldN P.policy 8 1 < 2 → Completes (.grant key) s key k stOK []
        (fun z => z = y.setPart p { P with objs := P.objs.put (handleIndex h) { o with grants := if q ∈ o.grants then o.grants else o.grants ++ [q], readOnly := true, shared := true } }))
      ∧ (CmdReady (.grant key) s key k 0x12 → k.field 0x10 1 = 0 → 2 ≤ fieldN P.policy 8 1 → Completes (.grant key) s key k stDENIED [] (fun z => z = y))
      ∧ (CmdReady (.revoke key) s key k 0x12 → k.field 0x10 1 = 2 → Completes (.revoke key) s key k stOK []
        (fun z => z = y.setPart p { P with objs := P.objs.put (handleIndex h) { o with grants := o.grants.filter (fun g => g != q) } }))
      ∧ (CmdReady (.objQuery key) s key k 0x13 → Completes (.objQuery key) s key k stOK
          (leBytes 8 o.addr ++ leBytes 4 o.granules ++ leBytes 4 (y.objRefs p (handleIndex h) o) ++ leBytes 1 o.space
            ++ leBytes 1 (if o.live = false then 1 else if o.readOnly = true ∧ o.shared = true then 3 else 0) ++ [0, 0]) (fun z => z = y)))
    ∧ ∀ o, q ≤ 79 → CmdReady (.accept key) s key k 0x12 → k.field 0x10 1 = 1 → (y.part q).objOf [] h = some o → o.source = none →
      (p ∉ o.grants → Completes (.accept key) s key k stDENIED [] (fun z => z = y))
      ∧ ∀ i, p ∈ o.grants → P.nextObj = some i → Completes (.accept key) s key k stOK (leBytes 8 (mkHandle 0 (P.objGens.get 0 i) i))
          (fun z => z = y.setPart p { P with objNext := max P.objNext (i + 1)
                                             objs := P.objs.put i { o with gen := P.objGens.get 0 i, source := some (q, handleIndex h), owner := c, live := true
                                                                           grants := [], mirror := none, listed := false } })

/-- R251, R289, R290, R316, R326, R327: XFER_IN, XFER_OUT and XFER_DEVICE within the module, outside a step region, of objects in order, with records that pass and memory without poison;
a range past an object, HOST_ADDR off a page, a run below the mark and an empty transfer are refused, in that order; a record that fails its tag check stops XFER_IN. A row that
gives every record completes the command; with fewer XFER_OUT stands between two records.
Conventions of the model that it rests on: logs 66, 67, 112, 146. -/
def Obligations.Transfers : Prop :=
  ∀ (key : CmdKey) (s : State) (k : Cmd),
    let c := key.ctx.val
    let y := s.sys.begun key k
    let p := (s.sys.ctx c).part
    let P := y.part p
    let off := k.field 0x10 8
    (∀ (rs : List Bytes) (o : Obj), CmdReady (.xferIn key rs) s key k 0x20 → k.field 0x2C 1 = 0 → P.objOf k.refs (k.field 8 8) = some o → o.source = none →
      let n := k.field 0x28 4
      let first := k.field 0x20 8
      (o.bytes < off + 4064 * n → Completes (.xferIn key rs) s key k stBAD_RANGE [] (fun z => z = y))
      ∧ (P.dstOk o off (4064 * n) = true → k.field 0x18 8 % 4096 ≠ 0 → Completes (.xferIn key rs) s key k stBAD_VALUE [] (fun z => z = y))
      ∧ (P.dstOk o off (4064 * n) = true → k.field 0x18 8 % 4096 = 0 → first < (y.ctx c).seq1 →
          Completes (.xferIn key rs) s key k stSTALE_VALUE [] (fun z => z = y))
      ∧ (P.dstOk o off 0 = true → k.field 0x18 8 % 4096 = 0 → (y.ctx c).seq1 ≤ first → n = 0 → Completes (.xferIn key rs) s key k stBAD_VALUE [] (fun z => z = y))
      ∧ ∀ (ps : List Bytes) (bad : Bool), n ≠ 0 → k.field 0x18 8 % 4096 = 0 → P.dstOk o off (4064 * n) = true → (y.ctx c).seq1 ≤ first →
          openRun (y.ctxKey c) c rs first n = (ps, bad) → ps.length < rs.length ∨ ps.length = n →
          y.memSound → (∀ e ∈ placed (o.addr + off) ps, y.memWaits p e.1 e.2.length = false) →
          Completes (.xferIn key rs) s key k (if bad then stTAG_FAIL else stOK) (leBytes 4 ps.length ++ leBytes 8 ps.flatten.length) (fun z =>
            (z.ctx c).seq1 = first + n ∧ (z.ctx c).usage.hostIn = (y.ctx c).usage.hostIn + ps.flatten.length ∧ z.parts = y.parts
              ∧ z.mem = ((placed (o.addr + off) ps).foldl (fun u e => u.writePart p e.1 (Blob.ofBytes e.2))
                  ((y.setCtx c { y.ctx c with seq1 := first + n }).useIn c ps.flatten.length)).mem))
    ∧ (∀ (q count : Nat) (o : Obj), CmdReady (.xferOut ⟨key, count⟩) s key k 0x21 → y.memoryOf p k.refs (k.field 8 8) = some (q, o) →
      let n := k.field 0x18 8
      (o.bytes < off + n → Completes (.xferOut ⟨key, count⟩) s key k stBAD_RANGE [] (fun z => z = y))
      ∧ (off + n ≤ o.bytes → n = 0 ∨ k.field 0x20 8 % 4096 ≠ 0 → Completes (.xferOut ⟨key, count⟩) s key k stBAD_VALUE [] (fun z => z = y))
      ∧ (n ≠ 0 → k.field 0x20 8 % 4096 = 0 → off + n ≤ o.bytes → 2 ≤ fieldN P.policy 8 1 → (p ≠ q ∨ P.outputAllows (y.ctx c).owner (o.addr + off) n = false) →
          Completes (.xferOut ⟨key, count⟩) s key k stDENIED [] (fun z => z = y))
      ∧ (n ≠ 0 → k.field 0x20 8 % 4096 = 0 → off + n ≤ o.bytes → fieldN P.policy 8 1 < 2 → (p = q ∨ (y.part q).state ≠ .frozen) →
          let now := min count (recordsFor n)
          let len := min n (4064 * now)
          let data := (y.readZeroed p q (o.addr + off) len).2.1
          let after := if p = q then y else y.noteCopies P.importHank q (o.addr + off) len
          let sent := (List.range now).map (fun i => (⟨k.field 0x20 8 + 4096 * i, sealRecord (y.ctxKey c) c ((y.ctx c).seq2 + i) ((data.drop (4064 * i)).take 4064)⟩ : HostWrite))
          (y.readZeroed p q (o.addr + off) len).2.2 = .clean → y.readsQuietly q (o.addr + off) len → y.memWaits q (o.addr + off) len = false →
          (now = recordsFor n → Completes (.xferOut ⟨key, count⟩) s key k stOK (leBytes 8 (y.ctx c).seq2 ++ leBytes 4 (recordsFor n)) (fun z =>
            (z.ctx c).seq2 = (y.ctx c).seq2 + recordsFor n ∧ z.parts = y.parts ∧ z.mem = after.mem ∧ z.hostOut = y.hostOut ++ sent))
          ∧ (now < recordsFor n → ∃ t, exec (.xferOut ⟨key, count⟩) s = .next t ∧ t.sys.cmdOf key = some { k with progress := .outgoing (y.ctx c).seq2 now .clean }
              ∧ t.sys.mem = after.mem ∧ t.sys.hostOut = y.hostOut ++ sent)))
    ∧ ∀ (q : Nat) (o d : Obj), CmdReady (.xferDevice key) s key k 0x22 → y.memoryOf p k.refs (k.field 8 8) = some (q, o) → k.field 0x30 4 = 0xFFFFFFFF →
      P.objOf k.refs (k.field 0x18 8) = some d → d.source = none →
      let n := k.field 0x28 8
      (o.bytes < off + n → Completes (.xferDevice key) s key k stBAD_RANGE [] (fun z => z = y))
      ∧ (off ≤ o.bytes → P.dstOk d (k.field 0x20 8) 0 = true → n = 0 → Completes (.xferDevice key) s key k stBAD_VALUE [] (fun z => z = y))
      ∧ (n ≠ 0 → off + n ≤ o.bytes → P.dstOk d (k.field 0x20 8) n = true → (p = q ∨ (y.part q).state ≠ .frozen) →
          let b := (y.readObj p q (o.addr + off) n).2
          b.bad = [] → y.readsQuietly q (o.addr + off) n → y.memSound → y.memWaits q (o.addr + off) n = false → y.memWaits p (d.addr + k.field 0x20 8) n = false →
          Completes (.xferDevice key) s key k stOK [] (fun z =>
            z = (if p = q then y else y.noteCopies P.importHank q (o.addr + off) n).writePart p (d.addr + k.field 0x20 8) b))

/-- R165 to R167, R169, R173, R174, R328, R330: WSET_LOAD in order opens a load and clears its bitmap; WSET_PUBLISH of a directory in order makes the next version current
and writes its number; WSET_RETIRE of a set that no batch pins removes it once the batch of the WSET_RETIRE itself, which it closes, has retired (R169).
Conventions of the model that it rests on: logs 32, 69, 112. -/
def Obligations.WeightSets : Prop :=
  ∀ (key : CmdKey) (s : State) (k : Cmd),
    let c := key.ctx.val
    let y := s.sys.begun key k
    let p := (s.sys.ctx c).part
    let P := y.part p
    p < 80 →
    (∀ es, CmdReady (.wsetLoad key) s key k 0x28 → y.checkDir p (k.field 0x10 8) [] = .ok es →
      let n := k.field 0x20 4
      let bits := (n + 7) / 8
      (n = 0 ∨ 65536 < n → Completes (.wsetLoad key) s key k stBAD_VALUE [] (fun z => z = y))
      ∧ (n ≠ 0 → n ≤ 65536 → P.mayWrite (k.field 0x18 8) bits = true → (∀ l ∈ P.loads, l.id ≠ k.field 8 8) → P.wsets.countP (fun e => e.2.source.isNone) < 256 → P.atQuota = false →
          ∃ t, exec (.wsetLoad key) s = .next t ∧ t.pending = s.pending ∧ t.fuses = s.fuses ∧ t.sys.bights = y.bights
            ∧ (∀ d, { t.sys.ctx d with outbox := (y.ctx d).outbox } = y.ctx d)
            ∧ (t.sys.part p).loads = P.loads ++ [{ id := k.field 8 8, ctx := c, ring := key.ring.val, lay := key.lay, dir := k.field 0x10 8, entries := es, bitmap := 0
                                                   shards := n, retries := k.field 0x24 1, fails := [] }]
            ∧ { t.sys.part p with loads := P.loads } = P
            ∧ t.sys.mem = ((y.noteDir p (k.field 0x10 8)).writePart p (k.field 0x18 8) (Blob.ofBytes (List.replicate bits 0#8))).mem))
    ∧ (∀ i w, P.ownWset (k.field 8 8) = some i → P.wsets.get? i = some w →
      let y1 := y.pinNamed c k
      (CmdReady (.wsetPublish key) s key k 0x29 →
        (w.retiring = true → Completes (.wsetPublish key) s key k stDRAINING [] (fun z => z = y))
        ∧ ∀ es, w.retiring = false → (∀ v ∈ w.versions, v.state ≠ .provisional) → w.nextNumber ≠ 2 ^ 64 - 1 → y.memSound →
          let y1 := (y.noteDir p (k.field 0x10 8)).pinNamed c k
          y1.checkDir p (k.field 0x10 8) w.curEntries = .ok es →
          let v : Version := { num := w.nextNumber, dir := k.field 0x10 8, entries := es, state := .current }
          Completes (.wsetPublish key) s key k stOK (leBytes 8 w.nextNumber) (fun z =>
            (∃ u, (z.part p).wsets.get? i = some u ∧ v ∈ u.versions ∧ ∀ x ∈ u.versions, x ≠ v → x.state ≠ .current)
            ∧ ∃ u : WSet, { u with versions := w.versions } = w
              ∧ z.mem = ((y1.setWset p i u).writePart p (k.field 0x10 8) (Blob.ofBytes (leBytes 8 w.nextNumber))).mem))
      ∧ (CmdReady (.wsetRetire key) s key k 0x2A →
        (w.retiring = true → Completes (.wsetRetire key) s key k stDRAINING [] (fun z => z = y))
        ∧ (w.retiring = false → (∀ v ∈ w.versions, v.state ≠ .provisional) →
            Completes (.wsetRetire key) s key k stOK [] (fun z => z.mem = y.mem ∧ z.ctxs = y1.ctxs)
            ∧ ∀ g, (∀ v, y.pinned p i v = false) → (y.ctx c).batch k.batch = some g → g.closed = true → (∀ r < 4, ∀ e ∈ (y.ring c r).cmds, e.batch = k.batch → r = k.ring ∧ e.lay = k.lay) →
                ∃ t, exec (.wsetRetire key) s = .next t ∧ (t.sys.part p).wsets.get? i = none ∧ (t.sys.part p).wsetGens.get 0 i = w.gen + 1)))

/-- R83, R301, R331: a RUN in order, without weight-set arguments and listed programs, on one hank whose Bight is idle and wanted by no other RUN, starts it: s1 to s7 hold the
arguments, s8 the size and rank, PC the entry, the locker and hitches are those kept, all else is zero. R321: RUN_CANCEL of a command that is not accepted does nothing; of one not begun it completes it with CANCELLED.
Conventions of the model that it rests on: logs 62, 112. -/
def Obligations.RunCommands : Prop :=
  ∀ (key : CmdKey) (s : State) (k : Cmd),
    let c := key.ctx.val
    let y := s.sys.begun key k
    let p := (s.sys.ctx c).part
    (∀ (b : Fin 80) (q : Nat) (o : Obj), CmdReady (.run key) s key k 0x30 → y.runCheck p c k = none → y.memoryOf p k.refs (k.field 8 8) = some (q, o) → k.field 0x1E 1 = 0 →
      fieldN (y.part p).policy 0xE 2 = 0 → y.runHanks c k = [b.val] → (y.bight b.val).run = none → y.fnReady (fnStrand (b.val / 8)) = true → y.holder b.val = some p →
      (y.ctx c).opened = true → (y.ctx c).evictFor = none → (∀ d, (y.savedBight d b.val).run = none ∧ y.readyRun d b.val = none) →
      y.specLocker c b.val = false → (∀ g, (y.ctx c).batch k.batch = some g → g.hauled = false) →
      let kept := (y.savedBight c b.val).arch
      ∃ t, exec (.run key) s = .next t ∧ t.pending = s.pending ∧ t.fuses = s.fuses ∧ t.sys.mem = s.sys.mem ∧ t.sys.parts = s.sys.parts
        ∧ t.sys.cmdOf key = some { k with progress := .run [] [b.val] 0#64 [] false }
        ∧ (t.sys.bight b.val).run = some { ctx := c, ring := k.ring, lay := k.lay, part := p, rank := 0, prog := o.addr, size := o.bytes, spec := false, home := q }
        ∧ (∀ d : Fin 80, d ≠ b → t.sys.bight d.val = s.sys.bight d.val)
        ∧ (∀ i : Fin 7, (t.arch b).s (BitVec.ofNat 5 (i.val + 1)) = BitVec.ofNat 64 (k.field (0x20 + 8 * i.val) 8))
        ∧ (t.arch b).s 8#5 = BitVec.ofNat 64 (k.field 0x58 8 / 2 ^ 32 * 2 ^ 32 + 65536) ∧ (∀ r : BitVec 5, 9 ≤ r.toNat → (t.arch b).s r = 0#64)
        ∧ { t.arch b with sregs := BightArch.zero.sregs, pregs := BightArch.zero.pregs }
            = { BightArch.zero with pc := BitVec.ofNat 64 (k.field 0x10 4), locker := kept.locker, hitches := kept.hitches, hitchSets := kept.hitchSets.filter (fun w => w.seq.isNone) })
    ∧ (CmdReady (.runCancel key) s key k 0x31 →
      let t := k.field 8 2
      let r := k.field 0x0A 1
      let l := k.field 0x10 8
      ((y.ctx t).opened = false ∨ (y.ctx t).part ≠ p → Completes (.runCancel key) s key k stBAD_CONTEXT [] (fun z => z = y))
      ∧ ((y.ctx t).opened = true → (y.ctx t).part = p → 3 < r → Completes (.runCancel key) s key k stBAD_VALUE [] (fun z => z = y))
      ∧ ((y.ctx t).opened = true → (y.ctx t).part = p → r ≤ 3 → y.cmdAt t r l = none → Completes (.runCancel key) s key k stOK [] (fun z => z = y))
      ∧ ∀ e, (y.ctx t).opened = true → (y.ctx t).part = p → r ≤ 3 → y.cmdAt t r l = some e → e.ring = r → e.progress = .waiting → e.ending = none → (y.part p).sigma = none →
          Completes (.runCancel key) s key k stOK [1#8] (fun z => z.cmdAt t r l = none
            ∧ (z.ctx t).outbox = (y.ctx t).outbox ++ [⟨0, l, r, stCANCELLED, List.replicate 20 0#8, e.irq, e.plain⟩] ∧ z.mem = y.mem ∧ z.bights = y.bights))

/-- R142 to R145, R152, R158, R159, R163: UPDATE of one descriptor in order, frozen or without NORM, writes its status record and completes; REEF_SET takes the table of a step not begun;
a carry record's poll without a descriptor that waits on the die does nothing, and lets one that waits go on: its pass A, then its update blocks.
Conventions of the model that it rests on: logs 29, 31, 112, 176, 179, 180. -/
def Obligations.Updates : Prop :=
  ∀ (s : State),
    (∀ (key : CmdKey) (count : Nat) (k : Cmd) (b : Blob), CmdReady (.update ⟨key, count⟩) s key k 0x38 →
      let c := key.ctx.val
      let y := s.sys.begun key k
      let p := (s.sys.ctx c).part
      let d := b.data
      let die := (y.part p).udDie d
      let y1 := y.setPart p ((y.part p).beginStep (udStep d))
      let i : Instr := .update ⟨key, count⟩
      (k.field 8 8 % 64 ≠ 0 ∨ k.field 0x10 4 = 0 ∨ 65536 < k.field 0x10 4 → Completes i s key k stBAD_VALUE [0, 0, 0, 0] (fun z => z = y))
      ∧ (k.field 8 8 % 64 = 0 → k.field 0x10 4 = 1 → y.udListFail p 1 (k.field 8 8) = none → fieldN (y.part p).policy 0xE 2 = 0 → y.udAt p (k.field 8 8) = some b →
        y.readsQuietly p (k.field 8 8) (udChecked b) → y.udBlocked p d = none → y.udReady p d = true →
        (udFrozen d = true → y.memSound → Completes i s key k stOK [1, 0, 0, 0] (fun z =>
          z = y1.writePart p (udStatus d) (statusBlob d Cleat.blank 1 (udRead d))))
        ∧ (udFrozen d = false → udNorm d = none → y1.shareBusy die p c k = false → 64 * udCount d ≤ count →
          let y2 := (y1.udLoad p d (0#32, .clean)).udBlocks p d ⟨0, y1.mem⟩ (64 * udCount d)
          (y2.cleat die p).causes = [] → (y2.cleat die p).wrote = false → y2.udUnwritten p [(udStatus d, 64)] = false → Completes i s key k stOK [1, 0, 0, 0] (fun z =>
            z.mem = (y2.writePart p (udStatus d) (statusBlob d (y2.cleat die p) 0 (udWrite d))).mem
              ∧ (udTwoSided d = false → (z.ctx c).oneSided = true)))))
    ∧ (∀ (key : CmdKey) (k : Cmd), CmdReady (.reefSet key) s key k 0x39 →
      let y := s.sys.begun key k
      let p := (s.sys.ctx key.ctx.val).part
      let P := y.part p
      let b := y.readPart p (k.field 8 8) 784
      (P.owns (k.field 8 8) 784 = false → Completes (.reefSet key) s key k stBAD_RANGE [] (fun z => z = y))
      ∧ (P.owns (k.field 8 8) 784 = true → b.bad = [] → y.readsQuietly p (k.field 8 8) 784 →
        (reefBad b.data = true → Completes (.reefSet key) s key k stBAD_SCHEDULE [] (fun z => z = y))
        ∧ (reefBad b.data = false → (∃ n, P.stepBegun = some n ∧ fieldN b.data 0 8 ≤ n) → Completes (.reefSet key) s key k stSTALE_VALUE [] (fun z => z = y))
        ∧ (reefBad b.data = false → (∀ n, P.stepBegun = some n → n < fieldN b.data 0 8) →
            Completes (.reefSet key) s key k stOK [] (fun z => z = y.setPart p { P with reefPend := some b.data }))))
    ∧ ∀ (die : Fin 5) (part : Fin 80),
      let p := part.val
      (s.sys.waitingUpdates die.val p = [] → exec (.carryRecordPoll die part) s = .next s)
      ∧ ∀ (c r l : Nat) (k : Cmd) (u : UdProg) (b : Blob) (stream : Nat) (z : Sys) (v : Option (Word32 × Mark)),
        s.sys.waitingUpdates die.val p = [(c, r, l)] → s.sys.cmdAt c r l = some k → k.ring = r → k.progress = .update u → u.begun = true → u.part = none → u.finished = 0 →
        k.field 0x10 4 = 1 → s.sys.udAt p u.next = some b →
        let d := b.data
        let e := (s.sys.part p).udDie d
        let s1 := s.sys.setPart p ((s.sys.part p).beginStep (udStep d))
        let s2 := if u.sum.isSome then s1 else (udReadOnly d).foldl (fun s r => s.noteRead p r.1 r.2) s1
        s.sys.udBlocked p d = none → udFrozen d = false → udNorm d = some stream → s1.shareBusy e p c k = false → s1.udUnwritten p (udPassWrites d) = false →
        (s2.udNormRun p d stream u.sum = (z, v, none) →
          exec (.carryRecordPoll die part) s = .next { s with sys := z.setProgress c k.ring k (.update { u with sum := v }) })
        ∧ ∀ t, s2.udNormRun p d stream u.sum = (z, v, some t) → 64 * udCount d ≤ u.pace →
          let y := (z.udLoad p d t).udBlocks p d ⟨0, z.mem⟩ (64 * udCount d)
          (y.cleat e p).causes = [] → (y.cleat e p).wrote = false → u.causes = [] → u.wrote = false → u.failed = false → u.oneSided = false → udTwoSided d = true →
          y.udUnwritten p [(udStatus d, 64)] = false →
          exec (.carryRecordPoll die part) s = .next { s with sys :=
            ((y.setCleat e p (y.cleat e p)).writePart p (udStatus d) (statusBlob d (y.cleat e p) 0 (udWrite d))).finish c k stOK [1, 0, 0, 0] }

/-- R175, R177, R332: STEP_COMMIT without a selector. NONE completes; WAIT completes by the kept outcome of its collective; with POISON_SEEN they are refused;
SPECULATE in order adds a provisional version and opens the step region.
Conventions of the model that it rests on: logs 35, 36, 112. -/
def Obligations.StepCommits : Prop :=
  ∀ (key : CmdKey) (s : State) (k : Cmd), k.field 0x18 8 = 0 →
    let c := key.ctx.val
    let y := s.sys.begun key k
    let p := (s.sys.ctx c).part
    let P := y.part p
    let coll := k.field 0x14 4
    let u := y.pinNamed c k
    let calm := { u.ctx c with poisonSeen := false, oneSided := false }
    (CmdReady (.stepCommitNone key) s key k 0x3A → k.field 0x10 1 = 0 → p < 80 → Completes (.stepCommitNone key) s key k stOK (leBytes 8 0 ++ [0xFF]) (fun z =>
        (z.part p).stepDone = some (k.field 8 8) ∧ { z.part p with stepDone := P.stepDone } = P ∧ z.ctx c = calm ∧ z.mem = y.mem ∧ z.bights = y.bights))
    ∧ (CmdReady (.stepCommitWait key) s key k 0x3A → k.field 0x10 1 = 1 → k.field 0x28 8 = 0 → p < 80 →
      ((y.ctx c).poisonSeen = true → Completes (.stepCommitWait key) s key k stPOISONED (leBytes 8 0 ++ [0xFF]) (fun z => z.ctx c = calm ∧ z.parts = y.parts ∧ z.mem = y.mem))
      ∧ ((y.ctx c).poisonSeen = false → P.outcomes.find? (fun o => o.coll == coll) = none → ∃ t, exec (.stepCommitWait key) s = .next t
          ∧ (∃ h ∈ t.sys.waiting, h.cmd = .stepCommitWait key) ∧ t.sys.cmdOf key = some { k with progress := .commit 0 } ∧ t.sys.parts = s.sys.parts)
      ∧ ∀ o, (y.ctx c).poisonSeen = false → P.outcomes.find? (fun o => o.coll == coll) = some o →
        (o.status = stPEER_LOST → Completes (.stepCommitWait key) s key k stPEER_LOST (leBytes 8 0 ++ [0xFF]) (fun z => z.parts = y.parts ∧ z.mem = y.mem))
        ∧ (o.status ≠ stPEER_LOST → (o.ended = true ∨ o.value ≠ 1 ∨ o.flags.testBit 3 = true) →
            Completes (.stepCommitWait key) s key k stCUT (leBytes 8 0 ++ leBytes 1 (if o.ended then 0xFF else o.value % 256)) (fun z => z.parts = y.parts ∧ z.mem = y.mem))
        ∧ (o.status ≠ stPEER_LOST → o.ended = false → o.value = 1 → o.flags.testBit 3 = false → Completes (.stepCommitWait key) s key k stHAULED (leBytes 8 0 ++ [1]) (fun z =>
            (z.part p).stepDone = some (k.field 8 8) ∧ { z.part p with stepDone := P.stepDone } = P ∧ z.mem = y.mem)))
    ∧ (CmdReady (.stepCommitSpeculate key) s key k 0x3A → k.field 0x10 1 = 2 →
      (k.field 0x28 8 ≠ 0 → k.field 0x20 8 ≠ 0 → P.ownWset (k.field 0x20 8) = none →
        Completes (.stepCommitSpeculate key) s key k stBAD_HANDLE (leBytes 8 0 ++ [0xFF]) (fun z => z = y))
      ∧ (k.field 0x28 8 = 0 ∨ k.field 0x20 8 = 0 ∨ (P.ownWset (k.field 0x20 8)).isSome = true → k.field 0x28 8 = 0 ∨ k.field 0x30 4 = 0 ∨ k.field 0x20 8 = 0 ∨ P.sigma.isSome = true ∨ (y.ctx c).oneSided = true →
        Completes (.stepCommitSpeculate key) s key k stNOT_READY (leBytes 8 0 ++ [0xFF]) (fun z => z = y))
      ∧ ∀ i w es, p < 80 → k.field 0x28 8 ≠ 0 → k.field 0x30 4 ≠ 0 → k.field 0x20 8 ≠ 0 → P.sigma = none → (y.ctx c).oneSided = false → (y.ctx c).poisonSeen = false →
        P.ownWset (k.field 0x20 8) = some i → P.wsets.get? i = some w → w.retiring = false → w.nextNumber ≠ 2 ^ 64 - 1 → y.checkDir p (k.field 0x28 8) w.curEntries = .ok es →
        y.memSound → (∀ e ∈ (y.ctx c).cmds, ∀ rd on st ca sp, e.progress ≠ .run rd on st ca sp) → P.outcomes.find? (fun o => o.coll == coll) = none →
        ∃ (t : State) (z : Machine.Sigma), exec (.stepCommitSpeculate key) s = .next t ∧ t.fuses = s.fuses ∧ t.sys.mem = s.sys.mem ∧ (t.sys.part p).sigma = some z
          ∧ z.ctx = c ∧ z.ring = k.ring ∧ z.lay = k.lay ∧ z.step = k.field 8 8 ∧ z.wset = i ∧ z.version = w.nextNumber ∧ z.coll = coll ∧ z.items = [] ∧ z.deferred = [] ∧ z.poison = false
          ∧ t.sys.cmdOf key = some { k with progress := .commit w.nextNumber }
          ∧ (t.sys.part p).wsets.get? i = some { w with versions := w.versions ++ [{ num := w.nextNumber, dir := k.field 0x28 8, entries := es, state := .provisional }] }
          ∧ ∃ b ∈ (t.sys.ctx c).batches, b.id = z.batch ∧ b.spec = true ∧ b.number = k.field 0x30 4)

/-- R179, R180, R187, R188: an open step region whose collective has a finite outcome is hauled, the provisional version becomes current, entry 0 of its RUNs that began in it is filled
with 1, the STEP_COMMIT completes with HAULED; with another outcome it is cut and the provisional version is gone. The region holds no effects, records or RUNs beyond those.
Conventions of the model that it rests on: logs 40, 113. -/
def Obligations.StepRegions : Prop :=
  ∀ (part : Fin 80) (s : State) (z : Machine.Sigma) (o : Outcome) (k : Cmd), (s.sys.part part.val).sigma = some z → z.items = [] → z.deferred = [] →
    (s.sys.part part.val).outcomes.find? (fun o => o.coll == z.coll) = some o → o.status ≠ stPEER_LOST →
    z.ring < 4 → (s.sys.ctx z.ctx).part = part.val → s.sys.cmdAt z.ctx z.ring z.lay = some k → k.ring = z.ring → k.progress = .commit z.version →
    (o.ended = false → o.value = 1 → o.flags.testBit 3 = false → ∀ (w : WSet) (v : Version), (s.sys.part part.val).wsets.get? z.wset = some w → w.retiring = false → v ∈ w.versions → v.num = z.version →
      (∀ k ∈ z.lockers, (s.sys.bight k.hank).run.isSome = true) → (∀ b : Fin 80, (s.sys.bight b.val).specRun = true → (s.sys.bight b.val).region = none) →
      ∃ t, exec (.stepRegionHaul part) s = .next t ∧ t.fuses = s.fuses ∧ (t.sys.part part.val).sigma = none ∧ (t.sys.part part.val).stepDone = some z.step
        ∧ (∃ u, (t.sys.part part.val).wsets.get? z.wset = some u ∧ { v with state := .current } ∈ u.versions ∧ ∀ x ∈ u.versions, x.num ≠ z.version → x.state ≠ .current)
        ∧ t.sys.cmdAt z.ctx z.ring z.lay = none
        ∧ (∃ evs : List CompRec, (∀ e ∈ evs, e.kind = 1)
            ∧ (t.sys.ctx z.ctx).outbox = (s.sys.ctx z.ctx).outbox ++ evs ++ [⟨0, z.lay, z.ring, stHAULED, leBytes 8 z.version ++ [1] ++ List.replicate 11 0, k.irq, k.plain⟩])
        ∧ ∀ (b : Fin 80) (r : RunRef), (s.sys.bight b.val).run = some r → r.ctx = z.ctx → r.spec = true →
            t.arch b = if r.step then { s.arch b with fifo := (s.arch b).fifo.map (fun e => if e.id = 0 then { e with filled := true, value := 1#64, flags := 0#8 } else e) }
              else s.arch b)
    ∧ ((o.ended = true ∨ o.value ≠ 1 ∨ o.flags.testBit 3 = true) → z.lockers = [] → (∀ e ∈ (s.sys.ctx z.ctx).cmds, e.batch ≠ z.batch) →
      ∃ t, exec (.stepRegionCut part) s = .next t ∧ t.fuses = s.fuses ∧ (t.sys.part part.val).sigma = none ∧ t.sys.mem = s.sys.mem
        ∧ (∀ w, (t.sys.part part.val).wsets.get? z.wset = some w → ∀ v ∈ w.versions, v.state ≠ .provisional)
        ∧ t.sys.cmdAt z.ctx z.ring z.lay = none
        ∧ (t.sys.ctx z.ctx).outbox = (s.sys.ctx z.ctx).outbox ++ [⟨0, z.lay, z.ring, stCUT, leBytes 8 z.version ++ leBytes 1 (if o.ended then 0xFF else o.value % 256) ++ List.replicate 11 0, k.irq, k.plain⟩])

/-- R308 to R311, R333: the fence commands. FENCE_CREATE; FENCE_SIGNAL of a fence of this partition without remote importers; FENCE_WAIT that is met or waits; FENCE_EXPORT and
FENCE_IMPORT within the module. R309, R311, R312: the fence messages that arrive on an OPEN receive flow of a partition, for a fence and a request that stand.
Conventions of the model that it rests on: logs 82, 112. -/
def Obligations.Fences : Prop :=
  (∀ (key : CmdKey) (s : State) (k : Cmd), (s.sys.ctx key.ctx.val).part < 80 →
     let c := key.ctx.val
     let y := s.sys.begun key k
     let p := (s.sys.ctx c).part
     let P := y.part p
     let h := k.field 8 8
     let v := k.field 0x10 8
     (CmdReady (.fenceCreate key) s key k 0x40 →
       let u := y.sweepFences p
       (h = 2 ^ 64 - 1 → Completes (.fenceCreate key) s key k stBAD_VALUE [] (fun z => z = u))
       ∧ (h ≠ 2 ^ 64 - 1 → 65536 ≤ (u.part p).fences.length → Completes (.fenceCreate key) s key k stNO_FENCE [] (fun z => z = u))
       ∧ ∀ i, h ≠ 2 ^ 64 - 1 → (u.part p).fences.length < 65536 → (u.part p).nextFence = some i → (u.part p).atQuota = false →
           Completes (.fenceCreate key) s key k stOK (leBytes 8 (2 ^ 56 + (u.part p).fenceGens.get 0 i * 2 ^ 32 + i)) (fun z =>
             z = u.setPart p { u.part p with fenceNext := max (u.part p).fenceNext (i + 1), fences := (u.part p).fences.put i ⟨(u.part p).fenceGens.get 0 i, h, 0, c, true, [], [], none⟩ }))
     ∧ (∀ x, P.fenceOf k.refs h = some x → x.source = none →
       (CmdReady (.fenceSignal key) s key k 0x41 → (∀ q ∈ x.importers, q.sendFlow = 0xFFFFFFFF) →
         (x.value = 2 ^ 64 - 1 → Completes (.fenceSignal key) s key k stEXHAUSTED [] (fun z => z = y))
         ∧ (x.value ≠ 2 ^ 64 - 1 → v ≤ x.value → Completes (.fenceSignal key) s key k stSTALE_VALUE [] (fun z =>
             (z.part p).fences.get? (handleIndex h) = some { x with stale := x.stale + 1 } ∧ { z.part p with fences := P.fences } = P ∧ z.mem = y.mem ∧ z.ctxs = y.ctxs))
         ∧ (x.value ≠ 2 ^ 64 - 1 → x.value < v → Completes (.fenceSignal key) s key k stOK [] (fun z =>
             z = y.setPart p { P with fences := P.fences.put (handleIndex h) { x with value := v } })))
       ∧ (CmdReady (.fenceWait key) s key k 0x42 →
         (v ≤ x.value → Completes (.fenceWait key) s key k stOK [] (fun z => z = y))
         ∧ (x.value < v → ∃ t, exec (.fenceWait key) s = .next t ∧ (∃ g ∈ t.sys.waiting, g.cmd = .fenceWait key) ∧ t.sys.parts = s.sys.parts ∧ t.sys.ctxs = y.ctxs))
       ∧ (CmdReady (.fenceExport key) s key k 0x43 →
         (79 < k.field 0x14 2 → Completes (.fenceExport key) s key k stBAD_VALUE [] (fun z => z = y))
         ∧ (k.field 0x14 2 ≤ 79 → k.field 0x18 4 = 0xFFFFFFFF → k.field 0x1C 4 = 0xFFFFFFFF →
             Completes (.fenceExport key) s key k stOK (leBytes 8 (y.node * 2 ^ 32 + p * 2 ^ 24 + x.gen % 256 * 2 ^ 16 + handleIndex h % 65536)) (fun z =>
               z = y.setPart p { P with fences := P.fences.put (handleIndex h) { x with grants := x.grants ++ [⟨k.field 0x10 4, k.field 0x14 2, 0xFFFFFFFF, 0xFFFFFFFF⟩] } }))))
     ∧ (CmdReady (.fenceImport key) s key k 0x44 → k.field 0x10 4 = 0xFFFFFFFF → k.field 0x14 4 = 0xFFFFFFFF →
       (y.tokenFence h = none → Completes (.fenceImport key) s key k stDENIED [] (fun z => z = y))
       ∧ ∀ q i x, y.tokenFence h = some (q, i, x) → q ≠ p →
         ((x.live = false ∨ ∀ g ∈ x.grants, ¬ (g.node = y.node ∧ g.part = p ∧ g.sendFlow = 0xFFFFFFFF)) → Completes (.fenceImport key) s key k stDENIED [] (fun z => z = y))
         ∧ ∀ g ∈ x.grants, x.live = true → g.node = y.node → g.part = p → g.sendFlow = 0xFFFFFFFF →
           (P.nextFence = none → Completes (.fenceImport key) s key k stNO_FENCE [] (fun z => z = y))
           ∧ ∀ n, P.nextFence = some n → Completes (.fenceImport key) s key k stOK (leBytes 8 (2 ^ 56 + P.fenceGens.get 0 n * 2 ^ 32 + n)) (fun z =>
             (z.part q).fences.get? i = some { x with importers := x.importers ++ [⟨y.node, p, 0xFFFFFFFF, 0xFFFFFFFF⟩] }
             ∧ (z.part p).fences.get? n = some { gen := P.fenceGens.get 0 n, value := 0, stale := 0, owner := c, live := true, grants := [], importers := [], source := some { token := BitVec.ofNat 64 h, homePart := q, homeIndex := i, remote := false, sendFlow := 0xFFFFFFFF, recvFlow := 0xFFFFFFFF, view := 0, detached := false } })))
  ∧ (∀ (m : FenceMsg) (s : State) (p : Nat), p < 80 → (s.sys.flow m.flow).state = .open → (s.sys.flow m.flow).role = 1 → (s.sys.flow m.flow).part = p →
     let P := s.sys.part p
     (∀ i x e, s.sys.tokenFence m.token = some (p, i, x) →
       (m.kind = 1 → x.importers.find? (fun q => q.recvFlow == m.flow) = some e → x.value ≠ 2 ^ 64 - 1 →
         ∃ t, exec (.signal m) s = .next t ∧ { t.sys.part p with fences := P.fences } = P ∧ t.sys.mem = s.sys.mem ∧ t.fuses = s.fuses
           ∧ (t.sys.part p).fences.get? i = some (if x.value < m.value then { x with value := m.value } else { x with stale := x.stale + 1 }))
       ∧ (m.kind = 4 → x.live = true → e ∈ x.grants → e.recvFlow = m.flow → e.node = (s.sys.flow m.flow).peerNode → e.part = (s.sys.flow m.flow).peerPart →
         ∃ (t : State) (g : FencePeer), exec (.fenceImportMsg m) s = .next t ∧ g ∈ x.grants ∧ g.recvFlow = m.flow ∧ g.node = e.node ∧ g.part = e.part
           ∧ (t.sys.part p).fences.get? i = some { x with importers := x.importers ++ [g] } ∧ { t.sys.part p with fences := P.fences } = P ∧ t.sys.mem = s.sys.mem)
       ∧ (m.kind = 6 → x.live = true → ∃ (t : State) (u : Fence), exec (.fenceRelease m) s = .next t ∧ (t.sys.part p).fences.get? i = some u
           ∧ { u with importers := x.importers } = x ∧ (∀ q ∈ u.importers, q ∈ x.importers.eraseP (fun q => q.recvFlow == m.flow)) ∧ t.sys.mem = s.sys.mem))
     ∧ (m.kind = 3 → exec (.fenceUpdate m) s = .next { s with sys := s.sys.setPart p { P with fences := P.fences.map (fun e => (e.1, { e.2 with
         source := e.2.source.map (fun i => if i.remote = true ∧ i.detached = false ∧ i.recvFlow = m.flow ∧ i.token.toNat = m.token ∧ i.view < m.value then { i with view := m.value } else i) })) } })
     ∧ (∀ c k x i, m.kind = 2 → s.sys.requester p 0x41 m.request = some (c, k) → P.fenceOf k.refs (k.field 8 8) = some x → x.source = some i → i.recvFlow = m.flow → i.token.toNat = m.token →
         exec (.signalAck m) s = .next { s with sys := if (s.sys.ctx c).resident then s.sys.finish c k m.status [] else s.sys.setProgress c k.ring k (.ready m.status []) })
     ∧ ∀ c k, m.kind = 5 → (s.sys.ctx c).resident = true → s.sys.requester p 0x44 m.request = some (c, k) → k.field 0x14 4 = m.flow → k.field 8 8 = m.token →
         (m.status ≠ stOK → exec (.fenceImportAck m) s = .next { s with sys := s.sys.finish c k m.status [] })
         ∧ ∀ n, m.status = stOK → P.nextFence = some n →
           let x : Fence := { gen := P.fenceGens.get 0 n, value := 0, stale := 0, owner := c, live := true, grants := [], importers := [], source := some { token := BitVec.ofNat 64 m.token, homePart := tokenPart m.token, homeIndex := tokenIndex m.token, remote := true, sendFlow := k.field 0x10 4, recvFlow := m.flow, view := m.value, detached := false } }
           exec (.fenceImportAck m) s = .next { s with sys :=
             (s.sys.setPart p { P with fences := P.fences.put n x, fenceNext := max P.fenceNext (n + 1) }).finish c k stOK (leBytes 8 (2 ^ 56 + P.fenceGens.get 0 n * 2 ^ 32 + n)) })

/-- R264, R265, R267, R333: FLOW_OPEN in order makes the context OPENING and sends one OPEN frame on its port; FLOW_CLOSE of a context that the partition does not hold is refused, of
one with nothing unacknowledged, which no open collective's plan names and no transfer sends on, makes it FREE.
Conventions of the model that it rests on: logs 48, 49, 112. -/
def Obligations.FlowCommands : Prop :=
  ∀ (key : CmdKey) (s : State) (k : Cmd),
    let c := key.ctx.val
    let y := s.sys.begun key k
    let p := (s.sys.ctx c).part
    let f := k.field 8 4
    (CmdReady (.flowOpen key) s key k 0x49 → y.trust.entropy ≠ 1 →
      (1572864 ≤ f → Completes (.flowOpen key) s key k stBAD_VALUE [] (fun z => z = y))
      ∧ (y.flowOpenCheck p k = none →
        let recv := k.field 0x0D 1 = 1
        ∃ (t : State) (w : Wire), exec (.flowOpen key) s = .next t ∧ t.fuses = s.fuses ∧ t.sys.mem = s.sys.mem ∧ t.sys.ctxs = y.ctxs ∧ t.sys.parts = s.sys.parts
          ∧ t.sys.fab.wire = s.sys.fab.wire ++ [w] ∧ w.port = k.field 0x0C 1
          ∧ { t.sys.flow f with nLocal := [] } = { Flow.empty with
              state := .opening, port := k.field 0x0C 1, role := k.field 0x0D 1, target := if recv then k.field 0x0E 1 else 0, peerFlow := k.field 0x18 4
              peerNode := k.field 0x14 4, part := p, peerPart := k.field 0x12 2, peerIp := sliceB k.payload 0x20 16, nextHop := sliceB k.payload 0x30 6, ctx := c
              opener := some (k.ring, k.lay), winBase := if recv then k.field 0x38 8 else 0, slotBytes := if recv then k.field 0x1C 4 else 0
              slots := if recv then k.field 0x36 2 else 0, destBight := if recv then k.field 0x0F 1 else 0, destHitch := if recv then k.field 0x10 1 else 0, rate := 4096 }
          ∧ ∀ g, g ≠ f → t.sys.flow g = s.sys.flow g))
    ∧ (CmdReady (.flowClose key) s key k 0x4A →
      ((y.flow f).state = .free ∨ (y.flow f).part ≠ p → Completes (.flowClose key) s key k stBAD_FLOW [] (fun z => z = y))
      ∧ ((y.flow f).state ≠ .free → (y.flow f).part = p → (y.flow f).opener = none → (∀ x ∈ y.fab.colls, f ∉ x.plan.named ∧ f ∉ x.plan.txFlows ∧ f ∉ x.plan.rxFlows) →
          (∀ e ∈ y.ctxs, ∀ j ∈ e.2.cmds, j.field 0x30 4 = f → ∀ a n, j.progress ≠ .sending a n) →
          ((y.flow f).role = 0 → (y.flow f).state = .open ∨ (y.flow f).state = .closing → (y.flow f).unacked = []) →
          Completes (.flowClose key) s key k stOK [] (fun z => z.flow f = Flow.empty ∧ (∀ g, g ≠ f → z.flow g = y.flow g) ∧ z.mem = y.mem ∧ z.ctxs = y.ctxs ∧ z.fab.wire = y.fab.wire)))

/-- R274 to R276, R278: a COLL at position 0 of a plan in order, with an unpoisoned contribution, sends its contribution on UP_TX; an allgather, and a broadcast from that
position, first write it to the destination; a chain reduce all of whose frames have left completes and leaves a record without a result.
Conventions of the model that it rests on: logs 50, 51, 112. -/
def Obligations.Collectives : Prop :=
  ∀ (key : CmdKey) (s : State) (k : Cmd),
    let c := key.ctx.val
    let y := s.sys.begun key k
    let p := (s.sys.ctx c).part
    let P := y.part p
    let a := k.field 8 8
    let b := y.readPart p a 128
    let pl := planOf b.data
    let own := y.readPart p pl.src pl.bytes
    let x : Coll := { part := p, ctx := c, ring := k.ring, lay := k.lay, plan := pl, own := own, started := true, reduced := 0, resulted := 0, gathered := [], nan := false, inf := false
                      bad := false, first := 0#32, seen := .clean }
    let u : Sys := { y.setPart p { P with outcomes := P.outcomes.filter (fun o => o.coll != pl.collId) } with fab := { y.fab with colls := y.fab.colls ++ [x] } }
    p < 80 → a % 64 = 0 → P.owns a 128 = true → b.bad = [] → planOk b.data = true → y.planFlows p pl = true →
    (∀ f ∈ pl.txFlows ++ pl.rxFlows, (y.fn (fnHawser (flowDie f))).state ≠ .draining) → P.owns pl.src pl.bytes = true → P.mayWrite pl.dst pl.dstBytes = true →
    y.collOf p pl.collId = none → y.memWaits p pl.src pl.bytes = false → y.memWaits p pl.dst pl.dstBytes = false → own.bad = [] → (y.ctx c).poisonSeen = false → pl.pos = 0 → pl.fans = [] → y.readsQuietly p a 128 → y.readsQuietly p pl.src pl.bytes →
    (∀ e ∈ y.fab.flows, e.2.part = p → ∀ fr ∈ e.2.staged, fr.collId ≠ pl.collId) →
    0 < y.portPayload (y.flow pl.upTx).port →
    let sends := fun (i : Instr) (mem : MemSys) => CmdReady i s key k 0x48 → ∃ t, exec i s = .next t ∧ t.fuses = s.fuses ∧ t.sys.mem = mem ∧ t.sys.bights = s.sys.bights
      ∧ ((t.sys.flow pl.upTx).unacked ++ (t.sys.flow pl.upTx).queue).flatMap (fun fr => fr.payload)
          = ((y.flow pl.upTx).unacked ++ (y.flow pl.upTx).queue).flatMap (fun fr => fr.payload) ++ own.data
      ∧ (pl.kind = 0 → (t.sys.flow pl.upTx).queue = [] → t.sys.cmdOf key = none
          ∧ (t.sys.part p).outcomes.find? (fun o => o.coll == pl.collId) = some { coll := pl.collId, status := stOK, value := 0, flags := 8, element := 0, by_ := some (c, k.ring, k.lay) })
    (pl.kind = 0 → sends (.chainReduce key) s.sys.mem) ∧ (pl.kind = 1 → sends (.chainAllreduce key) s.sys.mem)
    ∧ (pl.kind = 2 → sends (.allgather key) (u.writePart p pl.dst own).mem) ∧ (pl.kind = 3 → pl.root = 0 → sends (.broadcast key) (u.writePart p pl.dst own).mem)

/-- R334 to R337: CKPT_SAVE in order, of ranges without poison, seals the ranges and writes the image, the header's record last, when the row lets it write every record; CKPT_RESTORE,
when the row gives every record, of an image that passes writes its data over the ranges, and of one that fails ends with its status: before the segments memory stays, and after
them the ranges are undefined; TAKEOVER does the same and makes STEP the highest step begun, unless a later one has begun.
Conventions of the model that it rests on: logs 70, 71, 112, 146. -/
def Obligations.Checkpoints : Prop :=
  ∀ (key : CmdKey) (s : State) (k : Cmd) (rs : List (Nat × Nat × Nat)), (s.sys.ctx key.ctx.val).part < 80 →
    let c := key.ctx.val
    let y := s.sys.begun key k
    let p := (s.sys.ctx c).part
    let P := y.part p
    ckptRanges k = true → ckptHost k = true → y.readsQuietly p (k.field 8 8) (24 * k.field 0x10 4) → (∀ r ∈ rs, y.readsQuietly r.1 r.2.1 r.2.2) → (∀ r ∈ rs, y.memWaits r.1 r.2.1 r.2.2 = false) →
    (∀ count, CmdReady (.ckptSave ⟨key, count⟩) s key k 0x50 → y.manifest p k false = .ok rs → y.trust.entropy = 0 →
      let g := ((y.took 1).claimOut c (imageRecords (rangeBytes rs))).gather p rs
      (k.field 0x30 1 = 1 → P.released k = false → Completes (.ckptSave ⟨key, count⟩) s key k stDENIED [] (fun z => z = y))
      ∧ ((k.field 0x30 1 = 1 → P.released k = true) → g.2.2 = .clean →
        let salt := leBytes 8 (y.drawn.toNat % 2 ^ 64)
        let head := ckptHeader k rs salt
        let body := sealSegments (P.exportKey k) salt head g.2.1
        let n := imageRecords (rangeBytes rs)
        let rec_ := fun (i : Nat) (b : Bytes) => (⟨k.field 0x28 8 + 4096 * i, sealRecord (y.ctxKey c) c ((y.ctx c).seq2 + i) b⟩ : HostWrite)
        n ≤ count → Completes (.ckptSave ⟨key, count⟩) s key k stOK (leBytes 8 (y.ctx c).seq2 ++ leBytes 4 n) (fun z =>
          (z.ctx c).seq2 = (y.ctx c).seq2 + n ∧ z.mem = g.1.mem
            ∧ z.hostOut = y.hostOut ++ (List.range (n - 1)).map (fun i => rec_ (i + 1) ((body.drop (4064 * i)).take 4064)) ++ [rec_ 0 (sealHeader (P.exportKey k) salt head)])))
    ∧ (∀ (records : List Bytes), y.manifest p k true = .ok rs →
      let first := k.field 0x38 8
      let n := k.field 0x34 4
      let t := openRun (y.ctxKey c) c records first n
      let image := t.1.flatten
      let head := image.take 0x70
      let total := rangeBytes rs
      let seg := openSegments (P.exportKey k) head (image.drop 128) 0 total (segmentsOf total)
      let u := (y.setCtx c { y.ctx c with seq1 := first + n }).useIn c image.length
      let ends := fun (i : Instr) (after : Sys → Sys) =>
        if image.length < 128 ∨ tagBytes (Config.gcmTag (P.exportKey k) (sliceB head 0x28 8 ++ leBytes 4 0xFFFFFFFF) head []) ≠ sliceB image 0x70 16 then
          Completes i s key k stTAG_FAIL [] (fun z => z.mem = y.mem)
        else if headerAgrees k rs head = false then Completes i s key k stBAD_DESCRIPTOR [] (fun z => z.mem = y.mem)
        else if seg.2 = false ∧ seg.1.length = total then t.2 = false → y.memSound → Completes i s key k stOK [] (fun z => z = after (u.scatter rs 0 seg.1))
        else Completes i s key k stTAG_FAIL [] (fun z => z.hostOut = y.hostOut)
      n ≠ 0 → n ≤ records.length → (y.ctx c).seq1 ≤ first →
      (CmdReady (.ckptRestore key records) s key k 0x51 → ends (.ckptRestore key records) id)
      ∧ (CmdReady (.takeover key records) s key k 0x52 →
        ((∃ b, P.stepBegun = some b ∧ k.field 0x18 8 < b) → Completes (.takeover key records) s key k stNOT_READY [] (fun z => z = y))
        ∧ ((∀ b, P.stepBegun = some b → b ≤ k.field 0x18 8) →
            ends (.takeover key records) (fun z => z.setPart p { z.part p with stepBegun := some (k.field 0x18 8) }))))

/-- R247, R339, R353 to R363: ATTEST; the first SESSION_OPEN, which takes the base context; KEY_SHARE, whose last share makes the partition ACTIVE; BRAID_RELEASE of one
authorisation; KEY_ROTATE, over every page of its regions or over the first pages of one. Each with messages and checks in order.
Conventions of the model that it rests on: logs 72, 73, 74, 80, 112, 152. -/
def Obligations.TrustCommands : Prop :=
  ∀ (key : CmdKey) (s : State) (k : Cmd) (rs : List Bytes), (s.sys.ctx key.ctx.val).part < 80 →
    let c := key.ctx.val
    let y := s.sys.begun key k
    let p := (s.sys.ctx c).part
    let P := y.part p
    (CmdReady (.attest key) s key k 0x70 → y.trust.entropy ≠ 1 →
      (k.field 0x30 4 < 11468 → Completes (.attest key) s key k stBAD_VALUE (leBytes 4 11468) (fun z => z = y))
      ∧ (11468 ≤ k.field 0x30 4 → (k.plain = true ∨ k.field 0x28 8 % 4096 = 0) → y.trust.entropy ≠ 2 →
        (y.installs = false → y.inTransition p = false →
          let r := (y.needEk p).report s.fuses p (sliceB k.payload 8 32)
          Completes (.attest key) s key k stOK (leBytes 4 11468 ++ leBytes 8 (r.1.writeMsg c k.plain (k.field 0x28 8) r.2).2) (fun z =>
            z = (r.1.writeMsg c k.plain (k.field 0x28 8) r.2).1 ∧ (z.part p).ekPair.isSome = true))
        ∧ (y.installs = true ∨ y.inTransition p = true →
          let r := y.report s.fuses p (sliceB k.payload 8 32)
          Completes (.attest key) s key k stATTEST_TRANSITION (leBytes 4 11468 ++ leBytes 8 (r.1.writeMsg c k.plain (k.field 0x28 8) r.2).2) (fun z =>
            z = (r.1.writeMsg c k.plain (k.field 0x28 8) r.2).1))))
    ∧ (∀ y1 m ek, CmdReady (.sessionOpen key rs) s key k 0x71 → (y.ctx c).intakeHeld = false → 48 ≤ k.field 0x20 4 →
      (k.plain = true ∨ (k.field 8 8 % 4096 = 0 ∧ k.field 0x18 8 % 4096 = 0)) → k.field 0x10 4 = 4916 → y.readMsg c k.plain (k.field 0x28 8) 2 rs = (y1, stOK, m) → P.sessions = [] →
      P.ekPair.map (fun e => e.1) = some ek →
      let o := fieldN m 4 1
      let ks := y1.sessionKey p m ek
      match y1.sessionCheck p m with
      | some e => Completes (.sessionOpen key rs) s key k e [] (fun z => z = y1)
      | none => ∃ seq, Completes (.sessionOpen key rs) s key k stOK (leBytes 4 48 ++ leBytes 8 seq) (fun z =>
        (z.part p).sessions = [{ owner := o, pk := sliceB m 0x4A0 1312, kSess := ks, openings := 1, epoch := 0, ctx0 := P.base }] ∧ (z.part p).ekPair = none
          ∧ (z.ctx P.base).owner = some o ∧ (z.ctx P.base).key = some (Config.kmac (keyBytes ks) (leBytes 2 P.base ++ leBytes 8 0) "CZ3220 CONTEXT") ∧ z.mem = y.mem))
    ∧ (∀ y1 m ses, CmdReady (.keyShare key rs) s key k 0x72 → (y.ctx c).owner.isSome = true → k.field 0x10 8 % 4096 = 0 → y.readMsg c k.plain (k.field 0x18 8) (k.field 0x20 4) rs = (y1, stOK, m) →
      m.length = 112 → fieldN m 0 4 = 0x534B5A43 → allZero (sliceB m 5 3) = true → allZero (sliceB m 0x1C 4) = true → P.session (fieldN m 4 1) = some ses →
      sliceB m 8 8 = P.braidId → sliceB k.payload 8 8 = P.braidId →
      let o := fieldN m 4 1
      let kw := Config.kmac (keyBytes ses.kSess) [] "CZ3220 WRAP"
      let b := gcmCrypt kw (sliceB m 0x10 12) (sliceB m 0x20 64)
      let x : Share := { owner := o, share := BitVec.ofNat 256 (fieldN b 0 32), dataKey := BitVec.ofNat 256 (fieldN b 32 32) }
      if tagBytes (Config.gcmTag kw (sliceB m 0x10 12) (m.take 0x20) (sliceB m 0x20 64)) ≠ sliceB m 0x60 16 then Completes (.keyShare key rs) s key k stTAG_FAIL [] (fun z => z = y1)
      else ((∃ h ∈ P.shares, h.owner = o) → Completes (.keyShare key rs) s key k stBUSY [] (fun z => z = y1))
        ∧ ((∀ h ∈ P.shares, h.owner ≠ o) →
          ∃ mask, Completes (.keyShare key rs) s key k stOK (leBytes 2 mask ++ leBytes 2 P.owners) (fun z => (z.part p).shares = P.shares ++ [x] ∧ z.mem = y.mem
            ∧ ((∀ i < P.owners, ∃ h ∈ P.shares ++ [x], h.owner = i) → (z.part p).state = .active ∧ (z.part p).kModel.isSome = true)
            ∧ ((∃ i < P.owners, ∀ h ∈ P.shares ++ [x], h.owner ≠ i) → { z.part p with shares := P.shares } = P))))
    ∧ (∀ y1 m, CmdReady (.braidRelease key rs) s key k 0x73 → (y.ctx c).owner.isSome = true → k.field 0x10 8 % 4096 = 0 → y.trust.entropy = 0 →
      y.readMsg c k.plain (k.field 0x18 8) (k.field 0x20 4) rs = (y1, stOK, m) → m.length = 3708 → sliceB k.payload 8 8 = P.braidId →
      let ek := m.take 1184
      let a := m.drop 1184
      let job := fieldN a 0x10 8
      let step := fieldN a 0x18 8
      let x : AuthCount := { job := job, step := step, recipient := Config.sha3 ek, owners := [fieldN a 4 1] }
      match P.authFault ek a with
      | some e => Completes (.braidRelease key rs) s key k e [] (fun z => z = y1)
      | none => P.auths = [] →
      (P.threshold = 1 → Completes (.braidRelease key rs) s key k stOK (leBytes 2 1 ++ leBytes 2 1) (fun z => (z.part p).auths = P.auths ++ [x] ∧ z.mem = y.mem
          ∧ (z.part p).releases.getLast? = some { job := job, step := step, record := P.releaseRecord ek job step y.drawn } ∧ (P.releases.length ≤ 4 → (z.part p).releases.length ≤ 4)))
      ∧ (2 ≤ P.threshold → Completes (.braidRelease key rs) s key k stOK (leBytes 2 1 ++ leBytes 2 P.threshold) (fun z => (z.part p).auths = P.auths ++ [x]
          ∧ (z.part p).releases = P.releases ∧ z.mem = y.mem)))
    ∧ ∀ pages, CmdReady (.keyRotate ⟨key, pages⟩) s key k 0x74 → y.trust.entropy = 0 →
      let t := k.field 8 1
      let touched := (P.hanks.zipIdx.filter (fun e => rangesMeet (k.field 0x10 8) (k.field 0x18 8) (e.2 * unitBytes) unitBytes)).map (fun e => e.1)
      (2 ≤ t → Completes (.keyRotate ⟨key, pages⟩) s key k stBAD_VALUE [] (fun z => z = y))
      ∧ (t < 2 → P.hanks.length * unitBytes < k.field 0x10 8 + k.field 0x18 8 → Completes (.keyRotate ⟨key, pages⟩) s key k stBAD_RANGE [] (fun z => z = y))
      ∧ (t < 2 → k.field 0x10 8 + k.field 0x18 8 ≤ P.hanks.length * unitBytes → y.mem.alarms = [] → touched.Nodup →
        (∀ h ∈ touched, y.tierWaits t h = false ∧ y.behind t h = false ∧ y.rotates p t h = false ∧ (y.region t h).rot = none ∧ (y.region t h).failed = []) →
        (3417600 * touched.length ≤ pages →
          Completes (.keyRotate ⟨key, pages⟩) s key k stOK (leBytes 4 touched.length) (fun z => z = touched.foldl (fun u h => u.rotate t h) y))
        ∧ ∀ h rest, touched = h :: rest → 0 < pages → pages < 3417600 → ∃ u, exec (.keyRotate ⟨key, pages⟩) s = .next u ∧ u.fuses = s.fuses
          ∧ u.sys.cmdOf key = some { k with progress := .rotating 0 true touched [] .clean } ∧ (u.sys.region t h).rot = some (drawKeys y.free, pages)
          ∧ (∀ page, (u.sys.region t h).majors.get 0 page = if page < pages then 0 else (y.region t h).majors.get 0 page)
          ∧ ∀ g ∈ rest, u.sys.region t g = y.region t g)

/-! The object dictionary -/

/-- R338, R387, R396 to R400: DICT_READ with the abort codes of its checks; DICT_WRITE of CTX_SELECT; a staged write, the commit and the abort of the partition's
own set; another scope is refused.
Conventions of the model that it rests on: logs 83, 84, 89, 112. -/
def Obligations.DictionaryCommands : Prop :=
  ∀ (key : CmdKey) (s : State) (k : Cmd), (s.sys.ctx key.ctx.val).part < 80 →
    let c := key.ctx.val
    let y := s.sys.begun key k
    let p := (s.sys.ctx c).part
    let i := k.field 8 2
    let sub := k.field 0x0A 1
    let v := fieldN k.payload 0x18 (k.field 0x0C 4)
    let z := y.stageSet p
    let step := k.field 0x58 8
    let entry := dictKey (dictPart p 7) 1
    (CmdReady (.dictRead key) s key k 0x60 →
      (entryOf i sub = none → Completes (.dictRead key) s key k stBAD_VALUE (leBytes 4 0x01010007) (fun u => u = y))
      ∧ (∀ q, q ≠ p → i = dictPart q 3 → q < 80 → sub = 1 → Completes (.dictRead key) s key k stDENIED (leBytes 4 0x02010001) (fun u => u = y))
      ∧ (i = 0x2000 → sub = 1 → Completes (.dictRead key) s key k stDENIED (leBytes 4 0x02010001) (fun u => u = y))
      ∧ (i = dictPart p 3 → sub = 1 → Completes (.dictRead key) s key k stOK (leBytes 4 0 ++ leBytes 4 1 ++ leBytes 1 (y.part p).state.code) (fun u => u = y))
      ∧ (i = dictPart p 7 → sub = 1 → Completes (.dictRead key) s key k stOK (leBytes 4 0 ++ leBytes 4 1 ++ leBytes 1 (y.dv (dictPart p 7) 1)) (fun u => u = y)))
    ∧ (CmdReady (.dictWrite key) s key k 0x61 → k.field 0x0B 1 = 0 → i = 0x5000 → sub = 1 → y.stagedHeld 0x5000 1 = false →
      (k.field 0x0C 4 ≠ 2 → Completes (.dictWrite key) s key k stBAD_VALUE (leBytes 4 0x01010003) (fun u => u = y))
      ∧ (k.field 0x0C 4 = 2 → 16384 ≤ v → Completes (.dictWrite key) s key k stBAD_VALUE (leBytes 4 0x01010008) (fun u => u = y))
      ∧ (k.field 0x0C 4 = 2 → v < 16384 → ¬ ((y.ctx v).opened = true ∧ (y.ctx v).part = p) →
          Completes (.dictWrite key) s key k stDENIED (leBytes 4 0x02010001) (fun u => u = y))
      ∧ (k.field 0x0C 4 = 2 → v < 16384 → (y.ctx v).opened = true → (y.ctx v).part = p → Completes (.dictWrite key) s key k stOK (leBytes 4 0) (fun u =>
          u.selectors (.window p) = { y.selectors (.window p) with ctx := v, path := .window p } ∧ (∀ q, q ≠ Path.window p → u.selectors q = y.selectors q)
            ∧ { u with dict := { u.dict with selects := y.dict.selects } } = y)))
    ∧ (CmdReady (.dictWriteStaged key) s key k 0x61 → k.field 0x0B 1 = 1 → i = dictPart p 7 → sub = 1 → k.field 0x0C 4 = 1 →
      ((z.state = .preparing ∨ z.state = .armed) → 20 ≤ v → v ≤ 28 → Completes (.dictWriteStaged key) s key k stREQUIRES_QUIESCE (leBytes 4 0x03010002) (fun u => u = y))
      ∧ (z.state ≠ .preparing → z.state ≠ .armed →
        ((v < 20 ∨ 28 < v) → Completes (.dictWriteStaged key) s key k stBAD_VALUE (leBytes 4 0x01010008) (fun u => u = y))
        ∧ (20 ≤ v → v ≤ 28 → Completes (.dictWriteStaged key) s key k stDEFERRED (leBytes 4 0) (fun u =>
            (u.stageSet p).state = .opened ∧ (entry, v) ∈ (u.stageSet p).entries ∧ (∀ e ∈ (u.stageSet p).entries, e = (entry, v) ∨ (z.state = .opened ∧ e ∈ z.entries))
              ∧ (z.state = .opened → ∀ e ∈ z.entries, e.1 ≠ entry → e ∈ (u.stageSet p).entries)
              ∧ (∀ q, q ≠ p → u.stageSet q = y.stageSet q) ∧ { u with dict := { u.dict with sets := y.dict.sets } } = y))))
    ∧ (CmdReady (.dictCommit key) s key k 0x61 → k.field 0x0B 1 = 2 →
      (i ≠ p → Completes (.dictCommit key) s key k stDENIED (leBytes 4 0x02010001) (fun u => u = y))
      ∧ (i = p → z.state ≠ .opened → Completes (.dictCommit key) s key k stBAD_VALUE (leBytes 4 0x0101000B) (fun u => u = y))
      ∧ (i = p → z.state = .opened → step ≠ 0 → (∃ n, (y.part p).stepDone = some n ∧ step ≤ n) → Completes (.dictCommit key) s key k stBAD_VALUE (leBytes 4 0x0101000A) (fun u => u = y))
      ∧ (i = p → z.state = .opened → (step = 0 ∨ ∀ n, (y.part p).stepDone = some n → n < step) →
        Completes (.dictCommit key) s key k stOK (leBytes 4 0) (fun u => u = y.setStage p { z with state := .armed, step := step, placed := step == 0 })))
    ∧ (CmdReady (.dictAbort key) s key k 0x61 → k.field 0x0B 1 = 3 →
      (i ≠ p → Completes (.dictAbort key) s key k stDENIED (leBytes 4 0x02010001) (fun u => u = y))
      ∧ (i = p → z.placed = true → Completes (.dictAbort key) s key k stREQUIRES_QUIESCE (leBytes 4 0x03010005) (fun u => u = y))
      ∧ (i = p → z.placed = false → z.state = .opened ∨ z.state = .armed → Completes (.dictAbort key) s key k stOK (leBytes 4 0) (fun u =>
          u = y.setStage p { z with state := .aborted, entries := [] }))
      ∧ (i = p → z.placed = false → z.state ≠ .opened → z.state ≠ .armed → Completes (.dictAbort key) s key k stBAD_VALUE (leBytes 4 0x0101000B) (fun u => u = y)))

/-- R390 to R393, R396 to R398: messages that are served. A READ of at most 8 bytes is answered with its value, of more opens a transfer that SEGMENT messages read by
1,024 bytes; the operator's WRITE of MGMT_PORT, WRITE_STAGED of the power limit, COMMIT and ABORT of the module's set; a longer WRITE opens a transfer.
Conventions of the model that it rests on: logs 83 to 85, 88, 117. -/
def Obligations.DictionaryMessages : Prop :=
  ∀ (m : DictMsg) (s : State) (w : Who),
    let t := fun (kind : Nat) => s.taken kind m
    let u := fun (kind : Nat) => (t kind).sys
    let src := m.path.source
    let z := s.sys.stageSet 0xFFFF
    let v := m.data.toNat % 256 ^ m.length
    let key := dictKey 0x2000 1
    (s.readyFor m 1 w → ∀ t' r, (t 1).readEntry w src m.index m.sub = (t', r) →
      (∀ e, r = .error e → e ≠ noAnswer → Answers (.dictMsgRead m) s m 1 0 0 e 0 [] t'.sys)
      ∧ (∀ b, r = .ok b → b.length ≤ 8 → Answers (.dictMsgRead m) s m 1 1 b.length 0 (leNat b) [] t'.sys)
      ∧ (∀ b, r = .ok b → 8 < b.length → t'.sys.transferRoom src = true → ∃ q, Answers (.dictMsgRead m) s m 1 0 b.length 0 0 [] q
          ∧ q.transfer? src m.transfer = some { path := src, id := m.transfer, role := m.role, kind := 1, index := m.index, sub := m.sub, length := b.length, data := b, next := 0 }
          ∧ { q with dict := { q.dict with transfers := t'.sys.dict.transfers } } = t'.sys))
    ∧ (s.readyFor m 2 w → m.index = 0x1100 → m.sub = 3 → w = .operator → (u 2).stagedHeld 0x1100 3 = false →
      (m.flags % 2 = 1 → m.length = 2 → ∃ q, Answers (.dictMsgWrite m) s m 2 0 2 0 0 [] q ∧ q.dv 0x1100 3 = v
        ∧ (∀ i n, (i ≠ 0x1100 ∨ n ≠ 3) → n < 256 → q.dv i n = (u 2).dv i n) ∧ { q with dict := { q.dict with vals := (u 2).dict.vals, banks := (u 2).dict.banks } } = u 2)
      ∧ (m.flags % 2 = 1 → m.length ≤ 8 → m.length ≠ 2 → Answers (.dictMsgWrite m) s m 2 0 m.length 0x01010003 0 [] (u 2))
      ∧ (m.flags % 2 = 0 → m.length = 2 → (u 2).transferRoom src = true → ∃ q, Answers (.dictMsgWrite m) s m 2 0 2 0 0 [] q
          ∧ q.transfer? src m.transfer = some { path := src, id := m.transfer, role := m.role, kind := 2, index := m.index, sub := m.sub, length := 2, data := [], next := 0 }))
    ∧ (s.readyFor m 3 w → m.index = 0x2000 → m.sub = 1 → w = .operator → m.flags % 2 = 1 → m.length = 4 → z.state ≠ .preparing → z.state ≠ .armed →
      ((v < 3500 ∨ 7000 < v) → Answers (.dictMsgWriteStaged m) s m 3 0 4 0x01010008 0 [] (u 3))
      ∧ (3500 ≤ v → v ≤ 7000 → ∃ q, Answers (.dictMsgWriteStaged m) s m 3 0 4 0 0 [] q ∧ (q.stageSet 0xFFFF).state = .opened ∧ (key, v) ∈ (q.stageSet 0xFFFF).entries
          ∧ (z.state = .opened → ∀ e ∈ z.entries, e.1 ≠ key → e ∈ (q.stageSet 0xFFFF).entries) ∧ { q with dict := { q.dict with sets := (u 3).dict.sets } } = u 3))
    ∧ (s.readyFor m 4 w → w = .operator → m.index = 0xFFFF → z.state = .opened →
      (m.data ≠ 0#64 → Answers (.dictMsgCommit m) s m 4 0 0 0x01010008 0 [] (u 4))
      ∧ (m.data = 0#64 → ∀ f, (u 4).refuser 0xFFFF z = some f → Answers (.dictMsgCommit m) s m 4 0 0 0x03010003 0 []
          ((u 4).setStage 0xFFFF { z with state := .aborted, step := 0, refusing := f, abort := 0x03010003 }))
      ∧ (m.data = 0#64 → (u 4).refuser 0xFFFF z = none → Answers (.dictMsgCommit m) s m 4 0 0 0 0 [] ((u 4).setStage 0xFFFF { z with state := .armed, step := 0, placed := true })))
    ∧ (s.readyFor m 5 w → w = .operator → m.index = 0xFFFF →
      (z.placed = true → Answers (.dictMsgAbort m) s m 5 0 0 0x03010005 0 [] (u 5))
      ∧ (z.placed = false → z.state = .opened → Answers (.dictMsgAbort m) s m 5 0 0 0 0 [] ((u 5).setStage 0xFFFF { z with state := .aborted, entries := [] })))
    ∧ (s.sys.reaches m.path = true → s.sys.submitOk m.path m.submit = true → s.answer m.path (s.msgIndex 6 (DictMsg.fromSource m)) = .serve → (m.role = 0 ∨ m.role = 2 ∨ m.role = 3) → m.flags < 4 →
      ((u 6).transfer? src m.transfer = none → Answers (.dictMsgSegment m) s m 6 0 0 0x01010004 0 [] (u 6))
      ∧ ∀ x, (u 6).transfer? src m.transfer = some x →
        (m.code ≠ x.next → Answers (.dictMsgSegment m) s m 6 0 0 0x01010004 0 [] ((u 6).dropTransfer src m.transfer))
        ∧ (m.code = x.next → x.kind = 1 → x.length ≤ 1024 * (x.next + 1) →
            Answers (.dictMsgSegment m) s m 6 2 x.length 0 0 ((x.data.drop (1024 * x.next)).take 1024) ((u 6).dropTransfer src m.transfer))
        ∧ (m.code = x.next → x.kind = 1 → 1024 * (x.next + 1) < x.length → ∃ q, Answers (.dictMsgSegment m) s m 6 0 x.length 0 0 ((x.data.drop (1024 * x.next)).take 1024) q
            ∧ q.transfer? src m.transfer = some { x with next := x.next + 1 })
        ∧ (m.code = x.next → x.kind = 2 → m.flags < 2 → m.segment.length ≤ 1024 → x.data.length + m.segment.length ≤ x.length → ∃ q,
            Answers (.dictMsgSegment m) s m 6 0 x.length 0 0 [] q ∧ q.transfer? src m.transfer = some { x with data := x.data ++ m.segment, next := x.next + 1 }))

/-- R388, R391, R393, R399, R400, R459: a transfer that receives nothing ends with TRANSFER_IDLE; an armed set whose markers are placed comes into force; Neighbor
Solicitations for the port's address are answered; ENTDAA gives the I3C target an address, at which a selected entry is read.
Conventions of the model that it rests on: logs 84, 86, 117. -/
def Obligations.DictionaryPorts : Prop :=
  ∀ s : State,
    (∀ (path : Path) (id : Nat),
      let src := path.source
      (s.sys.transfer? src id = none → exec (.transferIdle path id) s = .next s)
      ∧ ∀ x, s.sys.transfer? src id = some x → ∃ t, exec (.transferIdle path id) s = .next t ∧ t.sys.transfer? src id = none
        ∧ (∀ q n, (q ≠ src ∨ n ≠ id) → t.sys.transfer? q n = s.sys.transfer? q n) ∧ (∀ fn, src = .window fn → (t.sys.areas fn).count = s.sys.dict.submits.get 0 fn)
        ∧ t.sys.dict.replies = s.sys.dict.replies ++ [⟨src, leBytes 1 (0x80 + x.kind) ++ leBytes 1 x.role ++ leBytes 2 id ++ leBytes 2 x.index ++ leBytes 1 x.sub
            ++ [0, 0, 0, 0, 0] ++ leBytes 4 0x01010006 ++ List.replicate 8 0⟩]
        ∧ { t.sys with dict := { t.sys.dict with transfers := s.sys.dict.transfers, replies := s.sys.dict.replies, windows := s.sys.dict.windows } } = s.sys)
    ∧ (∀ (scope : Nat),
      let z := s.sys.stageSet scope
      (z.state ≠ .armed ∨ z.placed = false → exec (.stagedSetApply scope) s = .next s)
      ∧ (z.state = .armed → z.placed = true → (z.entries.map (fun e => e.1)).Nodup → ∃ t, exec (.stagedSetApply scope) s = .next t ∧ t.fuses = s.fuses ∧ t.pending = s.pending
          ∧ t.sys.stageSet scope = { z with state := .applied } ∧ (∀ e ∈ z.entries, t.sys.dv (e.1 / 256) (e.1 % 256) = e.2)
          ∧ (∀ i n, n < 256 → (∀ e ∈ z.entries, e.1 ≠ dictKey i n) → t.sys.dv i n = s.sys.dv i n) ∧ (∀ q, q ≠ scope → t.sys.stageSet q = s.sys.stageSet q)
          ∧ { t.sys with dict := s.sys.dict, plat := { t.sys.plat with kept := s.sys.plat.kept } } = s.sys))
    ∧ (∀ target : Nat, (s.sys.fn fnBowline).state = .ready →
      (target ≠ s.sys.dv 0x1100 2 → exec (.neighborSolicitation target) s = .next s)
      ∧ (target = s.sys.dv 0x1100 2 → exec (.neighborSolicitation target) s = .next { s with sys := { s.sys with dict :=
          { s.sys.dict with adverts := s.sys.dict.adverts ++ [(target, Config.mgmtMac.toNat)] } } }))
    ∧ (∀ addr : Nat, s.sys.plat.powered = true → addr < 128 →
      exec (.entdaa addr) s = .next { s with sys := { s.sys with dict := { s.sys.dict with
        i3cAddr := some addr, replies := s.sys.dict.replies ++ [⟨.i3c, leBytes 6 (Config.provisionalId Config.serial).toNat⟩] } } })
    ∧ ∀ (i sub a : Nat), s.sys.dict.i3cAddr = some a →
      let u := { s.sys with dict := { s.sys.dict with i3cSel := some (i, sub) } }
      (s.answer .i3c i ≠ .serve → exec (.i3cEntrySelect i sub) s = .next { s with sys := u.reply .i3c [] })
      ∧ ((∀ e, entryOf i sub = some e → e.i3c = false) → exec (.i3cEntrySelect i sub) s = .next { s with sys := u.reply .i3c [] })
      ∧ (s.answer .i3c i = .serve → i = 0x1000 → sub = 4 → exec (.i3cEntrySelect i sub) s = .next { s with sys := u.reply .i3c (leBytes 4 1) })
      ∧ (s.answer .i3c i = .serve → i = 0x8000 → sub = 1 → exec (.i3cEntrySelect i sub) s = .next { s with sys := u.reply .i3c (leBytes 1 s.fuses.lcCode) })

/-! The host interface: entries, records, residency -/

/-- R284, R288, R293 to R295, R306: a write of a whole slot of a resident context with a session. An entry in order whose tag passes joins its ring, and EXPECT and
CONSUMED move; one whose tag fails is rejected; one below EXPECT, and one of another partition's context, changes nothing of the context but the slot and counts.
Conventions of the model that it rests on: logs 56, 57. -/
def Obligations.Intake : Prop :=
  ∀ (vf : Fin 80) (c : Fin 16384) (r : Fin 4) (i : Nat) (data : Bytes) (s : State), i < 128 → data.length = 128 →
    ((s.sys.part vf.val).state = .joining ∨ (s.sys.part vf.val).state = .active) →
    let x := s.sys.ctx c.val
    let g := s.sys.ring c.val r.val
    let n := fieldN data 0 8
    (s.sys.plat.perst = true → exec (.intakeEntry vf c r (128 * i) data) s = .next s)
    ∧ ((x.opened = false ∨ x.part ≠ vf.val) → ∃ t, exec (.intakeEntry vf c r (128 * i) data) s = .next t ∧ t.sys.ctxs = s.sys.ctxs ∧ t.sys.parts = s.sys.parts ∧ t.fuses = s.fuses)
    ∧ ∀ kx, s.sys.plat.perst = false → x.opened = true → x.part = vf.val → x.resident = true → x.evictFor = none → x.closing = false → x.intakeHeld = false → x.key = some kx → g.tail = 0#128 →
      fieldN data 8 2 = c.val → fieldN data 0xA 1 = r.val → fieldN data 0xB 1 = 0 →
      let pay := gcmCrypt kx (recNonce c.val 0 r.val n) (sliceB data 16 96)
      let passes := tagBytes (Config.gcmTag kx (recNonce c.val 0 r.val n) (data.take 16) (sliceB data 16 96)) = sliceB data 112 16
      (n = g.expect → if passes then ∃ t, exec (.intakeEntry vf c r (128 * i) data) s = .next t
          ∧ t.fuses = s.fuses ∧ t.pending = s.pending ∧ t.sys.mem = s.sys.mem ∧ t.sys.bights = s.sys.bights ∧ (∀ d, d ≠ c.val → t.sys.ctx d = s.sys.ctx d)
          ∧ (t.sys.ring c.val r.val).expect = n + 1 ∧ (t.sys.ring c.val r.val).tail = 0#128 ∧ (t.sys.ctx c.val).consumed = consumedAfter x.consumed x.seq0 (fieldN data 0xC 4)
          ∧ (opcodeDefined (fieldN pay 0 1) = true → fieldN pay 4 4 = 0 → ∃ k, t.sys.parts = s.sys.parts ∧ (t.sys.ring c.val r.val).cmds = g.cmds ++ [k]
            ∧ k.lay = n ∧ k.ring = r.val ∧ k.payload = pay ∧ k.irq = false ∧ k.plain = false ∧ k.progress = .waiting ∧ k.batch = x.batchNext ∧ k.refs = s.sys.liveHandles vf.val k
            ∧ (t.sys.ctx c.val).outbox = x.outbox ∧ (t.sys.ctx c.val).batchNext = x.batchNext + 1
            ∧ (t.sys.ctx c.val).batches = x.batches ++ [{ id := x.batchNext, number := 0, closed := true, pins := [], spec := false, hauled := false, cut := false }])
        else ∃ t, exec (.intakeEntry vf c r (128 * i) data) s = .next t ∧ t.sys.parts = s.sys.parts ∧ t.sys.mem = s.sys.mem
          ∧ (t.sys.ring c.val r.val).expect = g.expect ∧ (t.sys.ring c.val r.val).tail = 0#128 ∧ (t.sys.ring c.val r.val).cmds = g.cmds
          ∧ (t.sys.ctx c.val).outbox = x.outbox ++ [{ kind := 2, lay := n, ring := r.val, status := stTAG_FAIL, result := [], irq := false, plain := false }]
          ∧ (t.sys.ctx c.val).usage.rejected = x.usage.rejected + 1)
      ∧ (n < g.expect → ∃ t, exec (.intakeEntry vf c r (128 * i) data) s = .next t ∧ t.sys.parts = s.sys.parts ∧ t.sys.mem = s.sys.mem
        ∧ { t.sys.ring c.val r.val with storage := g.storage } = g ∧ (t.sys.ctx c.val).outbox = x.outbox ∧ (t.sys.ctx c.val).usage.rejected = x.usage.rejected + 1)

/-- R291, R303, R304: the oldest record of a context is written with the next SEQ at its place in the completion ring while the credit allows it, with an MSI-X message when it asks for
one and the vector is not masked; at the end of a vector's interval one message is sent for all that was deferred.
Conventions of the model that it rests on: logs 60, 61, 162. -/
def Obligations.CompletionRecords : Prop :=
  ∀ (c : Fin 16384) (s : State),
    let x := s.sys.ctx c.val
    let B := s.sys.msix x.part
    let v := x.msix
    let more := fun (l : List Nat) => if l.contains v then l else l ++ [v]
    (x.closing = false → (x.outbox = [] ∨ x.consumed + x.compEntries ≤ x.seq0 ∨ s.sys.plat.perst = true) → exec (.completionRecord c) s = .next s)
    ∧ (∀ e rest, x.closing = false → x.opened = true → x.outbox = e :: rest → x.seq0 < x.consumed + x.compEntries → (x.key.isSome = true ∨ x.owner = none) → s.sys.plat.perst = false →
      let y := { x with outbox := rest, seq0 := x.seq0 + 1, usage := { x.usage with completed := x.usage.completed + (if e.kind = 1 then 0 else 1) } }
      let masked := (B.table.get MsixEntry.zero v).masked
      ∃ (t : State) (d : Bytes), exec (.completionRecord c) s = .next t ∧ t.sys.hostOut = s.sys.hostOut ++ [⟨x.compBase + 64 * (x.seq0 % x.compEntries), d⟩]
        ∧ { t.sys with ctxs := s.sys.ctxs, hostOut := s.sys.hostOut, msixOut := s.sys.msixOut, bar4 := s.sys.bar4 } = s.sys ∧ t.sys.ctx c.val = y ∧ (∀ g, g ≠ x.part → t.sys.msix g = s.sys.msix g) ∧ t.fuses = s.fuses ∧ (∀ j, j ≠ c.val → t.sys.ctx j = s.sys.ctx j)
        ∧ (x.key = none ∨ e.plain = true → d = leBytes 8 x.seq0 ++ leBytes 2 c.val ++ [0, 1, 0, 0, 0, 0] ++ leBytes 8 e.lay ++ leBytes 1 e.ring ++ leBytes 1 e.kind ++ leBytes 1 e.status
            ++ [0] ++ (e.result ++ List.replicate 20 0).take 20 ++ List.replicate 16 0)
        ∧ (∀ kx, x.key = some kx → e.plain = false →
            let head := leBytes 8 x.seq0 ++ leBytes 2 c.val ++ [0, 0, 0, 0, 0, 0]
            let ct := gcmCrypt kx (leBytes 2 c.val ++ [2, 0] ++ leBytes 8 x.seq0) (leBytes 8 e.lay ++ leBytes 1 e.ring ++ leBytes 1 e.kind ++ leBytes 1 e.status ++ [0] ++ (e.result ++ List.replicate 20 0).take 20)
            d = head ++ ct ++ tagBytes (Config.gcmTag kx (leBytes 2 c.val ++ [2, 0] ++ leBytes 8 x.seq0) head ct))
        ∧ (v = 0xFFFF ∨ (e.irq = false ∧ e.kind ≠ 1) → t.sys.msixOut = s.sys.msixOut ∧ t.sys.msix x.part = B)
        ∧ (v ≠ 0xFFFF → (e.irq = true ∨ e.kind = 1) → v ∉ B.sent →
            if masked then t.sys.msixOut = s.sys.msixOut ∧ t.sys.msix x.part = { B with sent := B.sent ++ [v], pending := more B.pending }
            else t.sys.msixOut = s.sys.msixOut ++ [(x.part, v)] ∧ t.sys.msix x.part = { B with sent := B.sent ++ [v] })
        ∧ (v ≠ 0xFFFF → (e.irq = true ∨ e.kind = 1) → v ∈ B.sent → t.sys.msixOut = s.sys.msixOut ∧ t.sys.msix x.part = { B with due := more B.due }))
    ∧ (v = 0xFFFF → exec (.msixMessage c) s = .next s)
    ∧ (v ≠ 0xFFFF → v ∈ B.due → s.sys.plat.perst = false → ∃ t, exec (.msixMessage c) s = .next t ∧ { t.sys with bar4 := s.sys.bar4, msixOut := s.sys.msixOut } = s.sys
        ∧ (if (B.table.get MsixEntry.zero v).masked then t.sys.msixOut = s.sys.msixOut ∧ t.sys.msix x.part = { B with due := B.due.filter (· != v), pending := more B.pending }
           else t.sys.msixOut = s.sys.msixOut ++ [(x.part, v)] ∧ t.sys.msix x.part = { B with due := B.due.filter (· != v) }))
    ∧ (v ≠ 0xFFFF → v ∉ B.due → ∃ t, exec (.msixMessage c) s = .next t ∧ { t.sys with bar4 := s.sys.bar4 } = s.sys ∧ t.sys.msix x.part = { B with sent := B.sent.filter (· != v) })

/-- R298 to R301: a context that wants a slot takes a free one of its partition's share; an eviction that times out leaves its context running; the quantum of a Bight leaves
it to the only RUN that wants it, or saves it, when it is quiet, and goes on with another context's RUN.
Conventions of the model that it rests on: logs 59, 116. -/
def Obligations.Residency : Prop :=
  ∀ s : State,
    (∀ c : Fin 16384,
      let x := s.sys.ctx c.val
      let P := s.sys.part x.part
      let rs := s.sys.residents
      ((x.opened = false ∨ x.resident = true ∨ x.want = false) → exec (.contextResident c) s = .next { s with sys := { s.sys with replay := none } })
      ∧ (x.opened = true → x.resident = false → x.want = true → (P.state = .joining ∨ P.state = .active) → (∀ e ∈ s.sys.ctxs, e.2.evictFor ≠ some c.val) → rs.length < 96 →
          (rs.countP (fun e => e.2.part == x.part && !e.2.pool)) < fieldN P.config 0x12 1 → ∃ t, exec (.contextResident c) s = .next t
            ∧ (t.sys.ctx c.val).resident = true ∧ (t.sys.ctx c.val).pool = false ∧ (t.sys.ctx c.val).want = false ∧ t.sys.mem = s.sys.mem ∧ t.fuses = s.fuses)
      ∧ (x.evictFor = none → exec (.evictionTimeout c) s = .next s)
      ∧ (x.evictFor.isSome = true → (∀ r < 4, (s.sys.ring c.val r).tail = 0#128) → ∃ t, exec (.evictionTimeout c) s = .next t ∧ t.sys.ctx c.val = { x with evictFor := none, spared := true } ∧ (∀ d, d ≠ c.val → t.sys.ctx d = s.sys.ctx d)
          ∧ { t.sys with ctxs := s.sys.ctxs, bights := s.sys.bights } = s.sys
          ∧ ∀ b : Fin 80, t.sys.bight b.val = if ∃ r, (s.sys.bight b.val).run = some r ∧ r.ctx = c.val then { s.sys.bight b.val with stopped := !s.sys.fnReady (fnStrand (b.val / 8)) } else s.sys.bight b.val))
    ∧ ∀ b : Fin 80,
      let x := s.sys.bight b.val
      (x.run = none → exec (.bightQuantumExpiry b) s = .next { s with sys := { s.sys with replay := none } })
      ∧ ∀ r, x.run = some r → (s.sys.ctx r.ctx).evictFor = none →
        ((∀ d, d ≠ r.ctx → s.sys.wantsBight d b.val = false) → ∃ t, exec (.bightQuantumExpiry b) s = .next t ∧ t.sys.bight b.val = { x with stopped := x.stopped && !s.sys.fnReady (fnStrand (b.val / 8)) }
          ∧ { t.sys with bights := s.sys.bights, replay := s.sys.replay } = s.sys)
        ∧ ∀ d, r.ctx < d → (s.sys.ctx d).opened = true → (s.sys.ctx d).part = r.part → s.sys.wantsBight d b.val = true → (∀ e, e ≠ d → e ≠ r.ctx → s.sys.wantsBight e b.val = false) →
          (s.sys.quiet b.val = false → ∃ t, exec (.bightQuantumExpiry b) s = .next t ∧ t.sys.bight b.val = { x with stopped := true } ∧ ∃ h ∈ t.sys.waiting, h.cmd = .bightQuantumExpiry b)
          ∧ (s.sys.quiet b.val = true → s.sys.holder b.val = some r.part → s.sys.fnReady (fnStrand (b.val / 8)) = true → (s.sys.savedBight d b.val).run.isSome = true →
              ∃ t, exec (.bightQuantumExpiry b) s = .next t ∧ t.sys.savedBight r.ctx b.val = { x with stopped := false } ∧ t.sys.bight b.val = { s.sys.savedBight d b.val with turn := d }
                ∧ t.sys.mem = s.sys.mem ∧ ∀ e : Fin 80, e ≠ b → t.sys.bight e.val = s.sys.bight e.val)

/-! Resets, power, functions -/

/-- R285, R286, R413, R419, R420: a Function Level Reset, of a virtual function or the physical one, a hot reset and PERST_N, of partitions with nothing in progress; the host link retrains.
Conventions of the model that it rests on: logs 103, 162. -/
def Obligations.HostResets : Prop :=
  ∀ s : State,
    let fabKept := fun (t : State) => { t.sys.fab with flows := s.sys.fab.flows } = s.sys.fab
      ∧ ∀ f, t.sys.flow f = s.sys.flow f ∨ t.sys.flow f = { s.sys.flow f with ctx := noCtx, opener := none }
    (∀ fn : Nat, (80 < fn → exec (.functionLevelReset fn) s = .next s)
      ∧ (fn = 80 → ∃ t, exec (.functionLevelReset fn) s = .next t ∧ t.fuses = s.fuses ∧ t.pending = s.pending ∧ t.sys.opEvents = []
          ∧ { t.sys with opEvents := s.sys.opEvents, bar4 := s.sys.bar4, dict := s.sys.dict } = s.sys ∧ (∀ f, f ≠ 80 → t.sys.bar4.get Bar4.empty f = s.sys.bar4.get Bar4.empty f)
          ∧ (∀ x ∈ t.sys.dict.transfers, x.path ≠ .window 80) ∧ t.sys.dict.vals = s.sys.dict.vals)
      ∧ (fn < 80 → s.sys.still fn → ∃ t, exec (.functionLevelReset fn) s = .next t ∧ t.fuses = s.fuses ∧ t.pending = s.pending ∧ HostReset s.sys t.sys fn ∧ t.sys.bar4.get Bar4.empty fn = Bar4.empty
          ∧ (∀ c, ((s.sys.ctx c).opened = false ∨ (s.sys.ctx c).part ≠ fn) → { t.sys.ctx c with outbox := (s.sys.ctx c).outbox } = s.sys.ctx c) ∧ fabKept t ∧ t.sys.plat = s.sys.plat))
    ∧ ((∀ p < 80, s.sys.still p) → ∃ t, exec .hotReset s = .next t ∧ t.fuses = s.fuses ∧ (∀ p < 80, HostReset s.sys t.sys p) ∧ fabKept t ∧ t.sys.plat = s.sys.plat ∧ t.sys.opEvents = [])
    ∧ ((∀ p < 80, s.sys.still p) → ∃ t, exec .perstNAssert s = .next t ∧ t.fuses = s.fuses ∧ (∀ p < 80, HostReset s.sys t.sys p) ∧ t.sys.plat.perst = true
        ∧ (∀ g, g ≠ fnHost → t.sys.fn g = s.sys.fn g)
        ∧ t.sys.fn fnHost = if (s.sys.fn fnHost).state = .off ∨ (s.sys.fn fnHost).state = .failed then s.sys.fn fnHost else ⟨.off, false, (s.sys.fn fnHost).cause⟩)
    ∧ (s.sys.plat.perst = false → exec .perstNDeassert s = .next s)
    ∧ (s.sys.plat.perst = true → ∃ (t : State) (x : Fn), exec .perstNDeassert s = .next t ∧ t.fuses = s.fuses ∧ t.sys.plat.perst = false ∧ Enters s.sys t.sys fnHost x
        ∧ (s.fuses.lcState.operates = true → s.sys.fnUp fnBowline = true →
            ((s.sys.fn fnHost).state = .failed ∨ ((s.sys.fn fnHost).state = .off ∧ s.sys.dv 0x1201 2 = 1)) → x = ⟨.waking, false, 0⟩)
        ∧ ((s.fuses.lcState.operates = false ∨ s.sys.fnUp fnBowline = false) → x = s.sys.fn fnHost))
    ∧ ∀ full : Bool, ∃ (t : State) (x : Fn), exec (.hostLinkRetrain full) s = .next t ∧ t.fuses = s.fuses ∧ t.sys.plat.reduced = !full ∧ Enters s.sys t.sys fnHost x
        ∧ ((s.sys.fn fnHost).state = .ready → full = false → x = ⟨.degraded, false, 0x103⟩)
        ∧ ((s.sys.fn fnHost).state = .degraded → full = true → x = ⟨.ready, false, (s.sys.fn fnHost).cause⟩)
        ∧ ((s.sys.fn fnHost).state ≠ .ready → (s.sys.fn fnHost).state ≠ .degraded → x = s.sys.fn fnHost)

/-- R401, R406 to R411, R416 to R418, R457: boot, loss of power and its causes, the watchdog's warm reset, low input, samples of the input power and the control window.
Conventions of the model that it rests on: logs 99, 100, 104. -/
def Obligations.Power : Prop :=
  ∀ s : State,
    let P := s.sys.plat
    let x := P.power
    let lost := fun (t : State) => t.fuses = s.fuses ∧ t.pending = s.pending ∧ t.sys.ctxs = [] ∧ t.sys.parts = State.reset.sys.parts ∧ t.sys.mem = State.reset.sys.mem
      ∧ (∀ b : Fin 80, t.arch b = BightArch.zero) ∧ t.sys.waiting = [] ∧ t.sys.fab.flows = State.reset.sys.fab.flows ∧ t.sys.dict.vals = [] ∧ t.sys.dict.banks = s.sys.dict.banks
      ∧ t.sys.trust = State.reset.sys.trust ∧ t.sys.plat.perst = P.perst
    ((P.powered = true ∨ P.latched = true) → exec .boot s = .next s)
    ∧ (P.powered = false → P.latched = false → ∃ t, exec .boot s = .next t ∧ t.sys.plat.powered = true ∧ Enters s.sys t.sys fnBowline ⟨.waking, false, 0⟩ ∧ t.sys.parts = s.sys.parts)
    ∧ (∀ rise, ∃ t, exec (.shutdown rise) s = .next t ∧ lost t ∧ (∀ f, t.sys.fn f = Fn.off) ∧ t.sys.log = State.reset.sys.log ∧ t.sys.plat.powered = false
        ∧ t.sys.plat.latched = (P.latched && rise))
    ∧ (P.powered = false → exec .overtempShutdown s = .next s ∧ exec .watchdogExpiry s = .next s ∧ exec .lowInput s = .next s)
    ∧ (P.powered = true → ∃ t, exec .overtempShutdown s = .next t ∧ lost t ∧ (∀ f, t.sys.fn f = Fn.off) ∧ t.sys.log = State.reset.sys.log ∧ t.sys.plat.powered = false ∧ t.sys.plat.latched = true)
    ∧ (P.powered = true → ∃ t, exec .watchdogExpiry s = .next t ∧ lost t ∧ t.sys.plat.powered = true ∧ (∀ f, t.sys.fn f = if f = fnBowline then ⟨.waking, false, 0⟩ else Fn.off)
        ∧ t.sys.log.ring = s.sys.log.ring ∧ t.sys.log.counters = s.sys.log.counters)
    ∧ (P.powered = true → ∃ t, exec .lowInput s = .next t ∧ t.sys.plat = { P with power := { x with low := true, level := 7 } } ∧ t.sys.mem = s.sys.mem ∧ t.fuses = s.fuses)
    ∧ exec .v56InReturn s = .next { s with sys := { s.sys with plat := { P with power := { x with low := false } } } }
    ∧ (∀ ma mv : Nat, P.powered = true → ∃ t, exec (.powerSample ma mv) s = .next t ∧ t.sys.mem = s.sys.mem ∧ t.fuses = s.fuses
        ∧ t.sys.plat = { P with power := { x with sum := x.sum + ma * mv, count := x.count + 1, millivolts := mv, microwatts := ma * mv, spike := if 7700000000 < ma * mv then true else x.spike, level := if 7700000000 < ma * mv then 7 else x.level } })
    ∧ (P.powered = true → ∃ (t : State) (level below : Nat), exec .powerWindowEnd s = .next t ∧ t.sys.mem = s.sys.mem ∧ t.fuses = s.fuses
        ∧ t.sys.plat = { P with power := { x with level := level, below := below, sum := 0, count := 0, spike := false } }
        ∧ (x.low = true ∨ x.spike = true ∨ x.count = 0 → level = x.level)
        ∧ let lim := s.sys.dv 0x2000 1 * 1000000 * x.count
          (x.low = false → x.spike = false → x.count ≠ 0 → lim < x.sum → level = min 7 (x.level + 1) ∧ below = 0)
          ∧ (x.count ≠ 0 → x.sum ≤ lim → lim * 95 ≤ x.sum * 100 → level = x.level ∧ below = 0)
          ∧ (x.low = false → x.spike = false → x.count ≠ 0 → x.sum * 100 < lim * 95 → x.below < 7 → level = x.level ∧ below = x.below + 1)
          ∧ (x.low = false → x.spike = false → x.count ≠ 0 → x.sum * 100 < lim * 95 → x.below = 7 → level = x.level - 1))

/-- R413 to R415, R419 to R425, R430: a function wakes, becomes READY, DEGRADED or FAILED; ENABLE; a drain ends; an uncontained error.
Conventions of the model that it rests on: logs 97, 98, 101, 102. -/
def Obligations.Functions : Prop :=
  ∀ (f : Nat) (s : State),
    let x := s.sys.fn f
    let into := fun (i : Instr) (y : Fn) => ∃ t, exec i s = .next t ∧ t.fuses = s.fuses ∧ t.pending = s.pending ∧ Enters s.sys t.sys f y
    (isFunction f = true → f ≠ fnBowline → s.fuses.lcState.operates = true → x.state = .off → s.sys.dv (0x1200 + f) 2 = 1 → s.sys.depsUp f = true → into (.functionWake f) ⟨.waking, false, 0⟩)
    ∧ (x.state ≠ .off ∨ s.sys.depsUp f = false ∨ s.sys.dv (0x1200 + f) 2 ≠ 1 → exec (.functionWake f) s = .next s)
    ∧ (x.state = .waking → into (.wakeLimit f) ⟨.failed, false, 1⟩) ∧ (x.state ≠ .waking → exec (.wakeLimit f) s = .next s)
    ∧ (∀ cause, x.state ≠ .waking → exec (.functionReady f cause) s = .next s)
    ∧ (x.state = .waking → f ∈ s.sys.plat.offBound → ∀ cause, into (.functionReady f cause) ⟨.off, false, x.cause⟩)
    ∧ (x.state = .waking → f ∉ s.sys.plat.offBound → f ≠ fnBowline → isHawser f = false → isStrand f = false → into (.functionReady f 0) ⟨.ready, false, x.cause⟩)
    ∧ (∀ cause, x.state = .waking → f ∉ s.sys.plat.offBound → cause ≠ 0 → isHawser f = false → f ≠ fnHost → into (.functionReady f cause) ⟨.failed, false, cause⟩)
    ∧ (x.state = .waking → f ∉ s.sys.plat.offBound → f = fnHost → into (.functionReady f 0x103) ⟨.degraded, false, 0x103⟩)
    ∧ (x.state = .waking → f ∉ s.sys.plat.offBound → isStrand f = true → ∃ t, exec (.functionReady f 0) s = .next t ∧ t.sys.fn f = ⟨.ready, false, x.cause⟩ ∧ t.sys.mem = s.sys.mem
        ∧ ∀ b : Fin 80, b.val / 8 = f - 0x10 → (s.sys.bight b.val).run.isSome = true → t.sys.bight b.val = { s.sys.bight b.val with stopped := false })
    ∧ (∀ cause, x.state = .waking → f ∉ s.sys.plat.offBound → isHawser f = true → cause = 0x101 ∨ cause = 0x102 → ∃ t, exec (.functionReady f cause) s = .next t ∧ t.sys.fn f = ⟨.degraded, false, cause⟩)
    ∧ (x.state = .waking → f ∉ s.sys.plat.offBound → f = fnBowline → s.fuses.lcState = .production → ∃ t, exec (.functionReady f 0) s = .next t ∧ t.fuses = s.fuses ∧ t.sys.fn f = ⟨.ready, false, x.cause⟩
        ∧ t.sys.trust.debug = false ∧ t.sys.trust.fails = 0 ∧ ∀ i, s.sys.dict.newer s.fuses = some i → t.sys.dict.vals = (s.sys.dict.banks[i]).vals ∧ t.sys.trust.flash = (s.sys.dict.banks[i]).image)
    ∧ (∀ (r : ReqF) (on : Bool), s.serves r.path r.submit r.role r.transfer (0x1200 + f) .operator → s.sys.plat.margin.running = false →
      (isFunction f = false → Grants (.enable r f on) s r (0x1200 + f) 2 0x01010007 (s.takenReq r (0x1200 + f) 2))
      ∧ (on = false → (f = fnBowline ∨ f = fnHost) → Grants (.enable r f on) s r (0x1200 + f) 2 0x02010002 (s.takenReq r (0x1200 + f) 2))
      ∧ (isFunction f = true → on = true → x.state = .waking → f ∈ s.sys.plat.offBound → Grants (.enable r f on) s r (0x1200 + f) 2 0 (s.takenReq r (0x1200 + f) 2))
      ∧ (isFunction f = true → on = true → (x.state = .waking → f ∉ s.sys.plat.offBound) → ∃ t, Grants (.enable r f on) s r (0x1200 + f) 2 0 t ∧ t.fuses = s.fuses ∧ t.sys.dv (0x1200 + f) 2 = 1 ∧ t.sys.mem = s.sys.mem
          ∧ t.sys.fn f = if x.state = .draining then { x with pending := true } else x)
      ∧ (isFunction f = true → on = false → f ≠ fnBowline → f ≠ fnHost → ∃ t, Grants (.enable r f on) s r (0x1200 + f) 2 0 t ∧ t.fuses = s.fuses ∧ t.sys.dv (0x1200 + f) 2 = 0 ∧ t.sys.mem = s.sys.mem
          ∧ t.sys.fn f = (if x.state = .ready ∨ x.state = .degraded then ⟨.draining, false, x.cause⟩ else if x.state = .draining then { x with pending := false }
              else if x.state = .failed then ⟨.off, false, x.cause⟩ else x)
          ∧ (x.state = .waking → f ∈ t.sys.plat.offBound)
          ∧ (isStrand f = true → (x.state = .ready ∨ x.state = .degraded) → ∀ b : Fin 80, b.val / 8 = f - 0x10 → (t.sys.bight b.val).stopped = true)))
    ∧ (x.state ≠ .draining → exec (.drainComplete f) s = .next { s with sys := { s.sys with replay := none } })
    ∧ (x.state = .draining → isHawser f = true →
      ((∃ e ∈ s.sys.fab.flows, flowDie e.1 = f - 0x40 ∧ e.2.state ≠ .free) → ∃ t, exec (.drainComplete f) s = .next t ∧ (∃ h ∈ t.sys.waiting, h.cmd = .drainComplete f) ∧ t.sys.plat = s.sys.plat)
      ∧ ((∀ e ∈ s.sys.fab.flows, flowDie e.1 = f - 0x40 → e.2.state = .free) → ∃ t, exec (.drainComplete f) s = .next t
          ∧ t.sys.port (2 * (f - 0x40)) = ⟨.disabled, 0⟩ ∧ t.sys.port (2 * (f - 0x40) + 1) = ⟨.disabled, 0⟩ ∧ t.sys.mem = s.sys.mem
          ∧ t.sys.fn f = if x.pending = true ∧ s.sys.depsUp f = true then ⟨.waking, false, 0⟩ else ⟨.off, false, x.cause⟩))
    ∧ (∀ store : Nat,
      (x.state ≠ .ready → x.state ≠ .degraded → x.state ≠ .draining → exec (.uncontainedError f store) s = .next s)
      ∧ (x.state = .ready ∨ x.state = .degraded ∨ x.state = .draining → ∃ t, exec (.uncontainedError f store) s = .next t ∧ t.fuses = s.fuses ∧ t.sys.fn f = ⟨.failed, false, 7⟩
          ∧ (isCleat f = true → s.sys.begunOn (f - 0x50) = [] → Enters s.sys t.sys f ⟨.failed, false, 7⟩ ∧ t.sys.log.counters.get 0 (dictKey 0x7100 3) = s.sys.log.counters.get 0 (dictKey 0x7100 3) + 1)
          ∧ (isStack f = true → ∀ h ∈ fnHanks f, (t.sys.region 0 h).held = [] ∧ ∀ e ∈ (s.sys.region 0 h).held, e.2 = true → (thimbleLevel e.1, thimbleIndex e.1) ∈ (t.sys.region 0 h).doubt)))
    ∧ (isStack f = true → x.state = .off → s.fuses.lcState.operates = true → s.sys.dv (0x1200 + f) 2 = 1 → s.sys.depsUp f = true → ∃ t, exec (.functionWake f) s = .next t
        ∧ ∀ h ∈ fnHanks f, (t.sys.region 0 h).doubt = [] ∧ ∀ d ∈ (s.sys.region 0 h).doubt, ∀ page, page / 8 ^ d.1 = d.2 → (t.sys.region 0 h).listed page = true)

/-- R215 to R222, R426: readings and windows of a stack or package controller; a margining run of a target that is READY and held by no partition, its abort and its end.
Conventions of the model that it rests on: logs 105, 106. -/
def Obligations.TemperatureMargining : Prop :=
  ∀ s : State,
    (∀ (u : Fin 30) (raw : Int),
      let x := s.sys.thermOf u.val
      let limit := fun (sub : Nat) => ((s.sys.plat.kept.get? (8 * u.val + sub)).getD (s.sys.dv 0x2010 sub) : Int)
      let crit := limit (if u.val < 20 then 3 else 6)
      let warn := limit (if u.val < 20 then 2 else 5)
      let f := if u.val < 20 then 0x20 + u.val else 0x60 + (u.val - 20)
      let becomes := fun (i : Instr) (y : Therm) => ∃ t, exec i s = .next t ∧ t.fuses = s.fuses ∧ t.sys.thermOf u.val = y ∧ ∀ v, v ≠ u.val → t.sys.thermOf v = s.sys.thermOf v
      let read : Therm := { x with sum := x.sum + raw, count := x.count + 1 }
      let ended : Therm := { x with sum := 0, count := 0, lastSum := x.sum, lastCount := x.count }
      ((s.sys.fn f).state ≠ .ready → (s.sys.fn f).state ≠ .draining → exec (.thermalReading u raw) s = .next s ∧ exec (.thermalWindowEnd u) s = .next s)
      ∧ ((s.sys.fn f).state = .ready ∨ (s.sys.fn f).state = .draining →
        (crit ≤ raw → becomes (.thermalReading u raw) { read with level := 4 })
        ∧ (raw < crit → x.level = 4 → becomes (.thermalReading u raw) (if raw < crit - 3 then { read with level := 3 } else read))
        ∧ (raw < crit → x.level ≠ 4 → becomes (.thermalReading u raw) read)
        ∧ (x.count = 0 → becomes (.thermalWindowEnd u) ended)
        ∧ (x.count ≠ 0 → x.level ≤ 2 → warn * x.count ≤ x.sum → becomes (.thermalWindowEnd u) { ended with level := x.level + 1 })
        ∧ (x.count ≠ 0 → 1 ≤ x.level → x.level ≤ 3 → x.sum < (warn - 3) * x.count → becomes (.thermalWindowEnd u) { ended with level := x.level - 1 })
        ∧ (x.count ≠ 0 → x.level = 4 ∨ ((warn - 3) * x.count ≤ x.sum ∧ x.sum < warn * x.count) → becomes (.thermalWindowEnd u) ended)))
    ∧ (∀ (r : ReqF) (w : Who), s.serves r.path r.submit r.role r.transfer 0x9000 w → (w = .operator ∨ w = .vendor) →
      let u := s.takenReq r 0x9000 1
      let target := s.sys.dv 0x9000 2
      let f := if target < 20 then 0x20 + target else 0x60 + (target - 0x40)
      let m := s.sys.plat.margin
      let all := fun (code : Nat) => Grants (.timingScan r) s r 0x9000 1 code u ∧ Grants (.supplyScan r) s r 0x9000 1 code u
      ((s.sys.fn f).state ≠ .ready → all 0x02010002)
      ∧ ((s.sys.fn f).state = .ready → (∃ h ∈ targetHanks target, (s.sys.holder h).isSome = true) → all 0x03010001)
      ∧ ((s.sys.fn f).state = .ready → (∀ h ∈ targetHanks target, s.sys.holder h = none) →
        (m.running = true → all 0x03010004)
        ∧ (m.running = false → Grants (.timingScan r) s r 0x9000 1 0 { u with sys := { u.sys with plat := { s.sys.plat with margin := { status := 1, supply := false, target := target, buffer := [] } } } }
            ∧ Grants (.supplyScan r) s r 0x9000 1 0 { u with sys := { u.sys with plat := { s.sys.plat with margin := { status := 1, supply := true, target := target, buffer := [] } } } }))
      ∧ (m.running = false → Grants (.marginAbort r) s r 0x9000 1 0x02010002 u)
      ∧ (m.running = true → ∃ (t : State) (n : Nat), Grants (.marginAbort r) s r 0x9000 1 0 t ∧ { t.sys.plat with margin := m } = s.sys.plat ∧ t.sys.plat.margin.status = 3
          ∧ t.sys.plat.margin.buffer.length = 16 * n ∧ n ≤ m.records ∧ t.sys.plat.margin.target = m.target
          ∧ ∀ i < n, fieldN t.sys.plat.margin.buffer (16 * i) 2 = i ∧ fieldN t.sys.plat.margin.buffer (16 * i + 6) 2 = 0))
    ∧ ∀ buffer : Bytes,
      let m := s.sys.plat.margin
      (m.running = false → exec (.marginRunComplete buffer) s = .next s)
      ∧ (m.running = true → ∃ t, exec (.marginRunComplete buffer) s = .next t ∧ t.fuses = s.fuses ∧ { t.sys.plat with margin := m } = s.sys.plat ∧ t.sys.plat.margin.status = 2
          ∧ let n := if m.supply = true then 21 else if m.target < 20 then 2304 else 192
            t.sys.plat.margin.buffer.length = 16 * n ∧ ∀ i < n, let rec_ := (t.sys.plat.margin.buffer.drop (16 * i)).take 16
              rec_ = leBytes 2 i ++ sliceB buffer (16 * i + 2) 4 ++ [0, 0] ++ sliceB buffer (16 * i + 8) 8)

/-! The Hawser fabric: links, timers, frames -/

/-- R255, R256, R264, R265, R268, R269, R271: a port's link states and PORT_ENABLE; the retransmission, acknowledgement, rate and OPEN timers of a flow.
Conventions of the model that it rests on: logs 13, 48. -/
def Obligations.LinksAndTimers : Prop :=
  ∀ s : State,
    let lostOn := fun (t : State) (q : Nat) => ∀ f, (s.sys.flow f).port = q → (s.sys.flow f).state = .open → (t.sys.flow f).state = .lost
    (∀ q : Fin 12,
      let P := s.sys.port q.val
      (P.link ≠ .training → exec (.linkUp q) s = .next s) ∧ (P.link = .training → exec (.linkUp q) s = .next { s with sys := s.sys.setPort q.val { P with link := .up } })
      ∧ (P.link ≠ .up → exec (.lockLost q) s = .next s)
      ∧ (P.link = .up → ∃ t, exec (.lockLost q) s = .next t ∧ t.fuses = s.fuses ∧ t.sys.mem = s.sys.mem ∧ lostOn t q.val
          ∧ t.sys.port q.val = ⟨if s.sys.dv (0x1110 + q.val) 1 ≠ 0 then .training else .disabled, 0⟩)
      ∧ ∀ (r : ReqF) (on : Bool), s.serves r.path r.submit r.role r.transfer (0x1110 + q.val) .operator →
          ∃ t, Grants (.portEnable r q on) s r (0x1110 + q.val) 1 0 t ∧ t.fuses = s.fuses ∧ t.sys.dv (0x1110 + q.val) 1 = (if on then 1 else 0) ∧ t.sys.mem = s.sys.mem
            ∧ (on = true → t.sys.port q.val = if P.link = .disabled ∧ s.sys.mayTrain q.val = true then { P with link := .training } else P)
            ∧ (on = false → (t.sys.port q.val).link = .disabled ∧ (P.link = .up → lostOn t q.val)))
    ∧ ∀ f : Nat,
      let x := s.sys.flow f
      let P := s.sys.port x.port
      let direct := s.sys.portSwitched x.port = false
      (∀ n, (∀ e ∈ x.unacked, e.seq ≠ n) → exec (.retransmissionTimeout f n) s = .next s)
      ∧ (∀ n e, (x.state = .open ∨ x.state = .closing) → x.unacked.find? (fun fr => fr.seq == n) = some e → x.port < 12 →
        ∃ (t : State) (w : Wire), exec (.retransmissionTimeout f n) s = .next t ∧ t.fuses = s.fuses ∧ t.sys.fab.wire.take (s.sys.fab.wire.length + 1) = s.sys.fab.wire ++ [w] ∧ w.port = x.port
          ∧ (direct → w.data = e.header x.peerFlow true ++ gcmCrypt (x.kFwd.getD 0#256) (frameNonce e.seq false) e.payload
              ++ tagBytes (Config.gcmTag (x.kFwd.getD 0#256) (frameNonce e.seq false) (e.header x.peerFlow false) (gcmCrypt (x.kFwd.getD 0#256) (frameNonce e.seq false) e.payload)))
          ∧ (P.fails + 1 < 16 → (t.sys.port x.port).fails = P.fails + 1 ∧ t.sys.flow f = { x with retx := x.retx + 1, rate := if s.sys.portSwitched x.port = true then max 16 (x.rate / 2) else x.rate })
          ∧ (16 ≤ P.fails + 1 → (t.sys.port x.port).fails = 0 ∧ (t.sys.flow f).state = .lost))
      ∧ ((x.role ≠ 1 ∨ x.state ≠ .open ∨ x.sinceAck = 0) → exec (.ackTimer f) s = .next s)
      ∧ (x.role = 1 → x.state = .open → x.sinceAck ≠ 0 → ∃ (t : State) (w : Wire), exec (.ackTimer f) s = .next t ∧ t.sys.fab.wire = s.sys.fab.wire ++ [w] ∧ w.port = x.port
          ∧ t.sys.flow f = { x with acked := x.acked + 1, sinceAck := 0, ce := false, consumedAck := x.consumed } ∧ { t.sys with fab := s.sys.fab } = s.sys
          ∧ (direct →
            let head : Bytes := [0x13, if x.ce = true then 0x10 else 0] ++ leBytes 2 48 ++ leBytes 4 x.peerFlow ++ leBytes 8 x.acked ++ leBytes 8 x.seq ++ leBytes 8 0
            let ct := gcmCrypt (x.kRev.getD 0#256) (leBytes 8 x.acked ++ [1, 0, 0, 0]) (leBytes 32 x.sack ++ leBytes 8 x.limit ++ leBytes 8 0)
            w.data = head ++ ct ++ tagBytes (Config.gcmTag (x.kRev.getD 0#256) (leBytes 8 x.acked ++ [1, 0, 0, 0]) head ct)))
      ∧ ((x.role ≠ 0 ∨ direct ∨ (x.state ≠ .open ∧ x.state ≠ .closing)) → exec (.rateIncrease f) s = .next s)
      ∧ (x.role = 0 → ¬ direct → (x.state = .open ∨ x.state = .closing) → exec (.rateIncrease f) s = .next { s with sys := s.sys.setFlow f { x with rate := if x.ceMet = true then x.rate else min 4096 (x.rate + 32), ceMet := false, ceCut := false } })
      ∧ (x.state ≠ .opening → exec (.openRetransmit f) s = .next s)
      ∧ (x.state = .opening → ∃ (t : State) (w : Wire), exec (.openRetransmit f) s = .next t ∧ t.sys.fab = { s.sys.fab with wire := s.sys.fab.wire ++ [w] } ∧ w.port = x.port
          ∧ { t.sys with fab := s.sys.fab, free := s.sys.free } = s.sys)

/-- R258 to R262, R264 to R271, R274, R279, R280, R282, R389: a frame that arrives intact on a direct-mode port that is UP, at a flow context that it fits: DATA of one message for a
Bight's locker, SLOW, ABORT, ACK, OPEN, and a MGMT frame for another node or for this one; a repeated frame, and one whose tag fails.
Conventions of the model that it rests on: logs 46, 48, 53, 87. -/
def Obligations.Frames : Prop :=
  ∀ (r : FrameF) (s : State),
    let q := r.q.val
    let d := r.data
    let g := dstFlow d
    let x := s.sys.flow g
    let n := fieldN d 8 8
    let p := x.part
    let arrives := fun (kind : Nat) => (s.sys.port q).link = .up ∧ s.sys.portSwitched q = false ∧ r.fec = false ∧ 32 ≤ d.length ∧ fieldN d 0 1 = 0x10 + kind
    let seqd := fun (kind : Nat) => arrives kind ∧ g < flowCount ∧ x.port = q ∧ x.role = 1 ∧ x.state = .open ∧ x.opener = none ∧ x.early = [] ∧ x.sinceAck + 1 < 8
    let good := fun (b : Bytes) => n = x.seq ∧ lengthOk d = true ∧ Machine.openFrame (x.kFwd.getD 0#256) (frameNonce n false) d = some b
    let kept := fun (i : Instr) (t : State) => exec i s = .next t ∧ t.fuses = s.fuses ∧ t.pending = s.pending
    ((s.sys.port q).link ≠ .up → ∀ i ∈ [Instr.dataFrame r, .slowFrame r, .abortFrame r, .ackFrame r, .openFrame r, .mgmtFrame r], exec i s = .next s)
    ∧ (seqd 0 → n < x.seq → ∃ t, kept (.dataFrame r) t ∧ (t.sys.flow g).seq = x.seq ∧ (t.sys.flow g).dropped = x.dropped + 1 ∧ (t.sys.flow g).acked = x.acked + 1 ∧ t.sys.mem = s.sys.mem ∧ t.sys.bights = s.sys.bights)
    ∧ (seqd 0 → n = x.seq → (lengthOk d = false ∨ Machine.openFrame (x.kFwd.getD 0#256) (frameNonce n false) d = none) →
      (n ∉ x.failed → ∃ t, kept (.dataFrame r) t ∧ (t.sys.flow g).state = .open ∧ (t.sys.flow g).seq = x.seq ∧ (t.sys.flow g).tagFails = x.tagFails + 1 ∧ n ∈ (t.sys.flow g).failed ∧ t.sys.mem = s.sys.mem)
      ∧ (n ∈ x.failed → ∃ t, kept (.dataFrame r) t ∧ (t.sys.flow g).state = .alarmed))
    ∧ (∀ (b : Bytes) (run : RunRef), seqd 0 → good b → s.sys.fab.colls = [] → fieldN d 1 1 = 3 → fieldN d 0x1C 4 = 0 → x.target = 0 → x.oversize = false → s.sys.fenceFlow g = false →
      fieldN d 0x18 4 + b.length ≤ x.slotBytes → x.destBight < 80 → (s.sys.ctx x.ctx).opened = true → (s.sys.bight x.destBight).run = some run → run.ctx = x.ctx →
      let a := x.winBase + x.msg % max x.slots 1 * x.slotBytes + fieldN d 0x18 4
      ∃ t, kept (.dataFrame r) t ∧ (t.sys.flow g).seq = x.seq + 1 ∧ (t.sys.flow g).msg = (x.msg + 1) % 2 ^ 32 ∧ t.sys.mem = s.sys.mem ∧ t.sys.fab.wire = s.sys.fab.wire
        ∧ (∀ i < b.length, (t.sys.bight x.destBight).arch.locker.byte (a + i) = b.getD i 0)
        ∧ (∀ k, (k < a ∨ a + b.length ≤ k) → (t.sys.bight x.destBight).arch.locker.byte k = (s.sys.bight x.destBight).arch.locker.byte k)
        ∧ (t.sys.bight x.destBight).arch.hitches.getLsbD (x.destHitch % 32) = true ∧ (t.sys.bight x.destBight).arch.pc = (s.sys.bight x.destBight).arch.pc
        ∧ ∀ e, e ≠ x.destBight → t.sys.bight e = s.sys.bight e)
    ∧ (∀ b, seqd 1 → good b → s.sys.fab.colls = [] →
      let id := fieldN b 8 4
      (((s.sys.part p).outcome id).isSome = true → ∃ t, kept (.slowFrame r) t ∧ (t.sys.flow g).seq = x.seq + 1 ∧ (t.sys.flow g).staged = x.staged ∧ t.sys.mem = s.sys.mem ∧ t.sys.bights = s.sys.bights
        ∧ let c := (s.sys.part p).base
          ((s.sys.ctx c).opened = true → (s.sys.ctx c).part = p → (t.sys.ctx c).outbox = (s.sys.ctx c).outbox
            ++ [{ kind := 1, lay := 0, ring := 0, status := 0, result := (leBytes 2 3 ++ sliceB b 0 16 ++ List.replicate 20 0).take 20, irq := false, plain := false }]))
      ∧ ((s.sys.part p).outcome id = none → ∃ t e, kept (.slowFrame r) t ∧ (t.sys.flow g).seq = x.seq + 1 ∧ (t.sys.flow g).staged = x.staged ++ [e] ∧ e.collId = id ∧ e.payload = b
        ∧ t.sys.mem = s.sys.mem ∧ t.sys.bights = s.sys.bights ∧ ∀ c, (t.sys.ctx c).outbox = (s.sys.ctx c).outbox))
    ∧ (∀ b, seqd 2 → good b →
      let id := fieldN b 0 4
      (s.sys.collOf p id = none → ((s.sys.part p).outcome id).isSome = true → s.sys.fab.colls = [] → ∃ t, kept (.abortFrame r) t ∧ (t.sys.flow g).seq = x.seq + 1 ∧ (t.sys.flow g).staged = x.staged ∧ t.sys.parts = s.sys.parts)
      ∧ (s.sys.collOf p id = none → (s.sys.part p).outcome id = none → s.sys.fab.colls = [] → ∃ t e, kept (.abortFrame r) t ∧ (t.sys.flow g).seq = x.seq + 1 ∧ (t.sys.flow g).staged = x.staged ++ [e]
          ∧ e.collId = id ∧ e.payload = b ∧ t.sys.parts = s.sys.parts)
      ∧ ∀ c, s.sys.collOf p id = some c → c.started = true → p < 80 → ∃ t, kept (.abortFrame r) t ∧ t.sys.collOf p id = none
          ∧ let st := (match c.seen with | .clean => stPEER_LOST | .poisoned => stPEER_LOST | .unknown => stINTEGRITY_UNKNOWN | .tagFail => stTAG_FAIL)
            (t.sys.part p).outcomes.find? (fun o => o.coll == id) = some { coll := id, status := st, value := 0, flags := 8, element := 0, ended := true, by_ := some (c.ctx, c.ring, c.lay) })
    ∧ (arrives 3 → g < flowCount → x.port = q → x.role = 0 → (x.state = .open ∨ x.state = .closing) → s.sys.fab.colls = [] → ∀ b, lengthOk d = true → lengthOf d = 48 →
        Machine.openFrame (x.kRev.getD 0#256) (frameNonce n true) d = some b →
      ((∃ l, x.lastAck = some l ∧ n ≤ l) → ∃ t, kept (.ackFrame r) t ∧ t.sys.flow g = { x with dropped := x.dropped + 1 })
      ∧ ((∀ l, x.lastAck = some l → l < n) → x.queue = [] → fieldN b 0 32 = 0 →
        let cum := if x.acked < fieldN d 0x10 8 ∧ fieldN d 0x10 8 ≤ x.seq then fieldN d 0x10 8 else x.acked
        ∃ t, kept (.ackFrame r) t ∧ t.sys.fab.wire = s.sys.fab.wire ∧ t.sys.flow g = { x with lastAck := some n, acked := cum, credit := fieldN b 32 8, unacked := x.unacked.filter (fun e => decide (cum ≤ e.seq)), ceMet := x.ceMet || (fieldN d 1 1).testBit 4 }))
    ∧ (arrives 4 → g < flowCount → x.port = q → d.length = 112 → lengthOf d = 64 →
      let k := s.sys.kOpen p x.peerNode x.peerPart
      let ct := (d.drop 44).take 52
      let b := gcmCrypt k (sliceB d 32 12) ct
      let passes := tagBytes (Config.gcmTag k (sliceB d 32 12) (authHead d) ct) = d.drop 96
      (¬ passes → x.state = .opening ∨ x.state = .open → ∃ t, kept (.openFrame r) t ∧ t.sys.flow g = { x with tagFails := x.tagFails + 1, dropped := x.dropped + 1 } ∧ t.sys.fab.wire = s.sys.fab.wire)
      ∧ (passes → fieldN b 0 4 = x.peerFlow → fieldN b 4 4 = x.peerNode → fieldN b 8 2 = x.peerPart →
      (x.state = .opening → sliceB b 28 16 = x.nLocal → ∃ t, kept (.openFrame r) t ∧ (t.sys.flow g).state = .open ∧ (t.sys.flow g).nPeer = some (sliceB b 12 16)
          ∧ (t.sys.flow g).kFwd.isSome = true ∧ (t.sys.flow g).kRev.isSome = true
          ∧ ∀ (a l : Nat) (e : Cmd), x.opener = some (a, l) → a < 4 → s.sys.cmdAt x.ctx a l = some e → e.ring = a → s.sys.inSigma x.ctx e = false → (s.sys.ctx x.ctx).resident = true →
              t.sys.cmdAt x.ctx a l = none ∧ (t.sys.ctx x.ctx).outbox = (s.sys.ctx x.ctx).outbox ++ [doneRec e stOK []])
      ∧ (x.state = .opening → sliceB b 28 16 ≠ x.nLocal → ∃ (t : State) (w : Wire), kept (.openFrame r) t ∧ (t.sys.flow g).state = .opening ∧ (t.sys.flow g).nPeer = some (sliceB b 12 16)
          ∧ t.sys.fab.wire = s.sys.fab.wire ++ [w] ∧ w.port = q)
      ∧ (x.state = .open → sliceB b 28 16 = x.nLocal → ∃ t, kept (.openFrame r) t ∧ t.sys.flow g = { x with nPeer := some (sliceB b 12 16) } ∧ t.sys.fab.wire = s.sys.fab.wire)
      ∧ (x.state = .open → sliceB b 28 16 ≠ x.nLocal → ∃ (t : State) (w : Wire), kept (.openFrame r) t ∧ t.sys.flow g = { x with nPeer := some (sliceB b 12 16) }
          ∧ t.sys.fab.wire = s.sys.fab.wire ++ [w] ∧ w.port = q)))
    ∧ (arrives 5 → d.length = 32 + lengthOf d → 64 ≤ lengthOf d → (s.sys.dv 0x1100 4).testBit q = true →
      let pay := (d.drop 32).take (lengthOf d)
      let dst := fieldN pay 0 4
      let src := fieldN pay 4 4
      let size := pay.length - 16
      let m := parseMsg (.inband src) ((pay.take size).drop 24)
      let passes := s.sys.dv 0x1100 5 ≠ 0 ∧ leBytes 16 (Config.kmac128 (leBytes 32 (s.sys.dv 0x1100 5)) (pay.take size) "CZ3220 INBAND").toNat = pay.drop size
        ∧ ∀ e, s.sys.dict.inband.find? (fun e => e.1 == src) = some e → e.2 < fieldN pay 8 8
      (∀ to_, dst ≠ s.sys.node → s.sys.route dst = some to_ → fieldN pay 0x10 1 ≠ 0 → (s.sys.port to_).link = .up → s.sys.portSwitched to_ = false →
          ∃ t, kept (.mgmtFrame r) t ∧ t.sys.fab.wire = s.sys.fab.wire ++ [⟨to_, setField d 48 (leBytes 1 (fieldN pay 0x10 1 - 1))⟩] ∧ t.sys.dict = s.sys.dict)
      ∧ (dst ≠ s.sys.node → s.sys.route dst = none ∨ fieldN pay 0x10 1 = 0 → ∃ t, kept (.mgmtFrame r) t ∧ t.sys.fab = s.sys.fab ∧ t.sys.dict = s.sys.dict)
      ∧ (dst = s.sys.node → ¬ passes → ∃ t, kept (.mgmtFrame r) t ∧ t.sys.fab = s.sys.fab ∧ t.sys.dict = s.sys.dict)
      ∧ (dst = s.sys.node → passes → fieldN pay 24 1 = 1 → ∃ u : State, exec (.mgmtFrame r) s = exec (.dictMsgRead m) u ∧ u.fuses = s.fuses ∧ u.pending = s.pending
          ∧ u.sys.dict.inband.head? = some (src, fieldN pay 8 8) ∧ { u.sys with dict := { u.sys.dict with inband := s.sys.dict.inband }, log := s.sys.log } = s.sys))

/-! Memory controllers and slices -/

/-- R197, R200, R203, R217, R226, R227, R234 to R240, R244 to R250, R366: TIER_READ and TIER_WRITE of a line whose counters verify. A read delivers the line and takes its page's counter block and
ancestors into the cache, corrects one wrong symbol of a codeword, poisons one that it cannot correct, and alarms when a tag does not match; a write advances the line's counters; a page at the end
of its MAJOR takes no more writes. Lines that do not exist, requests held back or behind an earlier one of their region, listed pages, which a mirror may serve, a region
under no key set or not yet keyed.
Conventions of the model that it rests on: logs 17, 42, 109, 110, 125, 148, 149. -/
def Obligations.TierAccess : Prop :=
  ∀ (f : TierF) (s : State),
    let t := f.tier.val
    let h := f.hank.val
    let page := f.line / 64
    let k := physKey t h (64 * f.line)
    let km := s.sys.memKey t h f.line
    let M := s.sys.mem
    let z := s.sys.region t h
    let line := M.line h (f.line / 4)
    let held := s.sys.tierWaits t h = true ∨ s.sys.behind t h = true
    let count := fun (u : State) (n : Nat) => u.sys.log.counters.get 0 (dictKey 0x7100 n)
    let words := (List.range 4).map (fun i => (Mark.clean, M.data.read (km + 16 * i) 16))
    let got := fun (w : List (Mark × Bytes)) => some ({ kind := t, hank := h, offset := 64 * f.line, words := w } : Delivery)
    let served := fun (u : State) (w : List (Mark × Bytes)) => SameRegions s.sys u.sys ∧ { u.sys.mem with regions := M.regions } = { M with delivered := got w }
      ∧ (∀ l < 8, (u.sys.region t h).holds l (page / 8 ^ l) = true) ∧ u.sys.parts = s.sys.parts ∧ u.fuses = s.fuses
    let lost := fun (u : State) => ∀ i < 4, u.sys.mem.data.mark (u.sys.memKey t h f.line / 16 + i) = .poisoned
    (218726400 ≤ f.line → exec (.tierRead f) s = .fault .noSuchAddress ∧ exec (.tierWrite f) s = .fault .noSuchAddress)
    ∧ (f.line < 218726400 → held → ∀ i ∈ [Instr.tierRead f, .tierWrite f], ∃ u, exec i s = .next u ∧ (∃ g ∈ u.sys.waiting, g.cmd = i) ∧ u.sys.mem = M)
    ∧ (f.line < 218726400 → ¬ held → z.usable page = false → (∃ u, exec (.tierRead f) s = .next u ∧ u.sys.mem = { M with delivered := none } ∧ u.fuses = s.fuses)
      ∧ ∃ u, exec (.tierWrite f) s = .next u ∧ u.sys.mem = M ∧ u.fuses = s.fuses)
    ∧ (f.line < 218726400 → ¬ held → z.usable page = true → z.listed page = true →
      (s.sys.mirrorLine t h f.line = none → ∃ u d, exec (.tierRead f) s = .next u ∧ u.sys.mem = { M with delivered := some d } ∧ d.offset = 64 * f.line ∧ d.words.length = 4 ∧ ∀ w ∈ d.words, w.1.isBad = true ∧ w.2 = [])
      ∧ (∀ m, s.sys.mirrorLine t h f.line = some m → ∃ u d, exec (.tierRead f) s = .next u ∧ u.sys.mem = { M with delivered := some d } ∧ d.offset = 64 * f.line
        ∧ (m.1.length = 64 → d.words = (List.range 4).map (fun i => (Mark.clean, (m.1.drop (16 * i)).take 16))))
      ∧ ∃ u, exec (.tierWrite f) s = .next u ∧ u.sys.mem = M ∧ u.fuses = s.fuses)
    ∧ (f.line < 218726400 → ¬ held → z.usable page = true → z.listed page = false → z.failed = [] → f.ctrFlips = [] → f.nodeFlips = [] → f.others = [] →
      ((∀ i < 4, M.data.mark (k / 16 + i) = .clean ∧ M.data.mark (km / 16 + i) = .clean) →
        (f.flips = [] → f.tagFlip = 0#144 → ∃ u, exec (.tierRead f) s = .next u ∧ served u words ∧ count u 1 = count s 1)
        ∧ (∀ (j : Nat) (v : BitVec 4), j < 36 → v ≠ 0#4 → f.flips = [flipSymbol 0#144 j v] → f.tagFlip = 0#144 → ∃ u, exec (.tierRead f) s = .next u
            ∧ served u words ∧ count u 1 = count s 1 + 1)
        ∧ (∀ e, f.flips = [e] → classify (syndrome e) = .bad → f.tagFlip = 0#144 → (∀ p, s.sys.holder h = some p → (s.sys.part p).objs = []) → ∃ u, exec (.tierRead f) s = .next u
            ∧ u.sys.mem.delivered = got ((.poisoned, []) :: words.tail) ∧ u.sys.mem.data.mark (u.sys.memKey t h f.line / 16) = .poisoned ∧ SameBytes s.sys u.sys ∧ count u 2 = count s 2 + 1
            ∧ (∀ c, keyKind (16 * c) ≠ 3 → c ≠ u.sys.memKey t h f.line / 16 → u.sys.mem.data.mark c = M.data.mark c)
            ∧ ∀ j < 64, u.sys.mem.data.byte (u.sys.memKey t h f.line + j) = M.data.byte (km + j))
        ∧ (f.flips = [] → syndrome f.tagFlip = Synd.zero → (f.tagFlip.setWidth 128).extractLsb' (64 * (f.line % 2)) 64 ≠ 0#64 → ∃ u d, exec (.tierRead f) s = .next u
            ∧ u.sys.mem.delivered = some d ∧ d.words.length = 4 ∧ (∀ w ∈ d.words, w.1.isBad = true ∧ w.2 = [])
            ∧ ∀ p, s.sys.holder h = some p → (s.sys.part p).standing = true → fieldN (s.sys.part p).policy 0xB 1 % 2 = 0 → (u.sys.part p).state = .frozen))
      ∧ (f.flips = [] → f.tagFlip = 0#144 →
        (page ∉ z.stuck → z.minors.get 0 f.line < 127 ∨ z.majors.get 0 page < 2 ^ 64 - 1 → ∃ u, exec (.tierWrite f) s = .next u ∧ u.fuses = s.fuses
          ∧ (∀ a, keyKind a ≠ 3 → u.sys.mem.data.byte a
              = if k ≤ a ∧ a < k + 64 ∧ ¬ (t = 0 ∧ (line.present = true ∨ line.apart = true)) then f.data.getD (a - k) 0 else M.data.byte a)
          ∧ (t = 0 → line.present = true → line.apart = true → ∀ j < 64, u.sys.mem.data.byte (km + j) = M.data.byte (k + j))
          ∧ (u.sys.region t h).held.get? (thimbleKey 0 page) = some true ∧ (∀ l < 8, (u.sys.region t h).holds l (page / 8 ^ l) = true)
          ∧ (z.minors.get 0 f.line < 127 → (u.sys.region t h).minors.get 0 f.line = z.minors.get 0 f.line + 1 ∧ (∀ l, l ≠ f.line → (u.sys.region t h).minors.get 0 l = z.minors.get 0 l)
              ∧ (u.sys.region t h).majors = z.majors)
          ∧ (127 ≤ z.minors.get 0 f.line → (u.sys.region t h).majors.get 0 page = z.majors.get 0 page + 1 ∧ count u 5 = count s 5 + 1
              ∧ ∀ l, l / 64 = page → (u.sys.region t h).minors.get 0 l = if l = f.line then 1 else 0))
        ∧ (page ∉ z.stuck → 127 ≤ z.minors.get 0 f.line → z.majors.get 0 page = 2 ^ 64 - 1 → ∃ u, exec (.tierWrite f) s = .next u ∧ count u 7 = count s 7 + 1
          ∧ lost u ∧ page ∈ (u.sys.region t h).stuck ∧ SameBytes s.sys u.sys)
        ∧ (page ∈ z.stuck → ∃ u, exec (.tierWrite f) s = .next u ∧ count u 7 = count s 7 ∧ lost u ∧ SameRegions s.sys u.sys ∧ SameBytes s.sys u.sys)))

/-- R204, R206 to R209, R240: the scrub read of a controller; CACHE_ACCESS of a tier-1 line and of a window line by the partition that holds the slice, and by one that imports the line, whose
slice takes a copy; what a frozen partition shared is unknown; an access waits for its memory; under no keys nothing is delivered. A codeword that a slice cannot
correct is read again from the stack where the line is clean, and poisoned where it is dirty; an evicted dirty line is written back under advanced counters.
Conventions of the model that it rests on: logs 5, 109, 110. -/
def Obligations.ScrubAndCache : Prop :=
  ∀ s : State,
    let M := s.sys.mem
    let count := fun (u : State) (n : Nat) => u.sys.log.counters.get 0 (dictKey 0x7100 n)
    (∀ f : ScrubF,
      let c := f.ctl.val
      let pos := M.scrubAt.get 0 c
      let t := if c < 20 then 0 else 1
      let h := (if c < 20 then 4 * c else 8 * (c - 20)) + pos / 999892124
      let off := 16 * (pos % 999892124)
      let next := M.scrubAt.set 0 c ((pos + 1) % ((if c < 20 then 4 else 8) * 999892124))
      let w := fun (u : Sys) => u.memKey t h (off / 64) / 16 + off % 64 / 16
      (s.sys.limitOf c 1 = 0 → exec (.scrubRead f) s = .next s)
      ∧ (s.sys.limitOf c 1 ≠ 0 →
        (f.flip = 0#144 → exec (.scrubRead f) s = .next { s with sys := { s.sys with mem := { M with scrubAt := next } } })
        ∧ (off < 13998489600 → M.data.mark (w s.sys) = .clean →
          (∀ (j : Nat) (v : BitVec 4), j < 36 → v ≠ 0#4 → f.flip = flipSymbol 0#144 j v → ∃ u, exec (.scrubRead f) s = .next u ∧ u.sys.mem = { M with scrubAt := next } ∧ count u 1 = count s 1 + 1)
          ∧ (classify (syndrome f.flip) = .bad → ∃ u, exec (.scrubRead f) s = .next u ∧ u.sys.mem.scrubAt = next ∧ u.sys.mem.data.mark (w u.sys) = .poisoned
              ∧ (∀ e, keyKind (16 * e) ≠ 3 → e ≠ w u.sys → u.sys.mem.data.mark e = M.data.mark e) ∧ SameBytes s.sys u.sys ∧ count u 2 = count s 2 + 1))))
    ∧ ∀ f : CacheF, M.alarms = [] →
      let h := f.hank.val
      let k := physKey 0 h (256 * f.line)
      let word := fun (a : Nat) => ((M.data.mark (a / 16)).asRead, if (M.data.mark (a / 16)).isBad = true then [] else M.data.read a 16)
      let line := M.line h f.line
      let z := s.sys.region 0 h
      let there := line.present = true ∨ z.usable (f.line / 16) = true
      let exists_ := f.window = true ∨ 4 * f.line < 218726400
      let out := fun (u : State) (w : List (Mark × Bytes)) => u.sys.mem.delivered = some { kind := 0, hank := h, offset := 256 * f.line, words := w }
      (¬ exists_ → exec (.cacheAccess f) s = .fault .noSuchAddress)
      ∧ (exists_ → s.sys.cacheWaits f = true → ∃ u, exec (.cacheAccess f) s = .next u ∧ (∃ g ∈ u.sys.waiting, g.cmd = .cacheAccess f) ∧ u.sys.mem = M)
      ∧ (exists_ → s.sys.cacheWaits f = false → (s.sys.holder h = none ∨ (s.sys.holder f.from_.val ≠ s.sys.holder h ∧ (f.write.isSome = true ∨ f.window = true))) →
          exec (.cacheAccess f) s = .next { s with sys := { s.sys with replay := none } })
      ∧ (∀ p, f.window = false → exists_ → s.sys.cacheWaits f = false → s.sys.holder h = some p → s.sys.holder f.from_.val = some p → f.fixed = [] → z.listed (f.line / 16) = false → z.failed = [] →
        (¬ there → f.write = none → ∃ u, exec (.cacheAccess f) s = .next u ∧ u.sys.mem.delivered = none ∧ u.sys.mem.data = M.data)
        ∧ (there → f.write = none → f.bad = [] → ∃ u, exec (.cacheAccess f) s = .next u ∧ u.fuses = s.fuses ∧ (f.evict = false ∨ (line.dirty = false ∧ line.apart = false) → u.sys.mem.data = M.data)
            ∧ out u ((List.range 16).map (fun i => word (k + 16 * i)))
            ∧ (f.evict = false → u.sys.mem.line h f.line = if line.present = true then line else ⟨true, false, false⟩)
            ∧ (f.evict = true → u.sys.mem.line h f.line = CacheLine.none ∧ (line.dirty = false → u.sys.mem.regions = M.regions)
                ∧ (line = ⟨true, true, true⟩ → z.usable (f.line / 16) = true → f.line / 16 ∉ z.stuck → (∀ i < 4, z.minors.get 0 (4 * f.line + i) < 127) →
                    SameBytes s.sys u.sys ∧ ∀ i < 4, (u.sys.region 0 h).minors.get 0 (4 * f.line + i) = z.minors.get 0 (4 * f.line + i) + 1)))
        ∧ (∀ i < 16, f.write = none → f.evict = false → f.bad = [i] →
          (∀ b, line = ⟨true, false, b⟩ → z.usable (f.line / 16) = true → ∃ u, exec (.cacheAccess f) s = .next u ∧ count u 1 = count s 1 + 1 ∧ u.sys.mem.line h f.line = ⟨true, false, false⟩
            ∧ out u ((List.range 16).map (fun i => word (physKey (if b then 3 else 0) h (256 * f.line) + 16 * i))))
          ∧ (line = ⟨true, true, true⟩ → ∃ u, exec (.cacheAccess f) s = .next u ∧ count u 2 = count s 2 + 1 ∧ u.sys.mem.line h f.line = line ∧ SameBytes s.sys u.sys
            ∧ (∀ c, u.sys.mem.data.mark c = if c = k / 16 + i then .poisoned else M.data.mark c)
            ∧ out u ((List.range 16).map (fun j => if j = i then (.poisoned, []) else word (k + 16 * j)))))
        ∧ (∀ o bs, there → f.write = some (o, bs) → bs ≠ [] → o + bs.length ≤ 256 → f.evict = false → f.bad = [] → ∃ u, exec (.cacheAccess f) s = .next u ∧ u.fuses = s.fuses
            ∧ u.sys.mem.line h f.line = ⟨true, true, true⟩ ∧ (∀ l, l ≠ f.line → u.sys.mem.line h l = M.line h l) ∧ u.sys.mem.regions = M.regions
            ∧ ∀ a, keyKind a ≠ 3 → u.sys.mem.data.byte a = if k + o ≤ a ∧ a < k + o + bs.length then bs.getD (a - (k + o)) 0 else M.data.byte a))
      ∧ (∀ p q i o e, f.window = false → exists_ → s.sys.cacheWaits f = false → s.sys.holder h = some p → s.sys.holder f.from_.val = some q → q ≠ p →
        (s.sys.part p).objAt 0 (addrOffset (s.sys.addrOf p 0 h (256 * f.line)) / granuleBytes) = some (i, o) → e ∈ (s.sys.part q).objs → e.2.source = some (p, i) →
        f.write = none → f.evict = false → f.bad = [] → f.fixed = [] →
        ((s.sys.part p).state = .frozen → ∃ u, exec (.cacheAccess f) s = .next u ∧ out u (List.replicate 16 (.unknown, [])) ∧ u.sys.mem.data = M.data ∧ u.sys.mem.copies = M.copies)
        ∧ ((s.sys.part p).state ≠ .frozen → M.copies = [] → there → z.listed (f.line / 16) = false → z.failed = [] → ∃ u, exec (.cacheAccess f) s = .next u
          ∧ out u ((List.range 16).map (fun i => word (k + 16 * i))) ∧ u.sys.mem.data = M.data ∧ u.sys.mem.cache = M.cache ∧ u.sys.mem.regions = M.regions
          ∧ u.sys.mem.copies = [{ to_ := f.from_.val, from_ := h, line := f.line, words := (List.range 16).map (fun i => word (k + 16 * i)) }]))
      ∧ ∀ p, f.window = true → s.sys.cacheWaits f = false → s.sys.holder h = some p → s.sys.holder f.from_.val = some p → f.bad = [] → f.fixed = [] → 256 * f.line < (s.sys.part p).windowBytes →
        (s.sys.part p).windowBytes ≤ windowStep →
        let w := physKey 2 h (sliceBytes - (s.sys.part p).windowBytes + 256 * f.line)
        (f.write = none → ∃ u, exec (.cacheAccess f) s = .next u ∧ u.sys.mem = { M with delivered := some { kind := 2, hank := h, offset := sliceBytes - (s.sys.part p).windowBytes + 256 * f.line, words := (List.range 16).map (fun i => word (w + 16 * i)) } })
        ∧ ∀ o bs, f.write = some (o, bs) → bs ≠ [] → o + bs.length ≤ 256 → ∃ u, exec (.cacheAccess f) s = .next u ∧ { u.sys with mem := M, replay := s.sys.replay } = s.sys ∧ u.sys.mem.cache = M.cache
            ∧ ∀ a, u.sys.mem.data.byte a = if w + o ≤ a ∧ a < w + o + bs.length then bs.getD (a - (w + o)) 0 else M.data.byte a

/-! Partitions, life cycle, Logline -/

/-- R241, R292, R341 to R345, R375: CREATE with the reasons of R342 in their order, keying, DESTROY of a partition in which nothing is in progress, clearing.
Conventions of the model that it rests on: logs 75 to 78. -/
def Obligations.Partitions : Prop :=
  ∀ (r : ReqF) (part : Fin 80) (s : State),
    let p := part.val
    let i := 0x4000 + 0x20 * p + 2
    let u := (s.takenReq r i 1).sys
    let v := u.entropySettled
    let P := u.part p
    let hs := configHanks P.config
    let ans := fun (c : Instr) (code : Nat) (y : Sys) => Grants c s r i 1 code { s.takenReq r i 1 with sys := y }
    let live := s.fuses.lcState = .test ∨ s.fuses.lcState = .production
    let free := hs ≠ [] ∧ ∀ h ∈ hs, u.holder h = none
    let ready := ∀ h ∈ hs, u.hankReady h = true
    let calm := ∀ h ∈ hs, u.margins h = false
    let fits := P.share + ((List.range 80).map (fun q => if (u.part q).state = .absent then 0 else (u.part q).share)).sum ≤ 96
    let valid := (configReserved P.config && configRanges p P.config && policyOk P.policy) = true
    (s.serves r.path r.submit r.role r.transfer i .operator →
      (¬ live → ans (.create r part) 0x02010002 v)
      ∧ (live → P.state ≠ .absent → ans (.create r part) 0x04010001 v)
      ∧ (live → P.state = .absent → ¬ free → ans (.create r part) 0x04010002 v)
      ∧ (live → P.state = .absent → free → ¬ ready → ans (.create r part) 0x04010003 v)
      ∧ (live → P.state = .absent → free → ready → ¬ calm → ans (.create r part) 0x04010004 v)
      ∧ (live → P.state = .absent → free → ready → calm → ¬ fits → ans (.create r part) 0x04010005 v)
      ∧ (live → P.state = .absent → free → ready → calm → fits → ¬ valid → ans (.create r part) 0x04010006 v)
      ∧ (live → P.state = .absent → free → ready → calm → fits → valid → v.trust.entropy = 2 → ans (.create r part) 0x04010007 v)
      ∧ (live → P.state = .absent → free → ready → calm → fits → valid → v.trust.entropy ≠ 2 → ∃ y, ans (.create r part) 0 y
        ∧ y.part p = { Partition.absent with state := .keying, config := P.config, policy := P.policy, hanks := hs } ∧ (∀ q, q ≠ p → y.part q = u.part q) ∧ y.ctxs = u.ctxs
        ∧ ∀ h ∈ hs, ∀ j < 2, (∃ ks, y.region j h = Seize.keying ks j h) ∧ ∀ a < unitBytes, y.mem.data.byte (physKey j h a) = 0#8))
    ∧ (s.serves r.path r.submit r.role r.transfer i .operator →
      ((P.state = .absent ∨ P.state = .destroying) → ans (.destroy r part) 0x02010002 u)
      ∧ (P.state ≠ .absent → P.state ≠ .destroying → u.still p → u.flowsOf p = [] → ∃ y, ans (.destroy r part) 0 y ∧ (y.part p).state = .destroying ∧ (y.part p).hanks = P.hanks
        ∧ (y.part p).sessions = [] ∧ (y.part p).ekPair = none ∧ (y.part p).shares = [] ∧ (y.part p).kModel = none ∧ (y.part p).fences = []
        ∧ (∀ e ∈ (y.part p).wsets, e.2.source = none) ∧ ((∀ q, q ≠ p → (u.part q).wsets = []) → (∀ e ∈ P.wsets, e.2.source = none) → (∀ c, (u.ctx c).batches = []) → (y.part p).wsets = [])
        ∧ (∀ c, (u.ctx c).opened = true → (u.ctx c).part = p → y.ctx c = Context.closed) ∧ (∀ c, (u.ctx c).part ≠ p → { y.ctx c with outbox := (u.ctx c).outbox } = u.ctx c)
        ∧ ∀ h ∈ P.hanks, ∀ j < 2, (y.region j h).keys = none ∧ (y.region j h).keyed = false))
    ∧ (let P := s.sys.part p
      (P.state ≠ .keying → exec (.regionKeyingComplete part) s = .next s)
      ∧ ∀ c < 16384, P.state = .keying → (s.sys.ctx c).opened = false → (∀ d < c, (s.sys.ctx d).opened = true) → ∃ t, exec (.regionKeyingComplete part) s = .next t ∧ t.fuses = s.fuses
        ∧ t.pending = s.pending ∧ t.sys.part p = { P with state := .joining, base := c } ∧ (∀ q, q ≠ p → t.sys.part q = s.sys.part q) ∧ (∀ d, d ≠ c → t.sys.ctx d = s.sys.ctx d)
        ∧ t.sys.ctx c = { Context.closed with opened := true, part := p, isBase := true, hankMask := BitVec.ofNat 80 (2 ^ P.hanks.length - 1), area := (t.sys.ctx c).area, lastUse := s.sys.useNext }
        ∧ t.sys.mem.data = s.sys.mem.data ∧ ∀ h ∈ P.hanks, ∀ j < 2, t.sys.region j h = { s.sys.region j h with keyed := true })
    ∧ (let P := s.sys.part p
      ((P.state ≠ .destroying ∨ s.sys.importedElsewhere p = true) → exec (.regionClearingComplete part) s = .next s)
      ∧ (P.state = .destroying → s.sys.importedElsewhere p = false → ∃ t, exec (.regionClearingComplete part) s = .next t ∧ t.fuses = s.fuses ∧ t.pending = s.pending
        ∧ t.sys.part p = Partition.absent ∧ (∀ q, q ≠ p → t.sys.part q = s.sys.part q) ∧ t.sys.ctxs = s.sys.ctxs
        ∧ ∀ h ∈ P.hanks, ∀ j < 2, t.sys.region j h = Seize.empty ∧ ∀ a < unitBytes, t.sys.mem.data.byte (physKey j h a) = 0#8))

/-- R370, R374 to R376: LC_TRANSITION to Test, to Production and to the pending state; a completed transition restarts the module; a bit that does not program leaves the state
unreached, the module in completion-only mode with its other functions OFF, and no amendment in force; where power is lost part-way no response is sent; a refused request changes
LC_RESULT only. R372: DS_GENERATE. An install under way ends first (R384).
Conventions of the model that it rests on: logs 92, 95, 119, 191, 194, 198, 199. -/
def Obligations.LifeCycleTransitions : Prop :=
  ∀ (r : ReqF) (s : State) (fail : BurnF), s.serves r.path r.submit r.role r.transfer 0x8001 .vendor →
    let u := (s.takenReq r 0x8001 1).finishInstall
    let x := s.takenReq r 0x8001 3
    let v := ({ x with sys := x.sys.entropySettled } : State).finishInstall
    let l := s.fuses.lcState
    let certified := s.fuses.dsWritten = true ∧ u.dikCertOk = true
    let empty := ∀ p < 80, (s.sys.part p).state = .absent
    let result := fun (y : Sys) (code : Nat) => { y with trust := { y.trust with result := code } }
    let refuse := fun (i : Instr) (code : Nat) => Grants i s r 0x8001 1 code { u with sys := result u.sys code }
    let refuseDs := fun (code : Nat) => Grants (.dsGenerate r) s r 0x8001 3 code { v with sys := result v.sys code }
    let reach := fun (i : Instr) (dest : LcState) => ∃ t : State, Grants i s r 0x8001 1 0 t ∧ t.fuses.lcState = dest ∧ { t.fuses with lc := s.fuses.lc } = s.fuses ∧ t.sys.trust.result = 0
      ∧ t.sys.fn fnBowline = ⟨.waking, false, 0⟩ ∧ (∀ f, f ≠ fnBowline → t.sys.fn f = Fn.off) ∧ t.sys.ctxs = [] ∧ t.sys.parts = State.reset.sys.parts ∧ t.sys.plat.powered = true
    let drawn := s.fuses.ds ||| Config.draw v.sys.free
    (l ≠ .blank → refuse (.lcToTest r fail) 0x05010001)
    ∧ (l = .blank → fail = .sound → reach (.lcToTest r fail) .test)
    ∧ (l = .blank → ∀ b < 16, fail = ⟨some (b, 0#4), none⟩ → ∃ t : State, Grants (.lcToTest r fail) s r 0x8001 1 0x05010004 t ∧ { t.fuses with lc := s.fuses.lc } = s.fuses
      ∧ t.sys.trust.result = 0x05010004 ∧ (b = 0 → t.fuses.lcState = .blank ∧ t.sys.parts = u.sys.parts ∧ t.sys.trust = { u.sys.trust with result := 0x05010004 })
      ∧ (b ≠ 0 → t.fuses.lcState = .partial_ 1 ∧ t.sys.trust.inForce = none ∧ t.sys.trust.amendState = 0 ∧ ∀ f ∈ functions, f ≠ fnBowline → (t.sys.fn f).state = .off))
    ∧ (l = .blank → ∀ n < 64, fail = ⟨none, some n⟩ → ∃ t : State, exec (.lcToTest r fail) s = .next t ∧ t.sys.plat.powered = false ∧ t.sys.dict.replies = s.sys.dict.replies
      ∧ t.fuses.lcState ≠ .production ∧ t.fuses.lcState ≠ .eol ∧ (4 ≤ n → n < 60 → t.fuses.lcState = .partial_ 1))
    ∧ (l ≠ .test → refuse (.lcToProduction r fail) 0x05010001)
    ∧ (l = .test → ¬ empty → refuse (.lcToProduction r fail) 0x05010002)
    ∧ (l = .test → fail = .sound → empty → (certified → reach (.lcToProduction r fail) .production) ∧ (¬ certified → refuse (.lcToProduction r fail) 0x05010002))
    ∧ (l ≠ .partial_ 1 → l ≠ .partial_ 2 → refuse (.lcComplete r fail) 0x05010001)
    ∧ (l = .partial_ 1 → fail = .sound → reach (.lcComplete r fail) .test)
    ∧ (l = .partial_ 2 → fail = .sound → (certified → reach (.lcComplete r fail) .production) ∧ (¬ certified → refuse (.lcComplete r fail) 0x05010002))
    ∧ (l ≠ .test → refuseDs 0x02010002)
    ∧ (l = .test → s.fuses.dsWritten = true → refuseDs 0x05010005)
    ∧ (l = .test → s.fuses.dsWritten = false → v.sys.trust.entropy = 2 → refuseDs 0x04010007)
    ∧ (l = .test → s.fuses.dsWritten = false → v.sys.trust.entropy ≠ 2 → s.fuses.ahead = .sound → ∃ t : State, Grants (.dsGenerate r) s r 0x8001 3 0 t
      ∧ t.fuses = { s.fuses with ds := drawn, dsMark := BitVec.allOnes 16, ahead := t.fuses.ahead }
      ∧ t.sys.trust = { v.sys.trust with result := 0, akCert := t.sys.trust.akCert } ∧ { t.sys with trust := v.sys.trust, free := v.sys.free } = v.sys)
    ∧ (l = .test → s.fuses.dsWritten = false → v.sys.trust.entropy ≠ 2 → ∀ j < 16, s.fuses.ahead = ⟨some (256 + j, 0#4), none⟩ → ∃ t : State, Grants (.dsGenerate r) s r 0x8001 3 0x05010004 t
      ∧ t.fuses = { s.fuses with ds := drawn, dsMark := BitVec.ofNat 16 (2 ^ j - 1), ahead := t.fuses.ahead } ∧ t.sys.trust.result = 0x05010004)

/-- R364, R377 to R382, R402: the signed records. A record of another length or kind is not checked; after eight failures in a row none is; a record that fails its check counts a
failure and redraws the nonce; one that passes opens debug and freezes partitions, ends the module's life when the straps read low, or changes the operator key. An amendment image stands
in the flash with its version in the thermometer, and comes into force at the next step without a command.
Conventions of the model that it rests on: logs 93, 94, 96, 191, 194. -/
def Obligations.SignedRecords : Prop :=
  ∀ (r : ReqF) (s : State) (b : Bytes) (w : Who),
    let u := (s.takenReq r 0x8001 2).finishInstall
    let l := s.fuses.lcState
    let T := u.sys.trust
    let live := l = .test ∨ l = .production
    let key := BitVec.ofNat 256 (s.sys.dv 0x8002 1)
    let empty := ∀ p < 80, (s.sys.part p).state = .absent
    let result := fun (y : Sys) (code : Nat) => { y with trust := { y.trust with result := code } }
    let checked := fun (fails : Nat) => { T with nonce := Config.draw u.sys.free, fails := fails }
    (s.serves r.path r.submit r.role r.transfer 0x8001 w → (w = .operator ∨ w = .vendor) →
      let refuse := fun (code : Nat) => Grants (.debugOpen r b) s r 0x8001 2 code { u with sys := result u.sys code }
      (b.length ≠ 2484 → refuse 0x01010003)
      ∧ (b.length = 2484 → fieldN b 4 1 ≠ 1 → refuse 0x01010009)
      ∧ (b.length = 2484 → fieldN b 4 1 = 1 → l ≠ .production → refuse 0x02010002)
      ∧ (b.length = 2484 → fieldN b 4 1 = 1 → l = .production → 8 ≤ T.fails → refuse 0x02010004)
      ∧ (b.length = 2484 → fieldN b 4 1 = 1 → l = .production → T.fails < 8 → ∃ (t : State) (code : Nat), Grants (.debugOpen r b) s r 0x8001 2 code t ∧ t.fuses = s.fuses
        ∧ (u.sys.requestOk b Config.debugKeyDigest = false → code = 0x02010003 ∧ t.sys = { u.sys with trust := { checked (T.fails + 1) with result := code }, free := u.sys.free + 1 })
        ∧ (u.sys.requestOk b Config.debugKeyDigest = true → code = 0 ∧ t.sys.trust = { checked 0 with debug := true, scope := T.scope ||| fieldN b 6 2, result := 0, akCert := t.sys.trust.akCert }
          ∧ ∀ p < 80, (u.sys.part p).standing = true → u.sys.still p → u.sys.flowsOf p = [] → (t.sys.part p).state = .frozen ∧ (t.sys.part p).sessions = [] ∧ (t.sys.part p).kModel = none)))
    ∧ (s.serves r.path r.submit r.role r.transfer 0x8001 .operator →
      let i := Instr.endOfLife r b .sound
      let refuse := fun (code : Nat) => Grants i s r 0x8001 2 code { u with sys := result u.sys code }
      (b.length ≠ 2484 → refuse 0x01010003)
      ∧ (b.length = 2484 → fieldN b 4 1 ≠ 2 → refuse 0x01010009)
      ∧ (b.length = 2484 → fieldN b 4 1 = 2 → ¬ live → refuse 0x05010001)
      ∧ (b.length = 2484 → fieldN b 4 1 = 2 → live → key = 0#256 → refuse 0x05010002)
      ∧ (b.length = 2484 → fieldN b 4 1 = 2 → live → key ≠ 0#256 → 8 ≤ T.fails → refuse 0x02010004)
      ∧ (b.length = 2484 → fieldN b 4 1 = 2 → live → key ≠ 0#256 → T.fails < 8 → ∃ (t : State) (code : Nat), Grants i s r 0x8001 2 code t ∧ t.sys.trust.result = code
        ∧ (u.sys.requestOk b key = false → code = 0x02010003 ∧ t.fuses = s.fuses ∧ t.sys = { u.sys with trust := { checked (T.fails + 1) with result := code }, free := u.sys.free + 1 })
        ∧ (u.sys.requestOk b key = true → ¬ empty → (code = 0x05010003 ∨ code = 0x03010001) ∧ t.fuses = s.fuses ∧ t.sys.parts = u.sys.parts)
        ∧ (u.sys.requestOk b key = true → empty → s.fuses.ahead = .sound → (code = 0x05010003 ∧ t.fuses = s.fuses)
          ∨ (code = 0 ∧ t.fuses.lcState = .eol ∧ t.fuses.ds = BitVec.allOnes 256 ∧ t.fuses.wiped = true ∧ t.sys.dv 0x8002 1 = 0 ∧ ∀ f ∈ functions, f ≠ fnBowline → (t.sys.fn f).state = .off))))
    ∧ (s.serves r.path r.submit r.role r.transfer 0x8002 .operator →
      let u := (s.takenReq r 0x8002 2).sys
      let T := u.trust
      let checked := fun (fails : Nat) => { T with nonce := Config.draw u.free, fails := fails }
      let ans := fun (code : Nat) (y : Sys) => Grants (.operatorKeyChange r b) s r 0x8002 2 code { s.takenReq r 0x8002 2 with sys := y }
      let ok := (fieldN b 0 4 == 0x4B4F5A43 && allZero (sliceB b 4 4) && sliceB b 8 16 == serialBytes && sliceB b 0x18 32 == keyBytes T.nonce && key != 0#256
        && Config.digestVerify key (b.take 0x58) (sliceB b 0x58 2420)) = true
      (b.length ≠ 2508 → ans 0x01010003 u)
      ∧ (b.length = 2508 → 8 ≤ T.fails → ans 0x02010004 u)
      ∧ (b.length = 2508 → T.fails < 8 → (¬ ok → ans 0x02010003 { u with trust := checked (T.fails + 1), free := u.free + 1 })
        ∧ (ok → ∃ y, ans 0 y ∧ y.dv 0x8002 1 = fieldN b 0x38 32 ∧ (∀ i n, (i ≠ 0x8002 ∨ n ≠ 1) → n < 256 → y.dv i n = u.dv i n) ∧ y.trust = checked 0
          ∧ { y with dict := u.dict, trust := u.trust, free := u.free } = u)))
    ∧ (s.serves r.path r.submit r.role r.transfer 0x8004 w → (w = .operator ∨ w = .vendor) →
      let u := (s.takenReq r 0x8004 1).finishInstall
      ((b = [] ∨ 262144 < b.length) → Grants (.amendImage r b) s r 0x8004 1 0x01010003 u)
      ∧ (b ≠ [] → b.length ≤ 262144 → (∃ d, l = .partial_ d) → Grants (.amendImage r b) s r 0x8004 1 0x02010002 u)
      ∧ (b ≠ [] → b.length ≤ 262144 → (∀ d, l ≠ .partial_ d) → amendOk b s.fuses.amendCount = false → ∃ code, (code = 0x01010009 ∨ code = 0x02010003)
        ∧ Grants (.amendImage r b) s r 0x8004 1 code { u with sys := u.sys.dropEks })
      ∧ (b ≠ [] → b.length ≤ 262144 → (∀ d, l ≠ .partial_ d) → amendOk b s.fuses.amendCount = true → s.fuses.ahead = .sound → ∃ t : State, Grants (.amendImage r b) s r 0x8004 1 0 t
        ∧ t.fuses.amendCount = amendVersion b ∧ { t.fuses with thermo := s.fuses.thermo, ahead := s.fuses.ahead } = s.fuses
        ∧ (∀ p < 80, t.sys.part p = { s.sys.part p with ekPair := none })
        ∧ t.sys.trust = { u.sys.trust with flash := some b, installing := some b, amendState := 1 }))
    ∧ ∀ (d : Bytes) (t : State), s.pending = [] → s.sys.waiting = [] → (∀ h : Fin 80, s.sys.runs h.val = false) → s.sys.mem.alarms = [] → s.sys.mem.posted = [] → s.sys.plat.upset = .none →
        s.sys.trust.installing = some d → step s = .next t → t.fuses = s.fuses ∧ t.sys.trust.inForce = some d ∧ t.sys.trust.amendState = 2 ∧ t.sys.trust.installing = none

/-- R19, R439, R443 to R446: LOG_FREEZE makes the trigger record and LOG_UNFREEZE restarts the ring; the Bowline die takes the oldest record of a unit's pre-ring, in round robin; a local
count wraps.
Conventions of the model that it rests on: logs 14, 107, 178. -/
def Obligations.LogRows : Prop :=
  ∀ s : State,
    let L := s.sys.log
    (∀ r : ReqF, s.serves r.path r.submit r.role r.transfer 0x7000 .operator →
      let u := fun (sub : Nat) => (s.takenReq r 0x7000 sub).sys
      let q := L.pre.get [] fnBowline
      let ans := fun (c : Instr) (sub : Nat) (y : Sys) => Grants c s r 0x7000 sub 0 { s.takenReq r 0x7000 sub with sys := y }
      (q.length < 240 → ∃ y x, ans (.logFreeze r) 1 y ∧ y.log = { L with pre := L.pre.set [] fnBowline (q ++ [x]) } ∧ x.body.event = 0x0808#16 ∧ x.body.unit = 0#8
        ∧ x.body.arg0 = BitVec.ofNat 32 (pathCode r.path) ∧ { y with log := L, counts := s.sys.counts, free := s.sys.free } = u 1)
      ∧ (q.length < 240 → ∃ y x, ans (.logUnfreeze r) 7 y ∧ y.log = { L with frozen := false, cause := 0#8, after := 0, dropped := 0, frozenAt := [], pre := L.pre.set [] fnBowline (q ++ [x]) }
        ∧ x.body.event = 0x0802#16 ∧ x.body.arg0 = BitVec.ofNat 32 L.dropped ∧ { y with log := L, counts := s.sys.counts, free := s.sys.free } = u 7))
    ∧ (∀ unit : Nat,
      let q := L.pre.get [] unit
      let place := fun (v : Nat) => (v + 255 - L.turn % 256) % 256
      ((s.sys.fn fnBowline).state ≠ .ready → exec (.logRecord unit) s = .next s)
      ∧ (q = [] → exec (.logRecord unit) s = .next s)
      ∧ ((s.sys.fn fnBowline).state = .ready → q ≠ [] → unit < 256 → (∀ v, L.lost.get 0 v = 0) → ∃ t, exec (.logRecord unit) s = .next t ∧ t.fuses = s.fuses ∧ t.pending = s.pending
        ∧ t.sys.log.turn = unit ∧ { t.sys with log := L, counts := s.sys.counts, free := s.sys.free } = s.sys
        ∧ ∀ v < 256, t.sys.log.pre.get [] v = if v = unit ∨ place v < place unit then (L.pre.get [] v).tail else L.pre.get [] v)
      ∧ ∀ x rest, (s.sys.fn fnBowline).state = .ready → q = x :: rest → L.lost.get 0 unit = 0 → (∀ v, v ≠ unit → L.pre.get [] v = []) →
        let trigger := if x.body.event = 0x0102#16 then 1#8 else if x.body.event = 0x0201#16 then 2#8 else if x.body.event = 0x0808#16 then 3#8 else 0#8
        let keep := fun (flags : Byte) => let ring := L.ring ++ [{ x.body with flags := x.body.flags ||| flags, seq := L.nextSeq }]; ring.drop (ring.length - 65536)
        ∃ t, exec (.logRecord unit) s = .next t ∧ t.sys.log.pre = L.pre.set [] unit rest ∧ t.fuses = s.fuses ∧ t.pending = s.pending
          ∧ { t.sys with log := L, counts := s.sys.counts, free := s.sys.free } = s.sys
          ∧ (L.frozen = false → trigger = 0#8 → t.sys.log = { L with pre := t.sys.log.pre, turn := unit, ring := keep 0#8, nextSeq := L.nextSeq + 1#32 } ∧ t.sys.counts = s.sys.counts)
          ∧ (L.frozen = false → trigger ≠ 0#8 → t.sys.log = { L with pre := t.sys.log.pre, turn := unit, ring := keep 2#8, nextSeq := L.nextSeq + 1#32, frozen := true, cause := trigger, after := 0, frozenAt := t.sys.log.frozenAt } ∧ ∀ d ∈ domains, t.sys.log.frozenAt.get? d = some (t.sys.count d))
          ∧ (L.frozen = true → (L.after < 4096 ∧ x.unfrozen = true) → t.sys.log = { L with pre := t.sys.log.pre, turn := unit, ring := keep 4#8, nextSeq := L.nextSeq + 1#32, after := L.after + 1 })
          ∧ (L.frozen = true → 4096 ≤ L.after → t.sys.log = { L with pre := t.sys.log.pre, turn := unit, dropped := L.dropped + 1 }))
    ∧ ∀ d : Nat, (d ∉ domains ∨ s.sys.clockRuns d = false → exec (.countWrap d) s = .next s)
      ∧ (d ∈ domains → s.sys.clockRuns d = true → (L.pre.get [] (domainUnit d)).length < 240 → ∃ t x, exec (.countWrap d) s = .next t ∧ t.fuses = s.fuses ∧ t.pending = s.pending ∧ t.sys.count d = 0#48
        ∧ t.sys.wraps.get 0 d = s.sys.wraps.get 0 d + 1
        ∧ t.sys.log = { L with pre := L.pre.set [] (domainUnit d) (L.pre.get [] (domainUnit d) ++ [x]), firsts := t.sys.log.firsts, shared := t.sys.log.shared }
        ∧ (∀ store < 8, (t.sys.log.firsts.get? (8 * d + store)).map (fun e => e.1) = (L.firsts.get? (8 * d + store)).map (fun _ => noWindow))
        ∧ x.body.event = 0x0701#16 ∧ x.body.localCount = 0#48 ∧ x.body.arg1 = BitVec.ofNat 64 (s.sys.wraps.get 0 d + 1)
        ∧ (∀ e, e ≠ d → t.sys.count e = s.sys.count e ∧ t.sys.wraps.get 0 e = s.sys.wraps.get 0 e) ∧ { t.sys with log := L, counts := s.sys.counts, wraps := s.sys.wraps } = s.sys)
end

