-- ==== Sys2Proof/Laws/Sparse.lean ====
section
/-!
SUPPORT. Reading a sparse store after each way of writing it, and the writes keep the canonical form.
-/

namespace Sys2Proof

variable {α : Type}

/-! Reads after writes -/

theorem SMap.find_filter_of_true {p : Nat × α → Bool} {m : SMap α} {k : Nat} (h : ∀ e : Nat × α, e.1 = k → p e = true) :
    (m.filter p).find? (fun e => e.1 == k) = m.find? (fun e => e.1 == k) := by
  induction m with
  | nil => rfl
  | cons e t ih =>
    by_cases he : e.1 = k
    · simp [List.filter, h e he, he]
    · have he' : (e.1 == k) = false := by simpa using he
      by_cases hp : p e = true
      · simp [List.filter, hp, List.find?, he', ih]
      · simp [List.filter, hp, List.find?, he', ih]

theorem SMap.find_filter_of_false {p : Nat × α → Bool} {m : SMap α} {k : Nat} (h : ∀ e : Nat × α, e.1 = k → p e = false) :
    (m.filter p).find? (fun e => e.1 == k) = none := by
  simp only [List.find?_eq_none, List.mem_filter, beq_iff_eq, and_imp]
  intro e _ hp he
  simp [h e he] at hp

@[simp] theorem SMap.get_nil (d : α) (k : Nat) : SMap.get d [] k = d := rfl

theorem SMap.find_del_same (m : SMap α) (k : Nat) : (m.del k).find? (fun e => e.1 == k) = none :=
  SMap.find_filter_of_false (by intro e he; simp [he])

theorem SMap.find_del_other (m : SMap α) {k j : Nat} (h : j ≠ k) :
    (m.del k).find? (fun e => e.1 == j) = m.find? (fun e => e.1 == j) :=
  SMap.find_filter_of_true (by intro e he; simp [he, h])

theorem SMap.find_ins_other (m : SMap α) {k j : Nat} (v : α) (h : j ≠ k) :
    (m.ins k v).find? (fun e => e.1 == j) = m.find? (fun e => e.1 == j) := by
  have h' : (k == j) = false := by simpa using fun e => h e.symm
  induction m with
  | nil => simp [SMap.ins, h']
  | cons e t ih =>
    unfold SMap.ins
    split
    · simp [List.find?, h']
    · simp [List.find?, ih]

theorem SMap.find_ins_same (m : SMap α) (k : Nat) (v : α) (h : m.find? (fun e => e.1 == k) = none) :
    (m.ins k v).find? (fun e => e.1 == k) = some (k, v) := by
  induction m with
  | nil => simp [SMap.ins]
  | cons e t ih =>
    have hk : ¬ e.1 = k := by intro he; simp [List.find?, he] at h
    unfold SMap.ins
    split
    · simp [List.find?]
    · simp only [List.find?] at h ⊢
      simp only [show (e.1 == k) = false from by simpa using hk] at h ⊢
      exact ih h

/-- A key reads as what was written to it. -/
@[simp] theorem SMap.get_set_same [DecidableEq α] (d : α) (m : SMap α) (k : Nat) (v : α) : (m.set d k v).get d k = v := by
  unfold SMap.set
  split
  · next h => simp [SMap.get, SMap.find_del_same, h]
  · simp [SMap.get, SMap.find_ins_same _ _ _ (SMap.find_del_same m k)]

/-- Every other key reads as before. -/
theorem SMap.get_set_other [DecidableEq α] (d : α) (m : SMap α) {k j : Nat} (v : α) (h : j ≠ k) : (m.set d k v).get d j = m.get d j := by
  unfold SMap.set
  split
  · simp [SMap.get, SMap.find_del_other m h]
  · simp [SMap.get, SMap.find_ins_other _ v h, SMap.find_del_other m h]

theorem SMap.get_set [DecidableEq α] (d : α) (m : SMap α) (k j : Nat) (v : α) :
    (m.set d k v).get d j = if j = k then v else m.get d j := by
  split
  · next h => subst h; simp
  · next h => exact SMap.get_set_other d m v h

theorem SMap.get?_put_same (m : SMap α) (k : Nat) (v : α) : (m.put k v).get? k = some v := by
  simp [SMap.get?, SMap.put, SMap.find_ins_same _ _ _ (SMap.find_del_same m k)]

theorem SMap.get?_put_other (m : SMap α) {k j : Nat} (v : α) (h : j ≠ k) : (m.put k v).get? j = m.get? j := by
  simp [SMap.get?, SMap.put, SMap.find_ins_other _ v h, SMap.find_del_other m h]

theorem SMap.find_gen_none [DecidableEq α] (d : α) (base n : Nat) (f : Nat → α) {k : Nat} (h : k < base ∨ base + n ≤ k) :
    (SMap.gen d base n f).find? (fun e => e.1 == k) = none := by
  simp only [SMap.gen, List.find?_eq_none, List.mem_filterMap, List.mem_range, beq_iff_eq]
  rintro e ⟨i, hi, he⟩ hk
  split at he
  · cases he
  · cases he; simp at hk; omega

theorem SMap.find_gen_some [DecidableEq α] (d : α) (base n : Nat) (f : Nat → α) {i : Nat} (h : i < n) :
    (SMap.gen d base n f).find? (fun e => e.1 == base + i) = if f i = d then none else some (base + i, f i) := by
  unfold SMap.gen
  induction n with
  | zero => omega
  | succ n ih =>
    rw [List.range_succ, List.filterMap_append, List.find?_append]
    by_cases hi : i < n
    · rw [ih hi]
      split
      · next hd =>
        have hne : ¬ n = i := by omega
        by_cases hn : f n = d
        · simp [hn]
        · simp [hn, hne]
      · simp
    · have hin : i = n := by omega
      subst hin
      have hnone : ((List.range i).filterMap (fun j => if f j = d then none else some (base + j, f j))).find? (fun e => e.1 == base + i) = none := by
        simpa [SMap.gen] using SMap.find_gen_none d base i f (k := base + i) (Or.inr (Nat.le_refl _))
      rw [hnone]
      by_cases hd : f i = d <;> simp [hd]

/-- A bulk write, read at a key within it. -/
theorem SMap.get_setFn_in [DecidableEq α] (d : α) (m : SMap α) (base n : Nat) (f : Nat → α) {i : Nat} (h : i < n) :
    (m.setFn d base n f).get d (base + i) = f i := by
  have h1 : (m.filter (fun e => e.1 < base)).find? (fun e => e.1 == base + i) = none :=
    SMap.find_filter_of_false (by intro e he; simp [he])
  have h2 : (m.filter (fun e => base + n ≤ e.1)).find? (fun e => e.1 == base + i) = none :=
    SMap.find_filter_of_false (by intro e he; simp [he]; omega)
  unfold SMap.get SMap.setFn
  rw [List.find?_append, List.find?_append, h1, h2, SMap.find_gen_some d base n f h]
  by_cases hd : f i = d <;> simp [hd]

/-- A bulk write, read at a key outside it. -/
theorem SMap.get_setFn_out [DecidableEq α] (d : α) (m : SMap α) (base n : Nat) (f : Nat → α) {k : Nat} (h : k < base ∨ base + n ≤ k) :
    (m.setFn d base n f).get d k = m.get d k := by
  unfold SMap.get SMap.setFn
  rw [List.find?_append, List.find?_append, SMap.find_gen_none d base n f h]
  rcases h with h | h
  · rw [SMap.find_filter_of_true (p := fun e => decide (e.1 < base)) (by intro e he; simp [he, h]),
        SMap.find_filter_of_false (p := fun e => decide (base + n ≤ e.1)) (by intro e he; simp [he]; omega)]
    simp
  · rw [SMap.find_filter_of_false (p := fun e => decide (e.1 < base)) (by intro e he; simp [he]; omega),
        SMap.find_filter_of_true (p := fun e => decide (base + n ≤ e.1)) (by intro e he; simp [he, h])]
    simp

/-- Dropping a range, read at a key. -/
theorem SMap.get_delRange (d : α) (m : SMap α) (base n k : Nat) :
    SMap.get d (m.delRange base n) k = if base ≤ k ∧ k < base + n then d else SMap.get d m k := by
  unfold SMap.get SMap.delRange
  by_cases h : base ≤ k ∧ k < base + n
  · rw [if_pos h, SMap.find_filter_of_false (by intro e he; simp [he]; omega)]
  · rw [if_neg h, SMap.find_filter_of_true (by intro e he; simp [he]; omega)]

/-- What a copied range finds at a key is what stands at the key that it comes from. -/
theorem SMap.find_shift (m : SMap α) (a b n i : Nat) (h : i < n) :
    ((m.filter (fun e => a ≤ e.1 && e.1 < a + n)).map (fun e => (e.1 - a + b, e.2))).find? (fun e => e.1 == b + i)
      = (m.find? (fun e => e.1 == a + i)).map (fun e => (b + i, e.2)) := by
  induction m with
  | nil => rfl
  | cons e t ih =>
    by_cases hi : e.1 = a + i
    · simp [hi, h, Nat.add_comm i b]
    · have hi' : (e.1 == a + i) = false := by simpa using hi
      by_cases hp : a ≤ e.1 ∧ e.1 < a + n
      · have h2 : (e.1 - a + b == b + i) = false := by simp; omega
        simp [hp, hi', h2, ih, List.find?]
      · have hp' : (decide (a ≤ e.1) && decide (e.1 < a + n)) = false := by simp; omega
        simp [hp', hi', ih, List.find?]

/-- A copied range, read within it. -/
theorem SMap.get_copyRange_in (d : α) (m : SMap α) (a b n : Nat) {i : Nat} (h : i < n) :
    SMap.get d (m.copyRange a b n) (b + i) = SMap.get d m (a + i) := by
  unfold SMap.get SMap.copyRange
  rw [List.find?_append, List.find?_append, SMap.find_shift m a b n i h,
    SMap.find_filter_of_false (p := fun e => decide (e.1 < b)) (by intro e he; simp [he]),
    SMap.find_filter_of_false (p := fun e => decide (b + n ≤ e.1)) (by intro e he; simp [he]; omega)]
  cases m.find? (fun e => e.1 == a + i) <;> rfl

/-- A copied range, read outside it. -/
theorem SMap.get_copyRange_out (d : α) (m : SMap α) (a b n : Nat) {k : Nat} (h : k < b ∨ b + n ≤ k) :
    SMap.get d (m.copyRange a b n) k = SMap.get d m k := by
  have hm : ((m.filter (fun e => a ≤ e.1 && e.1 < a + n)).map (fun e => (e.1 - a + b, e.2))).find? (fun e => e.1 == k) = none := by
    simp only [List.find?_eq_none, List.mem_map, List.mem_filter, beq_iff_eq]
    rintro _ ⟨e, ⟨-, he⟩, rfl⟩ hk
    simp at he hk; omega
  unfold SMap.get SMap.copyRange
  rw [List.find?_append, List.find?_append, hm]
  rcases h with h | h
  · rw [SMap.find_filter_of_true (p := fun e => decide (e.1 < b)) (by intro e he; simp [he, h]),
        SMap.find_filter_of_false (p := fun e => decide (b + n ≤ e.1)) (by intro e he; simp [he]; omega)]
    simp
  · rw [SMap.find_filter_of_false (p := fun e => decide (e.1 < b)) (by intro e he; simp [he]; omega),
        SMap.find_filter_of_true (p := fun e => decide (b + n ≤ e.1)) (by intro e he; simp [he, h])]
    simp

/-! The canonical form -/

/-- Keys strictly rising. -/
abbrev SMap.sorted (m : SMap α) : Prop := m.Pairwise (fun a b => a.1 < b.1)

theorem SMap.wf_iff [DecidableEq α] (d : α) (m : SMap α) : m.wf d = true ↔ (∀ e ∈ m, e.2 ≠ d) ∧ m.sorted := by
  simp [SMap.wf, SMap.sorted]

theorem SMap.wf_nil [DecidableEq α] (d : α) : SMap.wf d ([] : SMap α) = true := rfl

theorem SMap.wf_filter [DecidableEq α] (d : α) (m : SMap α) (p : Nat × α → Bool) (h : m.wf d = true) : SMap.wf d (m.filter p) = true := by
  rw [SMap.wf_iff] at h ⊢
  exact ⟨fun e he => h.1 e (List.mem_of_mem_filter he), h.2.filter p⟩

theorem SMap.wf_del [DecidableEq α] (d : α) (m : SMap α) (k : Nat) (h : m.wf d = true) : (m.del k).wf d = true :=
  SMap.wf_filter d m _ h

theorem SMap.mem_ins (m : SMap α) (k : Nat) (v : α) (e : Nat × α) : e ∈ m.ins k v ↔ e = (k, v) ∨ e ∈ m := by
  induction m with
  | nil => simp [SMap.ins]
  | cons x t ih =>
    unfold SMap.ins
    split
    · simp
    · simp only [List.mem_cons, ih]
      tauto

theorem SMap.sorted_ins (m : SMap α) (k : Nat) (v : α) (h : m.sorted) (hk : ∀ e ∈ m, e.1 ≠ k) : SMap.sorted (m.ins k v) := by
  induction m with
  | nil => simp [SMap.ins, SMap.sorted]
  | cons x t ih =>
    have hx := List.pairwise_cons.mp h
    unfold SMap.ins
    split
    · next hlt =>
      refine List.pairwise_cons.mpr ⟨?_, h⟩
      intro e he
      rcases List.mem_cons.mp he with rfl | he
      · exact hlt
      · exact Nat.lt_trans hlt (hx.1 e he)
    · next hlt =>
      refine List.pairwise_cons.mpr ⟨?_, ih hx.2 (fun e he => hk e (List.mem_cons_of_mem _ he))⟩
      intro e he
      have hxk := hk x List.mem_cons_self
      rcases (SMap.mem_ins t k v e).mp he with rfl | he
      · simp only; omega
      · exact hx.1 e he

/-- A write of one key keeps the canonical form. -/
theorem SMap.wf_set [DecidableEq α] (d : α) (m : SMap α) (k : Nat) (v : α) (h : m.wf d = true) : (m.set d k v).wf d = true := by
  unfold SMap.set
  split
  · exact SMap.wf_del d m k h
  · next hv =>
    have hd := (SMap.wf_iff d _).mp (SMap.wf_del d m k h)
    rw [SMap.wf_iff]
    refine ⟨?_, SMap.sorted_ins _ k v hd.2 ?_⟩
    · intro e he
      rcases (SMap.mem_ins _ k v e).mp he with rfl | he
      · exact hv
      · exact hd.1 e he
    · intro e he
      simp [SMap.del] at he
      exact he.2

theorem SMap.wf_modify [DecidableEq α] (d : α) (m : SMap α) (k : Nat) (f : α → α) (h : m.wf d = true) : (m.modify d k f).wf d = true :=
  SMap.wf_set d m k _ h

theorem SMap.mem_gen [DecidableEq α] (d : α) (base n : Nat) (f : Nat → α) (e : Nat × α) (h : e ∈ SMap.gen d base n f) :
    base ≤ e.1 ∧ e.1 < base + n ∧ e.2 ≠ d := by
  simp only [SMap.gen, List.mem_filterMap, List.mem_range] at h
  obtain ⟨i, hi, he⟩ := h
  split at he
  · cases he
  · next hd => cases he; exact ⟨by simp, by simp [hi], hd⟩

theorem SMap.sorted_gen [DecidableEq α] (d : α) (base n : Nat) (f : Nat → α) : SMap.sorted (SMap.gen d base n f) := by
  induction n with
  | zero => simp [SMap.gen, SMap.sorted]
  | succ n ih =>
    have hstep : SMap.gen d base (n + 1) f = SMap.gen d base n f ++ (if f n = d then [] else [(base + n, f n)]) := by
      simp only [SMap.gen, List.range_succ, List.filterMap_append]
      by_cases h : f n = d <;> simp [h]
    rw [hstep]
    refine List.pairwise_append.mpr ⟨ih, by split <;> simp, ?_⟩
    intro a ha b hb
    have := SMap.mem_gen d base n f a ha
    split at hb
    · cases hb
    · simp at hb; subst hb; exact this.2.1

/-- A bulk write keeps the canonical form. -/
theorem SMap.wf_setFn [DecidableEq α] (d : α) (m : SMap α) (base n : Nat) (f : Nat → α) (h : m.wf d = true) : (m.setFn d base n f).wf d = true := by
  have h := (SMap.wf_iff d m).mp h
  rw [SMap.wf_iff]
  unfold SMap.setFn
  constructor
  · intro e he
    simp only [List.mem_append, List.mem_filter] at he
    rcases he with (⟨he, -⟩ | he) | ⟨he, -⟩
    · exact h.1 e he
    · exact (SMap.mem_gen d base n f e he).2.2
    · exact h.1 e he
  · refine List.pairwise_append.mpr ⟨List.pairwise_append.mpr ⟨h.2.filter _, SMap.sorted_gen d base n f, ?_⟩, h.2.filter _, ?_⟩
    · intro a ha b hb
      have ha := (List.mem_filter.mp ha).2
      have hb := (SMap.mem_gen d base n f b hb).1
      simp at ha; omega
    · intro a ha b hb
      have hb := (List.mem_filter.mp hb).2
      simp at hb
      rcases List.mem_append.mp ha with ha | ha
      · have ha := (List.mem_filter.mp ha).2
        simp at ha; omega
      · have := (SMap.mem_gen d base n f a ha).2.1
        omega

/-- A copy keeps the canonical form. -/
theorem SMap.wf_copyRange [DecidableEq α] (d : α) (m : SMap α) (a b n : Nat) (h : m.wf d = true) : (m.copyRange a b n).wf d = true := by
  have h := (SMap.wf_iff d m).mp h
  have mid : ∀ e ∈ (m.filter (fun e => a ≤ e.1 && e.1 < a + n)).map (fun e => (e.1 - a + b, e.2)), b ≤ e.1 ∧ e.1 < b + n ∧ e.2 ≠ d := by
    intro e he
    obtain ⟨x, hx, rfl⟩ := List.mem_map.mp he
    have hm := List.mem_filter.mp hx
    have hr := hm.2
    simp at hr
    exact ⟨by simp, by simp only; omega, h.1 x hm.1⟩
  rw [SMap.wf_iff]
  unfold SMap.copyRange
  constructor
  · intro e he
    simp only [List.mem_append] at he
    rcases he with (he | he) | he
    · exact h.1 e (List.mem_filter.mp he).1
    · exact (mid e he).2.2
    · exact h.1 e (List.mem_filter.mp he).1
  · refine List.pairwise_append.mpr ⟨List.pairwise_append.mpr ⟨h.2.filter _, ?_, ?_⟩, h.2.filter _, ?_⟩
    · refine List.pairwise_map.mpr ((h.2.filter _).imp_of_mem ?_)
      intro x y hx hy hxy
      have hx := (List.mem_filter.mp hx).2
      have hy := (List.mem_filter.mp hy).2
      simp at hx hy ⊢
      omega
    · intro x hx y hy
      have hx := (List.mem_filter.mp hx).2
      have := (mid y hy).1
      simp at hx
      omega
    · intro x hx y hy
      have hy := (List.mem_filter.mp hy).2
      simp at hy
      rcases List.mem_append.mp hx with hx | hx
      · have hx := (List.mem_filter.mp hx).2
        simp at hx; omega
      · have := (mid x hx).2.1
        omega

end Sys2Proof
end

