-- ==== Sys2Proof/Laws/State.lean ====
section
/-!
SUPPORT. What each update of the state leaves, field by field, and reading back what was written.
-/

namespace Sys2Proof.Machine

/-! Sys.setBight changes bights alone -/

@[simp] theorem Sys.setBight_saved (y : Sys) (b : Nat) (x : Bight) : (y.setBight b x).saved = y.saved := rfl
@[simp] theorem Sys.setBight_ctxs (y : Sys) (b : Nat) (x : Bight) : (y.setBight b x).ctxs = y.ctxs := rfl
@[simp] theorem Sys.setBight_parts (y : Sys) (b : Nat) (x : Bight) : (y.setBight b x).parts = y.parts := rfl
@[simp] theorem Sys.setBight_mem (y : Sys) (b : Nat) (x : Bight) : (y.setBight b x).mem = y.mem := rfl
@[simp] theorem Sys.setBight_log (y : Sys) (b : Nat) (x : Bight) : (y.setBight b x).log = y.log := rfl
@[simp] theorem Sys.setBight_fab (y : Sys) (b : Nat) (x : Bight) : (y.setBight b x).fab = y.fab := rfl
@[simp] theorem Sys.setBight_dict (y : Sys) (b : Nat) (x : Bight) : (y.setBight b x).dict = y.dict := rfl
@[simp] theorem Sys.setBight_cleats (y : Sys) (b : Nat) (x : Bight) : (y.setBight b x).cleats = y.cleats := rfl
@[simp] theorem Sys.setBight_plat (y : Sys) (b : Nat) (x : Bight) : (y.setBight b x).plat = y.plat := rfl
@[simp] theorem Sys.setBight_trust (y : Sys) (b : Nat) (x : Bight) : (y.setBight b x).trust = y.trust := rfl
@[simp] theorem Sys.setBight_counts (y : Sys) (b : Nat) (x : Bight) : (y.setBight b x).counts = y.counts := rfl
@[simp] theorem Sys.setBight_wraps (y : Sys) (b : Nat) (x : Bight) : (y.setBight b x).wraps = y.wraps := rfl
@[simp] theorem Sys.setBight_waiting (y : Sys) (b : Nat) (x : Bight) : (y.setBight b x).waiting = y.waiting := rfl
@[simp] theorem Sys.setBight_replay (y : Sys) (b : Nat) (x : Bight) : (y.setBight b x).replay = y.replay := rfl
@[simp] theorem Sys.setBight_free (y : Sys) (b : Nat) (x : Bight) : (y.setBight b x).free = y.free := rfl
@[simp] theorem Sys.setBight_useNext (y : Sys) (b : Nat) (x : Bight) : (y.setBight b x).useNext = y.useNext := rfl
@[simp] theorem Sys.setBight_hostOut (y : Sys) (b : Nat) (x : Bight) : (y.setBight b x).hostOut = y.hostOut := rfl
@[simp] theorem Sys.setBight_msixOut (y : Sys) (b : Nat) (x : Bight) : (y.setBight b x).msixOut = y.msixOut := rfl
@[simp] theorem Sys.setBight_bar4 (y : Sys) (b : Nat) (x : Bight) : (y.setBight b x).bar4 = y.bar4 := rfl
@[simp] theorem Sys.setBight_opEvents (y : Sys) (b : Nat) (x : Bight) : (y.setBight b x).opEvents = y.opEvents := rfl
@[simp] theorem Sys.setBight_opCount (y : Sys) (b : Nat) (x : Bight) : (y.setBight b x).opCount = y.opCount := rfl

/-! Sys.setPart changes parts alone -/

@[simp] theorem Sys.setPart_bights (y : Sys) (p : Nat) (x : Partition) : (y.setPart p x).bights = y.bights := rfl
@[simp] theorem Sys.setPart_saved (y : Sys) (p : Nat) (x : Partition) : (y.setPart p x).saved = y.saved := rfl
@[simp] theorem Sys.setPart_ctxs (y : Sys) (p : Nat) (x : Partition) : (y.setPart p x).ctxs = y.ctxs := rfl
@[simp] theorem Sys.setPart_mem (y : Sys) (p : Nat) (x : Partition) : (y.setPart p x).mem = y.mem := rfl
@[simp] theorem Sys.setPart_log (y : Sys) (p : Nat) (x : Partition) : (y.setPart p x).log = y.log := rfl
@[simp] theorem Sys.setPart_fab (y : Sys) (p : Nat) (x : Partition) : (y.setPart p x).fab = y.fab := rfl
@[simp] theorem Sys.setPart_dict (y : Sys) (p : Nat) (x : Partition) : (y.setPart p x).dict = y.dict := rfl
@[simp] theorem Sys.setPart_cleats (y : Sys) (p : Nat) (x : Partition) : (y.setPart p x).cleats = y.cleats := rfl
@[simp] theorem Sys.setPart_plat (y : Sys) (p : Nat) (x : Partition) : (y.setPart p x).plat = y.plat := rfl
@[simp] theorem Sys.setPart_trust (y : Sys) (p : Nat) (x : Partition) : (y.setPart p x).trust = y.trust := rfl
@[simp] theorem Sys.setPart_counts (y : Sys) (p : Nat) (x : Partition) : (y.setPart p x).counts = y.counts := rfl
@[simp] theorem Sys.setPart_wraps (y : Sys) (p : Nat) (x : Partition) : (y.setPart p x).wraps = y.wraps := rfl
@[simp] theorem Sys.setPart_waiting (y : Sys) (p : Nat) (x : Partition) : (y.setPart p x).waiting = y.waiting := rfl
@[simp] theorem Sys.setPart_replay (y : Sys) (p : Nat) (x : Partition) : (y.setPart p x).replay = y.replay := rfl
@[simp] theorem Sys.setPart_free (y : Sys) (p : Nat) (x : Partition) : (y.setPart p x).free = y.free := rfl
@[simp] theorem Sys.setPart_useNext (y : Sys) (p : Nat) (x : Partition) : (y.setPart p x).useNext = y.useNext := rfl
@[simp] theorem Sys.setPart_hostOut (y : Sys) (p : Nat) (x : Partition) : (y.setPart p x).hostOut = y.hostOut := rfl
@[simp] theorem Sys.setPart_msixOut (y : Sys) (p : Nat) (x : Partition) : (y.setPart p x).msixOut = y.msixOut := rfl
@[simp] theorem Sys.setPart_bar4 (y : Sys) (p : Nat) (x : Partition) : (y.setPart p x).bar4 = y.bar4 := rfl
@[simp] theorem Sys.setPart_opEvents (y : Sys) (p : Nat) (x : Partition) : (y.setPart p x).opEvents = y.opEvents := rfl
@[simp] theorem Sys.setPart_opCount (y : Sys) (p : Nat) (x : Partition) : (y.setPart p x).opCount = y.opCount := rfl

/-! Sys.setCtx changes ctxs alone -/

@[simp] theorem Sys.setCtx_bights (y : Sys) (c : Nat) (x : Context) : (y.setCtx c x).bights = y.bights := rfl
@[simp] theorem Sys.setCtx_saved (y : Sys) (c : Nat) (x : Context) : (y.setCtx c x).saved = y.saved := rfl
@[simp] theorem Sys.setCtx_parts (y : Sys) (c : Nat) (x : Context) : (y.setCtx c x).parts = y.parts := rfl
@[simp] theorem Sys.setCtx_mem (y : Sys) (c : Nat) (x : Context) : (y.setCtx c x).mem = y.mem := rfl
@[simp] theorem Sys.setCtx_log (y : Sys) (c : Nat) (x : Context) : (y.setCtx c x).log = y.log := rfl
@[simp] theorem Sys.setCtx_fab (y : Sys) (c : Nat) (x : Context) : (y.setCtx c x).fab = y.fab := rfl
@[simp] theorem Sys.setCtx_dict (y : Sys) (c : Nat) (x : Context) : (y.setCtx c x).dict = y.dict := rfl
@[simp] theorem Sys.setCtx_cleats (y : Sys) (c : Nat) (x : Context) : (y.setCtx c x).cleats = y.cleats := rfl
@[simp] theorem Sys.setCtx_plat (y : Sys) (c : Nat) (x : Context) : (y.setCtx c x).plat = y.plat := rfl
@[simp] theorem Sys.setCtx_trust (y : Sys) (c : Nat) (x : Context) : (y.setCtx c x).trust = y.trust := rfl
@[simp] theorem Sys.setCtx_counts (y : Sys) (c : Nat) (x : Context) : (y.setCtx c x).counts = y.counts := rfl
@[simp] theorem Sys.setCtx_wraps (y : Sys) (c : Nat) (x : Context) : (y.setCtx c x).wraps = y.wraps := rfl
@[simp] theorem Sys.setCtx_waiting (y : Sys) (c : Nat) (x : Context) : (y.setCtx c x).waiting = y.waiting := rfl
@[simp] theorem Sys.setCtx_replay (y : Sys) (c : Nat) (x : Context) : (y.setCtx c x).replay = y.replay := rfl
@[simp] theorem Sys.setCtx_free (y : Sys) (c : Nat) (x : Context) : (y.setCtx c x).free = y.free := rfl
@[simp] theorem Sys.setCtx_useNext (y : Sys) (c : Nat) (x : Context) : (y.setCtx c x).useNext = y.useNext := rfl
@[simp] theorem Sys.setCtx_hostOut (y : Sys) (c : Nat) (x : Context) : (y.setCtx c x).hostOut = y.hostOut := rfl
@[simp] theorem Sys.setCtx_msixOut (y : Sys) (c : Nat) (x : Context) : (y.setCtx c x).msixOut = y.msixOut := rfl
@[simp] theorem Sys.setCtx_bar4 (y : Sys) (c : Nat) (x : Context) : (y.setCtx c x).bar4 = y.bar4 := rfl
@[simp] theorem Sys.setCtx_opEvents (y : Sys) (c : Nat) (x : Context) : (y.setCtx c x).opEvents = y.opEvents := rfl
@[simp] theorem Sys.setCtx_opCount (y : Sys) (c : Nat) (x : Context) : (y.setCtx c x).opCount = y.opCount := rfl

/-! Sys.setSaved changes saved alone -/

@[simp] theorem Sys.setSaved_bights (y : Sys) (c b : Nat) (x : Bight) : (y.setSaved c b x).bights = y.bights := rfl
@[simp] theorem Sys.setSaved_ctxs (y : Sys) (c b : Nat) (x : Bight) : (y.setSaved c b x).ctxs = y.ctxs := rfl
@[simp] theorem Sys.setSaved_parts (y : Sys) (c b : Nat) (x : Bight) : (y.setSaved c b x).parts = y.parts := rfl
@[simp] theorem Sys.setSaved_mem (y : Sys) (c b : Nat) (x : Bight) : (y.setSaved c b x).mem = y.mem := rfl
@[simp] theorem Sys.setSaved_log (y : Sys) (c b : Nat) (x : Bight) : (y.setSaved c b x).log = y.log := rfl
@[simp] theorem Sys.setSaved_fab (y : Sys) (c b : Nat) (x : Bight) : (y.setSaved c b x).fab = y.fab := rfl
@[simp] theorem Sys.setSaved_dict (y : Sys) (c b : Nat) (x : Bight) : (y.setSaved c b x).dict = y.dict := rfl
@[simp] theorem Sys.setSaved_cleats (y : Sys) (c b : Nat) (x : Bight) : (y.setSaved c b x).cleats = y.cleats := rfl
@[simp] theorem Sys.setSaved_plat (y : Sys) (c b : Nat) (x : Bight) : (y.setSaved c b x).plat = y.plat := rfl
@[simp] theorem Sys.setSaved_trust (y : Sys) (c b : Nat) (x : Bight) : (y.setSaved c b x).trust = y.trust := rfl
@[simp] theorem Sys.setSaved_counts (y : Sys) (c b : Nat) (x : Bight) : (y.setSaved c b x).counts = y.counts := rfl
@[simp] theorem Sys.setSaved_wraps (y : Sys) (c b : Nat) (x : Bight) : (y.setSaved c b x).wraps = y.wraps := rfl
@[simp] theorem Sys.setSaved_waiting (y : Sys) (c b : Nat) (x : Bight) : (y.setSaved c b x).waiting = y.waiting := rfl
@[simp] theorem Sys.setSaved_replay (y : Sys) (c b : Nat) (x : Bight) : (y.setSaved c b x).replay = y.replay := rfl
@[simp] theorem Sys.setSaved_free (y : Sys) (c b : Nat) (x : Bight) : (y.setSaved c b x).free = y.free := rfl
@[simp] theorem Sys.setSaved_useNext (y : Sys) (c b : Nat) (x : Bight) : (y.setSaved c b x).useNext = y.useNext := rfl
@[simp] theorem Sys.setSaved_hostOut (y : Sys) (c b : Nat) (x : Bight) : (y.setSaved c b x).hostOut = y.hostOut := rfl
@[simp] theorem Sys.setSaved_msixOut (y : Sys) (c b : Nat) (x : Bight) : (y.setSaved c b x).msixOut = y.msixOut := rfl
@[simp] theorem Sys.setSaved_bar4 (y : Sys) (c b : Nat) (x : Bight) : (y.setSaved c b x).bar4 = y.bar4 := rfl
@[simp] theorem Sys.setSaved_opEvents (y : Sys) (c b : Nat) (x : Bight) : (y.setSaved c b x).opEvents = y.opEvents := rfl
@[simp] theorem Sys.setSaved_opCount (y : Sys) (c b : Nat) (x : Bight) : (y.setSaved c b x).opCount = y.opCount := rfl

/-! Sys.setFn changes plat alone -/

@[simp] theorem Sys.setFn_bights (y : Sys) (f : Nat) (x : Fn) : (y.setFn f x).bights = y.bights := rfl
@[simp] theorem Sys.setFn_saved (y : Sys) (f : Nat) (x : Fn) : (y.setFn f x).saved = y.saved := rfl
@[simp] theorem Sys.setFn_ctxs (y : Sys) (f : Nat) (x : Fn) : (y.setFn f x).ctxs = y.ctxs := rfl
@[simp] theorem Sys.setFn_parts (y : Sys) (f : Nat) (x : Fn) : (y.setFn f x).parts = y.parts := rfl
@[simp] theorem Sys.setFn_mem (y : Sys) (f : Nat) (x : Fn) : (y.setFn f x).mem = y.mem := rfl
@[simp] theorem Sys.setFn_log (y : Sys) (f : Nat) (x : Fn) : (y.setFn f x).log = y.log := rfl
@[simp] theorem Sys.setFn_fab (y : Sys) (f : Nat) (x : Fn) : (y.setFn f x).fab = y.fab := rfl
@[simp] theorem Sys.setFn_dict (y : Sys) (f : Nat) (x : Fn) : (y.setFn f x).dict = y.dict := rfl
@[simp] theorem Sys.setFn_cleats (y : Sys) (f : Nat) (x : Fn) : (y.setFn f x).cleats = y.cleats := rfl
@[simp] theorem Sys.setFn_trust (y : Sys) (f : Nat) (x : Fn) : (y.setFn f x).trust = y.trust := rfl
@[simp] theorem Sys.setFn_counts (y : Sys) (f : Nat) (x : Fn) : (y.setFn f x).counts = y.counts := rfl
@[simp] theorem Sys.setFn_wraps (y : Sys) (f : Nat) (x : Fn) : (y.setFn f x).wraps = y.wraps := rfl
@[simp] theorem Sys.setFn_waiting (y : Sys) (f : Nat) (x : Fn) : (y.setFn f x).waiting = y.waiting := rfl
@[simp] theorem Sys.setFn_replay (y : Sys) (f : Nat) (x : Fn) : (y.setFn f x).replay = y.replay := rfl
@[simp] theorem Sys.setFn_free (y : Sys) (f : Nat) (x : Fn) : (y.setFn f x).free = y.free := rfl
@[simp] theorem Sys.setFn_useNext (y : Sys) (f : Nat) (x : Fn) : (y.setFn f x).useNext = y.useNext := rfl
@[simp] theorem Sys.setFn_hostOut (y : Sys) (f : Nat) (x : Fn) : (y.setFn f x).hostOut = y.hostOut := rfl
@[simp] theorem Sys.setFn_msixOut (y : Sys) (f : Nat) (x : Fn) : (y.setFn f x).msixOut = y.msixOut := rfl
@[simp] theorem Sys.setFn_bar4 (y : Sys) (f : Nat) (x : Fn) : (y.setFn f x).bar4 = y.bar4 := rfl
@[simp] theorem Sys.setFn_opEvents (y : Sys) (f : Nat) (x : Fn) : (y.setFn f x).opEvents = y.opEvents := rfl
@[simp] theorem Sys.setFn_opCount (y : Sys) (f : Nat) (x : Fn) : (y.setFn f x).opCount = y.opCount := rfl

/-! Sys.setFlow changes fab alone -/

@[simp] theorem Sys.setFlow_bights (y : Sys) (f : Nat) (x : Flow) : (y.setFlow f x).bights = y.bights := rfl
@[simp] theorem Sys.setFlow_saved (y : Sys) (f : Nat) (x : Flow) : (y.setFlow f x).saved = y.saved := rfl
@[simp] theorem Sys.setFlow_ctxs (y : Sys) (f : Nat) (x : Flow) : (y.setFlow f x).ctxs = y.ctxs := rfl
@[simp] theorem Sys.setFlow_parts (y : Sys) (f : Nat) (x : Flow) : (y.setFlow f x).parts = y.parts := rfl
@[simp] theorem Sys.setFlow_mem (y : Sys) (f : Nat) (x : Flow) : (y.setFlow f x).mem = y.mem := rfl
@[simp] theorem Sys.setFlow_log (y : Sys) (f : Nat) (x : Flow) : (y.setFlow f x).log = y.log := rfl
@[simp] theorem Sys.setFlow_dict (y : Sys) (f : Nat) (x : Flow) : (y.setFlow f x).dict = y.dict := rfl
@[simp] theorem Sys.setFlow_cleats (y : Sys) (f : Nat) (x : Flow) : (y.setFlow f x).cleats = y.cleats := rfl
@[simp] theorem Sys.setFlow_plat (y : Sys) (f : Nat) (x : Flow) : (y.setFlow f x).plat = y.plat := rfl
@[simp] theorem Sys.setFlow_trust (y : Sys) (f : Nat) (x : Flow) : (y.setFlow f x).trust = y.trust := rfl
@[simp] theorem Sys.setFlow_counts (y : Sys) (f : Nat) (x : Flow) : (y.setFlow f x).counts = y.counts := rfl
@[simp] theorem Sys.setFlow_wraps (y : Sys) (f : Nat) (x : Flow) : (y.setFlow f x).wraps = y.wraps := rfl
@[simp] theorem Sys.setFlow_waiting (y : Sys) (f : Nat) (x : Flow) : (y.setFlow f x).waiting = y.waiting := rfl
@[simp] theorem Sys.setFlow_replay (y : Sys) (f : Nat) (x : Flow) : (y.setFlow f x).replay = y.replay := rfl
@[simp] theorem Sys.setFlow_free (y : Sys) (f : Nat) (x : Flow) : (y.setFlow f x).free = y.free := rfl
@[simp] theorem Sys.setFlow_useNext (y : Sys) (f : Nat) (x : Flow) : (y.setFlow f x).useNext = y.useNext := rfl
@[simp] theorem Sys.setFlow_hostOut (y : Sys) (f : Nat) (x : Flow) : (y.setFlow f x).hostOut = y.hostOut := rfl
@[simp] theorem Sys.setFlow_msixOut (y : Sys) (f : Nat) (x : Flow) : (y.setFlow f x).msixOut = y.msixOut := rfl
@[simp] theorem Sys.setFlow_bar4 (y : Sys) (f : Nat) (x : Flow) : (y.setFlow f x).bar4 = y.bar4 := rfl
@[simp] theorem Sys.setFlow_opEvents (y : Sys) (f : Nat) (x : Flow) : (y.setFlow f x).opEvents = y.opEvents := rfl
@[simp] theorem Sys.setFlow_opCount (y : Sys) (f : Nat) (x : Flow) : (y.setFlow f x).opCount = y.opCount := rfl

/-! Sys.setPort changes fab alone -/

@[simp] theorem Sys.setPort_bights (y : Sys) (q : Nat) (x : Port) : (y.setPort q x).bights = y.bights := rfl
@[simp] theorem Sys.setPort_saved (y : Sys) (q : Nat) (x : Port) : (y.setPort q x).saved = y.saved := rfl
@[simp] theorem Sys.setPort_ctxs (y : Sys) (q : Nat) (x : Port) : (y.setPort q x).ctxs = y.ctxs := rfl
@[simp] theorem Sys.setPort_parts (y : Sys) (q : Nat) (x : Port) : (y.setPort q x).parts = y.parts := rfl
@[simp] theorem Sys.setPort_mem (y : Sys) (q : Nat) (x : Port) : (y.setPort q x).mem = y.mem := rfl
@[simp] theorem Sys.setPort_log (y : Sys) (q : Nat) (x : Port) : (y.setPort q x).log = y.log := rfl
@[simp] theorem Sys.setPort_dict (y : Sys) (q : Nat) (x : Port) : (y.setPort q x).dict = y.dict := rfl
@[simp] theorem Sys.setPort_cleats (y : Sys) (q : Nat) (x : Port) : (y.setPort q x).cleats = y.cleats := rfl
@[simp] theorem Sys.setPort_plat (y : Sys) (q : Nat) (x : Port) : (y.setPort q x).plat = y.plat := rfl
@[simp] theorem Sys.setPort_trust (y : Sys) (q : Nat) (x : Port) : (y.setPort q x).trust = y.trust := rfl
@[simp] theorem Sys.setPort_counts (y : Sys) (q : Nat) (x : Port) : (y.setPort q x).counts = y.counts := rfl
@[simp] theorem Sys.setPort_wraps (y : Sys) (q : Nat) (x : Port) : (y.setPort q x).wraps = y.wraps := rfl
@[simp] theorem Sys.setPort_waiting (y : Sys) (q : Nat) (x : Port) : (y.setPort q x).waiting = y.waiting := rfl
@[simp] theorem Sys.setPort_replay (y : Sys) (q : Nat) (x : Port) : (y.setPort q x).replay = y.replay := rfl
@[simp] theorem Sys.setPort_free (y : Sys) (q : Nat) (x : Port) : (y.setPort q x).free = y.free := rfl
@[simp] theorem Sys.setPort_useNext (y : Sys) (q : Nat) (x : Port) : (y.setPort q x).useNext = y.useNext := rfl
@[simp] theorem Sys.setPort_hostOut (y : Sys) (q : Nat) (x : Port) : (y.setPort q x).hostOut = y.hostOut := rfl
@[simp] theorem Sys.setPort_msixOut (y : Sys) (q : Nat) (x : Port) : (y.setPort q x).msixOut = y.msixOut := rfl
@[simp] theorem Sys.setPort_bar4 (y : Sys) (q : Nat) (x : Port) : (y.setPort q x).bar4 = y.bar4 := rfl
@[simp] theorem Sys.setPort_opEvents (y : Sys) (q : Nat) (x : Port) : (y.setPort q x).opEvents = y.opEvents := rfl
@[simp] theorem Sys.setPort_opCount (y : Sys) (q : Nat) (x : Port) : (y.setPort q x).opCount = y.opCount := rfl

/-! Sys.setRegion changes mem alone -/

@[simp] theorem Sys.setRegion_bights (y : Sys) (t h : Nat) (z : Seize) : (y.setRegion t h z).bights = y.bights := rfl
@[simp] theorem Sys.setRegion_saved (y : Sys) (t h : Nat) (z : Seize) : (y.setRegion t h z).saved = y.saved := rfl
@[simp] theorem Sys.setRegion_ctxs (y : Sys) (t h : Nat) (z : Seize) : (y.setRegion t h z).ctxs = y.ctxs := rfl
@[simp] theorem Sys.setRegion_parts (y : Sys) (t h : Nat) (z : Seize) : (y.setRegion t h z).parts = y.parts := rfl
@[simp] theorem Sys.setRegion_log (y : Sys) (t h : Nat) (z : Seize) : (y.setRegion t h z).log = y.log := rfl
@[simp] theorem Sys.setRegion_fab (y : Sys) (t h : Nat) (z : Seize) : (y.setRegion t h z).fab = y.fab := rfl
@[simp] theorem Sys.setRegion_dict (y : Sys) (t h : Nat) (z : Seize) : (y.setRegion t h z).dict = y.dict := rfl
@[simp] theorem Sys.setRegion_cleats (y : Sys) (t h : Nat) (z : Seize) : (y.setRegion t h z).cleats = y.cleats := rfl
@[simp] theorem Sys.setRegion_plat (y : Sys) (t h : Nat) (z : Seize) : (y.setRegion t h z).plat = y.plat := rfl
@[simp] theorem Sys.setRegion_trust (y : Sys) (t h : Nat) (z : Seize) : (y.setRegion t h z).trust = y.trust := rfl
@[simp] theorem Sys.setRegion_counts (y : Sys) (t h : Nat) (z : Seize) : (y.setRegion t h z).counts = y.counts := rfl
@[simp] theorem Sys.setRegion_wraps (y : Sys) (t h : Nat) (z : Seize) : (y.setRegion t h z).wraps = y.wraps := rfl
@[simp] theorem Sys.setRegion_waiting (y : Sys) (t h : Nat) (z : Seize) : (y.setRegion t h z).waiting = y.waiting := rfl
@[simp] theorem Sys.setRegion_replay (y : Sys) (t h : Nat) (z : Seize) : (y.setRegion t h z).replay = y.replay := rfl
@[simp] theorem Sys.setRegion_free (y : Sys) (t h : Nat) (z : Seize) : (y.setRegion t h z).free = y.free := rfl
@[simp] theorem Sys.setRegion_useNext (y : Sys) (t h : Nat) (z : Seize) : (y.setRegion t h z).useNext = y.useNext := rfl
@[simp] theorem Sys.setRegion_hostOut (y : Sys) (t h : Nat) (z : Seize) : (y.setRegion t h z).hostOut = y.hostOut := rfl
@[simp] theorem Sys.setRegion_msixOut (y : Sys) (t h : Nat) (z : Seize) : (y.setRegion t h z).msixOut = y.msixOut := rfl
@[simp] theorem Sys.setRegion_bar4 (y : Sys) (t h : Nat) (z : Seize) : (y.setRegion t h z).bar4 = y.bar4 := rfl
@[simp] theorem Sys.setRegion_opEvents (y : Sys) (t h : Nat) (z : Seize) : (y.setRegion t h z).opEvents = y.opEvents := rfl
@[simp] theorem Sys.setRegion_opCount (y : Sys) (t h : Nat) (z : Seize) : (y.setRegion t h z).opCount = y.opCount := rfl

/-! Sys.handOver changes mem alone -/

@[simp] theorem Sys.handOver_bights (y : Sys) (k h o : Nat) (w : List (Mark × Bytes)) : (y.handOver k h o w).bights = y.bights := rfl
@[simp] theorem Sys.handOver_saved (y : Sys) (k h o : Nat) (w : List (Mark × Bytes)) : (y.handOver k h o w).saved = y.saved := rfl
@[simp] theorem Sys.handOver_ctxs (y : Sys) (k h o : Nat) (w : List (Mark × Bytes)) : (y.handOver k h o w).ctxs = y.ctxs := rfl
@[simp] theorem Sys.handOver_parts (y : Sys) (k h o : Nat) (w : List (Mark × Bytes)) : (y.handOver k h o w).parts = y.parts := rfl
@[simp] theorem Sys.handOver_log (y : Sys) (k h o : Nat) (w : List (Mark × Bytes)) : (y.handOver k h o w).log = y.log := rfl
@[simp] theorem Sys.handOver_fab (y : Sys) (k h o : Nat) (w : List (Mark × Bytes)) : (y.handOver k h o w).fab = y.fab := rfl
@[simp] theorem Sys.handOver_dict (y : Sys) (k h o : Nat) (w : List (Mark × Bytes)) : (y.handOver k h o w).dict = y.dict := rfl
@[simp] theorem Sys.handOver_cleats (y : Sys) (k h o : Nat) (w : List (Mark × Bytes)) : (y.handOver k h o w).cleats = y.cleats := rfl
@[simp] theorem Sys.handOver_plat (y : Sys) (k h o : Nat) (w : List (Mark × Bytes)) : (y.handOver k h o w).plat = y.plat := rfl
@[simp] theorem Sys.handOver_trust (y : Sys) (k h o : Nat) (w : List (Mark × Bytes)) : (y.handOver k h o w).trust = y.trust := rfl
@[simp] theorem Sys.handOver_counts (y : Sys) (k h o : Nat) (w : List (Mark × Bytes)) : (y.handOver k h o w).counts = y.counts := rfl
@[simp] theorem Sys.handOver_wraps (y : Sys) (k h o : Nat) (w : List (Mark × Bytes)) : (y.handOver k h o w).wraps = y.wraps := rfl
@[simp] theorem Sys.handOver_waiting (y : Sys) (k h o : Nat) (w : List (Mark × Bytes)) : (y.handOver k h o w).waiting = y.waiting := rfl
@[simp] theorem Sys.handOver_replay (y : Sys) (k h o : Nat) (w : List (Mark × Bytes)) : (y.handOver k h o w).replay = y.replay := rfl
@[simp] theorem Sys.handOver_free (y : Sys) (k h o : Nat) (w : List (Mark × Bytes)) : (y.handOver k h o w).free = y.free := rfl
@[simp] theorem Sys.handOver_useNext (y : Sys) (k h o : Nat) (w : List (Mark × Bytes)) : (y.handOver k h o w).useNext = y.useNext := rfl
@[simp] theorem Sys.handOver_hostOut (y : Sys) (k h o : Nat) (w : List (Mark × Bytes)) : (y.handOver k h o w).hostOut = y.hostOut := rfl
@[simp] theorem Sys.handOver_msixOut (y : Sys) (k h o : Nat) (w : List (Mark × Bytes)) : (y.handOver k h o w).msixOut = y.msixOut := rfl
@[simp] theorem Sys.handOver_bar4 (y : Sys) (k h o : Nat) (w : List (Mark × Bytes)) : (y.handOver k h o w).bar4 = y.bar4 := rfl
@[simp] theorem Sys.handOver_opEvents (y : Sys) (k h o : Nat) (w : List (Mark × Bytes)) : (y.handOver k h o w).opEvents = y.opEvents := rfl
@[simp] theorem Sys.handOver_opCount (y : Sys) (k h o : Nat) (w : List (Mark × Bytes)) : (y.handOver k h o w).opCount = y.opCount := rfl

/-! Sys.setMsix changes bar4 alone -/

@[simp] theorem Sys.setMsix_bights (y : Sys) (fn : Nat) (b : Bar4) : (y.setMsix fn b).bights = y.bights := rfl
@[simp] theorem Sys.setMsix_saved (y : Sys) (fn : Nat) (b : Bar4) : (y.setMsix fn b).saved = y.saved := rfl
@[simp] theorem Sys.setMsix_ctxs (y : Sys) (fn : Nat) (b : Bar4) : (y.setMsix fn b).ctxs = y.ctxs := rfl
@[simp] theorem Sys.setMsix_parts (y : Sys) (fn : Nat) (b : Bar4) : (y.setMsix fn b).parts = y.parts := rfl
@[simp] theorem Sys.setMsix_mem (y : Sys) (fn : Nat) (b : Bar4) : (y.setMsix fn b).mem = y.mem := rfl
@[simp] theorem Sys.setMsix_log (y : Sys) (fn : Nat) (b : Bar4) : (y.setMsix fn b).log = y.log := rfl
@[simp] theorem Sys.setMsix_fab (y : Sys) (fn : Nat) (b : Bar4) : (y.setMsix fn b).fab = y.fab := rfl
@[simp] theorem Sys.setMsix_dict (y : Sys) (fn : Nat) (b : Bar4) : (y.setMsix fn b).dict = y.dict := rfl
@[simp] theorem Sys.setMsix_cleats (y : Sys) (fn : Nat) (b : Bar4) : (y.setMsix fn b).cleats = y.cleats := rfl
@[simp] theorem Sys.setMsix_plat (y : Sys) (fn : Nat) (b : Bar4) : (y.setMsix fn b).plat = y.plat := rfl
@[simp] theorem Sys.setMsix_trust (y : Sys) (fn : Nat) (b : Bar4) : (y.setMsix fn b).trust = y.trust := rfl
@[simp] theorem Sys.setMsix_counts (y : Sys) (fn : Nat) (b : Bar4) : (y.setMsix fn b).counts = y.counts := rfl
@[simp] theorem Sys.setMsix_wraps (y : Sys) (fn : Nat) (b : Bar4) : (y.setMsix fn b).wraps = y.wraps := rfl
@[simp] theorem Sys.setMsix_waiting (y : Sys) (fn : Nat) (b : Bar4) : (y.setMsix fn b).waiting = y.waiting := rfl
@[simp] theorem Sys.setMsix_replay (y : Sys) (fn : Nat) (b : Bar4) : (y.setMsix fn b).replay = y.replay := rfl
@[simp] theorem Sys.setMsix_free (y : Sys) (fn : Nat) (b : Bar4) : (y.setMsix fn b).free = y.free := rfl
@[simp] theorem Sys.setMsix_useNext (y : Sys) (fn : Nat) (b : Bar4) : (y.setMsix fn b).useNext = y.useNext := rfl
@[simp] theorem Sys.setMsix_hostOut (y : Sys) (fn : Nat) (b : Bar4) : (y.setMsix fn b).hostOut = y.hostOut := rfl
@[simp] theorem Sys.setMsix_msixOut (y : Sys) (fn : Nat) (b : Bar4) : (y.setMsix fn b).msixOut = y.msixOut := rfl
@[simp] theorem Sys.setMsix_opEvents (y : Sys) (fn : Nat) (b : Bar4) : (y.setMsix fn b).opEvents = y.opEvents := rfl
@[simp] theorem Sys.setMsix_opCount (y : Sys) (fn : Nat) (b : Bar4) : (y.setMsix fn b).opCount = y.opCount := rfl

/-! Sys.setTherm changes plat alone -/

@[simp] theorem Sys.setTherm_bights (y : Sys) (u : Nat) (x : Therm) : (y.setTherm u x).bights = y.bights := rfl
@[simp] theorem Sys.setTherm_saved (y : Sys) (u : Nat) (x : Therm) : (y.setTherm u x).saved = y.saved := rfl
@[simp] theorem Sys.setTherm_ctxs (y : Sys) (u : Nat) (x : Therm) : (y.setTherm u x).ctxs = y.ctxs := rfl
@[simp] theorem Sys.setTherm_parts (y : Sys) (u : Nat) (x : Therm) : (y.setTherm u x).parts = y.parts := rfl
@[simp] theorem Sys.setTherm_mem (y : Sys) (u : Nat) (x : Therm) : (y.setTherm u x).mem = y.mem := rfl
@[simp] theorem Sys.setTherm_log (y : Sys) (u : Nat) (x : Therm) : (y.setTherm u x).log = y.log := rfl
@[simp] theorem Sys.setTherm_fab (y : Sys) (u : Nat) (x : Therm) : (y.setTherm u x).fab = y.fab := rfl
@[simp] theorem Sys.setTherm_dict (y : Sys) (u : Nat) (x : Therm) : (y.setTherm u x).dict = y.dict := rfl
@[simp] theorem Sys.setTherm_cleats (y : Sys) (u : Nat) (x : Therm) : (y.setTherm u x).cleats = y.cleats := rfl
@[simp] theorem Sys.setTherm_trust (y : Sys) (u : Nat) (x : Therm) : (y.setTherm u x).trust = y.trust := rfl
@[simp] theorem Sys.setTherm_counts (y : Sys) (u : Nat) (x : Therm) : (y.setTherm u x).counts = y.counts := rfl
@[simp] theorem Sys.setTherm_wraps (y : Sys) (u : Nat) (x : Therm) : (y.setTherm u x).wraps = y.wraps := rfl
@[simp] theorem Sys.setTherm_waiting (y : Sys) (u : Nat) (x : Therm) : (y.setTherm u x).waiting = y.waiting := rfl
@[simp] theorem Sys.setTherm_replay (y : Sys) (u : Nat) (x : Therm) : (y.setTherm u x).replay = y.replay := rfl
@[simp] theorem Sys.setTherm_free (y : Sys) (u : Nat) (x : Therm) : (y.setTherm u x).free = y.free := rfl
@[simp] theorem Sys.setTherm_useNext (y : Sys) (u : Nat) (x : Therm) : (y.setTherm u x).useNext = y.useNext := rfl
@[simp] theorem Sys.setTherm_hostOut (y : Sys) (u : Nat) (x : Therm) : (y.setTherm u x).hostOut = y.hostOut := rfl
@[simp] theorem Sys.setTherm_msixOut (y : Sys) (u : Nat) (x : Therm) : (y.setTherm u x).msixOut = y.msixOut := rfl
@[simp] theorem Sys.setTherm_bar4 (y : Sys) (u : Nat) (x : Therm) : (y.setTherm u x).bar4 = y.bar4 := rfl
@[simp] theorem Sys.setTherm_opEvents (y : Sys) (u : Nat) (x : Therm) : (y.setTherm u x).opEvents = y.opEvents := rfl
@[simp] theorem Sys.setTherm_opCount (y : Sys) (u : Nat) (x : Therm) : (y.setTherm u x).opCount = y.opCount := rfl

/-! Sys.setPower changes plat alone -/

@[simp] theorem Sys.setPower_bights (y : Sys) (x : Power) : (y.setPower x).bights = y.bights := rfl
@[simp] theorem Sys.setPower_saved (y : Sys) (x : Power) : (y.setPower x).saved = y.saved := rfl
@[simp] theorem Sys.setPower_ctxs (y : Sys) (x : Power) : (y.setPower x).ctxs = y.ctxs := rfl
@[simp] theorem Sys.setPower_parts (y : Sys) (x : Power) : (y.setPower x).parts = y.parts := rfl
@[simp] theorem Sys.setPower_mem (y : Sys) (x : Power) : (y.setPower x).mem = y.mem := rfl
@[simp] theorem Sys.setPower_log (y : Sys) (x : Power) : (y.setPower x).log = y.log := rfl
@[simp] theorem Sys.setPower_fab (y : Sys) (x : Power) : (y.setPower x).fab = y.fab := rfl
@[simp] theorem Sys.setPower_dict (y : Sys) (x : Power) : (y.setPower x).dict = y.dict := rfl
@[simp] theorem Sys.setPower_cleats (y : Sys) (x : Power) : (y.setPower x).cleats = y.cleats := rfl
@[simp] theorem Sys.setPower_trust (y : Sys) (x : Power) : (y.setPower x).trust = y.trust := rfl
@[simp] theorem Sys.setPower_counts (y : Sys) (x : Power) : (y.setPower x).counts = y.counts := rfl
@[simp] theorem Sys.setPower_wraps (y : Sys) (x : Power) : (y.setPower x).wraps = y.wraps := rfl
@[simp] theorem Sys.setPower_waiting (y : Sys) (x : Power) : (y.setPower x).waiting = y.waiting := rfl
@[simp] theorem Sys.setPower_replay (y : Sys) (x : Power) : (y.setPower x).replay = y.replay := rfl
@[simp] theorem Sys.setPower_free (y : Sys) (x : Power) : (y.setPower x).free = y.free := rfl
@[simp] theorem Sys.setPower_useNext (y : Sys) (x : Power) : (y.setPower x).useNext = y.useNext := rfl
@[simp] theorem Sys.setPower_hostOut (y : Sys) (x : Power) : (y.setPower x).hostOut = y.hostOut := rfl
@[simp] theorem Sys.setPower_msixOut (y : Sys) (x : Power) : (y.setPower x).msixOut = y.msixOut := rfl
@[simp] theorem Sys.setPower_bar4 (y : Sys) (x : Power) : (y.setPower x).bar4 = y.bar4 := rfl
@[simp] theorem Sys.setPower_opEvents (y : Sys) (x : Power) : (y.setPower x).opEvents = y.opEvents := rfl
@[simp] theorem Sys.setPower_opCount (y : Sys) (x : Power) : (y.setPower x).opCount = y.opCount := rfl

/-! Sys.setDv changes dict alone -/

@[simp] theorem Sys.setDv_bights (y : Sys) (k v : Nat) : (y.setDv k v).bights = y.bights := rfl
@[simp] theorem Sys.setDv_saved (y : Sys) (k v : Nat) : (y.setDv k v).saved = y.saved := rfl
@[simp] theorem Sys.setDv_ctxs (y : Sys) (k v : Nat) : (y.setDv k v).ctxs = y.ctxs := rfl
@[simp] theorem Sys.setDv_parts (y : Sys) (k v : Nat) : (y.setDv k v).parts = y.parts := rfl
@[simp] theorem Sys.setDv_mem (y : Sys) (k v : Nat) : (y.setDv k v).mem = y.mem := rfl
@[simp] theorem Sys.setDv_log (y : Sys) (k v : Nat) : (y.setDv k v).log = y.log := rfl
@[simp] theorem Sys.setDv_fab (y : Sys) (k v : Nat) : (y.setDv k v).fab = y.fab := rfl
@[simp] theorem Sys.setDv_cleats (y : Sys) (k v : Nat) : (y.setDv k v).cleats = y.cleats := rfl
@[simp] theorem Sys.setDv_plat (y : Sys) (k v : Nat) : (y.setDv k v).plat = y.plat := rfl
@[simp] theorem Sys.setDv_trust (y : Sys) (k v : Nat) : (y.setDv k v).trust = y.trust := rfl
@[simp] theorem Sys.setDv_counts (y : Sys) (k v : Nat) : (y.setDv k v).counts = y.counts := rfl
@[simp] theorem Sys.setDv_wraps (y : Sys) (k v : Nat) : (y.setDv k v).wraps = y.wraps := rfl
@[simp] theorem Sys.setDv_waiting (y : Sys) (k v : Nat) : (y.setDv k v).waiting = y.waiting := rfl
@[simp] theorem Sys.setDv_replay (y : Sys) (k v : Nat) : (y.setDv k v).replay = y.replay := rfl
@[simp] theorem Sys.setDv_free (y : Sys) (k v : Nat) : (y.setDv k v).free = y.free := rfl
@[simp] theorem Sys.setDv_useNext (y : Sys) (k v : Nat) : (y.setDv k v).useNext = y.useNext := rfl
@[simp] theorem Sys.setDv_hostOut (y : Sys) (k v : Nat) : (y.setDv k v).hostOut = y.hostOut := rfl
@[simp] theorem Sys.setDv_msixOut (y : Sys) (k v : Nat) : (y.setDv k v).msixOut = y.msixOut := rfl
@[simp] theorem Sys.setDv_bar4 (y : Sys) (k v : Nat) : (y.setDv k v).bar4 = y.bar4 := rfl
@[simp] theorem Sys.setDv_opEvents (y : Sys) (k v : Nat) : (y.setDv k v).opEvents = y.opEvents := rfl
@[simp] theorem Sys.setDv_opCount (y : Sys) (k v : Nat) : (y.setDv k v).opCount = y.opCount := rfl

/-! Sys.setStage changes dict alone -/

@[simp] theorem Sys.setStage_bights (y : Sys) (c : Nat) (z : StageSet) : (y.setStage c z).bights = y.bights := rfl
@[simp] theorem Sys.setStage_saved (y : Sys) (c : Nat) (z : StageSet) : (y.setStage c z).saved = y.saved := rfl
@[simp] theorem Sys.setStage_ctxs (y : Sys) (c : Nat) (z : StageSet) : (y.setStage c z).ctxs = y.ctxs := rfl
@[simp] theorem Sys.setStage_parts (y : Sys) (c : Nat) (z : StageSet) : (y.setStage c z).parts = y.parts := rfl
@[simp] theorem Sys.setStage_mem (y : Sys) (c : Nat) (z : StageSet) : (y.setStage c z).mem = y.mem := rfl
@[simp] theorem Sys.setStage_log (y : Sys) (c : Nat) (z : StageSet) : (y.setStage c z).log = y.log := rfl
@[simp] theorem Sys.setStage_fab (y : Sys) (c : Nat) (z : StageSet) : (y.setStage c z).fab = y.fab := rfl
@[simp] theorem Sys.setStage_cleats (y : Sys) (c : Nat) (z : StageSet) : (y.setStage c z).cleats = y.cleats := rfl
@[simp] theorem Sys.setStage_plat (y : Sys) (c : Nat) (z : StageSet) : (y.setStage c z).plat = y.plat := rfl
@[simp] theorem Sys.setStage_trust (y : Sys) (c : Nat) (z : StageSet) : (y.setStage c z).trust = y.trust := rfl
@[simp] theorem Sys.setStage_counts (y : Sys) (c : Nat) (z : StageSet) : (y.setStage c z).counts = y.counts := rfl
@[simp] theorem Sys.setStage_wraps (y : Sys) (c : Nat) (z : StageSet) : (y.setStage c z).wraps = y.wraps := rfl
@[simp] theorem Sys.setStage_waiting (y : Sys) (c : Nat) (z : StageSet) : (y.setStage c z).waiting = y.waiting := rfl
@[simp] theorem Sys.setStage_replay (y : Sys) (c : Nat) (z : StageSet) : (y.setStage c z).replay = y.replay := rfl
@[simp] theorem Sys.setStage_free (y : Sys) (c : Nat) (z : StageSet) : (y.setStage c z).free = y.free := rfl
@[simp] theorem Sys.setStage_useNext (y : Sys) (c : Nat) (z : StageSet) : (y.setStage c z).useNext = y.useNext := rfl
@[simp] theorem Sys.setStage_hostOut (y : Sys) (c : Nat) (z : StageSet) : (y.setStage c z).hostOut = y.hostOut := rfl
@[simp] theorem Sys.setStage_msixOut (y : Sys) (c : Nat) (z : StageSet) : (y.setStage c z).msixOut = y.msixOut := rfl
@[simp] theorem Sys.setStage_bar4 (y : Sys) (c : Nat) (z : StageSet) : (y.setStage c z).bar4 = y.bar4 := rfl
@[simp] theorem Sys.setStage_opEvents (y : Sys) (c : Nat) (z : StageSet) : (y.setStage c z).opEvents = y.opEvents := rfl
@[simp] theorem Sys.setStage_opCount (y : Sys) (c : Nat) (z : StageSet) : (y.setStage c z).opCount = y.opCount := rfl

/-! Sys.setAreas changes dict alone -/

@[simp] theorem Sys.setAreas_bights (y : Sys) (fn : Nat) (x : Window) : (y.setAreas fn x).bights = y.bights := rfl
@[simp] theorem Sys.setAreas_saved (y : Sys) (fn : Nat) (x : Window) : (y.setAreas fn x).saved = y.saved := rfl
@[simp] theorem Sys.setAreas_ctxs (y : Sys) (fn : Nat) (x : Window) : (y.setAreas fn x).ctxs = y.ctxs := rfl
@[simp] theorem Sys.setAreas_parts (y : Sys) (fn : Nat) (x : Window) : (y.setAreas fn x).parts = y.parts := rfl
@[simp] theorem Sys.setAreas_mem (y : Sys) (fn : Nat) (x : Window) : (y.setAreas fn x).mem = y.mem := rfl
@[simp] theorem Sys.setAreas_log (y : Sys) (fn : Nat) (x : Window) : (y.setAreas fn x).log = y.log := rfl
@[simp] theorem Sys.setAreas_fab (y : Sys) (fn : Nat) (x : Window) : (y.setAreas fn x).fab = y.fab := rfl
@[simp] theorem Sys.setAreas_cleats (y : Sys) (fn : Nat) (x : Window) : (y.setAreas fn x).cleats = y.cleats := rfl
@[simp] theorem Sys.setAreas_plat (y : Sys) (fn : Nat) (x : Window) : (y.setAreas fn x).plat = y.plat := rfl
@[simp] theorem Sys.setAreas_trust (y : Sys) (fn : Nat) (x : Window) : (y.setAreas fn x).trust = y.trust := rfl
@[simp] theorem Sys.setAreas_counts (y : Sys) (fn : Nat) (x : Window) : (y.setAreas fn x).counts = y.counts := rfl
@[simp] theorem Sys.setAreas_wraps (y : Sys) (fn : Nat) (x : Window) : (y.setAreas fn x).wraps = y.wraps := rfl
@[simp] theorem Sys.setAreas_waiting (y : Sys) (fn : Nat) (x : Window) : (y.setAreas fn x).waiting = y.waiting := rfl
@[simp] theorem Sys.setAreas_replay (y : Sys) (fn : Nat) (x : Window) : (y.setAreas fn x).replay = y.replay := rfl
@[simp] theorem Sys.setAreas_free (y : Sys) (fn : Nat) (x : Window) : (y.setAreas fn x).free = y.free := rfl
@[simp] theorem Sys.setAreas_useNext (y : Sys) (fn : Nat) (x : Window) : (y.setAreas fn x).useNext = y.useNext := rfl
@[simp] theorem Sys.setAreas_hostOut (y : Sys) (fn : Nat) (x : Window) : (y.setAreas fn x).hostOut = y.hostOut := rfl
@[simp] theorem Sys.setAreas_msixOut (y : Sys) (fn : Nat) (x : Window) : (y.setAreas fn x).msixOut = y.msixOut := rfl
@[simp] theorem Sys.setAreas_bar4 (y : Sys) (fn : Nat) (x : Window) : (y.setAreas fn x).bar4 = y.bar4 := rfl
@[simp] theorem Sys.setAreas_opEvents (y : Sys) (fn : Nat) (x : Window) : (y.setAreas fn x).opEvents = y.opEvents := rfl
@[simp] theorem Sys.setAreas_opCount (y : Sys) (fn : Nat) (x : Window) : (y.setAreas fn x).opCount = y.opCount := rfl

/-! Sys.setCleat changes cleats alone -/

@[simp] theorem Sys.setCleat_bights (y : Sys) (d p : Nat) (x : Cleat) : (y.setCleat d p x).bights = y.bights := rfl
@[simp] theorem Sys.setCleat_saved (y : Sys) (d p : Nat) (x : Cleat) : (y.setCleat d p x).saved = y.saved := rfl
@[simp] theorem Sys.setCleat_ctxs (y : Sys) (d p : Nat) (x : Cleat) : (y.setCleat d p x).ctxs = y.ctxs := rfl
@[simp] theorem Sys.setCleat_parts (y : Sys) (d p : Nat) (x : Cleat) : (y.setCleat d p x).parts = y.parts := rfl
@[simp] theorem Sys.setCleat_mem (y : Sys) (d p : Nat) (x : Cleat) : (y.setCleat d p x).mem = y.mem := rfl
@[simp] theorem Sys.setCleat_log (y : Sys) (d p : Nat) (x : Cleat) : (y.setCleat d p x).log = y.log := rfl
@[simp] theorem Sys.setCleat_fab (y : Sys) (d p : Nat) (x : Cleat) : (y.setCleat d p x).fab = y.fab := rfl
@[simp] theorem Sys.setCleat_dict (y : Sys) (d p : Nat) (x : Cleat) : (y.setCleat d p x).dict = y.dict := rfl
@[simp] theorem Sys.setCleat_plat (y : Sys) (d p : Nat) (x : Cleat) : (y.setCleat d p x).plat = y.plat := rfl
@[simp] theorem Sys.setCleat_trust (y : Sys) (d p : Nat) (x : Cleat) : (y.setCleat d p x).trust = y.trust := rfl
@[simp] theorem Sys.setCleat_counts (y : Sys) (d p : Nat) (x : Cleat) : (y.setCleat d p x).counts = y.counts := rfl
@[simp] theorem Sys.setCleat_wraps (y : Sys) (d p : Nat) (x : Cleat) : (y.setCleat d p x).wraps = y.wraps := rfl
@[simp] theorem Sys.setCleat_waiting (y : Sys) (d p : Nat) (x : Cleat) : (y.setCleat d p x).waiting = y.waiting := rfl
@[simp] theorem Sys.setCleat_replay (y : Sys) (d p : Nat) (x : Cleat) : (y.setCleat d p x).replay = y.replay := rfl
@[simp] theorem Sys.setCleat_free (y : Sys) (d p : Nat) (x : Cleat) : (y.setCleat d p x).free = y.free := rfl
@[simp] theorem Sys.setCleat_useNext (y : Sys) (d p : Nat) (x : Cleat) : (y.setCleat d p x).useNext = y.useNext := rfl
@[simp] theorem Sys.setCleat_hostOut (y : Sys) (d p : Nat) (x : Cleat) : (y.setCleat d p x).hostOut = y.hostOut := rfl
@[simp] theorem Sys.setCleat_msixOut (y : Sys) (d p : Nat) (x : Cleat) : (y.setCleat d p x).msixOut = y.msixOut := rfl
@[simp] theorem Sys.setCleat_bar4 (y : Sys) (d p : Nat) (x : Cleat) : (y.setCleat d p x).bar4 = y.bar4 := rfl
@[simp] theorem Sys.setCleat_opEvents (y : Sys) (d p : Nat) (x : Cleat) : (y.setCleat d p x).opEvents = y.opEvents := rfl
@[simp] theorem Sys.setCleat_opCount (y : Sys) (d p : Nat) (x : Cleat) : (y.setCleat d p x).opCount = y.opCount := rfl

/-! Sys.took changes free alone -/

@[simp] theorem Sys.took_bights (y : Sys) (n : Nat) : (y.took n).bights = y.bights := rfl
@[simp] theorem Sys.took_saved (y : Sys) (n : Nat) : (y.took n).saved = y.saved := rfl
@[simp] theorem Sys.took_ctxs (y : Sys) (n : Nat) : (y.took n).ctxs = y.ctxs := rfl
@[simp] theorem Sys.took_parts (y : Sys) (n : Nat) : (y.took n).parts = y.parts := rfl
@[simp] theorem Sys.took_mem (y : Sys) (n : Nat) : (y.took n).mem = y.mem := rfl
@[simp] theorem Sys.took_log (y : Sys) (n : Nat) : (y.took n).log = y.log := rfl
@[simp] theorem Sys.took_fab (y : Sys) (n : Nat) : (y.took n).fab = y.fab := rfl
@[simp] theorem Sys.took_dict (y : Sys) (n : Nat) : (y.took n).dict = y.dict := rfl
@[simp] theorem Sys.took_cleats (y : Sys) (n : Nat) : (y.took n).cleats = y.cleats := rfl
@[simp] theorem Sys.took_plat (y : Sys) (n : Nat) : (y.took n).plat = y.plat := rfl
@[simp] theorem Sys.took_trust (y : Sys) (n : Nat) : (y.took n).trust = y.trust := rfl
@[simp] theorem Sys.took_counts (y : Sys) (n : Nat) : (y.took n).counts = y.counts := rfl
@[simp] theorem Sys.took_wraps (y : Sys) (n : Nat) : (y.took n).wraps = y.wraps := rfl
@[simp] theorem Sys.took_waiting (y : Sys) (n : Nat) : (y.took n).waiting = y.waiting := rfl
@[simp] theorem Sys.took_replay (y : Sys) (n : Nat) : (y.took n).replay = y.replay := rfl
@[simp] theorem Sys.took_useNext (y : Sys) (n : Nat) : (y.took n).useNext = y.useNext := rfl
@[simp] theorem Sys.took_hostOut (y : Sys) (n : Nat) : (y.took n).hostOut = y.hostOut := rfl
@[simp] theorem Sys.took_msixOut (y : Sys) (n : Nat) : (y.took n).msixOut = y.msixOut := rfl
@[simp] theorem Sys.took_bar4 (y : Sys) (n : Nat) : (y.took n).bar4 = y.bar4 := rfl
@[simp] theorem Sys.took_opEvents (y : Sys) (n : Nat) : (y.took n).opEvents = y.opEvents := rfl
@[simp] theorem Sys.took_opCount (y : Sys) (n : Nat) : (y.took n).opCount = y.opCount := rfl

/-! State.onSys -/

@[simp] theorem State.onSys_next (s : State) (f : Sys → Sys) : s.onSys f = .next { s with sys := f s.sys } := rfl

/-! Reading back -/

@[simp] theorem Sys.bight_setBight (y : Sys) (b : Fin 80) (x : Bight) : (y.setBight b.val x).bight b.val = x := by
  simp [Sys.bight, Sys.setBight]

theorem Sys.bight_setBight_other (y : Sys) {b c : Nat} (x : Bight) (h : c ≠ b) : (y.setBight b x).bight c = y.bight c := by
  simp [Sys.bight, Sys.setBight, Ne.symm h]

@[simp] theorem Sys.part_setPart (y : Sys) (p : Fin 80) (x : Partition) : (y.setPart p.val x).part p.val = x := by
  simp [Sys.part, Sys.setPart]

theorem Sys.part_setPart_other (y : Sys) {p q : Nat} (x : Partition) (h : q ≠ p) : (y.setPart p x).part q = y.part q := by
  simp [Sys.part, Sys.setPart, Ne.symm h]

@[simp] theorem Sys.ctx_setCtx (y : Sys) (c : Nat) (x : Context) : (y.setCtx c x).ctx c = x := by
  simp [Sys.ctx, Sys.setCtx]

theorem Sys.ctx_setCtx_other (y : Sys) {c d : Nat} (x : Context) (h : d ≠ c) : (y.setCtx c x).ctx d = y.ctx d := by
  simp [Sys.ctx, Sys.setCtx, SMap.get_set_other _ _ _ h]

@[simp] theorem Sys.fn_setFn (y : Sys) (f : Nat) (x : Fn) : (y.setFn f x).fn f = x := by
  simp [Sys.fn, Sys.setFn]

theorem Sys.fn_setFn_other (y : Sys) {f g : Nat} (x : Fn) (h : g ≠ f) : (y.setFn f x).fn g = y.fn g := by
  simp [Sys.fn, Sys.setFn, SMap.get_set_other _ _ _ h]

@[simp] theorem Sys.flow_setFlow (y : Sys) (f : Nat) (x : Flow) : (y.setFlow f x).flow f = x := by
  simp [Sys.flow, Sys.setFlow]

theorem Sys.flow_setFlow_other (y : Sys) {f g : Nat} (x : Flow) (h : g ≠ f) : (y.setFlow f x).flow g = y.flow g := by
  simp [Sys.flow, Sys.setFlow, SMap.get_set_other _ _ _ h]

@[simp] theorem Sys.region_setRegion (y : Sys) (t h : Nat) (z : Seize) : (y.setRegion t h z).region t h = z := by
  simp [Sys.region, Sys.setRegion]

theorem Sys.region_setRegion_other (y : Sys) {t h u k : Nat} (z : Seize) (n : regionKey u k ≠ regionKey t h) : (y.setRegion t h z).region u k = y.region u k := by
  simp [Sys.region, Sys.setRegion, SMap.get_set_other _ _ _ n]

@[simp] theorem Sys.msix_setMsix (y : Sys) (fn : Nat) (b : Bar4) : (y.setMsix fn b).msix fn = b := by
  simp [Sys.msix, Sys.setMsix]

theorem Sys.msix_setMsix_other (y : Sys) {f g : Nat} (b : Bar4) (h : g ≠ f) : (y.setMsix f b).msix g = y.msix g := by
  simp [Sys.msix, Sys.setMsix, SMap.get_set_other _ _ _ h]

@[simp] theorem Sys.areas_setAreas (y : Sys) (fn : Nat) (x : Window) : (y.setAreas fn x).areas fn = x := by
  simp [Sys.areas, Sys.setAreas]

theorem Sys.areas_setAreas_other (y : Sys) {f g : Nat} (x : Window) (h : g ≠ f) : (y.setAreas f x).areas g = y.areas g := by
  simp [Sys.areas, Sys.setAreas, SMap.get_set_other _ _ _ h]

@[simp] theorem Sys.cleat_setCleat (y : Sys) (d p : Nat) (x : Cleat) : (y.setCleat d p x).cleat d p = x := by
  simp [Sys.cleat, Sys.setCleat]

@[simp] theorem Sys.thermOf_setTherm (y : Sys) (u : Nat) (x : Therm) : (y.setTherm u x).thermOf u = x := by
  simp [Sys.thermOf, Sys.setTherm]

theorem Sys.thermOf_setTherm_other (y : Sys) {u v : Nat} (x : Therm) (h : v ≠ u) : (y.setTherm u x).thermOf v = y.thermOf v := by
  simp [Sys.thermOf, Sys.setTherm, SMap.get_set_other _ _ _ h]

@[simp] theorem Sys.part_setBight (y : Sys) (b : Nat) (x : Bight) (p : Nat) : (y.setBight b x).part p = y.part p := rfl
@[simp] theorem Sys.ctx_setBight (y : Sys) (b : Nat) (x : Bight) (c : Nat) : (y.setBight b x).ctx c = y.ctx c := rfl
@[simp] theorem Sys.bight_setPart (y : Sys) (p : Nat) (x : Partition) (b : Nat) : (y.setPart p x).bight b = y.bight b := rfl
@[simp] theorem Sys.ctx_setPart (y : Sys) (p : Nat) (x : Partition) (c : Nat) : (y.setPart p x).ctx c = y.ctx c := rfl
@[simp] theorem Sys.bight_setCtx (y : Sys) (c : Nat) (x : Context) (b : Nat) : (y.setCtx c x).bight b = y.bight b := rfl
@[simp] theorem Sys.part_setCtx (y : Sys) (c : Nat) (x : Context) (p : Nat) : (y.setCtx c x).part p = y.part p := rfl

end Sys2Proof.Machine
end

