-- ==== Sys2Proof/Laws/Commands.lean ====
section
/-!
SUPPORT. What a host command does once it may begin, and what its completion changes; what a request of the dictionary that is served answers.
-/

namespace Sys2Proof.Machine

open Sys2Proof

/-! Versions and batches -/

/-- A step that changes only weight sets of partitions. -/
def OnlySets (y z : Sys) : Prop :=
  { z with parts := y.parts } = y ∧ ∀ q, { z.part q with wsets := (y.part q).wsets, wsetGens := (y.part q).wsetGens } = y.part q

theorem OnlySets.refl (y : Sys) : OnlySets y y := ⟨rfl, fun _ => rfl⟩

theorem OnlySets.trans {x y z : Sys} (h : OnlySets x y) (g : OnlySets y z) : OnlySets x z := by
  refine ⟨?_, fun q => ?_⟩
  · have h1 := h.1
    have g1 := g.1
    cases x; cases y; cases z
    simp_all
  · have h2 := h.2 q
    rw [← g.2 q] at h2
    exact h2

theorem Sys.part_setPart_oob (y : Sys) (q : Nat) (x : Partition) (r : Nat) : (y.setPart q x).part r = if r = q ∧ q < 80 then x else y.part r := by
  by_cases h : r = q
  · subst h
    by_cases hq : r < 80
    · simp [Sys.part, Sys.setPart, hq]
    · simp [Sys.part, Sys.setPart, hq]
  · simp [Sys.part_setPart_other y x h, h]

theorem Sys.releaseVersions_only (y : Sys) (q : Nat) : OnlySets y (y.releaseVersions q) := by
  refine ⟨rfl, fun r => ?_⟩
  unfold Sys.releaseVersions
  simp only [Sys.part_setPart_oob]
  split
  · next h => rw [h.1]
  · rfl

theorem Sys.releaseAll_only (qs : List Nat) (y : Sys) : OnlySets y (qs.foldl (fun s q => s.releaseVersions q) y) := by
  induction qs generalizing y with
  | nil => exact OnlySets.refl y
  | cons q t ih => exact (y.releaseVersions_only q).trans (ih _)

/-! Completion -/

theorem Sys.ring_setRing_same (y : Sys) (c r : Nat) (g : Ring) (h : r < 4) : (y.setRing c r g).ring c r = g := by
  simp [Sys.ring, Sys.setRing, Context.setRing, h]

theorem Sys.ring_setRing_other (y : Sys) (c : Nat) {r n : Nat} (g : Ring) (h : n ≠ r) : (y.setRing c r g).ring c n = y.ring c n := by
  simp [Sys.ring, Sys.setRing, Context.setRing, Ne.symm h]

theorem OnlySets.ctxs {y z : Sys} (h : OnlySets y z) : z.ctxs = y.ctxs := by
  have h1 := congrArg Sys.ctxs h.1
  exact h1

theorem OnlySets.ctx {y z : Sys} (h : OnlySets y z) (c : Nat) : z.ctx c = y.ctx c := by simp [Sys.ctx, h.ctxs]

theorem find_filter_lay (l : List Cmd) (n m : Nat) :
    (l.filter (fun y => y.lay != n)).find? (fun x => x.lay == m) = if m = n then none else l.find? (fun x => x.lay == m) := by
  split
  · next h =>
    subst h
    rw [List.find?_eq_none]
    intro x hx
    simpa using (List.mem_filter.mp hx).2
  · next h =>
    induction l with
    | nil => rfl
    | cons x t ih =>
      by_cases hx : x.lay = n
      · have : (x.lay == m) = false := by simpa [hx] using Ne.symm h
        simp [hx, ih, Ne.symm h]
      · by_cases hm : x.lay = m
        · simp [hm, h]
        · simp [hx, hm, ih]

/-- The state that a retirement leaves. -/
theorem Sys.retire_spec (y : Sys) (c r l : Nat) (hr : r < 4) :
    let t := y.retire c r l
    (∀ n m, t.cmdAt c n m = if n = r ∧ m = l then none else y.cmdAt c n m)
    ∧ (∀ d, d ≠ c → t.ctx d = y.ctx d)
    ∧ { t.ctx c with rings := (y.ctx c).rings, batches := (y.ctx c).batches } = y.ctx c
    ∧ OnlySets { y with ctxs := t.ctxs } t := by
  let g := y.ring c r
  let y1 := y.setRing c r { g with cmds := g.cmds.filter (fun x => x.lay != l) }
  obtain ⟨x, qs, ht, hx, hk⟩ : ∃ (x : Context) (qs : List Nat), y.retire c r l = qs.foldl (fun s q => s.releaseVersions q) (y1.setCtx c x) ∧ x.rings = (y1.ctx c).rings
      ∧ { x with batches := (y1.ctx c).batches } = y1.ctx c := ⟨_, _, rfl, rfl, rfl⟩
  have ho := Sys.releaseAll_only qs (y1.setCtx c x)
  have hc : ∀ d, (y.retire c r l).ctx d = (y1.setCtx c x).ctx d := fun d => by rw [ht]; exact ho.ctx d
  refine ⟨fun n m => ?_, fun d hd => ?_, ?_, ?_⟩
  · have hring : (y.retire c r l).ring c n = y1.ring c n := by simp [Sys.ring, hc, hx]
    unfold Sys.cmdAt
    rw [hring]
    by_cases hn : n = r
    · subst hn
      simp only [y1, Sys.ring_setRing_same _ _ _ _ hr, find_filter_lay, g, true_and]
    · simp [y1, Sys.ring_setRing_other _ _ _ hn, hn]
  · rw [hc, Sys.ctx_setCtx_other _ _ hd]
    exact Sys.ctx_setCtx_other _ _ hd
  · rw [hc, Sys.ctx_setCtx]
    have hy : y1.ctx c = (y.ctx c).setRing r { g with cmds := g.cmds.filter (fun x => x.lay != l) } := Sys.ctx_setCtx _ _ _
    rw [hy] at hk
    have : { x with rings := (y.ctx c).rings, batches := (y.ctx c).batches } = { ({ x with batches := (y.ctx c).batches } : Context) with rings := (y.ctx c).rings } := rfl
    rw [this]
    have hb : ({ x with batches := (y.ctx c).batches } : Context) = (y.ctx c).setRing r { g with cmds := g.cmds.filter (fun x => x.lay != l) } := hk
    rw [hb]
    rfl
  · rw [ht]
    rw [ho.ctxs]
    exact ho

theorem Sys.finish_leave (y : Sys) (c : Nat) (k : Cmd) (st : Nat) (res : Bytes) (hs : y.inSigma c k = false) :
    y.finish c k st res = (y.setCtx c { y.ctx c with outbox := (y.ctx c).outbox ++ [doneRec k st res] }).leave c k := by
  unfold Sys.finish
  rw [if_neg (by simp [hs])]
  rfl

theorem Sys.finish_eq (y : Sys) (c : Nat) (k : Cmd) (st : Nat) (res : Bytes) (hs : y.inSigma c k = false) :
    ∃ y1 y2, y1 = y.setCtx c { y.ctx c with outbox := (y.ctx c).outbox ++ [doneRec k st res] } ∧ y2 = y1.retire c k.ring k.lay
      ∧ y.finish c k st res = { y2.setCtx c { y2.ctx c with lastUse := y2.useNext } with useNext := y2.useNext + 1 } :=
  ⟨_, _, rfl, rfl, Sys.finish_leave y c k st res hs⟩

/-- A command outside any step region completes with its record in the context's records. -/
theorem Sys.finish_retired (y : Sys) (key : CmdKey) (k : Cmd) (st : Nat) (res : Bytes) (hs : y.inSigma key.ctx.val k = false)
    (hr : k.ring = key.ring.val) (hl : k.lay = key.lay) : Retired key k st res y { y.finish key.ctx.val k st res with replay := none } := by
  obtain ⟨y1, y2, hy1, hy2, hf⟩ := Sys.finish_eq y key.ctx.val k st res hs
  generalize hc : key.ctx.val = c at *
  have hlt : k.ring < 4 := hr ▸ key.ring.isLt
  obtain ⟨r1, r2, r3, r4⟩ := Sys.retire_spec y1 c k.ring k.lay hlt
  rw [← hy2] at r1 r2 r3 r4
  have f1 : y1.ctx c = { y.ctx c with outbox := (y.ctx c).outbox ++ [doneRec k st res] } := by rw [hy1]; exact Sys.ctx_setCtx _ _ _
  have f2 : ∀ d, d ≠ c → y1.ctx d = y.ctx d := fun d hd => by rw [hy1]; exact Sys.ctx_setCtx_other _ _ hd
  have f3 : ({ y1 with ctxs := y.ctxs } : Sys) = y := by rw [hy1]; rfl
  have f4 : ∀ q, y1.part q = y.part q := fun q => by rw [hy1]; rfl
  generalize hz : y.finish c k st res = z at *
  have g1 : z.ctx c = { y2.ctx c with lastUse := y2.useNext } := by rw [hf]; exact Sys.ctx_setCtx _ _ _
  have g2 : ∀ d, d ≠ c → z.ctx d = y2.ctx d := fun d hd => by rw [hf]; exact Sys.ctx_setCtx_other _ _ hd
  have g4 : ∀ q, z.part q = y2.part q := fun q => by rw [hf]; rfl
  have g3 : ({ z with ctxs := y.ctxs, parts := y.parts, useNext := y.useNext, replay := y.replay } : Sys)
      = { y2 with ctxs := y.ctxs, parts := y.parts, useNext := y.useNext, replay := y.replay } := by rw [hf]; rfl
  have hcmd : ∀ n m, z.cmdAt c n m = if n = k.ring ∧ m = k.lay then none else y.cmdAt c n m := fun n m => by
    have h1 : z.cmdAt c n m = y2.cmdAt c n m := by simp [Sys.cmdAt, Sys.ring, g1]
    have h2 : y1.cmdAt c n m = y.cmdAt c n m := by simp [Sys.cmdAt, Sys.ring, f1]
    rw [h1, r1 n m, h2]
  have ho : (y2.ctx c).outbox = (y.ctx c).outbox ++ [doneRec k st res] := by
    have h := congrArg Context.outbox r3
    rw [f1] at h
    exact h
  have hp : ∀ q, ({ y2.part q with wsets := (y.part q).wsets, wsetGens := (y.part q).wsetGens } : Partition) = y.part q := fun q => by
    have h := r4.2 q
    rw [← f4 q]
    exact h
  unfold Retired
  rw [hc]
  refine ⟨?_, ?_, ?_, ?_, ?_, ?_, ?_⟩
  · show (z.ctx c).outbox = _
    rw [g1]
    exact ho
  · show z.cmdAt key.ctx.val key.ring.val key.lay = none
    rw [hc, hcmd]
    simp [hr, hl]
  · intro n m h
    show z.cmdAt c n m = _
    rw [hcmd, if_neg]
    rw [hr, hl]
    tauto
  · intro d hd
    show z.ctx d = _
    rw [g2 d hd, r2 d hd, f2 d hd]
  · show ({ z.ctx c with rings := (y.ctx c).rings, outbox := (y.ctx c).outbox, batches := (y.ctx c).batches, lastUse := (y.ctx c).lastUse } : Context) = y.ctx c
    rw [g1]
    have h3 := congrArg (fun x : Context => ({ x with rings := (y.ctx c).rings, batches := (y.ctx c).batches, outbox := (y.ctx c).outbox, lastUse := (y.ctx c).lastUse } : Context)) r3
    rw [f1] at h3
    exact h3
  · intro q
    show ({ z.part q with wsets := (y.part q).wsets, wsetGens := (y.part q).wsetGens } : Partition) = y.part q
    rw [g4]
    exact hp q
  · refine Eq.trans g3 ?_
    have h4 := congrArg (fun x : Sys => ({ x with ctxs := y.ctxs, parts := y.parts, useNext := y.useNext, replay := y.replay } : Sys)) r4.1
    have h5 := congrArg (fun x : Sys => ({ x with parts := y.parts, useNext := y.useNext, replay := y.replay } : Sys)) f3
    exact h4.trans h5

/-- A command that may begin runs its body from the state in which it stands begun; when that completes, so does the command. -/
theorem completes_of_body {i : Instr} {s : State} {key : CmdKey} {k : Cmd} {op : Nat} (h : CmdReady i s key k op) {body : Nat → Nat → Cmd → Sys → Did}
    (hexec : exec i s = s.onSys (fun y => y.runOrdered i key (isOp op) body)) {y : Sys} {st : Nat} {res : Bytes} {eff : Sys → Prop}
    (hbody : body (s.sys.ctx key.ctx.val).part key.ctx.val { k with progress := .begun } (s.sys.begun key k) = .done y st res)
    (hs : y.inSigma key.ctx.val k = false) (he : eff y) : Completes i s key k st res eff := by
  obtain ⟨h1, h2, h3, h4, h5, h6, h7, h8, h9, h10, h11⟩ := h
  refine ⟨y, _, hexec, rfl, rfl, he, ?_⟩
  have hw : s.sys.waiting.any (fun g => g.cmd == i) = false := by simpa using h7
  have hb : body (s.sys.ctx key.ctx.val).part key.ctx.val { k with progress := .begun } (s.sys.setProgress key.ctx.val k.ring k .begun) = .done y st res := hbody
  have ht : s.sys.tryCmd i key (isOp op) (fun e => s.sys.cmdExtra (s.sys.ctx key.ctx.val).part e) body
      = y.finish key.ctx.val k st res := by
    unfold Sys.tryCmd
    rw [h1]
    dsimp only
    rw [if_neg (by simp [isOp, h2, Cmd.isFinished, h3]), if_pos h3, if_neg (by simp [h8]), if_neg (by simp [h10]), h11]
    dsimp only
    rw [hb]
  have hrun : s.sys.runOrdered i key (isOp op) body = { y.finish key.ctx.val k st res with replay := none } := by
    unfold Sys.runOrdered Sys.runCmd
    rw [if_neg (by simp [h1, Cmd.begunB, Cmd.resumes, h3, hw]), ht]
  show Retired key k st res y (s.sys.runOrdered i key (isOp op) body)
  rw [hrun]
  exact Sys.finish_retired y key k st res hs h4 h5

/-! Requests -/

/-- Taking a request from its path changes its window alone: what answers, and for whom, stays. -/
theorem answer_submitted (s : State) (path p : Path) (d : Bytes) (i : Nat) :
    ({ s with sys := s.sys.submitted path d } : State).answer p i = s.answer p i := by
  unfold State.answer Sys.reaches Sys.submitted
  cases path <;> rfl
theorem who_submitted (s : State) (path p : Path) (d : Bytes) (role : Nat) :
    ({ s with sys := s.sys.submitted path d } : State).who p role = s.who p role := by
  unfold State.who State.vendorOk Sys.submitted
  cases path <;> rfl
theorem transferOpen_submitted (y : Sys) (path p : Path) (d : Bytes) (n : Nat) : (y.submitted path d).transferOpen p n = y.transferOpen p n := by
  unfold Sys.transferOpen Sys.submitted
  cases path <;> rfl

/-- A write that is served for a requester that may make it answers with what its operation answers. -/
theorem grants_of_serves {i : Instr} {s : State} {r : ReqF} {index sub : Nat} {w : Who} (h : s.serves r.path r.submit r.role r.transfer index w)
    {may : Who → Bool} {op : Who → State → State × Nat} (hexec : exec i s = .next (s.request r index sub may op)) (hw : may w = true)
    (hp : (op w (s.takenReq r index sub)).1.pending = s.pending) (hc : (op w (s.takenReq r index sub)).2 ≠ noAnswer) :
    Grants i s r index sub (op w (s.takenReq r index sub)).2 (op w (s.takenReq r index sub)).1 := by
  obtain ⟨h1, h2, h3, h4, h5, h6⟩ := h
  have ht : ({ s with sys := s.sys.submitted r.path (msgHeader 2 r.role r.transfer index sub 1 0 0 0) } : State) = s.takenReq r index sub := rfl
  have h3' : (s.takenReq r index sub).answer r.path index = .serve := by rw [← ht, answer_submitted, h3]
  have h5' : (s.sys.submitted r.path (msgHeader 2 r.role r.transfer index sub 1 0 0 0)).transferOpen r.path.source r.transfer = false :=
    (transferOpen_submitted ..).trans h5
  have h6' : (s.takenReq r index sub).who r.path r.role = some w := by rw [← ht, who_submitted, h6]
  unfold Grants
  rw [hexec]
  unfold State.request
  simp only [h1, h2, ht, h3', h5', h6', hw, hc, Bool.not_true, Bool.or_self, Bool.false_eq_true, if_false, if_true]
  rw [if_neg (by omega), ← hp]

end Sys2Proof.Machine
end

