-- ==== Sys2Proof/Laws/Core.lean ====
section
/-!
SUPPORT. How an instruction of the Halyard core completes: what the shared operations that take it up answer when it can execute.
-/

namespace Sys2Proof.Machine

/-! Registers -/

@[simp] theorem BightArch.s_zero (a : BightArch) : a.s 0#5 = 0#64 := by simp [BightArch.s]
@[simp] theorem BightArch.setS_zero (a : BightArch) (v : Word64) : a.setS 0#5 v = a := by simp [BightArch.setS]
@[simp] theorem BightArch.setS_pc (a : BightArch) (r : BitVec 5) (v : Word64) : (a.setS r v).pc = a.pc := by
  unfold BightArch.setS; split <;> rfl
@[simp] theorem BightArch.setS_fifo (a : BightArch) (r : BitVec 5) (v : Word64) : (a.setS r v).fifo = a.fifo := by
  unfold BightArch.setS; split <;> rfl

theorem BightArch.s_setS (a : BightArch) (d r : BitVec 5) (v : Word64) :
    (a.setS d v).s r = if r = d ∧ d ≠ 0#5 then v else a.s r := by
  by_cases hr : r = 0#5
  · subst hr
    have h : ¬ (0#5 = d ∧ d ≠ 0#5) := fun h => h.2 h.1.symm
    rw [if_neg h]; simp [BightArch.s]
  · by_cases hd : d = 0#5
    · subst hd
      rw [if_neg (fun h => h.2 rfl), BightArch.setS_zero]
    · have hn : (r = d) = (r.toNat = d.toNat) := by simp [BitVec.toNat_inj]
      simp only [BightArch.s, BightArch.setS, hr, hd, ne_eq, not_false_eq_true, and_true, hn, BitVec.ofNat_eq_ofNat, if_false]
      rw [Vector.getElem_set]
      simp [eq_comm]

/-! Taking up an instruction -/

theorem Sys.older_none {y : Sys} {b ord : Nat} (h : ∀ g ∈ y.waiting, g.bight = some b → g.cap.isSome = true) :
    (y.older b ord).any (fun g => g.cap.isNone) = false := by
  simp only [Sys.older, List.any_eq_false, List.mem_filter, Bool.and_eq_true, beq_iff_eq, and_imp]
  intro g hg hb _
  have := h g hg hb
  cases hc : g.cap <;> simp [hc] at this ⊢

/-- In a Bight that can execute, `front` goes straight to the instruction. -/
theorem Sys.front_ready {s : State} {b : Fin 80} (h : CoreReady s b) (i : Instr) (eng : Engine) (k : Sys → Sys) :
    s.sys.front i b.val eng k = k s.sys := by
  obtain ⟨h0, h1, h2, h3, h4⟩ := h
  simp [Sys.front, h0, h1, Sys.older_none h2, h3, h4]

/-- A core instruction that need not wait. -/
theorem Sys.coreOp_ready {s : State} {b : Fin 80} (h : CoreReady s b) (i : Instr) {busy : Sys → Bool} (hb : busy s.sys = false)
    (body : Nat → Sys → Sys) :
    s.sys.coreOp i b.val busy body
      = { body (s.sys.bight b.val).nextSeq (s.sys.setBight b.val { s.sys.bight b.val with nextSeq := (s.sys.bight b.val).nextSeq + 1 }) with replay := none } := by
  simp [Sys.coreOp, Sys.front_ready h, hb]

/-! Effects on the Bight alone -/

theorem onlyBight_setBight {s : State} {b : Fin 80} {y : Sys} (x : Bight) (hy : y = { s.sys.setBight b.val x with replay := none }) :
    OnlyBight s { s with sys := y } b ∧ y.bight b.val = x := by
  subst hy
  refine ⟨⟨rfl, rfl, rfl, ?_⟩, Sys.bight_setBight s.sys b x⟩
  intro c hc
  exact Sys.bight_setBight_other s.sys x (by simpa [Fin.ext_iff] using hc)

theorem bightKept_mapArch (x : Bight) (g : BightArch → BightArch) :
    BightKept x (({ x with nextSeq := x.nextSeq + 1 } : Bight).mapArch x.nextSeq g) := by
  refine ⟨rfl, rfl, rfl, rfl, rfl, rfl, rfl, ?_, ?_⟩
  · intro h; simp [Bight.mapArch, h]
  · intro r h hle; simp [Bight.mapArch, h, Nat.not_lt.mpr hle]

/-- A core instruction that changes the Bight's state by `g` completes with that state. -/
theorem ends_coreOp {s : State} {b : Fin 80} (h : CoreReady s b) (i : Instr) {busy : Sys → Bool} (hb : busy s.sys = false)
    (g : BightArch → BightArch)
    (he : exec i s = s.onSys (fun y => y.coreOp i b.val busy (fun q y => y.onArch b.val q g))) :
    Ends i s b (g (s.arch b)) := by
  have hy : s.sys.coreOp i b.val busy (fun q y => y.onArch b.val q g)
      = { s.sys.setBight b.val (({ s.sys.bight b.val with nextSeq := (s.sys.bight b.val).nextSeq + 1 } : Bight).mapArch (s.sys.bight b.val).nextSeq g) with replay := none } := by
    rw [Sys.coreOp_ready h i hb]
    simp only [Sys.onArch, Sys.bight_setBight]
    simp [Sys.setBight]
  have hk := onlyBight_setBight _ hy
  refine ⟨_, by rw [he]; rfl, hk.1, ?_, ?_⟩
  · simp only [State.arch]; rw [hk.2]; rfl
  · simp only []; rw [hk.2]; exact bightKept_mapArch _ g

/-- The same for one that goes on at the next instruction. -/
theorem ends_coreArch {s : State} {b : Fin 80} (h : CoreReady s b) (i : Instr) (g : BightArch → BightArch)
    (he : exec i s = s.onSys (fun y => y.coreArch i b.val g)) : Ends i s b (g (s.arch b)).step8 :=
  ends_coreOp h i rfl (fun a => (g a).step8) he

/-- A scalar instruction on registers. -/
theorem writes_scalar {s : State} {f : ScalarF} (h : CoreReady s f.b) (i : Instr) (op : Word64 → Word64 → Word64)
    (he : exec i s = s.scalar i f op) : Writes i s f.b f.sd (op ((s.arch f.b).s f.sa) (s.operand f)) := by
  have := ends_coreArch h i (scalarArch f op) he
  simpa [Writes, scalarArch, BightArch.step8, scalarB, State.operand, immExt] using this

end Sys2Proof.Machine
end

