-- ==== Sys2Proof/Laws/Memory.lean ====
section
/-!
SUPPORT. Addressed bytes: what a write leaves and what it changes; every operation keeps the canonical form.
-/

namespace Sys2Proof.Machine

open Sys2Proof

/-! The canonical form -/

theorem Mem.wf_iff (m : Mem) : m.wf = true ↔ m.bytes.wf 0 = true ∧ m.marks.wf .clean = true := by simp [Mem.wf]

theorem Mem.wf_empty : Mem.empty.wf = true := rfl

theorem Mem.wf_write (m : Mem) (a n : Nat) (f : Nat → Byte) (pz : Nat → Mark) (h : m.wf = true) : (m.write a n f pz).wf = true := by
  rw [Mem.wf_iff] at h
  unfold Mem.write
  split
  · exact (Mem.wf_iff m).mpr h
  · exact (Mem.wf_iff _).mpr ⟨SMap.wf_setFn _ _ _ _ _ h.1, SMap.wf_setFn _ _ _ _ _ h.2⟩

theorem Mem.wf_put (m : Mem) (a : Nat) (bs : Bytes) (h : m.wf = true) : (m.put a bs).wf = true := Mem.wf_write m a _ _ _ h

theorem Mem.wf_putBlob (m : Mem) (a : Nat) (b : Blob) (h : m.wf = true) : (m.putBlob a b).wf = true := Mem.wf_write m a _ _ _ h

theorem Mem.wf_zeroRange (m : Mem) (a n : Nat) (h : m.wf = true) : (m.zeroRange a n).wf = true := Mem.wf_write m a n _ _ h

theorem Mem.wf_putImage (m : Mem) (a : Nat) (x : Slot) (h : m.wf = true) : (putImage m a x).wf = true := Mem.wf_write m a _ _ _ h

theorem Mem.wf_poisonRange (m : Mem) (a n : Nat) (k : Mark) (h : m.wf = true) : (m.poisonRange a n k).wf = true := by
  unfold Mem.poisonRange
  generalize cwRange a n = cs
  induction cs generalizing m with
  | nil => exact h
  | cons c t ih =>
    rw [Mem.wf_iff] at h
    exact ih _ ((Mem.wf_iff _).mpr ⟨h.1, SMap.wf_set _ _ _ _ h.2⟩)

theorem Mem.wf_dropRange (m : Mem) (a n : Nat) (h : m.wf = true) : (m.dropRange a n).wf = true := by
  rw [Mem.wf_iff] at h
  exact (Mem.wf_iff _).mpr ⟨SMap.wf_filter _ _ _ h.1, SMap.wf_filter _ _ _ h.2⟩

theorem Mem.wf_copyRange (m : Mem) (a b n : Nat) (h : m.wf = true) : (m.copyRange a b n).wf = true := by
  rw [Mem.wf_iff] at h
  exact (Mem.wf_iff _).mpr ⟨SMap.wf_copyRange _ _ _ _ _ h.1, SMap.wf_copyRange _ _ _ _ _ h.2⟩

theorem Mem.wf_keepIf (m : Mem) (keep : Nat → Bool) (h : m.wf = true) : (m.keepIf keep).wf = true := by
  rw [Mem.wf_iff] at h
  exact (Mem.wf_iff _).mpr ⟨SMap.wf_filter _ _ _ h.1, SMap.wf_filter _ _ _ h.2⟩

/-- The module's memory at reset has the canonical form. -/
theorem reset_mem_wf : State.reset.sys.mem.data.wf = true := rfl

/-- So has every locker. -/
theorem reset_locker_wf (b : Fin 80) : (State.reset.sys.bight b.val).arch.locker.wf = true := by
  revert b; decide

/-! Read after write -/

theorem Mem.byte_write_in (m : Mem) (a n i : Nat) (f : Nat → Byte) (pz : Nat → Mark) (h : i < n) : (m.write a n f pz).byte (a + i) = f i := by
  have hn : n ≠ 0 := by omega
  simpa [Mem.write, hn, Mem.byte] using SMap.get_setFn_in 0 m.bytes a n f h

theorem Mem.byte_write_out (m : Mem) (a n p : Nat) (f : Nat → Byte) (pz : Nat → Mark) (h : p < a ∨ a + n ≤ p) : (m.write a n f pz).byte p = m.byte p := by
  unfold Mem.write
  split
  · rfl
  · simpa [Mem.byte] using SMap.get_setFn_out 0 m.bytes a n f h

theorem Mem.byte_put (m : Mem) (a p : Nat) (bs : Bytes) :
    (m.put a bs).byte p = if a ≤ p ∧ p < a + bs.length then bs.getD (p - a) 0 else m.byte p := by
  unfold Mem.put
  split
  · next h =>
    have := Mem.byte_write_in m a bs.length (p - a) (fun i => bs.getD i 0) (fun _ => .clean) (by omega)
    rwa [Nat.add_sub_cancel' h.1] at this
  · next h => exact Mem.byte_write_out m a bs.length p _ _ (by omega)

theorem Mem.byte_copyRange (m : Mem) (a b n p : Nat) :
    (m.copyRange a b n).byte p = if b ≤ p ∧ p < b + n then m.byte (a + (p - b)) else m.byte p := by
  unfold Mem.copyRange Mem.byte
  split
  · next h =>
    have := SMap.get_copyRange_in 0 m.bytes a b n (i := p - b) (by omega)
    rwa [Nat.add_sub_cancel' h.1] at this
  · next h => exact SMap.get_copyRange_out 0 m.bytes a b n (by omega)

theorem Mem.byte_dropRange (m : Mem) (a n p : Nat) : (m.dropRange a n).byte p = if a ≤ p ∧ p < a + n then 0 else m.byte p :=
  SMap.get_delRange 0 m.bytes a n p

/-- Marks outside the codewords that a write touches stay. -/
theorem Mem.mark_write_out (m : Mem) (a n c : Nat) (f : Nat → Byte) (pz : Nat → Mark) (h : c < a / 16 ∨ (a + n - 1) / 16 < c) :
    (m.write a n f pz).mark c = m.mark c := by
  unfold Mem.write
  split
  · rfl
  · simp only [Mem.mark]
    refine SMap.get_setFn_out Mark.clean m.marks _ _ _ ?_
    rcases h with h | h
    · exact Or.inl h
    · exact Or.inr (by omega)

/-- A codeword that a write touches takes the mark of R431 and R433. -/
theorem Mem.mark_write_in (m : Mem) (a n c : Nat) (f : Nat → Byte) (pz : Nat → Mark) (hn : n ≠ 0) (h : a / 16 ≤ c ∧ c ≤ (a + n - 1) / 16) :
    (m.write a n f pz).mark c = newMark m a n pz c := by
  have := SMap.get_setFn_in Mark.clean m.marks (a / 16) ((a + n - 1) / 16 + 1 - a / 16) (fun i => newMark m a n pz (a / 16 + i))
    (i := c - a / 16) (by omega)
  rw [Nat.add_sub_cancel' h.1] at this
  simpa [Mem.write, hn, Mem.mark] using this

end Sys2Proof.Machine
end

