-- ==== Sys2Proof/Laws/Queue.lean ====
section
/-!
SUPPORT. How an instruction of a queue completes in a Bight that has nothing outstanding.
-/

namespace Sys2Proof.Machine

theorem Sys.setBight_self (y : Sys) (b : Fin 80) : y.setBight b.val (y.bight b.val) = y := by
  have h : y.bights.setIfInBounds b.val (y.bight b.val) = y.bights := by
    ext i hi
    simp only [Sys.bight]
    rw [Vector.getElem_setIfInBounds]
    split
    · next h => subst h; simp
    · rfl
  simp [Sys.setBight, h]

theorem Sys.setBight_setBight (y : Sys) (b : Nat) (x z : Bight) : (y.setBight b x).setBight b z = y.setBight b z := by
  simp [Sys.setBight]

theorem Sys.older_nil {y : Sys} {b ord : Nat} (h : ∀ g ∈ y.waiting, g.bight ≠ some b) : y.older b ord = [] := by
  simp only [Sys.older, List.filter_eq_nil_iff, Bool.and_eq_true, beq_iff_eq, not_and]
  intro g hg hb
  exact absurd hb (h g hg)

theorem Sys.sigmaOf_setBight (y : Sys) (b : Fin 80) (x : Bight) (hx : x.run = (y.bight b.val).run) :
    (y.setBight b.val x).sigmaOf b.val = y.sigmaOf b.val := by
  simp [Sys.sigmaOf, hx]

/-- Nothing outside the Bight's program holds a later instruction back. -/
structure Quiet (y : Sys) (b : Fin 80) : Prop where
  waiting : ∀ g ∈ y.waiting, g.bight ≠ some b.val
  drains : (y.bight b.val).drains = []
  region : (y.bight b.val).region = none
  sigma : y.sigmaOf b.val = none

theorem Quiet.hazard {y : Sys} {b : Fin 80} (h : Quiet y b) (ord seq : Nat) (f : Foot) : y.hazard b.val ord seq f = false := by
  simp [Sys.hazard, Sys.older_nil h.waiting, h.drains]

theorem Quiet.stepSaves {y : Sys} {b : Fin 80} (h : Quiet y b) (ws : List (Nat × Nat)) : y.stepSaves b.val ws = [] := by
  simp [Sys.stepSaves, h.sigma]

theorem Quiet.saveBytes {y : Sys} {b : Fin 80} (h : Quiet y b) (seq : Nat) (eng : Engine) (f : Foot) : y.saveBytes b.val seq eng f = 0 := by
  simp [Sys.saveBytes, h.region, h.stepSaves]

theorem Quiet.holds {y : Sys} {b : Fin 80} (h : Quiet y b) (seq : Nat) : y.holds b.val seq = false := by
  simp [Sys.holds, Bight.inRegion, h.region, h.sigma]

theorem Quiet.noteSaves {y : Sys} {b : Fin 80} (h : Quiet y b) (seq : Nat) (eng : Engine) (f : Foot) : y.noteSaves b.val seq eng f = y := by
  have h1 : ∀ (z : Sys), z.sigmaOf b.val = none → z.noteStepSaves b.val f.wr = z := fun z hz => by
    unfold Sys.noteStepSaves
    rw [hz]
    cases (z.bight b.val).run <;> rfl
  have h2 : y.setBight b.val { y.bight b.val with region := none } = y := by
    conv => rhs; rw [← Sys.setBight_self y b]
    congr 1
    rw [← h.region]
  simp only [Sys.noteSaves, h.region, Option.map_none]
  rw [h2]
  exact h1 y h.sigma

theorem Quiet.setBight {y : Sys} {b : Fin 80} (h : Quiet y b) (x : Bight) (hd : x.drains = []) (hr : x.region = none)
    (hu : x.run = (y.bight b.val).run) : Quiet (y.setBight b.val x) b where
  waiting := h.waiting
  drains := by simp [hd]
  region := by simp [hr]
  sigma := by rw [Sys.sigmaOf_setBight _ _ _ hu]; exact h.sigma

theorem Sys.onArch_none {y : Sys} {b : Fin 80} (h : (y.bight b.val).region = none) (seq : Nat) (g : BightArch → BightArch) :
    y.onArch b.val seq g = y.setBight b.val { y.bight b.val with arch := g (y.bight b.val).arch } := by
  simp only [Sys.onArch, Bight.mapArch, h, Option.map_none]

/-- The wait of an instruction, satisfied. -/
def waited (a : BightArch) (w : Option (BitVec 5)) : BightArch :=
  match w with
  | some h => a.dropHitch h
  | none => a

/-- What a queue instruction captures at dispatch, with the summary entry that it reserves. -/
def capOf (x : Bight) (q : QOp) : Cap :=
  let cap : Cap := { seq := x.nextSeq, regs := q.regs x.arch, desc := (readDesc x.arch q.desc).1, descMark := (readDesc x.arch q.desc).2, entry := none, flying := false, msg := none, sentBad := false, lost := false }
  { cap with entry := if q.push cap then some x.arch.fifoNext else none }

/-- The units once a queue instruction is dispatched. -/
def atDispatch (y : Sys) (b : Nat) (push : Bool) : Sys :=
  let x := y.bight b
  y.setBight b { x with arch := (if push then x.arch.reserve else x.arch).step8, nextSeq := x.nextSeq + 1 }

/-- The units when a queue instruction takes effect. -/
def atEffect (y : Sys) (b : Nat) (q : QOp) (push : Bool) : Sys :=
  let x := y.bight b
  y.setBight b { x with arch := waited ((if push then x.arch.reserve else x.arch).step8) q.wait, nextSeq := x.nextSeq + 1 }

theorem hitchFree_step {y : Sys} {b : Fin 80} (hq : ∀ g ∈ y.waiting, g.bight ≠ some b.val) (ord : Nat) (w : Option (BitVec 5))
    (hw : ∀ h, w = some h → (y.bight b.val).arch.hitch h = true) : y.hitchFree b.val ord w = true := by
  cases w with
  | none => rfl
  | some h => simp [Sys.hitchFree, hw h rfl, Sys.older_nil hq]

theorem Sys.tryIssue_quiet {y : Sys} {b : Fin 80} (hq : Quiet y b) (i : Instr) (ord : Nat) (q : QOp) (cap : Cap) (hf : cap.flying = false)
    (hw : ∀ h, q.wait = some h → (y.bight b.val).arch.hitch h = true) (hr : q.ready y b.val cap = true) :
    y.tryIssue i b.val ord q cap =
      match q.effect (y.consume b.val cap.seq q.wait) b.val cap with
      | (s, some fly) =>
        (match q.finish s b.val fly with
         | some s => { s with replay := none }
         | none => s.keepQueued i b.val ord q { fly with flying := true })
      | (s, none) =>
        { s.onArch b.val cap.seq (fun a => a.setHitchOpt q.set cap.seq q.eng) with replay := none } := by
  have hq2 : Quiet (y.consume b.val cap.seq q.wait) b := by
    unfold Sys.consume
    split
    · exact hq
    · rw [Sys.onArch_none hq.region]
      exact hq.setBight _ hq.drains hq.region rfl
  have hfl : (y.waiting.filter (fun h => h.bight == some b.val && h.inFlight)) = [] := by
    simp only [List.filter_eq_nil_iff, Bool.and_eq_true, beq_iff_eq, not_and]
    intro g hg hb
    exact absurd hb (hq.waiting g hg)
  have hsl : y.slackFits b.val 0 = true := by simp [Sys.slackFits]
  unfold Sys.tryIssue
  simp only [hf, Sys.older_nil hq.waiting, hq.hazard, hitchFree_step hq.waiting ord q.wait hw, hr, hfl, hq.saveBytes, hq.holds, hq2.noteSaves]
  simp [hsl] <;> rfl

theorem Sys.queueOp_ready {s : State} {b : Fin 80} (h : QueueReady s b) (i : Instr) (q : QOp) (push : Bool) (hp : ∀ c, q.push c = push)
    (hfull : push = true → (s.arch b).fifo.length < 32)
    (hw : ∀ h, q.wait = some h → (s.arch b).hitch h = true)
    (hr : q.ready (atDispatch s.sys b.val push) b.val (capOf (s.sys.bight b.val) q) = true) :
    s.sys.queueOp i b.val q =
      match q.effect (atEffect s.sys b.val q push) b.val (capOf (s.sys.bight b.val) q) with
      | (y, some fly) =>
        (match q.finish y b.val fly with
         | some y => { y with replay := none }
         | none => y.keepQueued i b.val s.sys.ordNow q { fly with flying := true })
      | (y, none) =>
        { y.onArch b.val (s.sys.bight b.val).nextSeq (fun a => a.setHitchOpt q.set (s.sys.bight b.val).nextSeq q.eng) with replay := none } := by
  obtain ⟨hc, hrep, hwt, hd, hreg, hsig⟩ := h
  have hq : Quiet s.sys b := ⟨hwt, hd, hreg, hsig⟩
  have hfull' : (push && decide (32 ≤ (s.sys.bight b.val).arch.fifo.length)) = false := by
    cases hpp : push with
    | false => rfl
    | true => have := hfull hpp; simp only [State.arch] at this; simp; omega
  have hsz : decide (queueSize q.eng ≤ 0) = false := by cases q.eng <;> rfl
  have hitch_keep : ∀ h, ((if push then (s.arch b).reserve else s.arch b).step8).hitch h = (s.arch b).hitch h := by
    intro h; split <;> rfl
  have hq1 : Quiet (s.sys.setBight b.val { s.sys.bight b.val with arch := (if push then (s.arch b).reserve else s.arch b).step8, nextSeq := (s.sys.bight b.val).nextSeq + 1 }) b :=
    hq.setBight _ hd hreg rfl
  unfold Sys.queueOp
  simp only [hrep]
  rw [Sys.front_ready hc]
  simp only [hp, Sys.older_nil hwt, List.filter_nil, List.length_nil, hsz, hq.hazard, Bool.false_or, hfull', Bool.false_eq_true, if_false]
  have := Sys.tryIssue_quiet hq1 i s.sys.ordNow q (capOf (s.sys.bight b.val) q) rfl
    (by intro h hh; simp only [Sys.bight_setBight]; rw [hitch_keep]; exact hw h hh) hr
  have hcons : (s.sys.setBight b.val { s.sys.bight b.val with arch := (if push then (s.arch b).reserve else s.arch b).step8, nextSeq := (s.sys.bight b.val).nextSeq + 1 }).consume
      b.val (s.sys.bight b.val).nextSeq q.wait = atEffect s.sys b.val q push := by
    unfold Sys.consume
    split
    · next hh => simp [atEffect, waited, hh, State.arch]
    · next hh =>
      rw [Sys.onArch_none (by simpa using hreg)]
      simp only [Sys.bight_setBight, Sys.setBight_setBight, atEffect, waited, hh, State.arch]
  simp only [capOf, hp] at this hcons ⊢
  rw [hcons] at this
  simp only [State.arch] at this
  exact this

end Sys2Proof.Machine
end

