-- ==== Sys2Proof/Laws/Step.lean ====
section
/-!
SUPPORT. What comes about by itself at a step without a command, where nothing is due.
-/

namespace Sys2Proof.Machine

@[simp] theorem Sys.raiseAlarms_none {s : Sys} (h : s.mem.alarms = []) : s.raiseAlarms = s := by
  have e : ({ s with mem := { s.mem with alarms := [] } } : Sys) = s := by rw [← h]
  simp [Sys.raiseAlarms, h, e]

@[simp] theorem Sys.flushPosted_none {s : Sys} (h : s.mem.posted = []) : s.flushPosted = s := by
  have e : ({ s with mem := { s.mem with posted := [] } } : Sys) = s := by rw [← h]
  simp [Sys.flushPosted, h, e]

@[simp] theorem Sys.meet_none (s : Sys) : s.meet .none = s := rfl

/-- With no error due, only the next one is drawn. -/
theorem Sys.upsets_none {s : Sys} (h : s.plat.upset = .none) :
    s.upsets = { s with free := s.free + 1, plat := { s.plat with upset := upsetOf (Config.upset s.free) } } := by
  simp [Sys.upsets, h, Sys.took]

/-- A source that is in order and about to pass draws how many tests it fails next. -/
theorem Sys.healthTest_passes {s : Sys} (h : s.trust.entropy = 0) (b : s.trust.badTests = 0) :
    s.healthTest = { s with free := s.free + 1, trust := { s.trust with entropy := 0, retries := 0, badTests := Config.badTests s.free } } := by
  simp [Sys.healthTest, h, b, Sys.took]

/-- A source in failure stays there. -/
theorem Sys.healthTest_failed {s : Sys} (h : s.trust.entropy = 2) : s.healthTest = s := by
  simp [Sys.healthTest, h]

theorem State.finishInstall_none {s : State} (h : s.sys.trust.installing = none) : s.finishInstall = s := by
  simp [State.finishInstall, h]

@[simp] theorem retryAll_nil (s : State) : retryAll [] s = .next s := rfl

end Sys2Proof.Machine
end

