-- ==== Sys2Proof/WellFormed.lean ====
section
/-!
DEFINITION. The operand values that a command can have: widths of numbers whose type is wider, lengths of byte strings.
-/

namespace Sys2Proof

/-- A number fits in `n` bits. -/
def fits (n v : Nat) : Bool := decide (v < 2 ^ n)

/-- A command entry (R288). -/
def CmdKey.wf (k : CmdKey) : Bool := decide (1 ≤ k.lay) && fits 64 k.lay
/-- Data records of 4,096 bytes (R289). -/
def recordsWf (rs : List Bytes) : Bool := rs.all (fun r => r.length == 4096)
/-- A path (R388 to R391): the window of a virtual function or of the physical function, numbered 80. -/
def Path.wf (p : Path) : Bool :=
  match p with
  | .window fn => decide (fn ≤ 80)
  | .mgmt addr port to_ toPort => fits 128 addr && fits 16 port && fits 128 to_ && fits 16 toPort
  | .inband node => fits 32 node
  | .i3c => true
/-- The requester of a write (R392). -/
def ReqF.wf (r : ReqF) : Bool := r.path.wf && fits 8 r.role && fits 16 r.transfer && fits 64 r.submit
/-- A dictionary message (R392). -/
def DictMsg.wf (m : DictMsg) : Bool :=
  m.path.wf && fits 8 m.role && fits 16 m.transfer && fits 16 m.index && fits 8 m.sub && fits 8 m.flags && fits 32 m.length && fits 32 m.code
    && decide (m.segment.length ≤ 1024) && fits 64 m.submit
/-- An atomic record (R211): its locker place is a multiple of 32. -/
def AtomicF.wf (f : AtomicF) : Bool := fits 8 f.size && f.place.toNat % 32 == 0
/-- An access to a memory controller (R193, R230): four codewords of a line and of a page's counter block. -/
def TierF.wf (f : TierF) : Bool :=
  decide (f.line < 218726400) && f.data.length == 64 && decide (f.flips.length ≤ 4) && decide (f.ctrFlips.length ≤ 4)
    && f.nodeFlips.all (fun e => decide (1 ≤ e.1) && decide (e.1 ≤ 7) && decide (e.2.length ≤ 4))
    && f.others.all (fun e => decide (e.1 < 64) && decide (e.2.1.length ≤ 4))
/-- An access to a slice (R205, R207): 256-byte lines. -/
def CacheF.wf (f : CacheF) : Bool :=
  decide (f.line < (if f.window then 262144 else 54681600)) && f.write.all (fun w => decide (w.1 + w.2.length ≤ 256)) && (f.bad ++ f.fixed).all (fun c => decide (c < 16))
/-- The numbers of functions (R413). -/
def functionWf (f : Nat) : Bool :=
  decide (f ≤ 1) || (decide (0x10 ≤ f) && decide (f < 0x1A)) || (decide (0x20 ≤ f) && decide (f < 0x34)) || (decide (0x40 ≤ f) && decide (f < 0x46))
    || (decide (0x50 ≤ f) && decide (f < 0x55)) || (decide (0x60 ≤ f) && decide (f < 0x6A))
/-- The numbers of clock domains (R440). -/
def domainWf (d : Nat) : Bool :=
  decide (d < 0x0A) || (decide (0x10 ≤ d) && decide (d < 0x1A)) || (decide (0x20 ≤ d) && decide (d < 0x34)) || (decide (0x40 ≤ d) && decide (d < 0x46))
    || (decide (0x50 ≤ d) && decide (d < 0xB3)) || (decide (0xC0 ≤ d) && decide (d < 0xC5)) || (decide (0xD0 ≤ d) && decide (d < 0xDA))
/-- A flow number (R263). -/
def flowWf (f : Nat) : Bool := decide (f < 1572864)
/-- A bit of the life-cycle word that does not verify (R370). -/
def failWf (b : BurnF) : Bool := b.fail.all (fun e => decide (e.1 < 64))
/-- A fence message of 64 bytes (R312). -/
def FenceMsg.wf (m : FenceMsg) : Bool := flowWf m.flow && m.body.length == 64

/-- A well-formed command. -/
def Instr.wf (i : Instr) : Bool :=
  match i with
  | .atomicNone f | .atomicAdd f | .atomicSmin f | .atomicSmax f | .atomicUmin f | .atomicUmax f | .atomicAnd f | .atomicOr f | .atomicXor f
  | .swap f | .cas f => f.wf
  | .ctxOpen k | .ctxClose k | .ctxQuery k | .objAlloc k | .objFree k | .grant k | .accept k | .revoke k | .objQuery k | .xferDevice k
  | .wsetLoad k | .wsetPublish k | .wsetRetire k | .run k | .runCancel k | .reefSet k | .stepCommitNone k | .stepCommitWait k
  | .stepCommitSpeculate k | .fenceCreate k | .fenceSignal k | .fenceWait k | .fenceExport k | .fenceImport k | .chainReduce k | .chainAllreduce k
  | .allgather k | .broadcast k | .flowOpen k | .flowClose k | .dictRead k | .dictWrite k | .dictWriteStaged k | .dictCommit k
  | .dictAbort k | .attest k => k.wf
  | .update k | .xferOut k | .ckptSave k | .keyRotate k => k.key.wf
  | .xferIn k rs | .ckptRestore k rs | .takeover k rs | .keyShare k rs | .braidRelease k rs => k.wf && recordsWf rs
  | .sessionOpen k _ => k.wf
  | .objectRelease _ index => fits 32 index
  | .signal m | .signalAck m | .fenceUpdate m | .fenceImportMsg m | .fenceImportAck m | .fenceRelease m => m.wf
  | .intakeEntry _ _ _ offset data => decide (offset + data.length ≤ 16384) && !data.isEmpty
  | .functionLevelReset fn => decide (fn ≤ 80)
  | .portEnable r _ _ => r.wf
  | .retransmissionTimeout flow n => flowWf flow && fits 64 n
  | .ackTimer flow | .rateIncrease flow | .openRetransmit flow => flowWf flow
  | .cacheAccess f => f.wf
  | .tierRead f | .tierWrite f => f.wf
  | .functionWake fn | .wakeLimit fn | .drainComplete fn => functionWf fn
  | .functionReady fn cause => functionWf fn && fits 32 cause
  | .enable r fn _ => r.wf && functionWf fn
  | .uncontainedError fn store => functionWf fn && decide (store ≤ 6)
  | .create r _ | .destroy r _ | .timingScan r | .supplyScan r | .marginAbort r | .dsGenerate r | .logFreeze r | .logUnfreeze r => r.wf
  | .marginRunComplete buffer => decide (buffer.length ≤ 36864)
  | .dictMsgRead m | .dictMsgWrite m | .dictMsgWriteStaged m | .dictMsgCommit m | .dictMsgAbort m | .dictMsgSegment m => m.wf
  | .transferIdle path transfer => path.wf && fits 16 transfer
  | .stagedSetApply scope => decide (scope < 80) || scope == 0xFFFF
  | .neighborSolicitation target => fits 128 target
  | .i3cEntrySelect index entry => fits 16 index && fits 8 entry
  | .entdaa addr => fits 7 addr
  | .lcToTest r b | .lcToProduction r b | .lcComplete r b => r.wf && failWf b
  | .debugOpen r record => r.wf && record.length == 2484
  | .endOfLife r record b => r.wf && record.length == 2484 && failWf b
  | .operatorKeyChange r record => r.wf && record.length == 2508
  | .amendImage r record => r.wf && decide (1 ≤ record.length) && decide (record.length ≤ 262144)
  | .logRecord unit => functionWf unit
  | .countWrap domain => domainWf domain
  -- every value of the other commands' operand types is a value that the operand can have
  | .add _ | .sub _ | .mul _ | .mulhu _ | .divu _ | .remu _ | .div _ | .rem _ | .and _ | .or _ | .xor _ | .shl _ | .shr _ | .sra _ | .min _ | .max _
  | .minu _ | .maxu _ | .slt _ | .sltu _ | .seq _ | .movhi _ | .fadd _ | .fsub _ | .fmul _ | .fdiv _ | .fmin _ | .fmax _ | .flt _ | .fcvti _
  | .icvtf _ | .ld _ | .st _ | .reservedOpcode _ _ | .nop _ | .br _ | .jal _ | .jr _ | .sumPop _ | .stat _ | .hitchWait _ | .hitchSet _
  | .hitchClear _ | .slackOpen _ | .haul _ | .cut _ | .qwait _ | .halt _ | .slackRegionHaul _ | .slackRegionCut _ | .vadd _ | .vsub _ | .vmul _
  | .vfma _ | .vdiv _ | .vrcp _ | .vsqrt _ | .vrsqrt _ | .vexp _ | .vexp2 _ | .vlog _ | .vlog2 _ | .vtanh _ | .vsigmoid _ | .verf _ | .vmin _
  | .vmax _ | .vabs _ | .vneg _ | .vmov _ | .vsel _ | .vcmp _ | .vand _ | .vor _ | .vxor _ | .vnot _ | .vshl _ | .vshr _ | .vsra _ | .pand _
  | .por _ | .pxor _ | .pnot _ | .prange _ | .vperm _ | .vrot _ | .vscan _ | .vred _ | .vsoftmax _ | .vcvt _ | .vblkSt _ | .vblkLd _ | .vld _
  | .vst _ | .vslot _ | .vemit _ | .layMma _ | .layOpen _ | .layDrain _ | .laySpill _ | .layDiscard _ | .drainPipelineSlot _ | .movLoad _
  | .movStore _ | .movImport _ | .movCopy _ | .movSend _ | .send _ | .release _ | .collWait _ | .updNop _ | .lds _ | .sts _ | .updAdd _ | .updSub _
  | .updMul _ | .fma _ | .updDiv _ | .sqrt _ | .rsqrt _ | .updMin _ | .updMax _ | .abs _ | .sign _ | .clamp _ | .sel _ | .sqr _ | .convert _
  | .norm _ | .invroot _ | .updEnd _ | .carryRecordPoll _ _ | .stepRegionHaul _ | .stepRegionCut _ | .completionRecord _ | .msixMessage _
  | .contextResident _ | .bightQuantumExpiry _ | .perstNAssert | .perstNDeassert | .hotReset | .linkUp _ | .lockLost _ | .dataFrame _ | .slowFrame _
  | .abortFrame _ | .ackFrame _ | .openFrame _ | .mgmtFrame _ | .scrubRead _ | .thermalReading _ _ | .thermalWindowEnd _ | .powerSample _ _
  | .powerWindowEnd | .lowInput | .shutdown _ | .overtempShutdown | .boot | .watchdogExpiry | .regionKeyingComplete _ | .regionClearingComplete _
  | .evictionTimeout _ | .hostLinkRetrain _ | .v56InReturn => true

end Sys2Proof
end

