-- ==== Sys2Proof/Tests/Slice0.lean ====
section
/-!
SUPPORT. Small tests. `test_…` checks one step, or one operation, against a value of the spec; `illformed_…` checks that WellFormed refuses a
term; `witness_…` shows a state and operands that meet the hypotheses of a statement.
-/

namespace Sys2Proof.Tests

open Sys2Proof Sys2Proof.Machine

set_option maxRecDepth 100000
set_option exponentiation.threshold 600
set_option Elab.async false

/-! States for tests -/

/-- Little-endian fields (offset, size, value) in rising order of offset, from `pos` on, then zeros up to `n` bytes. -/
def fieldsFrom (n pos : Nat) (fs : List (Nat × Nat × Nat)) : Bytes :=
  match fs with
  | [] => List.replicate (n - pos) 0
  | f :: rest => List.replicate (f.1 - pos) 0 ++ leBytes f.2.1 f.2.2 ++ fieldsFrom n (f.1 + f.2.1) rest
def bytes (n : Nat) (fs : List (Nat × Nat × Nat)) : Bytes := fieldsFrom n 0 fs

/-- Partition 0, ACTIVE, on hanks 0 and 1, with an object of 4 granules in tier 1, one in tier 2 and one in the Splice window, and 2 owners. -/
def obj (space first n : Nat) : Obj :=
  { gen := 0, source := none, space := space, first := first, granules := n, owner := 0, live := true, grants := [], readOnly := false, shared := false, mirror := none, listed := false }
def config : Bytes := bytes 64 [(4, 10, 3), (0x10, 2, 8), (0x12, 1, 4), (0x13, 1, 2), (0x14, 4, 100), (0x18, 1, 1), (0x19, 1, 8), (0x1C, 4, 100)]
def policy : Bytes := bytes 0x220 [(8, 1, 2), (9, 1, 1), (0xA, 1, 0)]
def part0 : Partition :=
  { Partition.absent with state := .active, config := config, policy := policy, hanks := [0, 1], objs := [(0, obj 0 0 4), (1, obj 1 0 4), (2, obj 2 0 1)], objNext := 3 }

/-- Production, powered, every function READY, management address 9, the partition `P` and the context 1 of it. -/
def prodFuses : Fuses := { Fuses.blank with lc := Vector.replicate 4 wordProduction }
def upPlat : Plat := { Plat.dark with powered := true, perst := false, fns := functions.map (fun f => (f, ⟨.ready, false, 0⟩)) }
def ctx1 : Context := { Context.closed with opened := true, resident := true, hankMask := 3#80, compBase := 0x10000, area := [4] }
def ctx0 : Context := { Context.closed with opened := true, isBase := true, hankMask := 3#80, compBase := 0x20000, area := [5] }
def world (P : Partition) (c : Context) (g : Sys → Sys) : State :=
  { pending := [], fuses := prodFuses
    sys := g { Sys.cold with dict := { Dict.empty with vals := [(dictKey 0x1100 2, 9)] }, plat := upPlat, parts := Sys.cold.parts.set 0 P, ctxs := [(0, ctx0), (1, c)], useNext := 1 } }

/-- Bight 0 runs a RUN of context 1 with its descriptor at locker address 0. -/
def runRef : RunRef := { ctx := 1, ring := 0, lay := 1, part := 0, rank := 0, prog := 0, size := 1048576, spec := false, home := 0 }
def running (a : BightArch) (g : Sys → Sys) : State :=
  world part0 ctx1 (fun y => g { y with bights := y.bights.set 0 { Bight.idle with arch := a, run := some runRef } })
def core (a : BightArch) : State := running a id
def bightWith (x : Bight) : State := world part0 ctx1 (fun y => { y with bights := y.bights.set 0 { x with run := some runRef } })
def withDesc (d : Bytes) : BightArch := { BightArch.zero with locker := Mem.empty.put 0 d }

/-! Operands -/

def sf (sd sa sb : BitVec 5) : ScalarF := ⟨0, sd, sa, sb, false, 0#32⟩
def sfi (sd sa : BitVec 5) (imm : BitVec 32) : ScalarF := ⟨0, sd, sa, 0#5, true, imm⟩
def cf (cond : BitVec 4) (imm : BitVec 32) : ControlF := ⟨0, 1#5, 2#5, cond, 0#8, imm⟩
def vf (vd va vb : BitVec 6) (type : BitVec 2) : VectorF := ⟨0, vd, va, vb, 0#6, false, 0#5, false, 0#5, 0#4, false, type, false, 0#8⟩
def mf : MoverF := ⟨0, 0#5, false, 0#5, false, 0#5⟩
def slf (src : BitVec 2) : SlotF := ⟨0, 0, src, false, 0#5, false, 0#5, false, 0#5⟩
def regs (l : List (Nat × Word64)) : BightArch := { BightArch.zero with sregs := l.foldl (fun v e => v.setIfInBounds e.1 e.2) BightArch.zero.sregs }

/-- What a step leaves of Bight 0, read by `g`. -/
def after {α : Type} (o : Host.Outcome State Fault Refusal) (g : State → α) : Option α :=
  match o with
  | .next t => some (g t)
  | _ => none
def reg (r : BitVec 5) (t : State) : Word64 := (t.arch 0).s r

/-! Scalar and control instructions -/

theorem test_add_wraps : after (exec (.add (sfi 3#5 1#5 1#32)) (core (regs [(1, 0xFFFFFFFFFFFFFFFF#64)]))) (fun t => (reg 3#5 t, (t.arch 0).pc)) = some (0#64, 8#64) := by decide +kernel
theorem test_sub_imm_sign : after (exec (.sub (sfi 3#5 1#5 0xFFFFFFFF#32)) (core (regs [(1, 4#64)]))) (reg 3#5) = some 5#64 := by decide +kernel
theorem test_mulhu : after (exec (.mulhu (sf 3#5 1#5 1#5)) (core (regs [(1, 0x100000000#64)]))) (reg 3#5) = some 1#64 := by decide +kernel
theorem test_divu_zero : after (exec (.divu (sf 3#5 1#5 0#5)) (core (regs [(1, 7#64)]))) (fun t => (reg 3#5 t, (t.arch 0).halyard)) = some (0xFFFFFFFFFFFFFFFF#64, 4#16) := by decide +kernel
theorem test_rem_zero : after (exec (.rem (sf 3#5 1#5 0#5)) (core (regs [(1, 7#64)]))) (fun t => (reg 3#5 t, (t.arch 0).halyard)) = some (7#64, 4#16) := by decide +kernel
theorem test_div_overflow : after (exec (.div (sf 3#5 1#5 2#5)) (core (regs [(1, 0x8000000000000000#64), (2, 0xFFFFFFFFFFFFFFFF#64)])))
    (fun t => (reg 3#5 t, (t.arch 0).halyard)) = some (0x8000000000000000#64, 0#16) := by decide +kernel
theorem test_rem_sign : after (exec (.rem (sf 3#5 1#5 2#5)) (core (regs [(1, 0xFFFFFFFFFFFFFFF9#64), (2, 2#64)]))) (reg 3#5) = some 0xFFFFFFFFFFFFFFFF#64 := by decide +kernel
theorem test_shl_mod : after (exec (.shl (sfi 3#5 1#5 65#32)) (core (regs [(1, 3#64)]))) (reg 3#5) = some 6#64 := by decide +kernel
theorem test_sra : after (exec (.sra (sfi 3#5 1#5 4#32)) (core (regs [(1, 0x8000000000000000#64)]))) (reg 3#5) = some 0xF800000000000000#64 := by decide +kernel
theorem test_slt_sltu : after (exec (.slt (sf 3#5 1#5 0#5)) (core (regs [(1, 0xFFFFFFFFFFFFFFFF#64)]))) (reg 3#5) = some 1#64
    ∧ after (exec (.sltu (sf 3#5 1#5 0#5)) (core (regs [(1, 0xFFFFFFFFFFFFFFFF#64)]))) (reg 3#5) = some 0#64 := by decide +kernel
theorem test_movhi : after (exec (.movhi (sfi 3#5 1#5 0x12345678#32)) (core (regs [(1, 0xFFFFFFFF9ABCDEF0#64)]))) (reg 3#5) = some 0x123456789ABCDEF0#64 := by decide +kernel
theorem test_s0_discards : after (exec (.add (sfi 0#5 0#5 5#32)) (core BightArch.zero)) (reg 0#5) = some 0#64 := by decide +kernel
theorem test_fadd_high_zero : after (exec (.fadd (sf 3#5 1#5 1#5)) (core (regs [(1, 0xFFFFFFFF3F800000#64), (3, 0xFFFFFFFFFFFFFFFF#64)]))) (reg 3#5) = some 0x40000000#64 := by decide +kernel
theorem test_fcvti_ties : after (exec (.fcvti (sf 3#5 1#5 0#5)) (core (regs [(1, 0xC0200000#64)]))) (reg 3#5) = some 0xFFFFFFFFFFFFFFFE#64 := by decide +kernel
theorem test_st_ld : after (exec (.st ⟨0, 0#5, 0#5, 1#5, false, 13#32⟩) (core (regs [(1, 0x0807060504030201#64)]))) (fun t => ((t.arch 0).locker.byte 8, (t.arch 0).locker.byte 15, (t.arch 0).locker.byte 16))
    = some (1#8, 8#8, 0#8) := by decide +kernel
theorem test_ld : after (exec (.ld (sfi 3#5 0#5 12#32)) (core { BightArch.zero with locker := Mem.empty.put 8 [1, 2, 0, 0, 0, 0, 0, 0x80] })) (reg 3#5) = some 0x8000000000000201#64 := by decide +kernel
theorem test_br_lt : after (exec (.br (cf 3#4 0xFFFFFFFE#32)) (core { regs [(1, 0xFFFFFFFFFFFFFFFF#64)] with pc := 64#64 })) (fun t => (t.arch 0).pc) = some 48#64 := by decide +kernel
theorem test_br_bltu : after (exec (.br (cf 5#4 0xFFFFFFFE#32)) (core { regs [(1, 0xFFFFFFFFFFFFFFFF#64)] with pc := 64#64 })) (fun t => (t.arch 0).pc) = some 72#64 := by decide +kernel
theorem test_br_reserved : after (exec (.br (cf 9#4 4#32)) (core BightArch.zero)) (fun t => ((t.arch 0).pc, (t.arch 0).halyard)) = some (8#64, 1#16) := by decide +kernel
theorem test_jal : after (exec (.jal (cf 0#4 4#32)) (core BightArch.zero)) (fun t => ((t.arch 0).pc, reg 1#5 t)) = some (32#64, 8#64) := by decide +kernel
theorem test_jr_aligns : after (exec (.jr (cf 0#4 0#32)) (core (regs [(1, 0x47#64)]))) (fun t => (t.arch 0).pc) = some 0x40#64 := by decide +kernel
theorem test_sum_underflow : after (exec (.sumPop (cf 0#4 0#32)) (core (regs [(1, 5#64)]))) (fun t => (reg 1#5 t, reg 2#5 t, (t.arch 0).halyard)) = some (0#64, 0x80#64, 8#16) := by decide +kernel
theorem test_reserved_matrix : after (exec (.reservedOpcode 0 0x2F00000000000000#64) (core BightArch.zero)) (fun t => (t.arch 0).lay) = some 0x10#16 := by decide +kernel
theorem test_hitch_waits : after (exec (.hitchWait (cf 0#4 3#32)) (core BightArch.zero)) (fun t => ((t.arch 0).pc, t.sys.waiting.length)) = some (0#64, 1) := by decide +kernel

theorem witness_coreReady : CoreReady (core BightArch.zero) 0 := by unfold CoreReady; decide +kernel
theorem witness_scalarDivision : CoreReady (core (regs [(1, 0x8000000000000000#64), (2, 0xFFFFFFFFFFFFFFFF#64)])) 0
    ∧ (core BightArch.zero).operand (sf 3#5 1#5 0#5) = 0#64
    ∧ (core (regs [(1, 0x8000000000000000#64), (2, 0xFFFFFFFFFFFFFFFF#64)])).operand (sf 3#5 1#5 2#5) = BitVec.ofInt 64 (-1)
    ∧ ((core (regs [(1, 0x8000000000000000#64), (2, 0xFFFFFFFFFFFFFFFF#64)])).arch 0).s 1#5 = 0x8000000000000000#64 := by unfold CoreReady; decide +kernel
def markedLocker : BightArch := { BightArch.zero with locker := ⟨[], [(0, .poisoned)]⟩ }
theorem witness_scalarMemory : CoreReady (core markedLocker) 0 ∧ (core markedLocker).sys.hazard 0 0 0 { Foot.none with rd := [(0, 8)] } = false
    ∧ (core markedLocker).sys.hazard 0 0 0 { Foot.none with wr := [(0xFFFFF8, 8)] } = false
    ∧ (markedLocker.locker.mark 0).isBad = true ∧ (markedLocker.locker.mark 1).isBad = false ∧ ((core markedLocker).sys.bight 0).region = none
    ∧ (core markedLocker).sys.sigmaOf 0 = none := by unfold CoreReady; decide +kernel
theorem witness_controlFlow : CoreReady (core BightArch.zero) 0 ∧ (cf 8#4 0#32).cond = 8#4 ∧ 9 ≤ (cf 9#4 0#32).cond.toNat := by unfold CoreReady; decide +kernel
def hotHitch : BightArch := { BightArch.zero with hitches := 1#32 }
theorem witness_hitches : CoreReady (core hotHitch) 0 ∧ hotHitch.hitches.getLsbD 31 = false ∧ hotHitch.hitches.getLsbD 0 = true
    ∧ (∀ g ∈ (core hotHitch).sys.waiting, g.bight = some 0 → g.waitH ≠ some 0#5) := by unfold CoreReady; decide +kernel
def oneEntry (filled bound : Bool) : BightArch := { BightArch.zero with fifo := [⟨0, filled, 5#64, 2#8, bound⟩], fifoNext := 1 }
theorem witness_summary : CoreReady (core (oneEntry true false)) 0 ∧ CoreReady (core (oneEntry false false)) 0 ∧ CoreReady (core (oneEntry true true)) 0
    ∧ (oneEntry true false).fifo = [] ++ ⟨0, true, 5#64, 2#8, false⟩ :: [] ∧ (∀ d ∈ (oneEntry true true).fifo, d.bound = true)
    ∧ (core BightArch.zero).sys.replay = none ∧ (core BightArch.zero).sys.waiting = [] ∧ BightArch.zero.fifo.length < 32
    ∧ (∀ e ∈ (oneEntry true false).fifo, e.id < (oneEntry true false).fifoNext) ∧ ((core BightArch.zero).sys.bight 0).drains = []
    ∧ BightArch.zero.hitchSets = [] ∧ (core BightArch.zero).sys.sigmaOf 0 = none := by unfold CoreReady; decide +kernel

/-- An open region bound to entry 0, of flags 2. -/
def region (mask expect : Byte) : Region :=
  { bound := 0, cond := 0#4, mask := mask, expect := expect, ra := 0#64, rb := 2#5, resume := 64#64, snap := oneEntry true true, savedV := [], savedS := [], savedG := []
    items := [], first := 1 }
def inRegion (g : Region) (a : BightArch) : State := bightWith { Bight.idle with arch := a, region := some g, nextSeq := 1 }
theorem witness_slackOpens : CoreReady (core (oneEntry true false)) 0 ∧ ((core (oneEntry true false)).sys.bight 0).region = none ∧ 7 ≤ (cf 7#4 0#32).cond.toNat
    ∧ (cf 6#4 0#32).cond.toNat < 7 ∧ (∀ d ∈ (oneEntry true true).fifo, d.bound = true) ∧ (oneEntry true false).fifo = [] ++ ⟨0, true, 5#64, 2#8, false⟩ :: []
    ∧ CoreReady (core (oneEntry false false)) 0 ∧ (oneEntry false false).fifo = [] ++ ⟨0, false, 5#64, 2#8, false⟩ :: [] ∧ ((core (oneEntry false false)).sys.bight 0).region = none
    ∧ (core (oneEntry true false)).sys.waiting = [] ∧ (core (oneEntry true false)).sys.sigmaOf 0 = none ∧ (core (oneEntry false false)).sys.sigmaOf 0 = none
    ∧ CoreReady (inRegion (region 0xFF#8 2#8) (oneEntry true true)) 0
    ∧ ((inRegion (region 0xFF#8 2#8) (oneEntry true true)).sys.bight 0).region.isSome = true := by unfold CoreReady; decide +kernel
theorem witness_slackResolves : CoreReady (inRegion (region 0xFF#8 0#8) (oneEntry true true)) 0
    ∧ (∃ e ∈ ((inRegion (region 0xFF#8 0#8) (oneEntry true true)).arch 0).fifo, e.id = 0 ∧ e.filled = true ∧ e.flags &&& 0xFF#8 ≠ 0#8 ∧ e.flags &&& 0xFF#8 = 2#8)
    ∧ (region 0xFF#8 2#8).items = [] ∧ (region 0xFF#8 2#8).cond = 0#4 ∧ (inRegion (region 0xFF#8 2#8) (oneEntry true true)).sys.sigmaOf 0 = none := by unfold CoreReady; decide +kernel
theorem test_slack_cut : after (exec (.slackRegionCut 0) (inRegion (region 0xFF#8 0#8) (oneEntry true true))) (fun t => ((t.arch 0).pc, reg 2#5 t, (t.arch 0).fifo, ((t.sys.bight 0).region).isSome))
    = some (64#64, 2#64, [], false) := by decide +kernel
theorem test_slack_haul : after (exec (.slackRegionHaul 0) (inRegion (region 0xFF#8 2#8) (oneEntry true true))) (fun t => ((t.arch 0).pc, reg 2#5 t, (t.arch 0).fifo, ((t.sys.bight 0).region).isSome))
    = some (0#64, 2#64, [], false) := by decide +kernel

/-- A context that awaits a RUN on Bights 0 and, when `more`, 1. -/
def runCmd (more : Bool) : Cmd :=
  { lay := 1, ring := 0, payload := bytes 96 [(0, 1, 0x30)], irq := false, plain := true, batch := 0, refs := [], progress := .run [] (if more then [0, 1] else [0]) 0#64 [] false }
def ctxWith (ks : List Cmd) : Context := { ctx1 with rings := ctx1.rings.set 0 { Ring.empty with cmds := ks, expect := 2 } }
def runWorld (more : Bool) : State :=
  world part0 (ctxWith [runCmd more]) (fun y => { y with bights := y.bights.set 0 { Bight.idle with run := some runRef }, mem := { y.mem with data := y.mem.data } })
theorem runWorld_none (more : Bool) (c : Nat) : (runWorld more).sys.readyRun c 0 = none ∧ (c ≠ 1 → ((runWorld more).sys.savedBight c 0).run = none) := by
  refine ⟨?_, fun _ => rfl⟩
  by_cases h0 : c = 0
  · subst h0; cases more <;> decide +kernel
  · by_cases h1 : c = 1
    · subst h1; cases more <;> decide +kernel
    · have : (runWorld more).sys.ctx c = Context.closed := by
        have e : (runWorld more).sys.ctxs = [(0, ctx0), (1, ctxWith [runCmd more])] := rfl
        simp [Sys.ctx, SMap.get, e, Ne.symm h0, Ne.symm h1]
      simp [Sys.readyRun, this, Context.cmds, Context.closed, Ring.empty]
theorem witness_halts : CoreReady (core BightArch.zero) 0 ∧ CoreReady (runWorld true) 0 ∧ CoreReady (runWorld false) 0
    ∧ ((runWorld true).sys.bight 0).run = some runRef ∧ (runWorld true).sys.cmdAt 1 0 1 = some (runCmd true) ∧ (runWorld false).sys.cmdAt 1 0 1 = some (runCmd false)
    ∧ (runWorld false).sys.inSigma 1 (runCmd false) = false ∧ (runCmd false).ending = none ∧ (runCmd true).ending = none ∧ State.reset.sys.runs 0 = false ∧ State.reset.sys.replay = none := by unfold CoreReady; decide +kernel
theorem test_nothing_runs : after (exec (.add (sfi 3#5 1#5 1#32)) State.reset) id = some State.reset := by decide +kernel
theorem test_halt_completes : after (exec (.halt (cf 0#4 0#32)) (runWorld false)) (fun t => ((t.sys.ctx 1).outbox.map (fun r => (r.lay, r.status)), (t.sys.bight 0).run.isSome)) = some ([(1, 0)], false) := by decide +kernel

theorem witness_queueReady : QueueReady (core hotHitch) 0 ∧ HitchReady (core hotHitch) 0 true 0#5 ∧ HitchReady (core hotHitch) 0 false 5#5 := by
  unfold QueueReady CoreReady HitchReady; decide
/-! Vector instructions -/

/-- Predicate 1 selects lane 0 alone; lane 0 of v1 is 1.0. -/
def vec : BightArch := { BightArch.zero with pregs := BightArch.zero.pregs.set 1 1#512, vregs := [(512, ⟨0x3F800000#32, .clean⟩)] }
def lane0 (r : Nat) (t : State) : Word32 := ((t.arch 0).lane r 0).val
def p1 (f : VectorF) : VectorF := { f with pred := 1#4 }

theorem test_vadd_masked : after (exec (.vadd (p1 (vf 2#6 1#6 1#6 0#2))) (core vec)) (fun t => (lane0 2 t, ((t.arch 0).lane 2 1).val)) = some (0x40000000#32, 0#32) := by decide +kernel
theorem test_exp2_zero : fpExp2 0#32 = 0x3F800000#32 := by decide +kernel
theorem test_int_to_fp : intToFp 0x01000001#32 = 0x4B800000#32 := by decide +kernel
theorem test_prange : after (exec (.prange (vf 2#6 1#6 2#6 0#2)) (core { vec with sregs := (vec.sregs.set 1 3#64).set 2 5#64 })) (fun t => (t.arch 0).pregs[2]) = some 0x18#512 := by decide +kernel
theorem test_p0_discards : after (exec (.prange (vf 0#6 1#6 2#6 0#2)) (core { vec with sregs := vec.sregs.set 2 5#64 })) (fun t => ((t.arch 0).p 0#4, (t.arch 0).pregs[0])) = some (BitVec.allOnes 512, 0#512) := by decide +kernel
theorem test_vemit_nan : after (exec (.vemit (vf 0#6 1#6 0#6 0#2)) (core { vec with vregs := [(512, ⟨0x7FC00000#32, .clean⟩)] })) (fun t => (t.arch 0).fifo) = some [⟨0, true, 0x7FC00000#64, 1#8, false⟩] := by decide +kernel
theorem test_vred_count_empty : after (exec (.vred { vf 2#6 1#6 0#6 0#2 with vc := 7#6, pred := 2#4, aux := 0x80#8 }) (core vec)) (fun t => ((t.arch 0).fifo, lane0 2 t)) = some ([⟨0, true, 0#64, 0x10#8, false⟩], 0#32) := by decide +kernel

theorem vec_lane (r l : Nat) : (((core BightArch.zero).atIssue 0 false 0#5).lane r l).mark = .clean := rfl
theorem witness_vectorScanConvert : QueueReady (core BightArch.zero) 0 ∧ (vf 2#6 1#6 0#6 0#2).type ≠ 3#2 ∧ 3 ≤ (3#6).toNat
    ∧ ¬ lanePoison (vf 2#6 1#6 0#6 0#2) ((core BightArch.zero).atIssue 0 false 0#5) (fun l => ((core BightArch.zero).atIssue 0 false 0#5).lane 1 l) := by
  refine ⟨by unfold QueueReady CoreReady; decide, by decide +kernel, by decide, ?_⟩
  rintro ⟨l, _, _, h⟩
  exact absurd h (by simp [vec_lane, Mark.isBad])
theorem witness_vectorReduce : QueueReady (core vec) 0 ∧ (∀ e ∈ vec.fifo, e.id ≠ vec.fifoNext) ∧ vec.fifo.length < 32 ∧ redKind (0 % 16) = some .sum
    ∧ (∀ j l : Nat, j < 1 → l < 512 → (BightArch.zero.lane (3 + j) l).mark = .clean)
    ∧ (let r := reduceVal .max 0#2 1 (fun j l => if laneOn (p1 (vf 2#6 1#6 0#6 0#2)) ((core vec).atIssue 0 false 0#5) l then some (((core vec).atIssue 0 false 0#5).lane (1 + j) l).val else none)
       r.2 = false ∧ fpIsNaN r.1 = false ∧ fpIsInf r.1 = false) := by
  refine ⟨by unfold QueueReady CoreReady; decide, by decide +kernel, by decide, by decide, fun _ _ _ _ => rfl, by decide⟩
theorem witness_vectorEmit : (core vec).sys.replay = none ∧ QueueReady (core vec) 0 ∧ ((core vec).arch 0).fifo.length < 32
    ∧ (∀ e ∈ ((core vec).arch 0).fifo, e.id ≠ ((core vec).arch 0).fifoNext) ∧ (vf 0#6 0#6 0#6 3#2).type = 3#2 := by unfold QueueReady CoreReady; decide
theorem witness_vectorLocker : QueueReady (core (regs [(1, 0xFFF800#64), (2, 0xFFF900#64)])) 0 ∧ (((core (regs [(1, 0xFFF800#64)])).arch 0).s 1#5).toNat / 256 % 65536 * 256 + 2048 ≤ 2 ^ 24
    ∧ 2 ^ 24 < (((core (regs [(2, 0xFFF900#64)])).arch 0).s 2#5).toNat / 256 % 65536 * 256 + 2048
    ∧ 0 + fmtRecord .fp32 ≤ 2 ^ 24 ∧ 2 ^ 24 < 0xFFF800 + fmtRecord .fp32 ∧ BightArch.zero.slots[(0 : Fin 8)].state = .free := by unfold QueueReady CoreReady; decide

/-! Matrix instructions -/

def mma (pair : BitVec 5) (g : BitVec 2) : MmaF := ⟨0, 0, pair, g, false, false, 0#3, 0#3, 1#5, 2#5, false, 0#5, false, 0#5⟩
def openSlot : BightArch := { BightArch.zero with slots := BightArch.zero.slots.set 0 (Slot.zero false) }
theorem test_mma_reserved : after (exec (.layMma (mma 22#5 0#2)) (core BightArch.zero)) (fun t => ((t.arch 0).lay, (t.arch 0).slots[(0 : Fin 8)].state)) = some (0x10#16, .free) := by decide +kernel
theorem test_mma_type_mismatch : after (exec (.layMma (mma 16#5 0#2)) (core openSlot)) (fun t => (t.arch 0).lay) = some 0x80#16 := by decide +kernel
theorem test_lay_open_reopened : after (exec (.layOpen (slf 0#2)) (core openSlot)) (fun t => (t.arch 0).lay) = some 0x40#16 := by decide +kernel
theorem test_drain_free : after (exec (.layDrain (slf 0#2)) (core BightArch.zero)) (fun t => ((t.arch 0).lay, (t.sys.bight 0).drains.length)) = some (0x20#16, 0) := by decide +kernel
theorem witness_matrixMultiply : QueueReady (core openSlot) 0 ∧ openSlot.slots[(0 : Fin 8)].state ≠ .draining ∧ pairFmts 16 = some (.int8, .int8) ∧ pairFmts 0 = some (.e2m1, .e2m1)
    ∧ (mma 0#5 2#2).g ≠ 3#2 ∧ (mma 0#5 0#2).kFirst.toNat ≤ (mma 0#5 0#2).kLast.toNat ∧ 22 ≤ (mma 22#5 0#2).pair.toNat
    ∧ openSlot.slots[(0 : Fin 8)].state = .opened ∧ openSlot.slots[(0 : Fin 8)].int = false ∧ BightArch.zero.slots[(0 : Fin 8)].state = .free
    ∧ 2 ^ 24 < 0xFFFF00 + fmtRecord .int8 ∧ 0 + fmtRecord .int8 ≤ 2 ^ 24 ∧ (∀ e ∈ openSlot.locker.marks, e.2 = .clean)
    ∧ (∀ e ∈ openSlot.slots[(0 : Fin 8)].cells, e.2.mark = .clean) := by unfold QueueReady CoreReady; decide
theorem witness_matrixSlots : QueueReady (core openSlot) 0 ∧ QueueReady (core BightArch.zero) 0 ∧ openSlot.slots[(0 : Fin 8)].state = .opened ∧ BightArch.zero.slots[(0 : Fin 8)].state = .free
    ∧ 2 ≤ (slf 2#2).src.toNat ∧ (slf 1#2).src = 1#2 ∧ 0 + 65536 ≤ 2 ^ 24 ∧ 2 ^ 24 < 0xFF0100 + 65536 ∧ (∀ e ∈ BightArch.zero.locker.marks, e.2 = .clean) := by
  unfold QueueReady CoreReady; decide

/-- Slot 0 waits for the drain pipeline: a spill, or a drain to FP32 at 0x100 with a bias of columns. -/
def drainItem (spill : Bool) (addr : Nat) : DrainItem :=
  { seq := 0, slot := 0, spill := spill, addr := addr, desc := bytes 128 [(2, 1, 7), (5, 1, 0x21), (8, 4, 0x3F800000), (0x20, 8, 0x100)], descMark := .clean, setH := none }
def draining (d : DrainItem) : State :=
  bightWith { Bight.idle with arch := { BightArch.zero with slots := BightArch.zero.slots.set 0 { Slot.zero false with state := .draining } }, drains := [d] }
theorem witness_drainPipeline : ((draining (drainItem true 0)).sys.bight 0).drains = drainItem true 0 :: [] ∧ ((draining (drainItem true 0)).sys.bight 0).region = none
    ∧ (draining (drainItem true 0)).sys.sigmaOf 0 = none ∧ ((draining (drainItem true 0)).sys.bight 0).ending = false ∧ ((core BightArch.zero).sys.bight 0).ending = false ∧ (drainItem true 0xFF0000).addr + 65536 ≤ 2 ^ 24 ∧ 2 ^ 24 < (drainItem true 0xFF0100).addr + 65536
    ∧ ((core BightArch.zero).sys.bight 0).drains = [] ∧ (core BightArch.zero).sys.waiting = []
    ∧ (let d := drainItem false 0
       d.spill = false ∧ d.descMark = .clean ∧ d.desc.length = 128 ∧ d.addr + 128 ≤ 2 ^ 24 ∧ ((draining d).arch 0).slots[(0 : Fin 8)].int = false
       ∧ fieldN d.desc 0 1 < 0x0A ∧ fieldN d.desc 1 1 = 0 ∧ fieldN d.desc 2 1 < 8 ∧ fieldN d.desc 3 1 < 3 ∧ fieldN d.desc 4 1 < 8 ∧ fieldN d.desc 6 1 < 8
       ∧ fieldN d.desc 5 1 = 0x21 ∧ fieldN d.desc 0x20 8 / 256 % 65536 * 256 + fmtRecord ((Fmt.ofCode (fieldN d.desc 2 1)).getD .fp32) ≤ 2 ^ 24
       ∧ fieldN d.desc 0x18 8 / 256 % 65536 * 256 + 512 ≤ 2 ^ 24 ∧ (∀ e ∈ ((draining d).arch 0).locker.marks, e.2 = .clean)
       ∧ ∀ e ∈ ((draining d).arch 0).slots[(0 : Fin 8)].cells, e.2.mark = .clean) := by decide +kernel

/-! The Fairlead mover -/

/-- LINE_BYTES, LINES, locker addresses 0x200 and 0x600, memory address `a`, a line of 256 bytes, two lines. -/
def moveDesc (a : Nat) : Bytes := bytes 64 [(0, 8, a), (8, 8, 256), (0x10, 4, 0x200), (0x14, 4, 0x600), (0x18, 4, 256), (0x1C, 4, 2), (0x20, 4, 256), (0x24, 1, 1), (0x25, 1, 3)]
def mover (a : Nat) : State := running (withDesc (moveDesc a)) id
/-- Where no region has a state of its own, nothing fails a check. -/
theorem sound_of_none {s : Sys} (h : s.mem.regions = []) : s.memSound := by
  intro t _ b _
  simp [Sys.region, h, SMap.get, Seize.empty]
theorem test_mov_load_bad : after (exec (.movLoad mf) (running (withDesc (bytes 64 [(0x18, 4, 255), (0x1C, 4, 1)])) id)) (fun t => (t.arch 0).fairlead) = some 0x10#16 := by decide +kernel
theorem witness_moverLoadCopy : QueueReady (mover 0) 0 ∧ (mover 0).sys.runPart 0 = some 0 ∧ (withDesc (moveDesc 0)).locker.read 0 64 = moveDesc 0
    ∧ (∀ e ∈ (withDesc (moveDesc 0)).locker.marks, e.2 = .clean) ∧ (mover 0).sys.moveCheck 0 (moveDesc 0) true false false false = none ∧ addrSpace (mdAddr (moveDesc 0)) ≠ 3
    ∧ (∀ l < mdLines (moveDesc 0), ((mover 0).sys.readPart 0 (mdLine (moveDesc 0) l) (mdBytes (moveDesc 0))).bad = [])
    ∧ mdLengths (bytes 64 [(0x18, 4, 255), (0x1C, 4, 1)]) = false ∧ (mover 0).sys.moveCheck 0 (moveDesc 0) false false true false = none := by unfold QueueReady CoreReady; decide
theorem witness_moverStore : (mover 0x1FFE00).sys.moveCheck 0 (moveDesc 0x1FFE00) false true false false = none
    ∧ (mover 0x1FFE00).sys.rangesWait 0 (mdMemRanges (moveDesc 0x1FFE00)) = false ∧ (mover 0x1FFE00).sys.mem.regions = []
    ∧ ∀ l < mdLines (moveDesc 0x1FFE00), (part0).place (mdLine (moveDesc 0x1FFE00) l) = some (physKey 0 0 (0x1FFE00 + 256 * l)) ∧ keyKind (physKey 0 0 (0x1FFE00 + 256 * l)) ≠ 1
        ∧ mdBytes (moveDesc 0x1FFE00) ≤ chunkRoom part0 (mdLine (moveDesc 0x1FFE00) l) := by decide +kernel
def flowDesc (kind : Nat) : Bytes := bytes 64 [(0, 4, 5), (4, 1, kind), (5, 1, 1), (8, 4, 0x200), (0xC, 4, 256), (0x10, 4, 1), (0x14, 4, 9)]
def flowOf (role : Nat) : Flow := { Flow.empty with state := .open, role := role, target := 0, slots := 4, slotBytes := 4096, msg := 3 }
def outcome : Outcome := { coll := 9, status := 0, value := 7, flags := 1, element := 7 }
def flows (role kind : Nat) : State :=
  running (withDesc (flowDesc kind)) (fun y => { y with fab := { y.fab with flows := [(5, flowOf role)] }, parts := y.parts.set 0 { part0 with outcomes := [outcome] } })
theorem witness_moverSendFlows : (mover 0).sys.moveCheck 0 (moveDesc 0) false false true true = none ∧ mdDest (moveDesc 0) = 1
    ∧ (running (withDesc (moveDesc 0)) (fun y => { y with bights := y.bights.set 1 { Bight.idle with run := some runRef } })).sys.liveOn 1 1 = true ∧ ((mover 0).sys.part 0).sigma = none
    ∧ QueueReady (flows 0 0) 0 ∧ (flowDesc 0).length = 64 ∧ fieldN (flowDesc 0) 4 1 = 0 ∧ (flows 0 0).sys.flowCheck 0 (flowDesc 0) = none ∧ 0 < (flows 0 0).sys.portPayload 0
    ∧ fieldN (flowDesc 1) 4 1 = 1 ∧ (flows 1 1).sys.flowCheck 0 (flowDesc 1) = none ∧ fieldN (flowDesc 2) 4 1 = 2 ∧ (flows 0 2).sys.collOf 0 9 = none
    ∧ ((flows 0 2).sys.part 0).outcomes.find? (fun o => o.coll == 9) = some outcome := by unfold QueueReady CoreReady; decide
theorem test_release : after (exec (.release mf) (flows 1 1)) (fun t => ((t.sys.flow 5).credit, (t.arch 0).fifo)) = some (1, [⟨0, true, 1#64, 0#8, false⟩]) := by decide +kernel
theorem test_coll_wait : after (exec (.collWait mf) (flows 0 2)) (fun t => (t.arch 0).fifo) = some [⟨0, true, 7#64, 1#8, false⟩] := by decide +kernel
/-- An import of 1 x 1 BF16 elements to INT8 with scales at 0x1000. -/
def importDesc : Bytes := bytes 64 [(0, 8, 0), (8, 8, 256), (0x10, 4, 0x200), (0x26, 1, 4), (0x27, 1, 0), (0x2C, 4, 1), (0x30, 4, 1), (0x38, 8, 0x1000)]
theorem witness_moverImport : (running (withDesc importDesc) id).sys.importCheck 0 importDesc = none ∧ (mdSrcFmt importDesc).isSome = true ∧ (mdDstFmt importDesc).isSome = true
    ∧ ((running (withDesc importDesc) id).sys.importSrc 0 ((running (withDesc importDesc) id).sys.bight 0).nextSeq 0 importDesc ((mdSrcFmt importDesc).getD .int8)).scales.blob.bad = []
    ∧ ∀ x ∈ ((running (withDesc importDesc) id).sys.importSrc 0 ((running (withDesc importDesc) id).sys.bight 0).nextSeq 0 importDesc ((mdSrcFmt importDesc).getD .int8)).rows, x.blob.bad = [] := by decide +kernel
/-- An atomic on the last 8 bytes of a window. -/
def atom (size : Nat) : AtomicF := { b := 0, size := size, target := 0x20000000007FFFF8#64, operand := 5#64, compare := 0#64, place := 0x20#24, respond := true }
theorem witness_atomics : (mover 0).sys.runs 0 = true ∧ ((mover 0).sys.bight 0).region = none ∧ (mover 0).sys.sigmaOf 0 = none ∧ (mover 0).sys.runPart 0 = some 0 ∧ (atom 8).target.toNat % 8 = 0
    ∧ addrSpace (atom 8).target.toNat = 2 ∧ (part0.place (atom 8).target.toNat).isSome = true ∧ 8 ≤ chunkRoom part0 (atom 8).target.toNat ∧ part0.touchesReadOnly (atom 8).target.toNat 8 = false ∧ (atom 8).place.toNat % 32 = 0
    ∧ (∀ e ∈ ((mover 0).arch 0).locker.marks, e.2 = .clean) ∧ (∀ e ∈ (mover 0).sys.mem.data.marks, e.2 = .clean) := by decide +kernel
theorem test_atomic_cas_miss : after (exec (.cas { atom 4 with compare := 1#64 }) (mover 0)) (fun t => (t.arch 0).locker.byte 0x22) = some 5#8 := by decide +kernel

/-! The update engines -/

def upd (d a : BitVec 6) : UpdF := ⟨0, 0, d, a, 0x39#6, 0x38#6⟩
theorem test_upd_add_one : after (exec (.updAdd (upd 2#6 0x39#6)) State.reset) (fun t => ((t.sys.cleat 0 0).regs.get Lane.zero 512).val) = some 0x40000000#32 := by decide +kernel
theorem test_upd_sel : after (exec (.sel (upd 2#6 0x39#6)) State.reset) (fun t => ((t.sys.cleat 0 0).regs.get Lane.zero 512).val) = some 0x3F800000#32 := by decide +kernel
theorem witness_updateArithmetic : (upd 0x1F#6 0x39#6).d.toNat < 0x20 ∧ (upd 0#6 0x39#6).a.toNat < 0x3A ∧ (State.reset.sys.cleat 0 0).ended = false ∧ ¬ (upd 0x20#6 0#6).d.toNat < 0x20 := by decide +kernel
def oneStore : Cleat := { Cleat.blank with stored := [1] }
theorem witness_updateBlock : (State.reset.sys.cleat 0 0).ended = false ∧ udInvN (State.reset.sys.cleat 0 0).desc ≤ 16 ∧ (State.reset.sys.cleat 0 0).conv = false
    ∧ udTwoSided (State.reset.sys.cleat 0 0).desc = false ∧ (State.reset.sys.cleat 0 0).stored = [] ∧ oneStore.stored = [1] ∧ oneStore.ended = false ∧ oneStore.stores = [] ∧ State.reset.sys.mem.regions = []
    ∧ ∀ n, ((State.reset.sys.cleat 0 0).operand 0x39 n).mark = .clean := ⟨by decide +kernel, by decide, by decide, by decide, by decide, by decide, by decide, by decide, rfl, fun _ => rfl⟩

/-! Host commands -/

/-- Command `op` with lay count 1 at the head of ring 0 of context 1; its context holds the session of owner 0. -/
def hcmd (op : Nat) (fs : List (Nat × Nat × Nat)) : Cmd :=
  { lay := 1, ring := 0, payload := bytes 96 ((0, 1, op) :: fs), irq := false, plain := false, batch := 0, refs := [], progress := .waiting }
def key : CmdKey := ⟨1, 0, 1⟩
def ses : Session := { owner := 0, pk := [], kSess := 0#256, openings := 1, epoch := 0, ctx0 := 0 }
def owned (ks : List Cmd) : Context := { ctxWith ks with owner := some 0 }
def withSes (P : Partition) : Partition := { P with sessions := [ses] }
def host (P : Partition) (k : Cmd) : State := world (withSes P) (owned [k]) id
/-- The hypotheses that `CmdReady` collects, as a check. -/
def rdy (i : Instr) (s : State) (k : Cmd) (op : Nat) : Bool :=
  decide (s.sys.cmdOf key = some k) && k.opcode == op && decide (k.progress = .waiting) && k.ring == key.ring.val && k.lay == key.lay && s.sys.replay.isNone
    && s.sys.waiting.all (fun h => h.cmd != i) && !(s.sys.ctx key.ctx.val).batchCut k && !s.sys.inSigma key.ctx.val k
    && s.sys.mayBegin key.ctx.val k (fun e => s.sys.cmdExtra (s.sys.ctx key.ctx.val).part e) && decide (s.sys.firstCheck (s.sys.ctx key.ctx.val).part k = none)
theorem of_rdy {i : Instr} {s : State} {k : Cmd} {op : Nat} (h : rdy i s k op = true) : CmdReady i s key k op := by
  simp only [rdy, Bool.and_eq_true, decide_eq_true_eq, beq_iff_eq, Option.isNone_iff_eq_none, List.all_eq_true, bne_iff_ne, Bool.not_eq_true'] at h
  obtain ⟨⟨⟨⟨⟨⟨⟨⟨⟨⟨h1, h2⟩, h3⟩, h4⟩, h5⟩, h6⟩, h7⟩, h8⟩, h9⟩, h10⟩, h11⟩ := h
  exact ⟨h1, h2, h3, h4, h5, h6, h7, h8, h9, h10, h11⟩
def begun (P : Partition) (k : Cmd) : Sys := (host P k).sys.begun key k
/-- Status and result of the last record of context 1. -/
def lastDone (t : State) : Option (Nat × Bytes) := ((t.sys.ctx 1).outbox.getLast?).map (fun r => (r.status, r.result.take 4))

def kOpen : Cmd := hcmd 0x01 [(8, 10, 3), (0x12, 2, 0xFFFF), (0x14, 4, 64), (0x18, 8, 0x30000)]
theorem test_ctx_open : after (exec (.ctxOpen key) (host part0 kOpen)) lastDone = some (some (0, [2, 0, 0, 0])) := by decide +kernel
theorem witness_contextCommands : rdy (.ctxOpen key) (host part0 kOpen) kOpen 0x01 = true ∧ ((begun part0 kOpen).ctx 1).owner = some 0
    ∧ ((begun part0 kOpen).part 0).session 0 = some ses ∧ ((begun part0 kOpen).ctxCheck 0 (ctxFields kOpen.payload 8)).toOption.isSome = true
    ∧ rdy (.ctxOpen key) (world part0 (ctxWith [kOpen]) id) kOpen 0x01 = true ∧ (((world part0 (ctxWith [kOpen]) id).sys.begun key kOpen).ctx 1).owner = none
    ∧ rdy (.ctxClose key) (host part0 (hcmd 0x02 [(8, 2, 0)])) (hcmd 0x02 [(8, 2, 0)]) 0x02 = true ∧ (withSes part0).base = 0
    ∧ rdy (.ctxClose key) (host part0 (hcmd 0x02 [(8, 2, 2)])) (hcmd 0x02 [(8, 2, 2)]) 0x02 = true ∧ ((begun part0 (hcmd 0x02 [(8, 2, 2)])).ctx 2).opened = false
    ∧ rdy (.ctxQuery key) (host part0 (hcmd 0x03 [(8, 2, 1), (0x10, 8, 0x1000)])) (hcmd 0x03 [(8, 2, 1), (0x10, 8, 0x1000)]) 0x03 = true := by
  (repeat' apply And.intro) <;> decide +kernel
def closing : State := world { withSes part0 with base := 7 } (owned [hcmd 0x02 [(8, 2, 0)]]) id
theorem witness_ctxClose : rdy (.ctxClose key) closing (hcmd 0x02 [(8, 2, 0)]) 0x02 = true ∧ (closing.sys.ctx 0).closing = false ∧ (closing.sys.ctx 0).opened = true ∧ (closing.sys.ctx 0).part = 0 ∧ (closing.sys.part 0).base ≠ 0
      ∧ (closing.sys.ctx 0).cmds = [] ∧ (closing.sys.ctx 0).outbox = [] ∧ (closing.sys.part 0).sigma = none := by
  (repeat' apply And.intro) <;> decide +kernel

/-! Objects -/

def kAlloc (space n : Nat) : Cmd := hcmd 0x10 [(8, 1, space), (0x0A, 2, 0xFFFF), (0x0C, 4, n)]
def kObj (op sub : Nat) (h : Nat) : Cmd := hcmd op [(8, 8, h), (0x10, 1, sub), (0x12, 2, 0)]
theorem test_obj_alloc : after (exec (.objAlloc key) (host part0 (kAlloc 0 3))) lastDone = some (some (0, [3, 0, 0, 0])) := by decide +kernel
theorem test_obj_alloc_zero : after (exec (.objAlloc key) (host part0 (kAlloc 0 0))) (fun t => (lastDone t).map (fun r => r.1)) = some (some stBAD_VALUE) := by decide +kernel
theorem witness_objAlloc : rdy (.objAlloc key) (host part0 (kAlloc 0 3)) (kAlloc 0 3) 0x10 = true ∧ rdy (.objAlloc key) (host part0 (kAlloc 3 1)) (kAlloc 3 1) 0x10 = true
    ∧ (withSes part0).atQuota = false ∧ (withSes part0).nextObj = some 3 := by
  (repeat' apply And.intro) <;> decide +kernel
theorem witness_objRoom : (lowestRun ((begun part0 (kAlloc 0 3)).usedRuns 0 0) 0 (2 * hankGranules 0) 3).isSome = true := by decide +kernel
theorem witness_objFree : rdy (.objFree key) (host part0 (kObj 0x11 0 0)) (kObj 0x11 0 0) 0x11 = true ∧ ((withSes part0).objOf [] 0).isSome = true
    ∧ rdy (.objFree key) (host part0 (kObj 0x11 0 9)) (kObj 0x11 0 9) 0x11 = true ∧ (withSes part0).objOf [] 9 = none ∧ (withSes part0).fenceOf [] 9 = none := by
  (repeat' apply And.intro) <;> decide +kernel
theorem witness_grants : rdy (.grant key) (host { part0 with policy := bytes 0x220 [(8, 1, 1), (9, 1, 1)] } (kObj 0x12 0 0)) (kObj 0x12 0 0) 0x12 = true
    ∧ fieldN (bytes 0x220 [(8, 1, 1), (9, 1, 1)]) 8 1 < 2 ∧ 2 ≤ fieldN policy 8 1
    ∧ rdy (.revoke key) (host part0 (kObj 0x12 2 0)) (kObj 0x12 2 0) 0x12 = true := by
  (repeat' apply And.intro) <;> decide +kernel
theorem witness_queryAccept : rdy (.objQuery key) (host part0 (hcmd 0x13 [])) (hcmd 0x13 []) 0x13 = true
    ∧ rdy (.accept key) (host part0 (kObj 0x12 1 0)) (kObj 0x12 1 0) 0x12 = true := by
  (repeat' apply And.intro) <;> decide +kernel
theorem witness_objectHank : rdy (.objAlloc key) (host part0 (hcmd 0x10 [(0x0A, 2, 2), (0x0C, 4, 1)])) (hcmd 0x10 [(0x0A, 2, 2), (0x0C, 4, 1)]) 0x10 = true ∧ part0.hanks.length ≤ 2
    ∧ (part0.objs.get? 0).isSome = true ∧ (obj 0 0 4).source = none ∧ 0 ∉ (obj 0 0 4).grants
    ∧ (world { part0 with objs := [(0, { obj 0 0 4 with live := false })] } ctx1 id).sys.objRefs 0 0 { obj 0 0 4 with live := false } = 0 ∧ part0.fences = [] := by
  (repeat' apply And.intro) <;> decide +kernel

/-! Transfers -/

def kIn (n first : Nat) : Cmd := hcmd 0x20 [(8, 8, 0), (0x18, 8, 0x1000), (0x20, 8, first), (0x28, 4, n)]
def kOut (n : Nat) : Cmd := hcmd 0x21 [(8, 8, 0), (0x18, 8, n), (0x20, 8, 0x1000)]
def kDev (n : Nat) : Cmd := hcmd 0x22 [(8, 8, 0), (0x18, 8, 1), (0x28, 8, n), (0x30, 4, 0xFFFFFFFF)]
def open1 : Partition := { part0 with policy := bytes 0x220 [(8, 1, 1), (9, 1, 1)] }
theorem test_xfer_out_braided : after (exec (.xferOut ⟨key, 1⟩) (host part0 (kOut 16))) (fun t => (lastDone t).map (fun r => r.1)) = some (some stDENIED) := by decide +kernel
theorem test_xfer_device : after (exec (.xferDevice key) (host part0 (kDev 16))) (fun t => (lastDone t).map (fun r => r.1)) = some (some 0) := by decide +kernel
theorem witness_xferIn : rdy (.xferIn key []) (host part0 (kIn 1 0)) (kIn 1 0) 0x20 = true ∧ (withSes part0).objOf [] 0 = some (obj 0 0 4)
    ∧ ((begun part0 (kIn 1 0)).ctx 1).seq1 ≤ 0 ∧ (obj 0 0 4).bytes < 0 + 4064 * 2065 := by
  (repeat' apply And.intro) <;> decide +kernel
theorem witness_dstOk : (withSes part0).dstOk (obj 0 0 4) 0 4064 = true ∧ (withSes part0).dstOk (obj 1 0 4) 0 16 = true := by
  (repeat' apply And.intro) <;> decide +kernel
theorem witness_xferOut : rdy (.xferOut ⟨key, 1⟩) (host open1 (kOut 16)) (kOut 16) 0x21 = true ∧ (begun open1 (kOut 16)).memoryOf 0 [] 0 = some (0, obj 0 0 4) ∧ fieldN open1.policy 8 1 < 2
    ∧ rdy (.xferOut ⟨key, 1⟩) (host part0 (kOut 16)) (kOut 16) 0x21 = true ∧ (withSes part0).outputAllows (some 0) 0 16 = false := by
  (repeat' apply And.intro) <;> decide +kernel
theorem witness_readClean : ((begun open1 (kOut 16)).readPart 0 0 16).bad = [] ∧ (begun open1 (kOut 16)).memWaits 0 0 16 = false := by decide +kernel
theorem witness_xferDevice : rdy (.xferDevice key) (host part0 (kDev 16)) (kDev 16) 0x22 = true ∧ (withSes part0).objOf [] 1 = some (obj 1 0 4)
    ∧ (begun part0 (kDev 16)).memWaits 0 0 16 = false ∧ (begun part0 (kDev 16)).memWaits 0 0x1000000000000000 16 = false ∧ (begun part0 (kDev 16)).mem.regions = [] := by
  (repeat' apply And.intro) <;> decide +kernel
def zeroRec : Bytes := List.replicate 4096 0
theorem witness_xferInFails : rdy (.xferIn key [zeroRec]) (host part0 (kIn 1 0)) (kIn 1 0) 0x20 = true ∧ openRun ((begun part0 (kIn 1 0)).ctxKey 1) 1 [zeroRec] 0 1 = ([], true)
    ∧ (begun part0 (kIn 1 0)).mem.regions = [] ∧ placed 0 [] = [] := by
  (repeat' apply And.intro) <;> decide +kernel
theorem test_xfer_out_between : after (exec (.xferOut ⟨key, 1⟩) (host open1 (kOut 5000))) (fun t => (t.sys.cmdOf key).map (fun k => (k.progress, t.sys.hostOut.length))) = some (some (.outgoing 0 1 .clean, 1)) := by decide +kernel
def stale : State := world (withSes part0) { owned [kIn 1 0] with seq1 := 5 } id
theorem witness_transferStale : rdy (.xferIn key []) stale (kIn 1 0) 0x20 = true ∧ (kIn 1 0).field 0x20 8 < ((stale.sys.begun key (kIn 1 0)).ctx 1).seq1 := by
  (repeat' apply And.intro) <;> decide +kernel

/-! Weight sets -/

/-- A directory of one FP32 tile, in the window at 0x400; its extent is tier 1 at 0. -/
def dirAt : Nat := 0x2000000000000400
def dir1 : Bytes := bytes 64 [(8, 4, 1)] ++ bytes 32 [(0, 8, 0), (8, 8, 65536), (0x10, 4, 1), (0x14, 4, 1), (0x18, 1, 7)]
def wset0 : WSet := { gen := 0, source := none, owner := 1, versions := [], retiring := false, grants := [], shared := false }
def withDir (P : Partition) (k : Cmd) : State := { host P k with sys := (host P k).sys.writePart 0 dirAt (Blob.ofBytes dir1) }
def kLoad (n : Nat) : Cmd := hcmd 0x28 [(8, 8, 7), (0x10, 8, dirAt), (0x18, 8, 0x2000000000000800), (0x20, 4, n), (0x24, 1, 3)]
def setHandle : Nat := mkHandle 2 0 0
def kPub : Cmd := hcmd 0x29 [(8, 8, setHandle), (0x10, 8, dirAt)]
def kRet : Cmd := hcmd 0x2A [(8, 8, setHandle)]
def setPart (w : WSet) : Partition := { part0 with wsets := [(0, w)], wsetNext := 1 }
def isDir (r : DirOut) : Bool := match r with | .ok _ => true | _ => false
theorem test_publish : after (exec (.wsetPublish key) (withDir (setPart wset0) kPub)) lastDone = some (some (0, [1, 0, 0, 0])) := by decide +kernel
theorem witness_weightSets : rdy (.wsetLoad key) (withDir part0 (kLoad 8)) (kLoad 8) 0x28 = true ∧ isDir (((withDir part0 (kLoad 8)).sys.begun key (kLoad 8)).checkDir 0 dirAt []) = true
    ∧ (withSes part0).mayWrite 0x2000000000000800 1 = true ∧ (∀ l ∈ part0.loads, l.id ≠ 7) ∧ part0.wsets.countP (fun e => e.2.source.isNone) < 256 ∧ part0.atQuota = false
    ∧ rdy (.wsetPublish key) (withDir (setPart wset0) kPub) kPub 0x29 = true ∧ (withSes (setPart wset0)).ownWset setHandle = some 0 ∧ wset0.retiring = false
    ∧ (∀ v ∈ wset0.versions, v.state ≠ .provisional) ∧ wset0.nextNumber ≠ 2 ^ 64 - 1
    ∧ isDir (((withDir (setPart wset0) kPub).sys.begun key kPub).checkDir 0 dirAt wset0.curEntries) = true
    ∧ rdy (.wsetRetire key) (host (setPart wset0) kRet) kRet 0x2A = true ∧ rdy (.wsetRetire key) (host (setPart { wset0 with retiring := true }) kRet) kRet 0x2A = true := by
  (repeat' apply And.intro) <;> decide +kernel
/-- The batch of the WSET_RETIRE is its own, and closed. -/
def retBatch : Batch := { id := 0, number := 0, closed := true, pins := [], spec := false, hauled := false, cut := false }
def retState : State := world (withSes (setPart wset0)) { owned [kRet] with batches := [retBatch] } id
theorem witness_wsetRetired : rdy (.wsetRetire key) retState kRet 0x2A = true ∧ ((retState.sys.begun key kRet).ctx 1).batch kRet.batch = some retBatch
    ∧ (∀ r < 4, ∀ e ∈ ((retState.sys.begun key kRet).ring 1 r).cmds, e.batch = kRet.batch → r = kRet.ring ∧ e.lay = kRet.lay) := by decide +kernel
theorem test_wset_retired : after (exec (.wsetRetire key) retState) (fun t => ((t.sys.part 0).wsets.get? 0).isNone) = some true := by decide +kernel
theorem witness_noPins (v : Nat) : (begun (setPart wset0) kRet).pinned 0 0 v = false := rfl

/-! RUN and RUN_CANCEL -/

def kRun : Cmd := hcmd 0x30 [(8, 8, 0), (0x10, 4, 0), (0x14, 10, 1), (0x20, 8, 0x1122)]
theorem witness_runCommands : rdy (.run key) (host part0 kRun) kRun 0x30 = true ∧ (begun part0 kRun).runCheck 0 1 kRun = none ∧ (begun part0 kRun).memoryOf 0 [] 0 = some (0, obj 0 0 4)
    ∧ kRun.field 0x1E 1 = 0 ∧ fieldN policy 0xE 2 = 0 ∧ (begun part0 kRun).runHanks 1 kRun = [0] ∧ ((begun part0 kRun).bight 0).run = none ∧ (begun part0 kRun).fnReady (fnStrand 0) = true
    ∧ (begun part0 kRun).holder 0 = some 0 ∧ ((begun part0 kRun).ctx 1).opened = true ∧ ((begun part0 kRun).ctx 1).evictFor = none
    ∧ (begun part0 kRun).specLocker 1 0 = false ∧ ((begun part0 kRun).ctx 1).batch kRun.batch = none := by
  (repeat' apply And.intro) <;> decide +kernel
theorem witness_runAlone (d : Nat) : ((begun part0 kRun).savedBight d 0).run = none ∧ (begun part0 kRun).readyRun d 0 = none := by
  refine ⟨rfl, ?_⟩
  by_cases h0 : d = 0
  · subst h0; decide
  · by_cases h1 : d = 1
    · subst h1; decide
    · have : (begun part0 kRun).ctx d = Context.closed := by
        have e : (host part0 kRun).sys.ctxs = [(0, ctx0), (1, owned [kRun])] := rfl
        unfold begun Sys.begun Sys.setProgress Sys.setCmd Sys.setRing
        rw [Sys.ctx_setCtx_other _ _ (by simpa [key] using h1)]
        simp [Sys.ctx, SMap.get, e, Ne.symm h0, Ne.symm h1]
      simp [Sys.readyRun, this, Context.cmds, Context.closed, Ring.empty]
theorem test_run_starts : after (exec (.run key) (host part0 kRun)) (fun t => (reg 1#5 t, reg 8#5 t, (t.sys.bight 0).run.isSome)) = some (0x1122#64, 65536#64, true) := by decide +kernel
def kCancel (t r l : Nat) : Cmd := hcmd 0x31 [(8, 2, t), (0x0A, 1, r), (0x10, 8, l)]
def cancelling : State := world (withSes part0) (owned [kCancel 1 0 2, { hcmd 0x30 [] with lay := 2 }]) id
theorem witness_runCancel : rdy (.runCancel key) (host part0 (kCancel 2 0 1)) (kCancel 2 0 1) 0x31 = true ∧ rdy (.runCancel key) (host part0 (kCancel 0 4 1)) (kCancel 0 4 1) 0x31 = true
    ∧ rdy (.runCancel key) (host part0 (kCancel 0 3 1)) (kCancel 0 3 1) 0x31 = true ∧ (begun part0 (kCancel 0 3 1)).cmdAt 0 3 1 = none
    ∧ rdy (.runCancel key) cancelling (kCancel 1 0 2) 0x31 = true ∧ (cancelling.sys.begun key (kCancel 1 0 2)).cmdAt 1 0 2 = some { hcmd 0x30 [] with lay := 2 } ∧ (hcmd 0x30 []).ending = none := by
  (repeat' apply And.intro) <;> decide +kernel

/-! Updates and step commits -/

/-- A descriptor of one element: flags, then the status record at 0x2000000000001000, the program END. -/
def udesc (flags : Nat) : Bytes :=
  bytes 0xA4 [(8, 4, 1), (0xC, 4, 1), (0x18, 1, flags), (0x1D, 1, 1), (0x28, 8, 0x1000000000000000), (0x60, 8, 0x2000000000001000), (0xA0, 4, 0xFC000000)]
def udescAt : Nat := 0x2000000000000400
def kUpdate (n : Nat) : Cmd := hcmd 0x38 [(8, 8, udescAt), (0x10, 4, n)]
def withUd (flags : Nat) (k : Cmd) : State := { host part0 k with sys := (host part0 k).sys.writePart 0 udescAt (Blob.ofBytes (udesc flags)) }
def kReef : Cmd := hcmd 0x39 [(8, 8, 0x2000000000002000)]
theorem test_update_frozen : after (exec (.update ⟨key, 64⟩) (withUd 1 (kUpdate 1))) (fun t => (lastDone t, (t.sys.readPart 0 0x2000000000001000 56).data.drop 52))
    = some (some (0, [1, 0, 0, 0]), [1, 0, 0, 0]) := by decide +kernel
theorem witness_updates (flags : Nat) (h : flags = 0 ∨ flags = 1) : rdy (.update ⟨key, 64⟩) (withUd flags (kUpdate 1)) (kUpdate 1) 0x38 = true
    ∧ ((withUd flags (kUpdate 1)).sys.begun key (kUpdate 1)).udListFail 0 1 udescAt = none ∧ fieldN policy 0xE 2 = 0
    ∧ ((withUd flags (kUpdate 1)).sys.begun key (kUpdate 1)).udAt 0 udescAt = some (Blob.ofBytes (udesc flags)) ∧ udFrozen (udesc flags) = decide (flags = 1)
    ∧ udNorm (udesc flags) = none ∧ ((withUd flags (kUpdate 1)).sys.begun key (kUpdate 1)).udReady 0 (udesc flags) = true
    ∧ ((withUd flags (kUpdate 1)).sys.begun key (kUpdate 1)).udBlocked 0 (udesc flags) = none ∧ ((withUd flags (kUpdate 1)).sys.begun key (kUpdate 1)).failsIn 0 udescAt (udChecked (Blob.ofBytes (udesc flags))) = []
    ∧ ((withUd flags (kUpdate 1)).sys.begun key (kUpdate 1)).servedIn 0 udescAt (udChecked (Blob.ofBytes (udesc flags))) = []
    ∧ (((withUd flags (kUpdate 1)).sys.begun key (kUpdate 1)).setPart 0 ((((withUd flags (kUpdate 1)).sys.begun key (kUpdate 1)).part 0).beginStep 0)).shareBusy 0 0 1 (kUpdate 1) = false
    ∧ 64 * udCount (udesc flags) ≤ 64 := by
  rcases h with rfl | rfl <;> decide +kernel
theorem witness_updateRefused : rdy (.update ⟨key, 64⟩) (withUd 1 (kUpdate 0)) (kUpdate 0) 0x38 = true ∧ rdy (.update ⟨key, 64⟩) (withUd 1 (kUpdate 65537)) (kUpdate 65537) 0x38 = true := by decide +kernel
def withReef (n : Nat) (b : Option Nat) : State :=
  { host { part0 with stepBegun := b } kReef with sys := (host { part0 with stepBegun := b } kReef).sys.writePart 0 0x2000000000002000 (Blob.ofBytes (leBytes 8 n)) }
theorem witness_reefSet : rdy (.reefSet key) (withReef 5 (some 5)) kReef 0x39 = true ∧ rdy (.reefSet key) (withReef 6 (some 5)) kReef 0x39 = true ∧ part0.owns 0x2000000000002000 784 = true
    ∧ (((withReef 6 (some 5)).sys.begun key kReef).readPart 0 0x2000000000002000 784).bad = []
    ∧ reefBad (((withReef 6 (some 5)).sys.begun key kReef).readPart 0 0x2000000000002000 784).data = false
    ∧ fieldN (((withReef 6 (some 5)).sys.begun key kReef).readPart 0 0x2000000000002000 784).data 0 8 = 6 ∧ reefBad (bytes 784 [(0xA, 1, 1)]) = true := by decide +kernel
/-- What an UPDATE without NORM leaves of its share. -/
def blocksRun : Sys :=
  let y := (withUd 0 (kUpdate 1)).sys.begun key (kUpdate 1)
  ((y.setPart 0 ((y.part 0).beginStep 0)).udLoad 0 (udesc 0) (0#32, .clean)).udBlocks 0 (udesc 0) ⟨0, y.mem⟩ 64
theorem witness_updateBlocks : (blocksRun.cleat 0 0).causes = [] ∧ (blocksRun.cleat 0 0).wrote = false ∧ blocksRun.udUnwritten 0 [(udStatus (udesc 0), 64)] = false := by decide +kernel
/-- A descriptor of TENSOR_ID 5 with NORM of stream 1, a carry-in record at `carry`, sides both held. -/
def ndesc (carry flags : Nat) : Bytes :=
  bytes 0xA8 [(8, 4, 1), (0xC, 4, 1), (0x18, 1, flags), (0x1C, 1, 2), (0x1D, 1, 2), (0x28, 8, 0x1000000000000000), (0x30, 8, 0x1000000000100000), (0x48, 8, carry), (0x60, 8, 0x2000000000001000),
    (0x68, 4, 5), (0xA0, 4, 0x19 * 2 ^ 26 + 2 ^ 14), (0xA4, 4, 0xFC000000)]
def prog0 : UdProg := { finished := 0, next := udescAt, causes := [], wrote := false, oneSided := false, sum := none, part := none, pace := 64, begun := true }
def polling (d : Bytes) : State :=
  let k := { kUpdate 1 with progress := .update prog0 }
  { host part0 k with sys := (host part0 k).sys.writePart 0 udescAt (Blob.ofBytes d) }
theorem witness_carryPoll (d : Bytes) (h : d = ndesc 0x2000000000001040 2 ∨ d = ndesc 0 18) : (polling d).sys.waitingUpdates 0 0 = [(1, 0, 1)]
    ∧ (polling d).sys.cmdAt 1 0 1 = some { kUpdate 1 with progress := .update prog0 } ∧ (polling d).sys.waitingUpdates 1 0 = []
    ∧ (polling d).sys.udAt 0 udescAt = some (Blob.ofBytes d) ∧ (polling d).sys.udBlocked 0 d = none ∧ udFrozen d = false ∧ udNorm d = some 1 ∧ udTwoSided d = true ∧ 64 * udCount d ≤ 64
    ∧ ((polling d).sys.setPart 0 (((polling d).sys.part 0).beginStep 0)).shareBusy 0 0 1 { kUpdate 1 with progress := .update prog0 } = false
    ∧ ((polling d).sys.setPart 0 (((polling d).sys.part 0).beginStep 0)).udUnwritten 0 (udPassWrites d) = false := by
  rcases h with rfl | rfl <;> decide +kernel
/-- The carry record has not arrived; and without one the sum is there. -/
theorem witness_carryMissing : (polling (ndesc 0x2000000000001040 2)).sys.carryRead 0 0x2000000000001040 (ndesc 0x2000000000001040 2) = none := by decide +kernel
theorem witness_normRun (s : Sys) (p stream : Nat) (d : Bytes) (hc : udCarryIn d = 0) (hl : udNormLast d = true) : ∃ z v t, s.udNormRun p d stream none = (z, v, some t) := by
  simp [Sys.udNormRun, Sys.udPassA, hc, hl]
theorem witness_normLast : udCarryIn (ndesc 0 18) = 0 ∧ udNormLast (ndesc 0 18) = true := by decide +kernel

def kCommit (mode sel w dir batch : Nat) : Cmd := hcmd 0x3A [(8, 8, 7), (0x10, 1, mode), (0x14, 4, 9), (0x18, 8, sel), (0x20, 8, w), (0x28, 8, dir), (0x30, 4, batch)]
def kSpec : Cmd := kCommit 2 0 setHandle dirAt 3
def withOut (o : Outcome) : Partition := { part0 with outcomes := [o] }
theorem test_commit_none : after (exec (.stepCommitNone key) (host part0 (kCommit 0 0 0 0 0))) (fun t => ((t.sys.part 0).stepDone, lastDone t)) = some (some 7, some (0, [0, 0, 0, 0])) := by decide +kernel
theorem test_commit_spec : after (exec (.stepCommitSpeculate key) (withDir (setPart wset0) kSpec)) (fun t => ((t.sys.part 0).sigma.map (fun z => (z.version, z.coll)))) = some (some (1, 9)) := by decide +kernel
theorem witness_stepCommits : rdy (.stepCommitNone key) (host part0 (kCommit 0 0 0 0 0)) (kCommit 0 0 0 0 0) 0x3A = true ∧ (kCommit 0 0 0 0 0).field 0x18 8 = 0 ∧ (kCommit 0 0 0 0 0).field 0x10 1 = 0
    ∧ rdy (.stepCommitWait key) (host part0 (kCommit 1 0 0 0 0)) (kCommit 1 0 0 0 0) 0x3A = true ∧ (kCommit 1 0 0 0 0).field 0x28 8 = 0 ∧ part0.outcomes.find? (fun o => o.coll == 9) = none
    ∧ outcome.status ≠ stPEER_LOST ∧ outcome.value ≠ 1 ∧ outcome.ended = false ∧ rdy (.stepCommitWait key) (host (withOut outcome) (kCommit 1 0 0 0 0)) (kCommit 1 0 0 0 0) 0x3A = true
    ∧ rdy (.stepCommitSpeculate key) (host part0 (kCommit 2 0 0 0 0)) (kCommit 2 0 0 0 0) 0x3A = true
    ∧ rdy (.stepCommitSpeculate key) (withDir (setPart wset0) kSpec) kSpec 0x3A = true ∧ (withSes (setPart wset0)).ownWset setHandle = some 0 ∧ wset0.nextNumber ≠ 2 ^ 64 - 1
    ∧ isDir (((withDir (setPart wset0) kSpec).sys.begun key kSpec).checkDir 0 dirAt wset0.curEntries) = true := by decide +kernel
def sigma0 : Machine.Sigma := { ctx := 1, ring := 0, lay := 1, step := 7, batch := 1, wset := 0, version := 1, coll := 9, items := [], deferred := [], poison := false, lockers := [], hostIn := 0 }
def prov : WSet := { wset0 with versions := [⟨1, dirAt, [], .provisional⟩] }
def open2 (value : Nat) : State :=
  host { setPart prov with sigma := some sigma0, outcomes := [{ coll := 9, status := stOK, value := value, flags := 0, element := value }] } { kSpec with progress := .commit 1 }
theorem witness_stepRegions : ((open2 1).sys.part 0).sigma = some sigma0 ∧ ((open2 1).sys.part 0).outcomes.find? (fun o => o.coll == 9) = some { coll := 9, status := stOK, value := 1, flags := 0, element := 1 }
    ∧ ((open2 0).sys.part 0).outcomes.find? (fun o => o.coll == 9) = some { coll := 9, status := stOK, value := 0, flags := 0, element := 0 } ∧ ((open2 1).sys.ctx 1).part = 0
    ∧ (open2 1).sys.cmdAt 1 0 1 = some { kSpec with progress := .commit 1 } ∧ ((open2 1).sys.part 0).wsets.get? 0 = some prov
    ∧ stOK ≠ stPEER_LOST ∧ ∀ e ∈ ((open2 0).sys.ctx 1).cmds, e.batch ≠ 1 := by decide +kernel
theorem test_region_haul : after (exec (.stepRegionHaul 0) (open2 1)) (fun t => (((t.sys.part 0).wsets.get? 0).map (fun w => w.versions.map (fun v => v.state)), lastDone t)) = some (some [.current], some (stHAULED, [1, 0, 0, 0])) := by decide +kernel
theorem test_region_cut : after (exec (.stepRegionCut 0) (open2 0)) (fun t => (((t.sys.part 0).wsets.get? 0).map (fun w => w.versions.length), lastDone t)) = some (some 0, some (stCUT, [1, 0, 0, 0])) := by decide +kernel

/-! Fences and flows -/

def fence (v : Nat) : Fence := { gen := 0, value := v, stale := 0, owner := 0, live := true, grants := [], importers := [], source := none }
def fencePart (x : Fence) : Partition := { part0 with fences := [(0, x)], fenceNext := 1 }
def fh : Nat := mkHandle 1 0 0
def kFence (op v : Nat) : Cmd := hcmd op [(8, 8, fh), (0x10, 8, v)]
def kExport (q : Nat) : Cmd := hcmd 0x43 [(8, 8, fh), (0x10, 4, 0), (0x14, 2, q), (0x18, 4, 0xFFFFFFFF), (0x1C, 4, 0xFFFFFFFF)]
theorem test_fence_signal : after (exec (.fenceSignal key) (host (fencePart (fence 4)) (kFence 0x41 5))) (fun t => (((t.sys.part 0).fences.get? 0).map (fun x => x.value), lastDone t)) = some (some 5, some (0, [0, 0, 0, 0])) := by decide +kernel
theorem test_fence_stale : after (exec (.fenceSignal key) (host (fencePart (fence 4)) (kFence 0x41 4))) (fun t => (lastDone t).map (fun r => r.1)) = some (some stSTALE_VALUE) := by decide +kernel
theorem test_fence_create : after (exec (.fenceCreate key) (host part0 (hcmd 0x40 [(8, 8, 2 ^ 64 - 2)]))) (fun t => ((t.sys.part 0).fences.get? 0).map (fun x => x.value)) = some (some (2 ^ 64 - 2)) := by decide +kernel
theorem witness_fences : rdy (.fenceCreate key) (host part0 (hcmd 0x40 [(8, 8, 2 ^ 64 - 1)])) (hcmd 0x40 [(8, 8, 2 ^ 64 - 1)]) 0x40 = true
    ∧ rdy (.fenceCreate key) (host part0 (hcmd 0x40 [])) (hcmd 0x40 []) 0x40 = true ∧ (withSes part0).nextFence = some 0
    ∧ (withSes (fencePart (fence 4))).fenceOf [] fh = some (fence 4) ∧ (∀ q ∈ (fence 4).importers, q.sendFlow = 0xFFFFFFFF)
    ∧ rdy (.fenceSignal key) (host (fencePart (fence 4)) (kFence 0x41 5)) (kFence 0x41 5) 0x41 = true ∧ rdy (.fenceSignal key) (host (fencePart (fence 4)) (kFence 0x41 4)) (kFence 0x41 4) 0x41 = true
    ∧ rdy (.fenceSignal key) (host (fencePart (fence (2 ^ 64 - 1))) (kFence 0x41 4)) (kFence 0x41 4) 0x41 = true
    ∧ rdy (.fenceWait key) (host (fencePart (fence 4)) (kFence 0x42 4)) (kFence 0x42 4) 0x42 = true ∧ rdy (.fenceWait key) (host (fencePart (fence 4)) (kFence 0x42 5)) (kFence 0x42 5) 0x42 = true
    ∧ rdy (.fenceExport key) (host (fencePart (fence 4)) (kExport 79)) (kExport 79) 0x43 = true ∧ rdy (.fenceExport key) (host (fencePart (fence 4)) (kExport 80)) (kExport 80) 0x43 = true := by decide +kernel
/-- Partition 1 holds fence 0, granted to partition 0 of this node. -/
def granted : Fence := { fence 4 with grants := [⟨0, 0, 0xFFFFFFFF, 0xFFFFFFFF⟩] }
def kImport (t : Nat) : Cmd := hcmd 0x44 [(8, 8, t), (0x10, 4, 0xFFFFFFFF), (0x14, 4, 0xFFFFFFFF)]
def two (k : Cmd) : State := { host part0 k with sys := { (host part0 k).sys with parts := (host part0 k).sys.parts.set 1 (fencePart granted) } }
theorem witness_fenceImport : rdy (.fenceImport key) (two (kImport (2 ^ 24))) (kImport (2 ^ 24)) 0x44 = true ∧ rdy (.fenceImport key) (two (kImport (2 ^ 24 + 1))) (kImport (2 ^ 24 + 1)) 0x44 = true
    ∧ ((two (kImport (2 ^ 24))).sys.begun key (kImport (2 ^ 24))).node = 0
    ∧ ((two (kImport (2 ^ 24))).sys.begun key (kImport (2 ^ 24))).tokenFence (2 ^ 24) = some (1, 0, granted) ∧ ((two (kImport (2 ^ 24))).sys.begun key (kImport (2 ^ 24))).tokenFence (2 ^ 24 + 1) = none := by decide +kernel
theorem test_fence_import : after (exec (.fenceImport key) (two (kImport (2 ^ 24)))) lastDone = some (some (0, [0, 0, 0, 0])) := by decide +kernel
def fmsg (kind st value req : Nat) : FenceMsg := ⟨5, bytes 32 [(0, 1, kind), (1, 1, st), (0x10, 8, value), (0x18, 8, req)]⟩
def rx : Flow := { Flow.empty with state := .open, role := 1, target := 2, peerNode := 0, peerPart := 3 }
def peer5 : FencePeer := ⟨0, 3, 6, 5⟩
def fmsgState (x : Fence) (ks : List Cmd) : State :=
  world (fencePart x) (ctxWith ks) (fun y => { y with fab := { y.fab with flows := [(5, rx)] } })
def shared : Fence := { fence 4 with grants := [peer5], importers := [peer5] }
def imported : Fence := { fence 0 with source := some { token := 0#64, homePart := 0, homeIndex := 0, remote := true, sendFlow := 6, recvFlow := 5, view := 2, detached := false } }
def kReq (op : Nat) : Cmd := { hcmd op [(8, 8, if op = 0x44 then 0 else fh), (0x14, 4, 5)] with progress := .request 9 }
theorem witness_fenceMessages : (fmsgState shared []).sys.flow 5 = rx ∧ (fmsgState shared []).sys.tokenFence 0 = some (0, 0, shared) ∧ shared.importers.find? (fun q => q.recvFlow == 5) = some peer5
    ∧ (fmsg 1 0 5 0).kind = 1 ∧ (fmsg 3 0 5 0).kind = 3 ∧ (fmsg 4 0 0 0).kind = 4 ∧ (fmsg 6 0 0 0).kind = 6 ∧ (fmsg 1 0 5 0).token = 0
    ∧ (fmsgState imported [kReq 0x41]).sys.requester 0 0x41 9 = some (1, kReq 0x41) ∧ (fencePart imported).fenceOf [] fh = some imported ∧ (fmsg 2 0 0 9).request = 9 ∧ (fmsg 2 0 0 9).kind = 2
    ∧ (fmsgState shared [kReq 0x44]).sys.requester 0 0x44 9 = some (1, kReq 0x44) ∧ (fmsg 5 0 0 9).status = stOK ∧ (fmsg 5 1 0 9).status ≠ stOK ∧ (kReq 0x44).field 0x14 4 = 5 ∧ (kReq 0x44).field 8 8 = 0 := by decide +kernel
theorem test_msg_signal : after (exec (.signal (fmsg 1 0 5 0)) (fmsgState shared [])) (fun t => ((t.sys.part 0).fences.get? 0).map (fun x => x.value)) = some (some 5) := by decide +kernel
theorem test_msg_update : after (exec (.fenceUpdate (fmsg 3 0 5 0)) (fmsgState imported [])) (fun t => ((t.sys.part 0).fences.get? 0).bind (fun x => x.source.map (fun i => i.view))) = some (some 5) := by decide +kernel

def kFlow : Cmd := hcmd 0x49 [(8, 4, 5), (0x0C, 1, 0), (0x0D, 1, 0)]
def linked (P : Partition) (k : Cmd) (x : List (Nat × Flow)) : State :=
  { host P k with sys := { (host P k).sys with fab := { (host P k).sys.fab with ports := (host P k).sys.fab.ports.set 0 ⟨.up, 0⟩, flows := x } } }
theorem witness_flowCommands : rdy (.flowOpen key) (linked part0 kFlow []) kFlow 0x49 = true ∧ ((linked part0 kFlow []).sys.begun key kFlow).flowOpenCheck 0 kFlow = none
    ∧ rdy (.flowOpen key) (host part0 (hcmd 0x49 [(8, 4, 1572864)])) (hcmd 0x49 [(8, 4, 1572864)]) 0x49 = true
    ∧ rdy (.flowClose key) (linked part0 (hcmd 0x4A [(8, 4, 5)]) [(5, flowOf 0)]) (hcmd 0x4A [(8, 4, 5)]) 0x4A = true
    ∧ rdy (.flowClose key) (linked part0 (hcmd 0x4A [(8, 4, 5)]) []) (hcmd 0x4A [(8, 4, 5)]) 0x4A = true ∧ (flowOf 0).state ≠ .free ∧ (flowOf 0).part = 0 ∧ (flowOf 0).opener = none ∧ (flowOf 0).unacked = []
    ∧ (linked part0 kFlow []).sys.fab.colls = []
    ∧ ∀ e ∈ ((linked part0 (hcmd 0x4A [(8, 4, 5)]) [(5, flowOf 0)]).sys.begun key (hcmd 0x4A [(8, 4, 5)])).ctxs, ∀ j ∈ e.2.cmds, j.field 0x30 4 ≠ 5 := by decide +kernel
theorem test_flow_close : after (exec (.flowClose key) (linked part0 (hcmd 0x4A [(8, 4, 5)]) [(5, flowOf 0)])) (fun t => (t.sys.flow 5, lastDone t)) = some (Flow.empty, some (0, [0, 0, 0, 0])) := by decide +kernel

/-! Collectives, checkpoints, trust -/

/-- R319: the first status in its order. -/
theorem test_end_status : endStatus stCANCELLED stPOISONED = stPOISONED ∧ endStatus stPEER_LOST stPOISONED = stPEER_LOST ∧ endStatus stPEER_LOST stTAG_FAIL = stTAG_FAIL
    ∧ endStatus stALARM stTAG_FAIL = stALARM := by decide

/-- A plan of two positions, one element from 0x2000000000000800 to 0x2000000000000900, flows 5 up and 6 down. -/
def planB (kind : Nat) : Bytes :=
  bytes 128 [(0, 4, 9), (4, 1, kind), (8, 4, 2), (0x14, 4, 4096), (0x18, 8, 1), (0x20, 8, 0x2000000000000800), (0x28, 8, 0x2000000000000900), (0x30, 4, 5), (0x34, 4, 6), (0x38, 4, 5), (0x3C, 4, 6), (0x40, 4, 0xFFFFFFFF)]
def kColl : Cmd := hcmd 0x48 [(8, 8, udescAt)]
def collState (kind : Nat) : State :=
  let s := linked part0 kColl [(5, { flowOf 0 with peerFlow := 7, rate := 4096, credit := 65536 }), (6, { flowOf 1 with target := 2 })]
  { s with sys := (s.sys.writePart 0 udescAt (Blob.ofBytes (planB kind))).writePart 0 0x2000000000000800 (Blob.ofBytes [1, 2, 3, 4]) }
def collRdy (i : Instr) (kind : Nat) : Bool := rdy i (collState kind) kColl 0x48 && planOk (planB kind) && ((collState kind).sys.begun key kColl).planFlows 0 (planOf (planB kind))
theorem witness_collectives : collRdy (.chainReduce key) 0 = true ∧ collRdy (.chainAllreduce key) 1 = true ∧ collRdy (.allgather key) 2 = true ∧ collRdy (.broadcast key) 3 = true
    ∧ part0.owns udescAt 128 = true ∧ ((collState 1).sys.begun key kColl).readPart 0 udescAt 128 = Blob.ofBytes (planB 1) ∧ part0.owns 0x2000000000000800 4 = true
    ∧ part0.mayWrite 0x2000000000000900 8 = true ∧ (((collState 1).sys.begun key kColl).collOf 0 9).isNone = true ∧ (((collState 1).sys.begun key kColl).readPart 0 0x2000000000000800 4).bad = []
    ∧ (((collState 1).sys.begun key kColl).ctx 1).poisonSeen = false ∧ ((collState 1).sys.fn (fnHawser 0)).state ≠ .draining ∧ (planOf (planB 1)).fans = []
    ∧ ((collState 1).sys.begun key kColl).memWaits 0 0x2000000000000800 4 = false ∧ ((collState 1).sys.begun key kColl).memWaits 0 0x2000000000000900 8 = false
    ∧ (planOf (planB 1)).ignored = [] ∧ ((collState 1).sys.flow 6).staged = [] ∧ 0 < (collState 1).sys.portPayload 0 := by decide +kernel

def kCkpt (op n sel first : Nat) : Cmd := hcmd op [(8, 8, udescAt), (0x10, 4, 1), (0x28, 8, 0x1000), (0x30, 1, sel), (0x34, 4, n), (0x38, 8, first)]
/-- A manifest of one range: 16 bytes of object 0. -/
def ckptState (P : Partition) (k : Cmd) : State := { host P k with sys := (host P k).sys.writePart 0 udescAt (Blob.ofBytes (bytes 24 [(0x10, 8, 16)])) }
def isOkM (m : Manifest) : Bool := match m with | .ok _ => true | _ => false
theorem witness_checkpoints : rdy (.ckptSave ⟨key, 2⟩) (ckptState part0 (kCkpt 0x50 0 0 0)) (kCkpt 0x50 0 0 0) 0x50 = true ∧ ckptRanges (kCkpt 0x50 0 0 0) = true ∧ ckptHost (kCkpt 0x50 0 0 0) = true
    ∧ isOkM (((ckptState part0 (kCkpt 0x50 0 0 0)).sys.begun key (kCkpt 0x50 0 0 0)).manifest 0 (kCkpt 0x50 0 0 0) false) = true
    ∧ rdy (.ckptSave ⟨key, 2⟩) (ckptState part0 (kCkpt 0x50 0 1 0)) (kCkpt 0x50 0 1 0) 0x50 = true ∧ (withSes part0).released (kCkpt 0x50 0 1 0) = false
    ∧ (ckptState part0 (kCkpt 0x50 0 0 0)).sys.trust.entropy = 0 ∧ ((ckptState part0 (kCkpt 0x50 0 0 0)).sys.begun key (kCkpt 0x50 0 0 0)).memWaits 0 0 16 = false
    ∧ ((ckptState part0 (kCkpt 0x51 1 0 0)).sys.begun key (kCkpt 0x51 1 0 0)).memWaits 0 0 16 = false ∧ (ckptState part0 (kCkpt 0x51 1 0 0)).sys.mem.regions = []
    ∧ ((((ckptState part0 (kCkpt 0x50 0 0 0)).sys.begun key (kCkpt 0x50 0 0 0)).took 1).gather 0 [(0, 0, 16)]).2.2 = .clean
    ∧ rdy (.ckptRestore key []) (ckptState part0 (kCkpt 0x51 1 0 0)) (kCkpt 0x51 1 0 0) 0x51 = true ∧ (((ckptState part0 (kCkpt 0x51 1 0 0)).sys.begun key (kCkpt 0x51 1 0 0)).ctx 1).seq1 ≤ 0
    ∧ isOkM (((ckptState part0 (kCkpt 0x51 1 0 0)).sys.begun key (kCkpt 0x51 1 0 0)).manifest 0 (kCkpt 0x51 1 0 0) true) = true
    ∧ rdy (.takeover key []) (ckptState part0 (kCkpt 0x52 1 0 0)) (kCkpt 0x52 1 0 0) 0x52 = true
    ∧ rdy (.takeover key []) (ckptState { part0 with stepBegun := some 1 } (kCkpt 0x52 1 0 0)) (kCkpt 0x52 1 0 0) 0x52 = true := by decide +kernel

def kAttest (n : Nat) : Cmd := { hcmd 0x70 [(0x28, 8, 0x1000), (0x30, 4, n)] with plain := true }
def partial0 (k : Cmd) : State := { host part0 k with sys := { (host part0 k).sys with plat := { upPlat with fns := [] } } }
theorem witness_attest : rdy (.attest key) (host part0 (kAttest 11468)) (kAttest 11468) 0x70 = true ∧ rdy (.attest key) (host part0 (kAttest 11467)) (kAttest 11467) 0x70 = true
    ∧ ((host part0 (kAttest 11468)).sys.begun key (kAttest 11468)).inTransition 0 = false ∧ ((partial0 (kAttest 11468)).sys.begun key (kAttest 11468)).inTransition 0 = true := by decide +kernel
def kSession : Cmd := { hcmd 0x71 [(0x10, 4, 4916), (0x20, 4, 48)] with plain := true }
def unowned : State := world { part0 with ekPair := some (3, []) } (ctxWith [kSession]) id
theorem witness_sessionOpen : rdy (.sessionOpen key []) unowned kSession 0x71 = true ∧ ((unowned.sys.begun key kSession).ctx 1).intakeHeld = false
    ∧ (unowned.sys.part 0).sessions = [] ∧ (unowned.sys.part 0).ekPair.map (fun e => e.1) = some 3 := by decide +kernel
theorem witness_sessionMsg : (unowned.sys.begun key kSession).readMsg 1 true 0 2 [] = (unowned.sys.begun key kSession, stOK, []) := rfl
def shareMsg : Bytes := bytes 112 [(0, 4, 0x534B5A43)]
def kShare : Cmd := { hcmd 0x72 [] with plain := true }
def joining : Partition := { part0 with state := .joining }
theorem witness_keyShare : rdy (.keyShare key [shareMsg]) (host joining kShare) kShare 0x72 = true ∧ ((begun joining kShare).ctx 1).owner.isSome = true ∧ shareMsg.length = 112
    ∧ fieldN shareMsg 0 4 = 0x534B5A43 ∧ allZero (sliceB shareMsg 5 3) = true ∧ allZero (sliceB shareMsg 0x1C 4) = true ∧ (withSes joining).session (fieldN shareMsg 4 1) = some ses
    ∧ sliceB shareMsg 8 8 = joining.braidId ∧ sliceB kShare.payload 8 8 = joining.braidId ∧ joining.owners = 2 ∧ joining.shares = [] := by decide +kernel
theorem witness_shareMsg : (begun joining kShare).readMsg 1 true 0 1 [shareMsg] = (begun joining kShare, stOK, shareMsg) := rfl
def kRelease : Cmd := { hcmd 0x73 [] with plain := true }
def twoOwners : Partition := { part0 with policy := bytes 0x220 [(8, 1, 2), (9, 1, 2)] }
theorem witness_braidRelease : rdy (.braidRelease key [List.replicate 3708 0]) (host part0 kRelease) kRelease 0x73 = true ∧ (List.replicate 3708 (0 : Byte)).length = 3708
    ∧ sliceB kRelease.payload 8 8 = part0.braidId ∧ part0.auths = [] ∧ part0.threshold = 1 ∧ rdy (.braidRelease key [List.replicate 3708 0]) (host twoOwners kRelease) kRelease 0x73 = true
    ∧ twoOwners.threshold = 2 := by decide +kernel
def kRotate (t n : Nat) : Cmd := hcmd 0x74 [(8, 1, t), (0x18, 8, n)]
theorem witness_keyRotate : rdy (.keyRotate ⟨key, 5⟩) (host part0 (kRotate 2 1)) (kRotate 2 1) 0x74 = true ∧ rdy (.keyRotate ⟨key, 5⟩) (host part0 (kRotate 1 1)) (kRotate 1 1) 0x74 = true
    ∧ rdy (.keyRotate ⟨key, 5⟩) (host part0 (kRotate 1 (2 * unitBytes + 1))) (kRotate 1 (2 * unitBytes + 1)) 0x74 = true ∧ part0.hanks.length * unitBytes < 2 * unitBytes + 1
    ∧ (begun part0 (kRotate 1 1)).tierWaits 1 0 = false ∧ (begun part0 (kRotate 1 1)).rotates 0 1 0 = false ∧ ((begun part0 (kRotate 1 1)).region 1 0).rot = none
    ∧ ((begun part0 (kRotate 1 1)).region 1 0).failed = [] ∧ rdy (.keyRotate ⟨key, 3417600⟩) (host part0 (kRotate 1 1)) (kRotate 1 1) 0x74 = true := by decide +kernel
theorem test_rotate_count : after (exec (.keyRotate ⟨key, 3417600⟩) (host part0 (kRotate 0 1))) lastDone = some (some (0, [1, 0, 0, 0])) := by decide +kernel
theorem test_rotate_part : after (exec (.keyRotate ⟨key, 7⟩) (host part0 (kRotate 0 1))) (fun t => ((t.sys.region 0 0).rotated, (t.sys.cmdOf key).map (fun k => k.progress)))
    = some (7, some (.rotating 0 true [0] [] .clean)) := by decide +kernel

/-! The dictionary -/

def kDict (op kind i sub n v : Nat) : Cmd := hcmd op [(8, 2, i), (0x0A, 1, sub), (0x0B, 1, kind), (0x0C, 4, n), (0x18, 2, v)]
def kRead (i sub : Nat) : Cmd := hcmd 0x60 [(8, 2, i), (0x0A, 1, sub)]
theorem test_dict_state : after (exec (.dictRead key) (host part0 (kRead (dictPart 0 3) 1))) (fun t => ((t.sys.ctx 1).outbox.getLast?).map (fun r => r.result.take 9)) = some (some [0, 0, 0, 0, 1, 0, 0, 0, BitVec.ofNat 8 PState.active.code]) := by decide +kernel
theorem witness_dictRead : rdy (.dictRead key) (host part0 (kRead 0x1000 99)) (kRead 0x1000 99) 0x60 = true ∧ entryOf 0x1000 99 = none ∧ rdy (.dictRead key) (host part0 (kRead (dictPart 79 3) 1)) (kRead (dictPart 79 3) 1) 0x60 = true
    ∧ rdy (.dictRead key) (host part0 (kRead 0x2000 1)) (kRead 0x2000 1) 0x60 = true ∧ rdy (.dictRead key) (host part0 (kRead (dictPart 0 3) 1)) (kRead (dictPart 0 3) 1) 0x60 = true
    ∧ rdy (.dictRead key) (host part0 (kRead (dictPart 0 7) 1)) (kRead (dictPart 0 7) 1) 0x60 = true := by decide +kernel
def staging (z : StageSet) (k : Cmd) : State := { host part0 k with sys := (host part0 k).sys.setStage 0 z }
def opened : StageSet := { StageSet.none with state := .opened, entries := [(dictKey (dictPart 0 7) 1, 20)] }
def kStaged (v : Nat) : Cmd := kDict 0x61 1 (dictPart 0 7) 1 1 v
def kSet (kind i step : Nat) : Cmd := hcmd 0x61 [(8, 2, i), (0x0B, 1, kind), (0x58, 8, step)]
theorem witness_dictWrite : rdy (.dictWrite key) (host part0 (kDict 0x61 0 0x5000 1 2 1)) (kDict 0x61 0 0x5000 1 2 1) 0x61 = true ∧ (begun part0 (kDict 0x61 0 0x5000 1 2 1)).stagedHeld 0x5000 1 = false
    ∧ rdy (.dictWrite key) (host part0 (kDict 0x61 0 0x5000 1 4 1)) (kDict 0x61 0 0x5000 1 4 1) 0x61 = true ∧ rdy (.dictWrite key) (host part0 (kDict 0x61 0 0x5000 1 2 16384)) (kDict 0x61 0 0x5000 1 2 16384) 0x61 = true
    ∧ rdy (.dictWrite key) (host part0 (kDict 0x61 0 0x5000 1 2 16383)) (kDict 0x61 0 0x5000 1 2 16383) 0x61 = true ∧ ((begun part0 (kDict 0x61 0 0x5000 1 2 16383)).ctx 16383).opened = false := by decide +kernel
theorem witness_dictStaged : rdy (.dictWriteStaged key) (host part0 (kStaged 28)) (kStaged 28) 0x61 = true ∧ rdy (.dictWriteStaged key) (host part0 (kStaged 29)) (kStaged 29) 0x61 = true
    ∧ rdy (.dictWriteStaged key) (staging { opened with state := .armed } (kStaged 20)) (kStaged 20) 0x61 = true ∧ rdy (.dictWriteStaged key) (staging opened (kStaged 20)) (kStaged 20) 0x61 = true
    ∧ rdy (.dictCommit key) (staging opened (kSet 2 0 0)) (kSet 2 0 0) 0x61 = true ∧ rdy (.dictCommit key) (host part0 (kSet 2 1 0)) (kSet 2 1 0) 0x61 = true ∧ rdy (.dictCommit key) (host part0 (kSet 2 0 0)) (kSet 2 0 0) 0x61 = true
    ∧ rdy (.dictCommit key) (host { part0 with stepDone := some 5 } (kSet 2 0 5)) (kSet 2 0 5) 0x61 = true
    ∧ rdy (.dictAbort key) (staging opened (kSet 3 0 0)) (kSet 3 0 0) 0x61 = true ∧ rdy (.dictAbort key) (staging { opened with placed := true } (kSet 3 0 0)) (kSet 3 0 0) 0x61 = true
    ∧ rdy (.dictAbort key) (host part0 (kSet 3 0 0)) (kSet 3 0 0) 0x61 = true ∧ rdy (.dictAbort key) (host part0 (kSet 3 1 0)) (kSet 3 1 0) 0x61 = true := by decide +kernel
theorem test_dict_staged : after (exec (.dictWriteStaged key) (host part0 (kStaged 28))) (fun t => ((t.sys.stageSet 0).entries, lastDone t)) = some ([(dictKey (dictPart 0 7) 1, 28)], some (stDEFERRED, [0, 0, 0, 0])) := by decide +kernel

/-- A datagram from address 7, port 5, to the management port. -/
def port : Path := .mgmt 7 5 9 (dictDefault (dictKey 0x1100 3))
/-- Where its response goes. -/
def home : Path := port.source
def dmsg (i sub flags n : Nat) (v : Word64) : DictMsg := { path := port, role := 0, transfer := 4, index := i, sub := sub, flags := flags, length := n, code := 0, data := v, segment := [], submit := 0 }
def up : State := host part0 (hcmd 0x13 [])
def servesB (s : State) (path : Path) (submit role transfer index : Nat) (w : Who) : Bool :=
  s.sys.reaches path && s.sys.submitOk path submit && s.answer path index == .serve && (role == 0 || role == 2 || role == 3)
    && !s.sys.transferOpen path.source transfer && s.who path role == some w
theorem of_servesB {s : State} {path : Path} {submit role transfer index : Nat} {w : Who} (h : servesB s path submit role transfer index w = true) :
    s.serves path submit role transfer index w := by
  simpa [servesB, State.serves, and_assoc, or_assoc] using h
def readyB (s : State) (m : DictMsg) (kind : Nat) (w : Who) : Bool :=
  servesB s m.path m.submit m.role m.transfer (s.msgIndex kind (DictMsg.fromSource m)) w && decide (m.flags < 4)
theorem of_readyB {s : State} {m : DictMsg} {kind : Nat} {w : Who} (h : readyB s m kind w = true) : s.readyFor m kind w := by
  rw [readyB, Bool.and_eq_true] at h
  exact ⟨of_servesB h.1, of_decide_eq_true h.2⟩
def withStage (z : StageSet) : State := { up with sys := up.sys.setStage 0xFFFF z }
def modSet : StageSet := { StageSet.none with state := .opened, entries := [(dictKey 0x2000 1, 5000)] }
def transfer0 (kind n : Nat) : Transfer := { path := home, id := 4, role := 0, kind := kind, index := 0x1100, sub := 3, length := n, data := if kind = 1 then List.replicate n 7 else [], next := 0 }
def withTransfer (x : Transfer) : State := { up with sys := { up.sys with dict := { up.sys.dict with transfers := [x] } } }
theorem witness_dictionaryMessages : readyB up (dmsg 0x1000 1 0 0 0#64) 1 .operator = true ∧ up.sys.transferRoom home = true
    ∧ readyB up (dmsg 0x1100 3 1 2 0#64) 2 .operator = true ∧ up.sys.stagedHeld 0x1100 3 = false ∧ readyB up (dmsg 0x1100 3 1 8 0#64) 2 .operator = true ∧ readyB up (dmsg 0x1100 3 0 2 0#64) 2 .operator = true
    ∧ readyB up (dmsg 0x2000 1 1 4 7000#64) 3 .operator = true ∧ readyB up (dmsg 0x2000 1 1 4 3499#64) 3 .operator = true ∧ readyB (withStage modSet) (dmsg 0x2000 1 1 4 3500#64) 3 .operator = true
    ∧ readyB (withStage modSet) (dmsg 0xFFFF 0 0 0 1#64) 4 .operator = true ∧ readyB (withStage modSet) (dmsg 0xFFFF 0 0 0 0#64) 4 .operator = true ∧ (withStage modSet).sys.refuser 0xFFFF modSet = none ∧ (withStage modSet).sys.refuser 0xFFFF { modSet with entries := [(dictKey 0x2010 3, 0)] } ≠ none
    ∧ readyB (withStage modSet) (dmsg 0xFFFF 0 0 0 0#64) 5 .operator = true ∧ readyB (withStage { modSet with placed := true }) (dmsg 0xFFFF 0 0 0 0#64) 5 .operator = true := by decide +kernel
theorem witness_segments : (withTransfer (transfer0 1 9)).answer port 0x1100 = .serve ∧ (withTransfer (transfer0 1 9)).sys.transfer? home 4 = some (transfer0 1 9)
    ∧ (withTransfer (transfer0 1 1025)).sys.transfer? home 4 = some (transfer0 1 1025) ∧ (withTransfer (transfer0 2 9)).sys.transfer? home 4 = some (transfer0 2 9) ∧ up.sys.transfer? home 4 = none
    ∧ (dmsg 0 0 0 0 0#64).code = (transfer0 1 9).next := by decide +kernel
theorem test_msg_write : after (exec (.dictMsgWrite (dmsg 0x1100 3 1 2 0x1234#64)) up) (fun t => t.sys.dv 0x1100 3) = some 0x1234 := by decide +kernel
theorem test_msg_size : after (exec (.dictMsgWrite (dmsg 0x1100 3 1 8 0#64)) up) (fun t => (t.sys.dict.replies.getLast?).map (fun r => fieldN r.data 12 4)) = some (some 0x01010003) := by decide +kernel
theorem witness_dictionaryPorts : up.sys.transfer? home 4 = none ∧ (withTransfer (transfer0 1 9)).sys.transfer? home 4 = some (transfer0 1 9)
    ∧ (up.sys.stageSet 0xFFFF).state ≠ .armed ∧ ((withStage { modSet with state := .armed, placed := true }).sys.stageSet 0xFFFF) = { modSet with state := .armed, placed := true }
    ∧ (modSet.entries.map (fun e => e.1)).Nodup ∧ (up.sys.fn fnBowline).state = .ready ∧ up.sys.plat.powered = true
    ∧ ({ up.sys with dict := { up.sys.dict with i3cAddr := some 0x50 } }).dict.i3cAddr = some 0x50 ∧ (entryOf 0x1000 99).isNone = true := by decide +kernel
theorem test_apply : after (exec (.stagedSetApply 0xFFFF) (withStage { modSet with state := .armed, placed := true })) (fun t => t.sys.dv 0x2000 1) = some 5000 := by decide +kernel

/-! Intake, completion records, residency -/

/-- An entry with lay count `n` for context 1, ring 0. -/
def entry (n : Nat) : Bytes := bytes 128 [(0, 8, n), (8, 2, 1)]
def taking (expect : Nat) : State := world (withSes part0) { owned [] with key := some 5#256, rings := ctx1.rings.set 0 { Ring.empty with expect := expect } } id
theorem witness_intake : (entry 1).length = 128 ∧ fieldN (entry 1) 0 8 = ((taking 1).sys.ring 1 0).expect ∧ fieldN (entry 1) 0 8 < ((taking 2).sys.ring 1 0).expect ∧ ((taking 1).sys.ctx 1).opened = true
    ∧ ((taking 1).sys.ctx 1).resident = true ∧ ((taking 1).sys.ctx 1).closing = false ∧ ((taking 1).sys.ctx 1).intakeHeld = false ∧ ((taking 1).sys.ctx 1).key = some 5#256 ∧ ((taking 1).sys.ring 1 0).tail = 0#128
    ∧ fieldN (entry 1) 8 2 = 1 ∧ fieldN (entry 1) 0xA 1 = 0 ∧ fieldN (entry 1) 0xB 1 = 0 ∧ ((taking 1).sys.ctx 2).opened = false ∧ ((taking 1).sys.part 0).state = .active := by decide +kernel
theorem test_stale_entry : after (exec (.intakeEntry 0 1 0 0 (entry 1)) (taking 2)) (fun t => ((t.sys.ring 1 0).expect, (t.sys.ctx 1).usage.rejected)) = some (2, 1) := by decide +kernel
def rec0 (irq : Bool) : CompRec := ⟨0, 1, 0, 0, List.replicate 20 0, irq, true⟩
def recorded (irq sent : Bool) (msix : Nat) (k : Option (BitVec 256)) (plain : Bool) : State :=
  world part0 { ctx1 with outbox := [{ rec0 irq with plain := plain }], compEntries := 64, msix := msix, key := k } (fun y => { y with bar4 := [(0, { Bar4.empty with sent := if sent then [msix] else [], due := if sent then [msix] else [] })] })
theorem witness_completion : ((recorded false false 0xFFFF none true).sys.ctx 1).outbox = [rec0 false] ∧ ((recorded false false 0xFFFF none true).sys.ctx 1).seq0 < ((recorded false false 0xFFFF none true).sys.ctx 1).consumed + 64
    ∧ ((recorded true false 3 none true).sys.ctx 1).outbox = [rec0 true] ∧ 3 ∈ ((recorded true true 3 none true).sys.msix 0).sent ∧ ((recorded true false 3 (some 5#256) false).sys.ctx 1).key = some 5#256
    ∧ ctx1.outbox = [] ∧ 3 ∈ ((recorded true true 3 none true).sys.msix 0).due ∧ ((recorded true true 3 none true).sys.ctx 1).msix ≠ 0xFFFF ∧ ((recorded true true 3 none true).sys.ctx 1).part = 0 := by decide +kernel
theorem test_record : after (exec (.completionRecord 1) (recorded true false 3 none true)) (fun t => (t.sys.hostOut.map (fun w => (w.addr, w.data.length)), t.sys.msixOut)) = some ([(0x10000, 64)], [(0, 3)]) := by decide +kernel
def wanting : State := world part0 { ctx1 with resident := false, want := true } id
def evicting : State := world part0 { ctx1 with evictFor := some 0 } (fun y => { y with bights := y.bights.set 0 { Bight.idle with run := some runRef, stopped := true } })
def saved1 : Bight := { Bight.idle with run := some { runRef with ctx := 2, rank := 0 } }
/-- Context 1 runs on Bight 0; context 2 has a saved Bight 0. -/
def sharing (g : Option Region) : State :=
  let s := world part0 ctx1 (fun y => { y with bights := y.bights.set 0 { Bight.idle with run := some runRef, region := g } })
  { s with sys := (s.sys.setCtx 2 { ctx1 with area := [6] }).setSaved 2 0 saved1 }
theorem witness_residency : (wanting.sys.ctx 1).resident = false ∧ (wanting.sys.ctx 1).want = true ∧ (∀ e ∈ wanting.sys.ctxs, e.2.evictFor ≠ some 1) ∧ wanting.sys.residents.length < 96
    ∧ wanting.sys.residents.countP (fun e => e.2.part == 0 && !e.2.pool) < fieldN config 0x12 1 ∧ (evicting.sys.ctx 1).evictFor.isSome = true
    ∧ (evicting.sys.bight 0).run = some runRef ∧ ((sharing none).sys.ctx 2).opened = true ∧ (sharing none).sys.wantsBight 2 0 = true ∧ (sharing none).sys.wantsBight 0 0 = false ∧ (sharing none).sys.wantsBight 1 0 = false ∧ (sharing none).sys.quiet 0 = true ∧ (sharing (some (region 0#8 0#8))).sys.quiet 0 = false
    ∧ (sharing none).sys.holder 0 = some 0 ∧ (sharing none).sys.fnReady (fnStrand 0) = true ∧ ((sharing none).sys.savedBight 2 0).run.isSome = true := by decide +kernel
theorem test_quantum : after (exec (.bightQuantumExpiry 0) (sharing none)) (fun t => (((t.sys.bight 0).run.map (fun r => r.ctx)), ((t.sys.savedBight 1 0).run.map (fun r => r.ctx)), (t.sys.bight 0).turn)) = some (some 2, some 1, 2) := by decide +kernel

/-! Temperature, margining, links and timers -/

def empty : Partition := Partition.absent
def req : ReqF := { path := port, role := 0, transfer := 4, submit := 0 }
def bare : State := world empty ctx1 id
def heated (x : Therm) : State := { up with sys := up.sys.setTherm 0 x }
def margining (n : Nat) : State := { bare with sys := { bare.sys with plat := { upPlat with margin := { Margin.idle with status := n } } } }
def unpowered : State := { bare with sys := { bare.sys with plat := { upPlat with powered := false, fns := [] } } }
theorem test_critical : after (exec (.thermalReading 0 95) up) (fun t => (t.sys.thermOf 0).level) = some 4 ∧ after (exec (.thermalReading 0 94) up) (fun t => (t.sys.thermOf 0).level) = some 0
    ∧ after (exec (.thermalReading 0 91) (heated ⟨4, 0, 0, 0, 0⟩)) (fun t => (t.sys.thermOf 0).level) = some 3 ∧ after (exec (.thermalReading 0 92) (heated ⟨4, 0, 0, 0, 0⟩)) (fun t => (t.sys.thermOf 0).level) = some 4 := by decide +kernel
theorem witness_thermal : (up.sys.fn 0x20).state = .ready ∧ (bare.sys.fn 0x20).state = .ready ∧ (State.reset.sys.fn 0x20).state = .off ∧ up.sys.dv 0x2010 3 = 95 ∧ up.sys.dv 0x2010 2 = 85
    ∧ ((heated ⟨2, 85, 1, 0, 0⟩).sys.thermOf 0).level ≤ 2 ∧ (85 : Int) * 1 ≤ 85 ∧ ((heated ⟨1, 81, 1, 0, 0⟩).sys.thermOf 0).sum < (85 - 3) * 1 ∧ ((heated ⟨4, 85, 1, 0, 0⟩).sys.thermOf 0).level = 4
    ∧ (up.sys.thermOf 0).count = 0 := by decide +kernel
theorem witness_margining : servesB bare port 0 0 4 0x9000 .operator = true ∧ bare.sys.dv 0x9000 2 = 0 ∧ (∀ h ∈ targetHanks 0, bare.sys.holder h = none) ∧ (∃ h ∈ targetHanks 0, (up.sys.holder h).isSome = true)
    ∧ servesB up port 0 0 4 0x9000 .operator = true ∧ servesB unpowered port 0 0 4 0x9000 .operator = false ∧ bare.sys.plat.margin.running = false ∧ (margining 1).sys.plat.margin.running = true
    ∧ servesB (margining 1) port 0 0 4 0x9000 .operator = true := by decide +kernel
def coolDown : State := { bare with sys := { bare.sys with plat := { upPlat with fns := upPlat.fns.filter (fun e => e.1 != 0x20) } } }
theorem witness_marginingClosed : servesB coolDown port 0 0 4 0x9000 .operator = true ∧ (coolDown.sys.fn 0x20).state ≠ .ready := by decide +kernel
theorem test_margin_status : after (exec (.supplyScan req) bare) (fun t => (t.sys.plat.margin.status, t.sys.plat.margin.supply)) = some (1, true) := by decide +kernel

def fr (n : Nat) : Frame := { kind := 0, first := true, last := true, coll := false, seq := n, collId := 0, msg := 0, offset := 0, poison := 0, payload := [7] }
def fabric (fails : Nat) (x : Flow) : State :=
  world part0 ctx1 (fun y => { y with fab := { y.fab with ports := y.fab.ports.set 0 ⟨.up, fails⟩, flows := [(5, x)] }
                                      bights := y.bights.set 0 { Bight.idle with run := some runRef } })
def sending : Flow := { flowOf 0 with unacked := [fr 3], seq := 4 }
def switched (x : Flow) : State := { fabric 0 x with sys := { (fabric 0 x).sys with dict := { (fabric 0 x).sys.dict with vals := [(dictKey 0x1110 3, 1)] } } }
theorem witness_linksAndTimers : ((fabric 0 sending).sys.port 0).link = .up ∧ ((fabric 0 sending).sys.port 1).link = .disabled ∧ ({ Port.off with link := .training } : Port).link = .training
    ∧ servesB (fabric 0 sending) port 0 0 4 0x1110 .operator = true ∧ ((fabric 0 sending).sys.flow 5).state = .open ∧ ((fabric 0 sending).sys.flow 5).unacked.find? (fun e => e.seq == 3) = some (fr 3)
    ∧ (fabric 0 sending).sys.portSwitched 0 = false ∧ ((fabric 14 sending).sys.port 0).fails + 1 < 16 ∧ 16 ≤ ((fabric 15 sending).sys.port 0).fails + 1 ∧ (∀ e ∈ sending.unacked, e.seq ≠ 4)
    ∧ (flowOf 1).role = 1 ∧ ({ flowOf 1 with sinceAck := 1 } : Flow).sinceAck ≠ 0 ∧ (switched sending).sys.portSwitched 0 = true ∧ ((switched sending).sys.flow 5).role = 0
    ∧ ({ sending with state := .opening } : Flow).state = .opening := by decide +kernel
theorem test_lock_lost : after (exec (.lockLost 0) (fabric 0 sending)) (fun t => ((t.sys.flow 5).state, (t.sys.port 0).link)) = some (.lost, .disabled) := by decide +kernel
theorem test_retransmit_limit : after (exec (.retransmissionTimeout 5 3) (fabric 15 sending)) (fun t => ((t.sys.flow 5).state, (t.sys.port 0).fails)) = some (.lost, 0) := by decide +kernel

/-! Frames -/

/-- A 32-byte header in direct mode: type code, flags, payload length, flow 5. -/
def headOf (kind flags n : Nat) : Bytes := bytes 32 [(0, 1, 0x10 + kind), (1, 1, flags), (2, 2, n), (4, 4, 5)]
/-- Payload `plain` sealed under key 0. -/
def sealed (kind flags : Nat) (ack : Bool) (plain : Bytes) : Bytes :=
  let h := headOf kind flags plain.length
  let ct := gcmCrypt 0#256 (frameNonce 0 ack) plain
  h ++ ct ++ tagBytes (Config.gcmTag 0#256 (frameNonce 0 ack) h ct)
theorem crypt_crypt (k : BitVec 256) (n d : Bytes) : gcmCrypt k n (gcmCrypt k n d) = d := by
  apply List.ext_getElem <;> simp [gcmCrypt]
theorem open_eq {k : BitVec 256} {n t h p : Bytes} (hh : authHead t = h) (hc : (t.drop 32).take (lengthOf t) = gcmCrypt k n p)
    (ht : t.drop (32 + lengthOf t) = tagBytes (Config.gcmTag k n h (gcmCrypt k n p))) : Machine.openFrame k n t = some p := by
  simp only [Machine.openFrame, hh, hc, ht, if_pos, crypt_crypt]
theorem witness_dataOpens : Machine.openFrame 0#256 (frameNonce 0 false) (sealed 0 3 false [1, 2]) = some [1, 2] := open_eq (h := headOf 0 3 2) (by decide +kernel) rfl rfl
theorem witness_slowOpens : Machine.openFrame 0#256 (frameNonce 0 false) (sealed 1 3 false [1, 2]) = some [1, 2] := open_eq (h := headOf 1 3 2) (by decide +kernel) rfl rfl
theorem witness_abortOpens : Machine.openFrame 0#256 (frameNonce 0 false) (sealed 2 3 false [9, 0, 0, 0]) = some [9, 0, 0, 0] := open_eq (h := headOf 2 3 4) (by decide +kernel) rfl rfl
theorem witness_ackOpens : Machine.openFrame 0#256 (frameNonce 0 true) (sealed 3 0 true (List.replicate 48 0)) = some (List.replicate 48 0) := open_eq (h := headOf 3 0 48) (by decide +kernel) rfl rfl
def frameAt (d : Bytes) : FrameF := { q := 0, data := d, fixed := 0, fec := false }
def receiving : Flow := { flowOf 1 with ctx := 1 }
theorem witness_frames : ((fabric 0 receiving).sys.port 0).link = .up ∧ (fabric 0 receiving).sys.portSwitched 0 = false ∧ (frameAt []).fec = false ∧ receiving.state = .open ∧ receiving.role = 1 ∧ receiving.opener = none
    ∧ receiving.early = [] ∧ receiving.sinceAck + 1 < 8 ∧ (fabric 0 receiving).sys.fab.colls = [] ∧ receiving.target = 0 ∧ receiving.oversize = false ∧ (fabric 0 receiving).sys.fenceFlow 5 = false
    ∧ ((fabric 0 receiving).sys.bight 0).run = some runRef ∧ runRef.ctx = receiving.ctx ∧ receiving.destBight < 80 ∧ 2 ≤ receiving.slotBytes
    ∧ ((fabric 0 receiving).sys.part 0).outcome 9 = none ∧ (fabric 0 receiving).sys.collOf 0 9 = none ∧ ((fabric 0 sending).sys.flow 5).role = 0 ∧ sending.queue = [] := by decide +kernel
theorem witness_frameFields : (sealed 0 3 false [1, 2]).length = 50 ∧ fieldN (sealed 0 3 false [1, 2]) 0 1 = 0x10 ∧ fieldN (sealed 0 3 false [1, 2]) 1 1 = 3 ∧ dstFlow (sealed 0 3 false [1, 2]) = 5 ∧ fieldN (sealed 0 3 false [1, 2]) 8 8 = 0
    ∧ lengthOk (sealed 0 3 false [1, 2]) = true ∧ fieldN (sealed 0 3 false [1, 2]) 0x1C 4 = 0 ∧ fieldN (sealed 0 3 false [1, 2]) 0x18 4 = 0 ∧ lengthOf (sealed 3 0 true (List.replicate 48 0)) = 48
    ∧ lengthOk (sealed 3 0 true (List.replicate 48 0)) = true ∧ fieldN (List.replicate 48 0) 0 32 = 0 ∧ fieldN (sealed 1 3 false [1, 2]) 0 1 = 0x11 ∧ fieldN (sealed 2 3 false [9, 0, 0, 0]) 0 1 = 0x12 := by decide +kernel
theorem witness_frameFails : lengthOk (headOf 0 3 2) = false ∧ 32 ≤ (headOf 0 3 2).length ∧ fieldN (headOf 0 3 2) 8 8 = receiving.seq ∧ fieldN (headOf 0 3 2) 8 8 < ({ receiving with seq := 1 } : Flow).seq := by decide +kernel
theorem test_tag_fails : after (exec (.dataFrame (frameAt (headOf 0 3 2))) (fabric 0 receiving)) (fun t => ((t.sys.flow 5).tagFails, (t.sys.flow 5).failed)) = some (1, [0])
    ∧ after (exec (.dataFrame (frameAt (headOf 0 3 2))) (fabric 0 { receiving with failed := [0] })) (fun t => (t.sys.flow 5).state) = some .alarmed := by decide +kernel
def aborting : Coll := { part := 0, ctx := 1, ring := 0, lay := 1, plan := planOf (planB 1), own := Blob.ofBytes [], started := true, reduced := 0, resulted := 0, gathered := [], nan := false, inf := false, bad := false, first := 0#32, seen := .clean }
def abortState (cs : List Coll) (os : List Outcome) : State :=
  let s := fabric 0 receiving
  { s with sys := { s.sys with fab := { s.sys.fab with colls := cs }, parts := s.sys.parts.set 0 { part0 with outcomes := os } } }
theorem witness_abort : (abortState [aborting] []).sys.collOf 0 9 = some aborting ∧ fieldN [9, 0, 0, 0] 0 4 = 9 ∧ (((abortState [] [outcome]).sys.part 0).outcome 9).isSome = true ∧ (abortState [] [outcome]).sys.collOf 0 9 = none := by decide +kernel
/-- An OPEN frame, sealed under K_OPEN of partition 0 and a zero peer. -/
def openPlain : Bytes := List.replicate 52 0
def openKey : BitVec 256 := (fabric 0 (flowOf 0)).sys.kOpen 0 0 0
def openCt : Bytes := gcmCrypt openKey (List.replicate 12 0) openPlain
def openD : Bytes := headOf 4 0 64 ++ List.replicate 12 0 ++ openCt ++ tagBytes (Config.gcmTag openKey (List.replicate 12 0) (headOf 4 0 64) openCt)
def openingS (nonce : Byte) : State := fabric 0 { flowOf 0 with state := .opening, nLocal := List.replicate 16 nonce }
theorem mid_append {a b c : Bytes} {n m : Nat} (ha : a.length = n) (hb : b.length = m) : ((a ++ b ++ c).drop n).take m = b ∧ (a ++ b ++ c).drop (n + m) = c := by
  subst ha hb; simp
theorem openCt_length : openCt.length = 52 := by simp [openCt, gcmCrypt, openPlain]
theorem witness_openFrame : openD.length = 112 ∧ lengthOf openD = 64 ∧ fieldN openD 0 1 = 0x14 ∧ sliceB openD 32 12 = List.replicate 12 0 ∧ authHead openD = headOf 4 0 64 := by decide +kernel
theorem witness_openTag : gcmCrypt openKey (sliceB openD 32 12) ((openD.drop 44).take 52) = openPlain
    ∧ tagBytes (Config.gcmTag openKey (sliceB openD 32 12) (authHead openD) ((openD.drop 44).take 52)) = openD.drop 96 := by
  have h := mid_append (c := tagBytes (Config.gcmTag openKey (List.replicate 12 0) (headOf 4 0 64) openCt)) (a := headOf 4 0 64 ++ List.replicate 12 0) (n := 44) (by decide +kernel) openCt_length
  rw [witness_openFrame.2.2.2.1, witness_openFrame.2.2.2.2]
  exact ⟨by rw [openD, h.1]; exact crypt_crypt _ _ _, by rw [openD, h.1, h.2]⟩
theorem witness_openFlow : ((openingS 0).sys.flow 5).state = .opening ∧ ((openingS 0).sys.flow 5).nLocal = sliceB openPlain 28 16 ∧ ((openingS 1).sys.flow 5).nLocal ≠ sliceB openPlain 28 16
    ∧ fieldN openPlain 0 4 = (flowOf 0).peerFlow ∧ fieldN openPlain 4 4 = (flowOf 0).peerNode ∧ fieldN openPlain 8 2 = (flowOf 0).peerPart := by decide +kernel
def mgmtD (dst hops : Nat) : Bytes := headOf 5 0 64 ++ bytes 64 [(0, 4, dst), (4, 4, 8), (0x10, 1, hops), (24, 1, 1)]
def routed (v : Nat) : State :=
  let s := fabric 0 receiving
  { s with sys := { s.sys with dict := { s.sys.dict with vals := [(dictKey 0x1100 4, 1), (dictKey 0x1101 1, v)] } } }
theorem witness_mgmtFrame : ((routed 0).sys.dv 0x1100 4).testBit 0 = true ∧ (mgmtD 7 1).length = 32 + lengthOf (mgmtD 7 1) ∧ 64 ≤ lengthOf (mgmtD 7 1) ∧ fieldN (((mgmtD 7 1).drop 32).take 64) 0 4 ≠ (routed 0).sys.node
    ∧ (routed (8 * 2 ^ 32)).sys.route 7 = some 0 ∧ (routed 0).sys.route 7 = none ∧ fieldN (((mgmtD 7 0).drop 32).take 64) 0x10 1 = 0 ∧ fieldN (((mgmtD 0 1).drop 32).take 64) 0 4 = (routed 0).sys.node
    ∧ (routed 0).sys.dv 0x1100 5 = 0 := by decide +kernel
/-- An in-band READ for this node, authenticated under key 1. -/
def inbandMsg : Bytes := bytes 48 [(4, 4, 8), (8, 8, 3), (0x10, 1, 1), (24, 1, 1)]
def inbandTag : Bytes := leBytes 16 (Config.kmac128 (leBytes 32 1) inbandMsg "CZ3220 INBAND").toNat
def inbandD : Bytes := headOf 5 0 64 ++ (inbandMsg ++ inbandTag)
def keyedIn : State :=
  let s := fabric 0 receiving
  { s with sys := { s.sys with dict := { s.sys.dict with vals := [(dictKey 0x1100 4, 1), (dictKey 0x1100 5, 1)] } } }
theorem witness_inband : lengthOf inbandD = 64 ∧ inbandD.length = 96 ∧ (inbandD.drop 32).take 64 = inbandMsg ++ inbandTag ∧ keyedIn.sys.dv 0x1100 5 = 1 ∧ fieldN inbandMsg 24 1 = 1 ∧ fieldN inbandMsg 0 4 = keyedIn.sys.node
    ∧ keyedIn.sys.dict.inband = [] ∧ (inbandMsg ++ inbandTag).take 48 = inbandMsg
    ∧ leBytes 16 (Config.kmac128 (leBytes 32 1) ((inbandMsg ++ inbandTag).take 48) "CZ3220 INBAND").toNat = (inbandMsg ++ inbandTag).drop 48 := by
  have hm : inbandMsg.length = 48 := by decide +kernel
  have ht : inbandTag.length = 16 := by simp [inbandTag, leBytes]
  have hh : (headOf 5 0 64).length = 32 := by decide +kernel
  have e : (inbandD.drop 32).take 64 = inbandMsg ++ inbandTag := by
    simpa [inbandD] using (mid_append (c := []) hh (show (inbandMsg ++ inbandTag).length = 64 by simp [hm, ht])).1
  have f : (inbandMsg ++ inbandTag).take 48 = inbandMsg := by rw [← hm]; simp
  refine ⟨by decide +kernel, by simp [inbandD, hm, ht, hh], e, by decide +kernel, by decide +kernel, by decide +kernel, by decide +kernel, f, ?_⟩
  rw [f, ← hm]; simp [inbandTag]

/-! Resets, power, functions -/

def quiet0 : State := world (withSes part0) { owned [] with area := [] } id
theorem witness_still : quiet0.sys.still 0 := by
  refine ⟨by decide +kernel, fun c _ => ?_, by decide +kernel, by decide +kernel⟩
  by_cases h0 : c = 0
  · subst h0; decide +kernel
  · by_cases h1 : c = 1
    · subst h1; decide +kernel
    · have e : quiet0.sys.ctxs = [(0, ctx0), (1, { owned [] with area := [] })] := rfl
      simp [Sys.ctx, SMap.get, e, Ne.symm h0, Ne.symm h1, Context.cmds, Context.closed, Ring.empty]
theorem witness_allStill : ∀ p < 80, State.reset.sys.still p := by
  have h : ∀ p < 80, (State.reset.sys.part p).sigma = none := by decide +kernel
  exact fun p hp => ⟨by decide +kernel, fun _ _ => rfl, h p hp, fun x hx => by cases hx⟩
def fnState (f : Nat) (x : Fn) : State := { up with sys := { up.sys with plat := { upPlat with fns := upPlat.fns.map (fun e => if e.1 = f then (f, x) else e) } } }
def dark (perst : Bool) : State := { up with sys := { up.sys with plat := { upPlat with perst := perst, fns := upPlat.fns.map (fun e => if e.1 = fnHost then (fnHost, Fn.off) else e) } } }
theorem witness_hostResets : up.sys.plat.perst = false ∧ (dark true).sys.plat.perst = true ∧ (dark true).fuses.lcState.operates = true ∧ (dark true).sys.fnUp fnBowline = true ∧ ((dark true).sys.fn fnHost).state = .off
    ∧ (dark true).sys.dv 0x1201 2 = 1 ∧ State.reset.sys.plat.perst = true ∧ State.reset.sys.fnUp fnBowline = false ∧ (up.sys.fn fnHost).state = .ready
    ∧ ((fnState fnHost ⟨.degraded, false, 0x103⟩).sys.fn fnHost).state = .degraded := by decide +kernel
theorem test_flr : after (exec (.functionLevelReset 0) quiet0) (fun t => ((t.sys.ctx 1).opened, (t.sys.ctx 0).opened)) = some (false, true)
    ∧ after (exec (.functionLevelReset 0) { quiet0 with sys := quiet0.sys.setPart 0 { withSes part0 with sessions := [{ ses with ctx0 := 1 }] } }) (fun t => ((t.sys.ctx 1).opened, (t.sys.ctx 0).opened)) = some (true, true) := by decide +kernel
theorem test_pf_reset : after (exec (.functionLevelReset 80) { up with sys := { up.sys with opEvents := [eventRec 1 []] } }) (fun t => t.sys.opEvents.length) = some 0
    ∧ exec (.functionLevelReset 81) up = .next up := ⟨by decide +kernel, rfl⟩
theorem test_retrain : after (exec (.hostLinkRetrain false) up) (fun t => t.sys.fn fnHost) = some ⟨.degraded, false, 0x103⟩ := by decide +kernel

def powering (x : Power) : State := { up with sys := { up.sys with plat := { upPlat with power := x } } }
theorem witness_power : State.reset.sys.plat.powered = false ∧ State.reset.sys.plat.latched = false ∧ up.sys.plat.powered = true ∧ ({ Plat.dark with latched := true } : Plat).latched = true ∧ up.sys.dv 0x2000 1 = 7000
    ∧ (powering ⟨0, 0, 7000000001, 1, false, false, 0, 0⟩).sys.dv 0x2000 1 * 1000000 * 1 < 7000000001 ∧ 6649999999 * 100 < 7000000000 * 95 ∧ 7000000000 * 95 ≤ 6650000000 * 100 := by decide +kernel
theorem test_power_window : after (exec .powerWindowEnd (powering ⟨3, 0, 7000000001, 1, false, false, 0, 0⟩)) (fun t => t.sys.plat.power.level) = some 4
    ∧ after (exec .powerWindowEnd (powering ⟨3, 7, 6649999999, 1, false, false, 0, 0⟩)) (fun t => t.sys.plat.power.level) = some 2
    ∧ after (exec (.powerSample 140000 55001) up) (fun t => t.sys.plat.power.level) = some 7 := by decide +kernel

def idleStrand : State := fnState 0x10 ⟨.waking, false, 0⟩
theorem witness_functions : isFunction 0x20 = true ∧ (coolDown.sys.fn 0x20).state = .off ∧ coolDown.fuses.lcState.operates = true ∧ coolDown.sys.dv (0x1200 + 0x20) 2 = 1 ∧ coolDown.sys.depsUp 0x20 = true
    ∧ ((fnState 0x20 ⟨.waking, false, 0⟩).sys.fn 0x20).state = .waking ∧ isHawser 0x20 = false ∧ isStrand 0x20 = false ∧ ((fnState fnHost ⟨.waking, false, 0⟩).sys.fn fnHost).state = .waking
    ∧ (idleStrand.sys.fn 0x10).state = .waking ∧ isStrand 0x10 = true ∧ ((fnState 0x40 ⟨.waking, false, 0⟩).sys.fn 0x40).state = .waking ∧ isHawser 0x40 = true
    ∧ ((fnState fnBowline ⟨.waking, false, 0⟩).sys.fn fnBowline).state = .waking ∧ (fnState fnBowline ⟨.waking, false, 0⟩).fuses.lcState = .production
    ∧ servesB up port 0 0 4 (0x1200 + 0x20) .operator = true ∧ servesB up port 0 0 4 (0x1200 + 2) .operator = true ∧ isFunction 2 = false ∧ up.sys.plat.margin.running = false
    ∧ ((fnState 0x40 ⟨.draining, true, 0⟩).sys.fn 0x40).state = .draining ∧ (fnState 0x40 ⟨.draining, true, 0⟩).sys.fab.flows = [] ∧ (up.sys.fn 0x20).state = .ready ∧ (up.sys.fn 0x40).state ≠ .draining
    ∧ isCleat 0x50 = true ∧ isStack 0x20 = true := by decide +kernel
def drainingH : State :=
  let s := fabric 0 (flowOf 0)
  { s with sys := { s.sys with plat := { upPlat with fns := upPlat.fns.map (fun e => if e.1 = 0x40 then (0x40, ⟨.draining, false, 0⟩) else e) } } }
theorem witness_hawserDrain : (drainingH.sys.fn 0x40).state = .draining ∧ ∃ e ∈ drainingH.sys.fab.flows, flowDie e.1 = 0x40 - 0x40 ∧ e.2.state ≠ .free := by decide +kernel
theorem test_enable_off : after (exec (.enable req 0x20 false) up) (fun t => (t.sys.fn 0x20).state) = some .draining
    ∧ after (exec (.enable req fnHost false) up) (fun t => (t.sys.dict.replies.getLast?).map (fun r => fieldN r.data 12 4)) = some (some 0x02010002) := by decide +kernel
theorem test_uncontained : after (exec (.uncontainedError 0x50 0) up) (fun t => t.sys.fn 0x50) = some ⟨.failed, false, 7⟩ := by decide +kernel

/-! Memory controllers and slices -/

def tf (line : Nat) (flips : List (BitVec 144)) (tag : BitVec 144) : TierF := ⟨0, 0, line, List.replicate 64 5, flips, tag, [], [], []⟩
def keys0 : KeySet := ⟨1#256, 2#128, 3#256⟩
def tierState (z : Seize) (P : Partition) : State := { world P ctx1 id with sys := (world P ctx1 id).sys.setRegion 0 0 z }
def keyed0 : Seize := { Seize.empty with keys := some keys0, keyed := true }
/-- Two symbols wrong; a word of the code whose low data half is not 0. -/
def twoWrong : BitVec 144 := flipSymbol (flipSymbol 0#144 0 1#4) 1 1#4
def codeword : BitVec 144 := 0x575600000000000000000000000000000001#144
def keyedTier : State := tierState keyed0 empty
def pageAtEnd : Seize := { keyed0 with minors := [(0, 127)], majors := [(0, 2 ^ 64 - 1)] }
def apart0 (c : CacheLine) (s : State) : State := { s with sys := { s.sys with mem := s.sys.mem.setLine 0 0 c } }
theorem witness_tierAccess : keyedTier.sys.tierWaits 0 0 = false ∧ State.reset.sys.tierWaits 0 0 = true ∧ keyedTier.sys.waiting = [] ∧ ((keyedTier.sys.region 0 0).keysAt 0).isSome = true ∧ (bare.sys.region 0 0).keysAt 0 = none
    ∧ (keyedTier.sys.region 0 0).listed 0 = false ∧ (keyedTier.sys.region 0 0).failed = [] ∧ 0 ∉ (keyedTier.sys.region 0 0).stuck ∧ ({ keyed0 with unknownAll := true } : Seize).listed 0 = true
    ∧ (tierState { keyed0 with unknownAll := true } empty).sys.tierWaits 0 0 = false ∧ keyedTier.sys.memKey 0 0 0 = physKey 0 0 0 ∧ (∀ i < 4, keyedTier.sys.mem.data.mark (physKey 0 0 0 / 16 + i) = .clean)
    ∧ classify (syndrome twoWrong) = .bad ∧ (tierState keyed0 part0).sys.holder 0 = some 0 ∧ ((tierState keyed0 part0).sys.part 0).standing = true ∧ fieldN policy 0xB 1 % 2 = 0
    ∧ (tierState keyed0 part0).sys.tierWaits 0 0 = false ∧ syndrome codeword = Synd.zero ∧ (codeword.setWidth 128).extractLsb' 0 64 ≠ 0#64 ∧ keyedTier.sys.holder 0 = none
    ∧ (keyedTier.sys.region 0 0).minors.get 0 0 < 127 := by decide +kernel
theorem witness_tierEnds : ((tierState pageAtEnd empty).sys.region 0 0).minors.get 0 0 = 127 ∧ ((tierState pageAtEnd empty).sys.region 0 0).majors.get 0 0 = 2 ^ 64 - 1
    ∧ 0 ∈ ((tierState { keyed0 with stuck := [0] } empty).sys.region 0 0).stuck ∧ ({ keyed0 with minors := [(0, 127)] } : Seize).minors.get 0 0 = 127 ∧ ({ keyed0 with minors := [(0, 127)] } : Seize).majors.get 0 0 < 2 ^ 64 - 1
    ∧ (apart0 ⟨true, true, true⟩ keyedTier).sys.mem.line 0 0 = ⟨true, true, true⟩ ∧ (apart0 ⟨true, true, true⟩ keyedTier).sys.memKey 0 0 0 = physKey 3 0 0 := by decide +kernel
theorem test_tier_corrects : after (exec (.tierRead (tf 0 [flipSymbol 0#144 35 9#4] 0#144)) keyedTier) (fun t => (t.sys.log.counters.get 0 (dictKey 0x7100 1), (t.sys.mem.delivered.map (fun d => d.words.map (fun w => w.1.isBad)))))
    = some (1, some [false, false, false, false]) := by decide +kernel
theorem test_tier_path : after (exec (.tierRead (tf 64 [] 0#144)) keyedTier) (fun t => (t.sys.region 0 0).held.map (fun e => (thimbleLevel e.1, thimbleIndex e.1, e.2)))
    = some [(4, 0, false), (3, 0, false), (2, 0, false), (1, 0, false), (0, 1, false)] := by decide +kernel
theorem test_tier_poisons : after (exec (.tierRead (tf 0 [twoWrong] 0#144)) keyedTier) (fun t => ((t.sys.mem.data.mark (physKey 0 0 0 / 16)).isBad, (t.sys.mem.data.mark (physKey 0 0 0 / 16 + 1)).isBad)) = some (true, false) := by decide +kernel
theorem test_tier_write : after (exec (.tierWrite (tf 3 [] 0#144)) keyedTier) (fun t => ((t.sys.region 0 0).minors.get 0 3, t.sys.mem.data.byte (physKey 0 0 192), t.sys.mem.data.byte (physKey 0 0 256))) = some (1, 5#8, 0#8) := by decide +kernel
theorem test_tier_stuck : after (exec (.tierWrite (tf 0 [] 0#144)) (tierState pageAtEnd empty)) (fun t => ((t.sys.region 0 0).stuck, (t.sys.mem.data.mark (physKey 0 0 0 / 16)).isBad)) = some ([0], true) := by decide +kernel
theorem test_tier_unkeyed : after (exec (.tierRead (tf 0 [] 0#144)) bare) (fun t => t.sys.mem.delivered) = some none := by decide +kernel
theorem test_tier_end : exec (.tierRead (tf 218726400 [] 0#144)) bare = .fault .noSuchAddress := rfl

/-- The worked example of R194; the places of a codeword's symbols (R196, R202). -/
theorem test_places : channelPair 1001510400 = 2 ∧ pairSegment 1001510400 = 978037 ∧ segmentByte 1001510400 = 0 ∧ pairChannels 1 2 = (10, 14) ∧ subChannel 3 256 = 7 ∧ subSegment 512 = 1 ∧ hbmSymbol 1 17 = 35
    ∧ lpddrSymbol 11 2 = 35 ∧ lpddrSymbol 6 0 = 16 ∧ flatSymbol 143 = 35 ∧ carrierWord (flipSymbol 0#144 16 7#4) 1 = 7#72 ∧ carrierWord (flipSymbol 0#144 33 7#4) 0 = 7#72 <<< 68 := by decide

def cf0 (window : Bool) (line : Nat) (from_ : Fin 80) (w : Option (Nat × Bytes)) (evict : Bool) : CacheF := ⟨0, window, line, from_, w, [], [], evict⟩
def keyedUp : State := { up with sys := up.sys.setRegion 0 0 keyed0 }
theorem witness_scrubAndCache : bare.sys.dv 0x2010 1 ≠ 0 ∧ ({ bare.sys with dict := { bare.sys.dict with vals := [(dictKey 0x2010 1, 0)] } }).dv 0x2010 1 = 0 ∧ bare.sys.mem.scrubAt.get 0 0 = 0
    ∧ bare.sys.mem.data.mark (bare.sys.memKey 0 0 0 / 16) = .clean ∧ up.sys.holder 0 = some 0 ∧ up.sys.holder 1 = some 0 ∧ up.sys.holder 2 = none ∧ (up.sys.region 0 0).listed 0 = false ∧ (up.sys.region 0 0).failed = []
    ∧ 256 * 0 < (up.sys.part 0).windowBytes ∧ 0 < (up.sys.part 0).windowBytes ∧ (apart0 ⟨true, false, true⟩ up).sys.mem.line 0 0 = ⟨true, false, true⟩ ∧ (apart0 ⟨true, true, true⟩ up).sys.holder 0 = some 0
    ∧ (up.sys.region 0 0).stuck = [] ∧ ∀ i < 4, (up.sys.region 0 0).minors.get 0 i < 127 := by decide +kernel
theorem test_cache_write : after (exec (.cacheAccess (cf0 false 2 1 (some (255, [9])) false)) keyedUp) (fun t => (t.sys.mem.data.byte (physKey 0 0 767), t.sys.mem.line 0 2)) = some (9#8, ⟨true, true, true⟩) := by decide +kernel
theorem test_cache_refetch : after (exec (.cacheAccess { cf0 false 0 1 none false with bad := [3] }) (apart0 ⟨true, false, true⟩ keyedUp)) (fun t => (t.sys.mem.line 0 0, t.sys.log.counters.get 0 (dictKey 0x7100 1)))
    = some (⟨true, false, false⟩, 1) := by decide +kernel
theorem test_scrub : after (exec (.scrubRead ⟨0, twoWrong⟩) bare) (fun t => (t.sys.mem.scrubAt.get 0 0, (t.sys.mem.data.mark (physKey 0 0 0 / 16)).isBad)) = some (1, true) := by decide +kernel

/-- Object 0 of tier 1, and object 1 of tier 2, its mirror. -/
def mirrored : Partition := { part0 with objs := [(0, { obj 0 0 1 with mirror := some 1 }), (1, obj 1 0 1)] }
/-- Partition 1, on hank 2, which imports object 0 of partition 0. -/
def importing (P : Partition) : State :=
  let y := (keyedUp.sys.setPart 0 P).setPart 1 { Partition.absent with state := .active, config := config, policy := policy, hanks := [2], objs := [(0, { obj 0 0 4 with source := some (0, 0) })] }
  { keyedUp with sys := y }
theorem witness_tierAccessKeys : (keyedTier.sys.region 0 0).usable 0 = true ∧ (bare.sys.region 0 0).usable 0 = false ∧ bare.sys.tierWaits 0 0 = false ∧ bare.sys.behind 0 0 = false ∧ keyedTier.sys.behind 0 0 = false
    ∧ ({ keyed0 with unknownAll := true } : Seize).usable 0 = true ∧ ({ keyed0 with stuck := [0] } : Seize).usable 0 = true ∧ pageAtEnd.usable 0 = true ∧ pageAtEnd.stuck = []
    ∧ (tierState { keyed0 with unknownAll := true } empty).sys.mirrorLine 0 0 0 = none ∧ ((tierState { keyed0 with unknownAll := true } mirrored).sys.mirrorLine 0 0 0).map (fun m => m.1.length) = some 64
    ∧ (tierState keyed0 part0).sys.behind 0 0 = false := by decide +kernel
theorem witness_cacheAccessForms : up.sys.mem.alarms = [] ∧ keyedUp.sys.mem.alarms = [] ∧ (keyedUp.sys.region 0 0).usable 0 = true ∧ (up.sys.region 0 0).usable 0 = false ∧ keyedUp.sys.cacheWaits (cf0 false 0 1 none false) = false
    ∧ up.sys.cacheWaits (cf0 false 0 1 none false) = false ∧ keyedUp.sys.cacheWaits (cf0 false 0 1 none true) = false ∧ keyedUp.sys.cacheWaits (cf0 true 0 1 (some (0, [9])) false) = false ∧ State.reset.sys.cacheWaits (cf0 false 0 1 none false) = true
    ∧ (importing part0).sys.cacheWaits (cf0 false 0 2 none false) = false ∧ (importing part0).sys.cacheWaits (cf0 true 0 2 none false) = false ∧ (importing part0).sys.holder 2 = some 1 ∧ (importing part0).sys.holder 0 = some 0
    ∧ (importing part0).sys.mem.copies = [] ∧ bare.sys.holder 0 = none ∧ bare.sys.cacheWaits (cf0 false 0 0 none false) = false ∧ (importing { part0 with state := .frozen }).sys.cacheWaits (cf0 false 0 2 none false) = false
    ∧ (((importing part0).sys.part 0).objAt 0 (addrOffset ((importing part0).sys.addrOf 0 0 0 0) / granuleBytes)).map (fun e => e.1) = some 0
    ∧ ((((importing part0).sys.part 1).objs.get? 0).map (fun o => o.source)) = some (some (0, 0)) := by decide +kernel

/-! Partitions, life cycle, Logline -/

def config1 (p share : Nat) : Bytes := bytes 64 [(0, 2, p), (4, 10, 3), (0x10, 2, 8), (0x12, 1, share), (0x18, 1, 1), (0x19, 1, 4)]
def asked (P : Partition) (g : Sys → Sys) : State := { bare with sys := g (bare.sys.setPart 0 P) }
def policy16 : Bytes := bytes 0x220 [(8, 1, 16), (9, 1, 1)]
def ask0 : Partition := { empty with config := config1 0 1, policy := policy16 }
def busy (q : Partition) (y : Sys) : Sys := y.setPart 1 q
def createCode (s : State) : Option (Option Nat) := after (exec (.create req 0) s) (fun t => (t.sys.dict.replies.getLast?).map (fun r => fieldN r.data 12 4))
def reqIndex : Nat := 0x4000 + 2
theorem witness_create : servesB (asked ask0 id) port 0 0 4 reqIndex .operator = true ∧ servesB { asked ask0 id with fuses := Fuses.blank } port 0 0 4 reqIndex .operator = true ∧ configHanks (config1 0 1) = [0, 1]
    ∧ (∀ h ∈ [0, 1], (asked ask0 id).sys.holder h = none) ∧ (∀ h ∈ [0, 1], (asked ask0 id).sys.hankReady h = true) ∧ (∀ h ∈ [0, 1], (asked ask0 id).sys.margins h = false) ∧ ask0.share = 1
    ∧ (configReserved (config1 0 1) && configRanges 0 (config1 0 1) && policyOk policy16) = true ∧ (asked ask0 id).sys.trust.entropy ≠ 2 := by decide +kernel
theorem test_create_reasons : createCode { asked ask0 id with fuses := Fuses.blank } = some (some 0x02010002) ∧ createCode (asked { ask0 with state := .keying } id) = some (some 0x04010001)
    ∧ createCode (asked ask0 (busy { part0 with config := config1 1 1 })) = some (some 0x04010002)
    ∧ createCode (asked ask0 (fun y => { y with plat := { upPlat with fns := upPlat.fns.filter (fun e => e.1 != 0x20) } })) = some (some 0x04010003)
    ∧ createCode (asked ask0 (fun y => { y with plat := { upPlat with margin := { Margin.idle with status := 1 } } })) = some (some 0x04010004)
    ∧ createCode (asked ask0 (busy { part0 with hanks := [5], config := config1 1 96 })) = some (some 0x04010005) ∧ createCode (asked { ask0 with config := config1 1 1 } id) = some (some 0x04010006)
    ∧ createCode (asked ask0 (fun y => { y with trust := { y.trust with entropy := 2 } })) = some (some 0x04010007) ∧ createCode (asked ask0 id) = some (some 0) := by decide +kernel
def destroying : Partition := { empty with state := .destroying, hanks := [0] }
theorem witness_partitions : servesB up port 0 0 4 reqIndex .operator = true ∧ (up.sys.part 0).state ≠ .absent ∧ up.sys.flowsOf 0 = [] ∧ ((asked { ask0 with state := .keying, hanks := [0, 1] } id).sys.part 0).state = .keying
    ∧ ((asked { ask0 with state := .keying } (fun y => { y with ctxs := [] })).sys.ctx 0).opened = false ∧ ((asked destroying id).sys.part 0).state = .destroying ∧ (asked destroying id).sys.importedElsewhere 0 = false
    ∧ quiet0.sys.flowsOf 0 = [] ∧ servesB quiet0 port 0 0 4 reqIndex .operator = true := by decide +kernel
theorem test_destroy : after (exec (.destroy req 0) quiet0) (fun t => ((t.sys.part 0).state, (t.sys.part 0).sessions, (t.sys.ctx 1).opened)) = some (.destroying, [], false) := by decide +kernel
theorem test_keying : after (exec (.regionKeyingComplete 0) (asked { ask0 with state := .keying, hanks := [0, 1] } (fun y => { y with ctxs := [] }))) (fun t => ((t.sys.part 0).state, (t.sys.part 0).base, (t.sys.ctx 0).hankMask)) = some (.joining, 0, 3#80) := by decide +kernel

def withWord (w : BitVec 64) : State := { bare with fuses := { Fuses.blank with lc := Vector.replicate 4 w } }
def written : State := { withWord wordTest with fuses := { (withWord wordTest).fuses with dsMark := 1#16 } }
def reqV : ReqF := { req with role := 3 }
def svc (s : State) : Bool := servesB s port 0 3 4 0x8001 .vendor
theorem witness_fuseBurns : (withWord wordTest).fuses.ahead = .sound ∧ (withWord wordTest).sys.trust.entropy ≠ 2 ∧ (withWord wordTest).sys.entropySettled.trust.entropy ≠ 2
    ∧ ({ (withWord wordTest) with fuses := { (withWord wordTest).fuses with ahead := ⟨some (256 + 3, 0#4), none⟩ } } : State).fuses.dsWritten = false
    ∧ ({ bare.sys with trust := { bare.sys.trust with entropy := 2 } } : Sys).entropySettled.trust.entropy = 2 ∧ (asked ask0 id).sys.entropySettled.trust.entropy = 0 := by decide +kernel
theorem witness_lifeCycle : svc (withWord 0#64) = true ∧ svc (withWord wordTest) = true ∧ svc (withWord 1#64) = true ∧ svc (withWord 0x1FFFF#64) = true ∧ svc written = true ∧ (withWord 0#64).fuses.lcState = .blank
    ∧ (withWord wordTest).fuses.lcState = .test ∧ (withWord 1#64).fuses.lcState = .partial_ 1 ∧ (withWord 0x1FFFF#64).fuses.lcState = .partial_ 2 ∧ written.fuses.dsWritten = true ∧ (withWord wordTest).fuses.dsWritten = false
    ∧ (∀ p < 80, ((withWord wordTest).sys.part p).state = .absent) ∧ svc { withWord wordTest with sys := up.sys } = true ∧ (up.sys.part 0).state ≠ .absent ∧ (withWord wordTest).sys.trust.entropy ≠ 2 := by decide +kernel
theorem test_to_test : after (exec (.lcToTest reqV .sound) (withWord 0#64)) (fun t => (t.fuses.lcState, t.sys.trust.result)) = some (.test, 0)
    ∧ after (exec (.lcToTest reqV ⟨some (3, 0#4), none⟩) (withWord 0#64)) (fun t => (t.fuses.lcState, t.sys.trust.result)) = some (.partial_ 1, 0x05010004) := by decide +kernel

def opKey (s : State) : State := { s with sys := s.sys.setDv (dictKey 0x8002 1) 7 }
def failedBefore (n : Nat) (s : State) : State := { s with sys := { s.sys with trust := { s.sys.trust with fails := n } } }
def record (kind : Nat) : Bytes := bytes 2484 [(4, 1, kind)]
theorem witness_signedRecords : servesB bare port 0 0 4 0x8001 .operator = true ∧ (record 1).length = 2484 ∧ fieldN (record 1) 4 1 = 1 ∧ fieldN (record 2) 4 1 = 2 ∧ bare.fuses.lcState = .production
    ∧ servesB (withWord wordTest) port 0 0 4 0x8001 .operator = true ∧ servesB (withWord 0#64) port 0 0 4 0x8001 .operator = true ∧ bare.sys.trust.fails < 8 ∧ (failedBefore 8 bare).sys.trust.fails = 8
    ∧ servesB (failedBefore 8 (opKey bare)) port 0 0 4 0x8001 .operator = true ∧ BitVec.ofNat 256 ((opKey bare).sys.dv 0x8002 1) ≠ 0#256 ∧ BitVec.ofNat 256 (bare.sys.dv 0x8002 1) = 0#256
    ∧ servesB (opKey bare) port 0 0 4 0x8002 .operator = true ∧ (List.replicate 2508 (0 : Byte)).length = 2508 ∧ servesB bare port 0 0 4 0x8004 .operator = true
    ∧ servesB (withWord 1#64) port 0 3 4 0x8004 .vendor = true := by decide +kernel
/-- An image under installation. -/
def installing : State := { bare with sys := { bare.sys with trust := { bare.sys.trust with installing := some [1] } } }
theorem witness_install : installing.pending = [] ∧ installing.sys.waiting = [] ∧ (∀ h : Fin 80, installing.sys.runs h.val = false) ∧ installing.sys.mem.alarms = [] ∧ installing.sys.mem.posted = []
    ∧ installing.sys.plat.upset = .none ∧ installing.sys.trust.installing = some [1] ∧ installing.fuses.ahead = .sound ∧ bare.fuses.lcState ≠ .partial_ 1 := by decide +kernel
theorem test_install : after (step installing) (fun t => (t.sys.trust.inForce, t.sys.trust.amendState, t.sys.trust.installing)) = some (some [1], 2, none) := by decide +kernel
theorem test_debug_locked : after (exec (.debugOpen req (record 1)) (failedBefore 8 bare)) (fun t => t.sys.trust.result) = some 0x02010004 ∧ after (exec (.debugOpen req (record 2)) bare) (fun t => t.sys.trust.result) = some 0x01010009 := by decide +kernel

def logItem (event : BitVec 16) (unfrozen : Bool) : PreRec := ⟨⟨0#48, 0#8, 0#8, 0#32, event, 0#8, 0#8, 0#32, 0#32, 0#64⟩, unfrozen⟩
def logged (x : PreRec) (frozen : Bool) (after : Nat) : State :=
  { up with sys := { up.sys with log := { up.sys.log with pre := [(0, [x])], frozen := frozen, after := after } } }
theorem witness_logRows : servesB up port 0 0 4 0x7000 .operator = true ∧ (up.sys.log.pre.get [] fnBowline).length < 240 ∧ (up.sys.fn fnBowline).state = .ready ∧ up.sys.log.pre.get [] 0x20 = []
    ∧ (logged (logItem 0x0102#16 true) false 0).sys.log.pre.get [] 0 = [logItem 0x0102#16 true] ∧ up.sys.log.lost.get 0 0 = 0 ∧ (logged (logItem 1#16 true) true 4096).sys.log.after = 4096
    ∧ 0xFF ∉ domains ∧ 0 ∈ domains ∧ (up.sys.log.pre.get [] (domainUnit 0)).length < 240 := by decide +kernel
theorem witness_logTurns : ∀ x, (∀ v, (logged x false 0).sys.log.lost.get 0 v = 0) ∧ (∀ v, v ≠ 0 → (logged x false 0).sys.log.pre.get [] v = []) ∧ (logged x false 0).sys.log.pre.get [] 0 ≠ [] := by
  refine fun x => ⟨fun v => rfl, fun v h => ?_, by simp [logged, SMap.get]⟩
  simp [logged, SMap.get, Ne.symm h]
theorem witness_countWrap : up.sys.clockRuns 0 = true ∧ State.reset.sys.clockRuns 0 = false := by decide +kernel
theorem test_log_trigger : after (exec (.logRecord 0) (logged (logItem 0x0102#16 true) false 0)) (fun t => (t.sys.log.frozen, t.sys.log.cause, t.sys.log.ring.map (fun e => (e.flags, e.seq)))) = some (true, 1#8, [(2#8, 0#32)])
    ∧ after (exec (.logRecord 0) (logged (logItem 1#16 true) true 4096)) (fun t => (t.sys.log.dropped, t.sys.log.ring.length)) = some (1, 0) := by decide +kernel

/-! The queue, fuses, decoding, well-formedness -/

theorem witness_stepRunsFront : step { State.reset with pending := [.boot] } = exec .boot State.reset := rfl
theorem witness_fusesNeverClear : ∃ t, step State.reset = .next t := ⟨_, rfl⟩
theorem witness_lcWords : ({ Fuses.blank with lc := Vector.replicate 4 wordEol } : Fuses).lcState = .eol ∧ prodFuses.lcState = .production := by decide +kernel
theorem test_idle : after (step State.reset) (fun t => (t.pending, t.sys.hostOut, t.fuses.lcState)) = some ([], [], .blank) := by decide +kernel
/-- R84, R85: ADD s3 := s1 + 5 with IMM_EN, the reserved bits [37:32] set. -/
theorem test_decode_scalar : decodeWord 0 0 0b0000000000_00011_00001_00000_1_111111_00000000000000000000000000000101#64 = .add ⟨0, 3#5, 1#5, 0#5, true, 5#32⟩
    ∧ decodeWord 0 0 0b0000101001_00000_00010_00111_0_000000_00000000000000000000000000001000#64 = .st ⟨0, 0#5, 2#5, 7#5, false, 8#32⟩ := by decide
/-- R87, R88: BR LT s1, s2 back by one. -/
theorem test_decode_control : decodeWord 0 0 0b0001000001_00001_00010_0011_00000000_11111111111111111111111111111111#64 = .br ⟨0, 1#5, 2#5, 3#4, 0#8, 0xFFFFFFFF#32⟩ := by decide
/-- R60: LAY.MMA slot 5, PAIR 7, G 16, TB, panels 1 to 6, A in s8, B in s9, waits on hitch 3, sets hitch 4. R62: LAY.OPEN slot 2, LOAD, INT32, A_REG s8. -/
theorem test_decode_matrix : decodeWord 0 0 0b0010_0000_101_00111_10_0_1_001_110_01000_01001_1_00011_1_00100_0000000000000000#64 = .layMma ⟨0, 5, 7#5, 2#2, false, true, 1#3, 6#3, 8#5, 9#5, true, 3#5, true, 4#5⟩
    ∧ decodeWord 0 0 0b0010_0001_010_01_1_0000_0_0_000_000_01000_00000_0_00000_0_00000_0000000000000000#64 = .layOpen ⟨0, 2, 1#2, true, 8#5, false, 0#5, false, 0#5⟩ := by decide
/-- R94, R95: VFMA v1 := v2 * v3 + v4 under p5, zeroing, INT32, scalar broadcast. -/
theorem test_decode_vector : decodeWord 0 0 0b0011_00000011_000001_000010_000011_000100_0_00000_1_00110_0101_1_01_1_10000001#64 = .vfma ⟨0, 1#6, 2#6, 3#6, 4#6, false, 0#5, true, 6#5, 5#4, true, 1#2, true, 0x81#8⟩ := by decide
/-- R112, R272: MOV.STORE; MOV.FLOW of KIND 1. -/
theorem test_decode_mover : decodeWord 0 0 0b0100_0001_01010_00000000000000000000000_1_00001_0_00000_0000000000000000#64 = .movStore ⟨0, 10#5, true, 1#5, false, 0#5⟩
    ∧ decodeWord 0 1 0b0100_0101_01010_00000000000000000000000_0_00000_0_00000_0000000000000000#64 = .release ⟨0, 10#5, false, 0#5, false, 0#5⟩ := by decide
/-- R59, R80, R82: a reserved opcode of the matrix class, and a reserved class. -/
theorem test_decode_reserved : decodeWord 0 0 0x2500000000000000#64 = .reservedOpcode 0 0x2500000000000000#64
    ∧ decodeWord 0 0 0x5000000000000000#64 = .reservedOpcode 0 0x5000000000000000#64 := by decide
/-- R81: on an empty queue a Bight takes the instruction that PC names: all-zero memory holds ADD s0 := s0 + s0. -/
theorem test_program_runs : after (step (core BightArch.zero)) (fun t => (t.arch 0).pc) = some 8#64 := by decide +kernel
theorem test_no_word_decodes : decodeTableWord 32 0 = none ∧ decodeTableWord 64 0x2F00000000000000 = none := ⟨rfl, rfl⟩
theorem illformed_key : (Instr.ctxOpen ⟨1, 0, 0⟩).wf = false ∧ (Instr.ctxOpen ⟨1, 0, 2 ^ 64⟩).wf = false := by decide +kernel
theorem illformed_records : (Instr.xferIn key [[0]]).wf = false := by decide +kernel
theorem illformed_path : (Instr.transferIdle (.window 81) 0).wf = false ∧ (Instr.transferIdle (.mgmt (2 ^ 128) 0 0 0) 0).wf = false ∧ (Instr.transferIdle (.mgmt 0 65536 0 0) 0).wf = false
    ∧ (Instr.transferIdle (.inband (2 ^ 32)) 0).wf = false ∧ (Instr.transferIdle .i3c 65536).wf = false := by decide +kernel
theorem illformed_request : (Instr.create { req with role := 256 } 0).wf = false ∧ (Instr.create { req with transfer := 65536 } 0).wf = false ∧ (Instr.create { req with submit := 2 ^ 64 } 0).wf = false := by decide +kernel
theorem illformed_message : (Instr.dictMsgRead { dmsg 0 0 0 0 0#64 with role := 256 }).wf = false ∧ (Instr.dictMsgRead { dmsg 0 0 0 0 0#64 with transfer := 65536 }).wf = false ∧ (Instr.dictMsgRead (dmsg 65536 0 0 0 0#64)).wf = false
    ∧ (Instr.dictMsgRead (dmsg 0 256 0 0 0#64)).wf = false ∧ (Instr.dictMsgRead (dmsg 0 0 256 0 0#64)).wf = false ∧ (Instr.dictMsgRead (dmsg 0 0 0 (2 ^ 32) 0#64)).wf = false
    ∧ (Instr.dictMsgRead { dmsg 0 0 0 0 0#64 with code := 2 ^ 32 }).wf = false ∧ (Instr.dictMsgRead { dmsg 0 0 0 0 0#64 with segment := List.replicate 1025 0 }).wf = false
    ∧ (Instr.dictMsgRead { dmsg 0 0 0 0 0#64 with submit := 2 ^ 64 }).wf = false := by decide +kernel
theorem illformed_atomic : (Instr.cas { atom 8 with size := 256 }).wf = false ∧ (Instr.cas { atom 8 with place := 8#24 }).wf = false := by decide +kernel
theorem illformed_tier : (Instr.tierRead (tf 218726400 [] 0#144)).wf = false ∧ (Instr.tierRead { tf 0 [] 0#144 with data := [] }).wf = false ∧ (Instr.tierRead (tf 0 (List.replicate 5 0#144) 0#144)).wf = false
    ∧ (Instr.tierRead { tf 0 [] 0#144 with ctrFlips := List.replicate 5 0#144 }).wf = false ∧ (Instr.tierRead { tf 0 [] 0#144 with nodeFlips := [(0, [])] }).wf = false ∧ (Instr.tierRead { tf 0 [] 0#144 with nodeFlips := [(8, [])] }).wf = false := by decide +kernel
theorem illformed_cache : (Instr.cacheAccess (cf0 false 54681600 0 none false)).wf = false ∧ (Instr.cacheAccess (cf0 true 262144 0 none false)).wf = false ∧ (Instr.cacheAccess (cf0 false 0 0 (some (255, [1, 2])) false)).wf = false
    ∧ (Instr.cacheAccess { cf0 false 0 0 none false with bad := [16] }).wf = false := by decide +kernel
theorem illformed_numbers : (Instr.functionWake 2).wf = false ∧ (Instr.functionWake 0x6A).wf = false ∧ (Instr.functionReady 0 (2 ^ 32)).wf = false ∧ (Instr.uncontainedError 0 7).wf = false ∧ (Instr.countWrap 0x0A).wf = false
    ∧ (Instr.countWrap 0xB3).wf = false ∧ (Instr.ackTimer 1572864).wf = false ∧ (Instr.retransmissionTimeout 0 (2 ^ 64)).wf = false ∧ (Instr.functionLevelReset 81).wf = false ∧ (Instr.stagedSetApply 80).wf = false
    ∧ (Instr.neighborSolicitation (2 ^ 128)).wf = false ∧ (Instr.i3cEntrySelect 65536 0).wf = false ∧ (Instr.entdaa 128).wf = false ∧ (Instr.lcToTest req ⟨some (64, 0#4), none⟩).wf = false ∧ (Instr.marginRunComplete (List.replicate 36865 0)).wf = false := by decide +kernel
theorem illformed_bytes : (Instr.intakeEntry 0 0 0 16384 [0]).wf = false ∧ (Instr.intakeEntry 0 0 0 0 []).wf = false ∧ (Instr.debugOpen req []).wf = false ∧ (Instr.endOfLife req [] .sound).wf = false ∧ (Instr.operatorKeyChange req []).wf = false
    ∧ (Instr.amendImage req []).wf = false ∧ (Instr.signal ⟨0, []⟩).wf = false ∧ (Instr.objectRelease 0 (2 ^ 32)).wf = false := by decide +kernel

end Sys2Proof.Tests
end

/-!
O6, scalar LD and ST (R85): what the locker reads as, a core instruction by its effect, and what recording consumed poison leaves of a Bight.
-/

namespace Sys2Proof

variable {α : Type}

/-! Bytes as numbers (R3) -/

/-- A window of a sparse store, read at a place within it. -/
theorem SMap.getElem?_window (d : α) (m : SMap α) (base n i : Nat) :
    (m.window d base n)[i]? = if i < n then some (m.get d (base + i)) else none := by
  induction m with
  | nil => simp [SMap.window, Array.getElem?_replicate]
  | cons e t ih =>
    have hstep : SMap.window d (e :: t) base n
        = if base ≤ e.1 ∧ e.1 < base + n then (SMap.window d t base n).setIfInBounds (e.1 - base) e.2 else SMap.window d t base n := rfl
    have hsize : (SMap.window d t base n).size ≤ i ↔ n ≤ i := by
      rw [← Array.getElem?_eq_none_iff, ih]; split <;> simp <;> omega
    by_cases hkey : e.1 = base + i
    · have hget : SMap.get d (e :: t) (base + i) = e.2 := by simp [SMap.get, hkey]
      rw [hstep, hget]
      by_cases hi : i < n
      · have hlt : i < (SMap.window d t base n).size := by omega
        simp [hkey, hi, hlt]
      · rw [if_neg (by omega), ih, if_neg hi, if_neg hi]
    · have hget : SMap.get d (e :: t) (base + i) = SMap.get d t (base + i) := by
        simp [SMap.get, List.find?, beq_eq_false_iff_ne.mpr hkey]
      rw [hstep, hget, ← ih]
      split
      · rw [Array.getElem?_setIfInBounds, if_neg (by omega)]
      · rfl

/-- The number that bytes spell, as a fold over their places. -/
theorem leNat_map (l : List Nat) (g : Nat → Byte) : leNat (l.map g) = l.foldr (fun i n => (g i).toNat + 256 * n) 0 := by
  induction l with
  | nil => rfl
  | cons i t ih => simp [leNat, ih]

@[simp] theorem length_leBytes (n x : Nat) : (leBytes n x).length = n := by simp [leBytes]

theorem getD_leBytes (n x : Nat) {i : Nat} (h : i < n) : (leBytes n x).getD i 0 = BitVec.ofNat 8 (x / 256 ^ i) := by
  simp [leBytes, natByte, h]

end Sys2Proof

namespace Sys2Proof.Machine

/-! The eight locker bytes -/

theorem Mem.read_eq_map_byte (m : Mem) (a n : Nat) : m.read a n = (List.range n).map (fun i => m.byte (a + i)) := by
  apply List.ext_getElem?
  intro i
  by_cases h : i < n <;> simp [Mem.read, Mem.byte, SMap.getElem?_window, h]

/-- Eight bytes at a multiple of 8 lie in one codeword (R431). -/
theorem Mem.worst_aligned (m : Mem) {a : Nat} (h : a % 8 = 0) : m.worst a 8 = m.mark (a / 16) := by
  have hcw : cwRange a 8 = [a / 16] := by
    simp [cwRange, show (a + 7) / 16 + 1 - a / 16 = 1 by omega]
  simp only [Mem.worst, hcw, List.foldl_cons, List.foldl_nil]
  cases m.mark (a / 16) <;> rfl

theorem ldAddr_aligned (f : ScalarF) (a : BightArch) : ldAddr f a % 8 = 0 := Nat.mul_mod_left ..

/-- The address of LD and ST, bits [23:3] of the sum of the two values (R85). -/
theorem ldAddr_eq (f : ScalarF) (a : BightArch) :
    ldAddr f a = ((a.s f.sa).toNat + (f.imm.signExtend 64).toNat) % 2 ^ 24 / 8 * 8 := by
  simp only [ldAddr, immExt, BitVec.toNat_add]
  rw [Nat.mod_mod_of_dvd _ (by decide)]
  rfl

/-! Consumed poison -/

theorem Sys.saw_of_clean (y : Sys) (b : Nat) {m : Mark} (h : m.isBad = false) : y.saw b m = y := by
  simp [Sys.saw, h]

@[simp] theorem Sys.bight_logRec (y : Sys) (i : LogItem) (b : Nat) : (y.logRec i).bight b = y.bight b := rfl

/-- Recording poison leaves the Bight's architectural state. -/
@[simp] theorem Sys.arch_saw (y : Sys) (b : Fin 80) (m : Mark) : ((y.saw b.val m).bight b.val).arch = (y.bight b.val).arch := by
  unfold Sys.saw
  split
  · rfl
  · dsimp only
    split
    · rfl
    · split <;> split <;> simp

/-! A core instruction by its effect -/

/-- The units as a core instruction finds them that takes effect: its program-order number is given out. -/
def Sys.numbered (y : Sys) (b : Nat) : Sys := y.setBight b { y.bight b with nextSeq := (y.bight b).nextSeq + 1 }

@[simp] theorem Sys.numbered_bight (y : Sys) (b : Fin 80) :
    (y.numbered b.val).bight b.val = { y.bight b.val with nextSeq := (y.bight b.val).nextSeq + 1 } := Sys.bight_setBight ..
@[simp] theorem Sys.numbered_sigmaOf (y : Sys) (b : Fin 80) : (y.numbered b.val).sigmaOf b.val = y.sigmaOf b.val :=
  Sys.sigmaOf_setBight y b _ rfl

/-- A core instruction whose body comes to a change `g` of the Bight's state completes with that state. -/
theorem ends_coreOp_of_body {s : State} {b : Fin 80} (h : CoreReady s b) (i : Instr) {busy : Sys → Bool} (hb : busy s.sys = false)
    {body : Nat → Sys → Sys} (g : BightArch → BightArch)
    (hg : body (s.sys.bight b.val).nextSeq (s.sys.numbered b.val) = (s.sys.numbered b.val).onArch b.val (s.sys.bight b.val).nextSeq g)
    (he : exec i s = s.onSys (fun y => y.coreOp i b.val busy body)) :
    Ends i s b (g (s.arch b)) := by
  refine ends_coreOp h i hb g ?_
  rw [he, State.onSys_next, State.onSys_next, Sys.coreOp_ready h i hb, Sys.coreOp_ready h i hb]
  simp only [Sys.numbered] at hg
  rw [hg]

/-- Outside every region nothing has to be saved, whatever else of the Bight is outstanding. -/
theorem Sys.saveBytes_of_no_region {y : Sys} {b : Nat} (hr : (y.bight b).region = none) (hs : y.sigmaOf b = none)
    (seq : Nat) (eng : Engine) (f : Foot) : y.saveBytes b seq eng f = 0 := by
  simp [Sys.saveBytes, Sys.stepSaves, hr, hs]

theorem Sys.noteSaves_of_no_region {y : Sys} {b : Fin 80} (hr : (y.bight b.val).region = none) (hs : y.sigmaOf b.val = none)
    (seq : Nat) (eng : Engine) (f : Foot) : y.noteSaves b.val seq eng f = y := by
  have hsame : ({ y.bight b.val with region := none } : Bight) = y.bight b.val := by rw [← hr]
  simp only [Sys.noteSaves, hr, Option.map_none, hsame, Sys.setBight_self]
  simp [Sys.noteStepSaves, hs]

/-! LD -/

/-- The mark that LD meets. -/
def ldMark (f : ScalarF) (a : BightArch) : Mark := a.locker.worst (ldAddr f a) 8

/-- What LD writes (R85, log 41). -/
def ldValue (f : ScalarF) (a : BightArch) : Word64 :=
  if (ldMark f a).isBad then 0#64 else BitVec.ofNat 64 (leNat (a.locker.read (ldAddr f a) 8))

/-- The effect of LD: the write of its register, then the record of the poison that it consumed. -/
def ldBody (f : ScalarF) (q : Nat) (y : Sys) : Sys :=
  let a := (y.bight f.b.val).arch
  (y.onArch f.b.val q (fun x => (x.setS f.sd (ldValue f a)).step8)).saw f.b.val (ldMark f a)

/-- Whether LD waits for an older instruction that writes its bytes (R91). -/
def ldWaits (f : ScalarF) (y : Sys) : Bool :=
  y.hazard f.b.val y.ordNow (y.bight f.b.val).nextSeq { Foot.none with rd := [(ldAddr f (y.bight f.b.val).arch, 8)] }

theorem exec_ld (f : ScalarF) (s : State) :
    exec (.ld f) s = s.onSys (fun y => y.coreOp (.ld f) f.b.val (ldWaits f) (ldBody f)) := rfl

theorem ldMark_eq (f : ScalarF) (a : BightArch) : ldMark f a = a.locker.mark (ldAddr f a / 16) :=
  Mem.worst_aligned _ (ldAddr_aligned f a)

/-- Unpoisoned bytes give the number that they spell, least significant first (R3). -/
theorem ldValue_of_clean {f : ScalarF} {a : BightArch} (hm : (ldMark f a).isBad = false) :
    ldValue f a = BitVec.ofNat 64 ((List.range 8).foldr (fun i n => (a.locker.byte (ldAddr f a + i)).toNat + 256 * n) 0) := by
  rw [ldValue, if_neg (by simp [hm]), Mem.read_eq_map_byte, leNat_map]

theorem ldValue_of_poisoned {f : ScalarF} {a : BightArch} (hm : (ldMark f a).isBad = true) : ldValue f a = 0#64 := if_pos hm

/-- LD of unpoisoned bytes changes its register and PC alone. -/
theorem ld_writes_of_clean {s : State} {f : ScalarF} (h : CoreReady s f.b) (hz : ldWaits f s.sys = false)
    (hm : (ldMark f (s.arch f.b)).isBad = false) : Writes (.ld f) s f.b f.sd (ldValue f (s.arch f.b)) := by
  have hends := ends_coreOp_of_body h (.ld f) hz (fun a => (a.setS f.sd (ldValue f (s.arch f.b))).step8)
    (by simp only [ldBody, Sys.numbered_bight]; exact Sys.saw_of_clean _ _ hm) (exec_ld f s)
  simpa [Writes, BightArch.step8] using hends

/-- LD writes its register and goes on whatever the mark: what it records of poison lies outside the Bight's architectural state. -/
theorem ld_arch {s : State} {f : ScalarF} (h : CoreReady s f.b) (hz : ldWaits f s.sys = false) :
    ∃ t, exec (.ld f) s = .next t
      ∧ t.arch f.b = { (s.arch f.b).setS f.sd (ldValue f (s.arch f.b)) with pc := (s.arch f.b).pc + 8#64 } := by
  refine ⟨_, by rw [exec_ld, State.onSys_next, Sys.coreOp_ready h _ hz], ?_⟩
  show ((ldBody f _ (s.sys.numbered f.b.val)).bight f.b.val).arch = _
  simp only [ldBody, Sys.numbered_bight, Sys.arch_saw, Sys.onArch, Sys.bight_setBight]
  simp [Bight.mapArch, BightArch.step8, State.arch]

/-! ST -/

/-- The Bight's state after ST: the bytes of s[SB] in the locker, PC at the next instruction (R85). -/
def stArch (f : ScalarF) (a : BightArch) : BightArch :=
  { a with locker := a.locker.put (ldAddr f a) (leBytes 8 (a.s f.sb).toNat) }.step8

/-- The footprint of ST. -/
def stFoot (f : ScalarF) (y : Sys) : Foot := { Foot.none with wr := [(ldAddr f (y.bight f.b.val).arch, 8)] }

/-- Whether ST waits, for older instructions or for room to save its bytes (R91, R186). -/
def stWaits (f : ScalarF) (y : Sys) : Bool :=
  y.hazard f.b.val y.ordNow (y.bight f.b.val).nextSeq (stFoot f y)
    || !y.slackFits f.b.val (y.saveBytes f.b.val (y.bight f.b.val).nextSeq .halyard (stFoot f y))

theorem exec_st (f : ScalarF) (s : State) :
    exec (.st f) s = s.onSys (fun y => y.coreOp (.st f) f.b.val (stWaits f)
      (fun q y => (y.noteSaves f.b.val q .halyard (stFoot f y)).onArch f.b.val q (stArch f))) := rfl

/-- Outside every region ST completes with its bytes in the locker, and changes nothing outside its Bight. -/
theorem st_ends_of_no_region {s : State} {f : ScalarF} (h : CoreReady s f.b) (hr : (s.sys.bight f.b.val).region = none)
    (hs : s.sys.sigmaOf f.b.val = none)
    (hz : s.sys.hazard f.b.val s.sys.ordNow (s.sys.bight f.b.val).nextSeq (stFoot f s.sys) = false) :
    Ends (.st f) s f.b (stArch f (s.arch f.b)) := by
  have hwait : stWaits f s.sys = false := by
    simp [stWaits, hz, Sys.saveBytes_of_no_region hr hs, Sys.slackFits]
  refine ends_coreOp_of_body h (.st f) hwait (stArch f) ?_ (exec_st f s)
  rw [Sys.noteSaves_of_no_region (by simpa using hr) (by simpa using hs)]

theorem stArch_frame (f : ScalarF) (a : BightArch) : { stArch f a with locker := a.locker } = { a with pc := a.pc + 8#64 } := rfl

theorem stArch_byte_in (f : ScalarF) (a : BightArch) {i : Nat} (hi : i < 8) :
    (stArch f a).locker.byte (ldAddr f a + i) = BitVec.ofNat 8 ((a.s f.sb).toNat / 256 ^ i) := by
  rw [← getD_leBytes 8 _ hi]
  simp [stArch, BightArch.step8, Mem.byte_put, hi]

theorem stArch_byte_out (f : ScalarF) (a : BightArch) {p : Nat} (hp : p < ldAddr f a ∨ ldAddr f a + 8 ≤ p) :
    (stArch f a).locker.byte p = a.locker.byte p := by
  simp only [stArch, BightArch.step8, Mem.byte_put, length_leBytes]
  rw [if_neg (by omega)]

/-- Settles O6: LD is its effect on a Bight that need not wait, split by the one codeword that its bytes lie in; ST, with nothing to save
for a cut, is the write of eight bytes. -/
theorem scalarMemory : Obligations.ScalarMemory := by
  unfold Obligations.ScalarMemory
  refine ⟨fun f s h => ?_, fun f s h hr hs => ?_⟩
  · simp only [← ldAddr_eq, ← ldMark_eq]
    refine fun hz => ⟨fun hm => ?_, fun hm => ?_⟩
    · rw [← ldValue_of_clean hm]
      exact ld_writes_of_clean h hz hm
    · rw [← ldValue_of_poisoned hm]
      exact ld_arch h hz
  · simp only [← ldAddr_eq]
    intro hz
    obtain ⟨t, hexec, honly, harch, hkept⟩ := st_ends_of_no_region h hr hs hz
    refine ⟨t, hexec, honly, hkept, ?_⟩
    rw [harch]
    exact ⟨stArch_frame f _, fun _ hi => stArch_byte_in f _ hi, fun _ hp => stArch_byte_out f _ hp⟩

end Sys2Proof.Machine

/-!
O11, HALT and instructions on a Bight that executes no RUN (R14, R88, R331): taking up an instruction there, what the end of a Bight's part of
a RUN does, and when no other RUN waits for the Bight.
-/

namespace Sys2Proof.Machine

/-! A Bight that executes no RUN (R14, log 142) -/

theorem Sys.front_idle {y : Sys} {b : Nat} (hrun : y.runs b = false) (hrep : y.replay = none) (i : Instr) (eng : Engine)
    (k : Sys → Sys) : y.front i b eng k = y := by
  have hsame : ({ y with replay := none } : Sys) = y := by rw [← hrep]
  simp [Sys.front, hrun, hsame]

section Idle

variable {s : State} {b : Nat} {i : Instr} (hrun : s.sys.runs b = false) (hrep : s.sys.replay = none)
include hrun hrep

theorem exec_front_idle {eng : Engine} {k : Sys → Sys} (he : exec i s = s.onSys (fun y => y.front i b eng k)) : exec i s = .next s := by
  rw [he, State.onSys_next, Sys.front_idle hrun hrep]

theorem exec_coreOp_idle {busy : Sys → Bool} {body : Nat → Sys → Sys} (he : exec i s = s.onSys (fun y => y.coreOp i b busy body)) :
    exec i s = .next s := by
  rw [he, State.onSys_next, Sys.coreOp, Sys.front_idle hrun hrep]

theorem exec_queueOp_idle {q : QOp} (he : exec i s = s.onSys (fun y => y.queueOp i b q)) : exec i s = .next s := by
  rw [he, State.onSys_next, Sys.queueOp, hrep]
  simp only [Sys.front_idle hrun hrep]

end Idle

/-! What a Bight leaves (R83, R331) -/

/-- The status words stand one above the other in the RESULT. -/
theorem BightArch.statusWord_eq (a : BightArch) : a.statusWord = a.halyard ++ a.fairlead ++ a.serve ++ a.lay := by
  unfold BightArch.statusWord
  ext i hi
  simp only [BitVec.getElem_or, BitVec.getElem_setWidth, BitVec.getElem_shiftLeft]
  grind

theorem BightArch.kept_of_no_sets {a : BightArch} (h : a.hitchSets = []) :
    a.kept = { BightArch.zero with locker := a.locker, hitches := a.hitches } := by
  simp only [BightArch.kept, h, List.filter_nil]
  rfl

/-- Nothing outstanding on a Bight: its queues are not busy (R88). -/
theorem Sys.anyBusy_of_nothing {y : Sys} {b : Nat} (hw : ∀ h ∈ y.waiting, h.bight ≠ some b) (hd : (y.bight b).drains = [])
    (hs : (y.bight b).arch.hitchSets = []) (hp : y.setPending b = false) (ord : Nat) : y.anyBusy b ord = false := by
  simp [Sys.anyBusy, Sys.queueBusy, Sys.older_nil hw, hd, hs, hp]

theorem Sys.savedBight_setSaved (y : Sys) (c d : Nat) (b : Fin 80) (x : Bight) :
    (y.setSaved c b.val x).savedBight d b.val = if d = c then x else y.savedBight d b.val := by
  have hkey : savedKey d b.val = savedKey c b.val ↔ d = c := by unfold savedKey; omega
  simp only [Sys.savedBight, Sys.setSaved, SMap.get_set, hkey]

/-! Commands of a context -/

theorem Context.mem_cmds_setRing {x : Context} {r : Nat} {g : Ring} {k : Cmd} (h : k ∈ (x.setRing r g).cmds) :
    k ∈ x.cmds ∨ k ∈ g.cmds := by
  simp only [Context.cmds, Context.setRing, List.mem_flatMap, Vector.mem_toList_iff] at h ⊢
  obtain ⟨e, he, hk⟩ := h
  obtain ⟨i, hi, rfl⟩ := Vector.getElem_of_mem he
  rw [Vector.getElem_setIfInBounds] at hk
  split at hk
  · exact .inr hk
  · exact .inl ⟨_, Vector.getElem_mem hi, hk⟩

theorem Sys.mem_cmds_of_ring {y : Sys} {c r : Nat} {k : Cmd} (h : k ∈ (y.ring c r).cmds) : k ∈ (y.ctx c).cmds := by
  unfold Sys.ring at h
  cases hg : (y.ctx c).rings[r]? with
  | none => simp [hg, Ring.empty] at h
  | some g =>
    rw [hg] at h
    exact List.mem_flatMap.mpr ⟨g, Vector.mem_toList_iff.mpr (Vector.mem_of_getElem? hg), h⟩

theorem Sys.ctx_setRing (y : Sys) (c r : Nat) (g : Ring) : (y.setRing c r g).ctx c = (y.ctx c).setRing r g := Sys.ctx_setCtx ..

/-- A changed command is the only new one. -/
theorem Sys.mem_cmds_setCmd {y : Sys} {c r d : Nat} {x k : Cmd} (h : k ∈ ((y.setCmd c r x).ctx d).cmds) :
    k ∈ (y.ctx d).cmds ∨ (d = c ∧ k = x) := by
  by_cases hd : d = c
  · subst hd
    rw [Sys.setCmd, Sys.ctx_setRing] at h
    rcases Context.mem_cmds_setRing h with h | h
    · exact .inl h
    · obtain ⟨j, hj, rfl⟩ := List.mem_map.mp h
      split
      · exact .inr ⟨rfl, rfl⟩
      · exact .inl (Sys.mem_cmds_of_ring hj)
  · rw [Sys.setCmd, Sys.setRing, Sys.ctx_setCtx_other _ _ hd] at h
    exact .inl h

theorem Sys.mem_cmds_of_cmdAt {y : Sys} {c r l : Nat} {k : Cmd} (h : y.cmdAt c r l = some k) : k ∈ (y.ctx c).cmds :=
  Sys.mem_cmds_of_ring (List.mem_of_find?_eq_some h)

theorem Sys.lay_of_cmdAt {y : Sys} {c r l : Nat} {k : Cmd} (h : y.cmdAt c r l = some k) : k.lay = l := by
  simpa using List.find?_some h

theorem Sys.cmdAt_setCmd {y : Sys} {c r : Nat} {x j : Cmd} (hr : r < 4) (h : y.cmdAt c r x.lay = some j) :
    (y.setCmd c r x).cmdAt c r x.lay = some x := by
  have hlay : ((fun k : Cmd => k.lay == x.lay) ∘ fun k => if k.lay == x.lay then x else k) = fun k => k.lay == x.lay := by
    funext k
    by_cases hk : k.lay = x.lay <;> simp [hk]
  have hj : j.lay = x.lay := Sys.lay_of_cmdAt h
  unfold Sys.cmdAt at h ⊢
  rw [Sys.setCmd, Sys.ring_setRing_same _ _ _ _ hr, List.find?_map, hlay, h]
  simp [hj]

/-! Completion -/

theorem Sys.mem_cmds_dropBatches {y : Sys} {c : Nat} {k : Cmd} (h : k ∈ ((y.dropBatches c).ctx c).cmds) : k ∈ (y.ctx c).cmds := by
  unfold Sys.dropBatches at h
  rw [(Sys.releaseAll_only _ _).ctx, Sys.ctx_setCtx] at h
  exact h

/-- Retirement adds no command. -/
theorem Sys.mem_cmds_retire {y : Sys} {c r l d : Nat} {k : Cmd} (hr : r < 4) (h : k ∈ ((y.retire c r l).ctx d).cmds) :
    k ∈ (y.ctx d).cmds := by
  by_cases hd : d = c
  · subst hd
    have h' := Sys.mem_cmds_dropBatches h
    rw [Sys.ctx_setRing] at h'
    rcases Context.mem_cmds_setRing h' with h' | h'
    · exact h'
    · exact Sys.mem_cmds_of_ring (List.mem_of_mem_filter h')
  · rwa [(Sys.retire_spec y c r l hr).2.1 d hd] at h

/-- What the completion of a command leaves that belongs to no context and no weight set, and the commands of the contexts. -/
structure Sys.KeepsUnits (y t : Sys) : Prop where
  bights : t.bights = y.bights
  saved : t.saved = y.saved
  mem : t.mem = y.mem
  sigma : ∀ q, (t.part q).sigma = (y.part q).sigma
  part : ∀ d, (t.ctx d).part = (y.ctx d).part
  cmds : ∀ d, ∀ k ∈ (t.ctx d).cmds, k ∈ (y.ctx d).cmds

theorem Sys.KeepsUnits.refl (y : Sys) : y.KeepsUnits y := ⟨rfl, rfl, rfl, fun _ => rfl, fun _ => rfl, fun _ _ h => h⟩

theorem Sys.retire_keepsUnits (y : Sys) (c l : Nat) {r : Nat} (hr : r < 4) : y.KeepsUnits (y.retire c r l) := by
  obtain ⟨-, hother, hctx, hframe, hparts⟩ := Sys.retire_spec y c r l hr
  refine ⟨(congrArg Sys.bights hframe :), (congrArg Sys.saved hframe :), (congrArg Sys.mem hframe :),
    fun q => (congrArg Partition.sigma (hparts q) :), fun d => ?_, fun d k hk => Sys.mem_cmds_retire hr hk⟩
  by_cases hd : d = c
  · subst hd; exact (congrArg Context.part hctx :)
  · rw [hother d hd]

/-- A completion outside every step region: the record, and the command's place (R303, R306). -/
theorem Sys.finish_outside {y : Sys} {c n l st : Nat} {k : Cmd} {res : Bytes} (hs : y.inSigma c k = false) (hkn : k.ring = n)
    (hkl : k.lay = l) (hr : n < 4) :
    y.KeepsUnits (y.finish c k st res) ∧ (y.finish c k st res).cmdAt c n l = none
      ∧ ((y.finish c k st res).ctx c).outbox = (y.ctx c).outbox ++ [doneRec k st res] := by
  subst hkn hkl
  obtain ⟨y1, y2, h1, h2, hf⟩ := Sys.finish_eq y c k st res hs
  have hemit : y1.ctx c = { y.ctx c with outbox := (y.ctx c).outbox ++ [doneRec k st res] } := by rw [h1, Sys.ctx_setCtx]
  have hother : ∀ d, d ≠ c → y1.ctx d = y.ctx d := fun d hd => by rw [h1, Sys.ctx_setCtx_other _ _ hd]
  have hlast : (y.finish c k st res).ctx c = { y2.ctx c with lastUse := y2.useNext } := by rw [hf]; exact Sys.ctx_setCtx ..
  have hlast' : ∀ d, d ≠ c → (y.finish c k st res).ctx d = y2.ctx d := fun d hd => by rw [hf]; exact Sys.ctx_setCtx_other _ _ hd
  obtain ⟨hcmd, -, hctx, -⟩ := Sys.retire_spec y1 c k.ring k.lay hr
  have hk := Sys.retire_keepsUnits y1 c k.lay hr
  rw [← h2] at hcmd hctx hk
  refine ⟨⟨?_, ?_, ?_, fun q => ?_, fun d => ?_, fun d j hj => ?_⟩, ?_, ?_⟩
  · rw [hf]; exact hk.bights.trans (by rw [h1]; rfl)
  · rw [hf]; exact hk.saved.trans (by rw [h1]; rfl)
  · rw [hf]; exact hk.mem.trans (by rw [h1]; rfl)
  · rw [hf]; exact (hk.sigma q).trans (by rw [h1]; rfl)
  · by_cases hd : d = c
    · subst hd; rw [hlast]; exact (hk.part d).trans (by rw [hemit])
    · rw [hlast' d hd, hk.part, hother d hd]
  · by_cases hd : d = c
    · subst hd
      rw [hlast] at hj
      have hj' := hk.cmds d j hj
      rw [hemit] at hj'
      exact hj'
    · rw [hlast' d hd] at hj
      rw [← hother d hd]
      exact hk.cmds d j hj
  · have hsame : (y.finish c k st res).cmdAt c k.ring k.lay = y2.cmdAt c k.ring k.lay := by simp [Sys.cmdAt, Sys.ring, hlast]
    rw [hsame, hcmd, if_pos ⟨rfl, rfl⟩]
  · rw [hlast]
    have hout := congrArg Context.outbox hctx
    rw [hemit] at hout
    exact hout

/-! No other RUN waits for the Bight (R301) -/

/-- Whether a command is a RUN that waits for a Bight, `locked` when the step region has written the locker it would start on (R181). -/
def Cmd.awaits (k : Cmd) (b : Nat) (locked : Bool) : Bool :=
  match k.progress with
  | .run ready _ _ _ spec => ready.contains b && (spec || !locked)
  | _ => false

theorem Sys.readyRun_eq (y : Sys) (c b : Nat) : y.readyRun c b = (y.ctx c).cmds.find? (fun k => k.awaits b (y.specLocker c b)) := rfl

/-- No context has a RUN for a Bight, switched out or waiting. -/
def Sys.Unwanted (y : Sys) (b : Nat) : Prop := ∀ c, y.readyRun c b = none ∧ (y.savedBight c b).run = none

/-- A Bight that no context wants stays as it is. -/
theorem Sys.takeBight_of_unwanted {y : Sys} {b : Nat} (h : y.Unwanted b) : y.takeBight b = y := by
  have hwant : ∀ c, y.wantsBight c b = false := fun c => by
    obtain ⟨hready, hsaved⟩ := h c
    simp [Sys.wantsBight, hready, hsaved]
  have hnone : ∀ cs : List Nat, cs.filter (fun c => y.wantsBight c b) = [] := fun cs => by simp [hwant]
  unfold Sys.takeBight
  simp only [hnone, List.find?_nil, List.head?_nil, ite_self]

/-- A Bight stays unwanted when every command waits as one did before. -/
theorem Sys.Unwanted.of_awaits {y z : Sys} {b : Nat} (h : ∀ c, y.readyRun c b = none) (hsaved : ∀ c, (z.savedBight c b).run = none)
    (hlocker : ∀ c, z.specLocker c b = y.specLocker c b)
    (hcmds : ∀ c, ∀ k ∈ (z.ctx c).cmds, ∃ j ∈ (y.ctx c).cmds, k.awaits b = j.awaits b) : z.Unwanted b := by
  refine fun c => ⟨?_, hsaved c⟩
  have hy := h c
  rw [Sys.readyRun_eq, List.find?_eq_none] at hy ⊢
  intro k hk
  obtain ⟨j, hj, hjk⟩ := hcmds c k hk
  rw [hjk, hlocker]
  exact hy j hj

theorem Sys.KeepsUnits.specLocker {y t : Sys} (h : y.KeepsUnits t) (c b : Nat) : t.specLocker c b = y.specLocker c b := by
  simp only [Sys.specLocker, h.part, h.sigma]

theorem Sys.KeepsUnits.savedBight {y t : Sys} (h : y.KeepsUnits t) (c b : Nat) : t.savedBight c b = y.savedBight c b := by
  simp only [Sys.savedBight, h.saved]

theorem Sys.KeepsUnits.bight {y t : Sys} (h : y.KeepsUnits t) (b : Nat) : t.bight b = y.bight b := by
  simp only [Sys.bight, h.bights]

/-- A completion makes no RUN wait. -/
theorem Sys.KeepsUnits.unwanted {y t : Sys} (h : y.KeepsUnits t) {b : Nat} (hu : y.Unwanted b) : t.Unwanted b :=
  Sys.Unwanted.of_awaits (fun c => (hu c).1) (fun c => by rw [h.savedBight]; exact (hu c).2) (fun c => h.specLocker c b)
    (fun c k hk => ⟨k, h.cmds c k hk, rfl⟩)

/-! The end of a Bight's part of a RUN (R331) -/

/-- The Bight runs nothing, and the context has its locker and hitches. -/
def Sys.vacated (y : Sys) (b : Nat) (r : RunRef) : Sys :=
  (y.setSaved r.ctx b { Bight.idle with arch := (y.bight b).arch.kept }).setBight b { Bight.idle with turn := r.ctx }

/-- The RUN's progress once a Bight with the state `x` has ended. -/
def Bight.reports (x : Bight) (b : Nat) (ready active : List Nat) (st : Word64) (causes : List Mark) (spec : Bool) : Progress :=
  .run ready (active.filter (· != b)) (st ||| x.arch.statusWord) (causes ++ x.seen) spec

theorem Bight.reports_eq (x : Bight) (b : Nat) (ready active : List Nat) (st : Word64) (causes : List Mark) (spec : Bool) :
    x.reports b ready active st causes spec = .run ready (active.filter (· != b))
      (st ||| (x.arch.halyard ++ x.arch.fairlead ++ x.arch.serve ++ x.arch.lay)) (causes ++ x.seen) spec := by
  rw [Bight.reports, BightArch.statusWord_eq]

/-- The units once a Bight has left its RUN, before the RUN completes or the Bight takes another. -/
def Sys.left (y : Sys) (b : Nat) (r : RunRef) (k : Cmd) (p : Progress) : Sys := (y.vacated b r).setProgress r.ctx r.ring k p

@[simp] theorem Sys.vacated_ctx (y : Sys) (b c : Nat) (r : RunRef) : (y.vacated b r).ctx c = y.ctx c := by
  simp [Sys.vacated, Sys.ctx]

@[simp] theorem Sys.vacated_part (y : Sys) (b p : Nat) (r : RunRef) : (y.vacated b r).part p = y.part p := by
  simp [Sys.vacated, Sys.part]

@[simp] theorem Sys.vacated_cmdAt (y : Sys) (b c n l : Nat) (r : RunRef) : (y.vacated b r).cmdAt c n l = y.cmdAt c n l := by
  simp only [Sys.cmdAt, Sys.ring, Sys.vacated_ctx]

@[simp] theorem Sys.vacated_mem (y : Sys) (b : Nat) (r : RunRef) : (y.vacated b r).mem = y.mem := by simp [Sys.vacated]

theorem Sys.endBight_eq {y : Sys} {b : Nat} {r : RunRef} {k : Cmd} {ready active : List Nat} {st : Word64} {causes : List Mark} {spec : Bool}
    (hrun : (y.bight b).run = some r) (hk : y.cmdAt r.ctx r.ring r.lay = some k) (hp : k.progress = .run ready active st causes spec) :
    y.endBight b
      = ((y.left b r k ((y.bight b).reports b ready active st causes spec)).runDone r.ctx r.ring r.lay).takeBight b := by
  have hk' : (y.vacated b r).cmdAt r.ctx r.ring r.lay = some k := (Sys.vacated_cmdAt ..).trans hk
  simp only [Sys.vacated] at hk'
  simp only [Sys.endBight, hrun, hk', hp, Sys.left, Sys.vacated, Bight.reports]

section Left

variable {y : Sys} {b : Fin 80} {r : RunRef} {k : Cmd} {ready active : List Nat} {st : Word64} {causes : List Mark} {spec : Bool} {p : Progress}

theorem Sys.left_bight : (y.left b.val r k p).bight b.val = { Bight.idle with turn := r.ctx } := by
  unfold Sys.left Sys.vacated Sys.setProgress Sys.setCmd Sys.setRing
  simp only [Sys.bight_setCtx, Sys.bight_setBight]

theorem Sys.left_bight_other {c : Fin 80} (h : c ≠ b) : (y.left b.val r k p).bight c.val = y.bight c.val := by
  unfold Sys.left Sys.vacated Sys.setProgress Sys.setCmd Sys.setRing
  rw [Sys.bight_setCtx, Sys.bight_setBight_other _ _ (by simpa [Fin.ext_iff] using h)]
  simp [Sys.bight]

theorem Sys.left_savedBight (c : Nat) : (y.left b.val r k p).savedBight c b.val
    = if c = r.ctx then { Bight.idle with arch := (y.bight b.val).arch.kept } else y.savedBight c b.val := by
  rw [← Sys.savedBight_setSaved]
  simp [Sys.savedBight, Sys.left, Sys.vacated, Sys.setProgress, Sys.setCmd, Sys.setRing]

theorem Sys.left_mem : (y.left b.val r k p).mem = y.mem := by
  simp [Sys.left, Sys.setProgress, Sys.setCmd, Sys.setRing]

theorem Sys.left_part (q : Nat) : (y.left b.val r k p).part q = y.part q := by
  simp [Sys.left, Sys.setProgress, Sys.setCmd, Sys.setRing]

theorem Sys.left_cmdAt (hr : r.ring < 4) (hk : y.cmdAt r.ctx r.ring r.lay = some k) :
    (y.left b.val r k p).cmdAt r.ctx r.ring r.lay = some { k with progress := p } := by
  have hlay := Sys.lay_of_cmdAt hk
  rw [← hlay] at hk ⊢
  exact Sys.cmdAt_setCmd (y := y.vacated b.val r) (x := { k with progress := p }) hr ((Sys.vacated_cmdAt ..).trans hk)

/-- Of a context only its rings change. -/
theorem Sys.left_ctx (c : Nat) : { (y.left b.val r k p).ctx c with rings := (y.ctx c).rings } = y.ctx c := by
  by_cases hc : c = r.ctx
  · subst hc
    rw [Sys.left, Sys.setProgress, Sys.setCmd, Sys.ctx_setRing, Sys.vacated_ctx]
    rfl
  · rw [Sys.left, Sys.setProgress, Sys.setCmd, Sys.setRing, Sys.ctx_setCtx_other _ _ hc, Sys.vacated_ctx]

theorem Sys.left_specLocker (c d : Nat) : (y.left b.val r k p).specLocker c d = y.specLocker c d := by
  have hpart : ((y.left b.val r k p).ctx c).part = (y.ctx c).part := (congrArg Context.part (Sys.left_ctx c) :)
  simp only [Sys.specLocker, hpart, Sys.left_part]

/-- Its progress does not move a command in or out of the step region. -/
theorem Sys.left_inSigma : (y.left b.val r k p).inSigma r.ctx { k with progress := p } = y.inSigma r.ctx k := by
  have hpart : ((y.left b.val r k p).ctx r.ctx).part = (y.ctx r.ctx).part := (congrArg Context.part (Sys.left_ctx r.ctx) :)
  have hbatches : ((y.left b.val r k p).ctx r.ctx).batches = (y.ctx r.ctx).batches := (congrArg Context.batches (Sys.left_ctx r.ctx) :)
  simp only [Sys.inSigma, Context.batch, hpart, hbatches, Sys.left_part]

/-- The RUN that a Bight has left waits for the Bights that it waited for. -/
theorem Sys.left_unwanted (hk : y.cmdAt r.ctx r.ring r.lay = some k) (hp : k.progress = .run ready active st causes spec)
    (hnone : ∀ c, y.readyRun c b.val = none ∧ (c ≠ r.ctx → (y.savedBight c b.val).run = none)) :
    (y.left b.val r k ((y.bight b.val).reports b.val ready active st causes spec)).Unwanted b.val := by
  refine Sys.Unwanted.of_awaits (fun c => (hnone c).1) (fun c => ?_) (fun c => Sys.left_specLocker c b.val) (fun c j hj => ?_)
  · rw [Sys.left_savedBight]
    split
    · rfl
    · next hc => exact (hnone c).2 hc
  · rcases Sys.mem_cmds_setCmd hj with hj | ⟨rfl, rfl⟩
    · exact ⟨j, by rwa [Sys.vacated_ctx] at hj, rfl⟩
    · refine ⟨k, Sys.mem_cmds_of_cmdAt hk, ?_⟩
      funext locked
      simp [Cmd.awaits, hp, Bight.reports]

/-- From `y` to `z` Bight `b` has left the RUN `k` of `r`, which is not yet completed, and no context has work for it. -/
structure Sys.Leaves (y z : Sys) (b : Fin 80) (r : RunRef) (k : Cmd) : Prop where
  bight : z.bight b.val = { Bight.idle with turn := r.ctx }
  others : ∀ c : Fin 80, c ≠ b → z.bight c.val = y.bight c.val
  saved : z.savedBight r.ctx b.val = { Bight.idle with arch := (y.bight b.val).arch.kept }
  mem : z.mem = y.mem
  outbox : (z.ctx r.ctx).outbox = (y.ctx r.ctx).outbox
  cmd : z.cmdAt r.ctx r.ring r.lay = some k
  sigma : z.inSigma r.ctx k = y.inSigma r.ctx k
  unwanted : z.Unwanted b.val

theorem Sys.left_leaves (hr : r.ring < 4) (hk : y.cmdAt r.ctx r.ring r.lay = some k) (hp : k.progress = .run ready active st causes spec)
    (hnone : ∀ c, y.readyRun c b.val = none ∧ (c ≠ r.ctx → (y.savedBight c b.val).run = none)) :
    y.Leaves (y.left b.val r k ((y.bight b.val).reports b.val ready active st causes spec)) b r
      { k with progress := (y.bight b.val).reports b.val ready active st causes spec } where
  bight := Sys.left_bight
  others _ hc := Sys.left_bight_other hc
  saved := (Sys.left_savedBight r.ctx).trans (if_pos rfl)
  mem := Sys.left_mem
  outbox := (congrArg Context.outbox (Sys.left_ctx r.ctx) :)
  cmd := Sys.left_cmdAt hr hk
  sigma := Sys.left_inSigma
  unwanted := Sys.left_unwanted hk hp hnone

end Left

theorem Sys.runDone_of_more {y : Sys} {c r l : Nat} {k : Cmd} {ready active : List Nat} {st : Word64} {causes : List Mark} {spec : Bool}
    (hk : y.cmdAt c r l = some k) (hp : k.progress = .run ready active st causes spec) (hmore : ready ≠ [] ∨ active ≠ []) :
    y.runDone c r l = y := by
  unfold Sys.runDone
  simp only [hk, hp]
  split
  · next h => simp_all
  · rfl

theorem Sys.runDone_of_last {y : Sys} {c r l : Nat} {k : Cmd} {st : Word64} {causes : List Mark} {spec : Bool}
    (hk : y.cmdAt c r l = some k) (hp : k.progress = .run [] [] st causes spec) (he : k.ending = none) :
    y.runDone c r l = y.finish c k (markStatus (worstMark causes)) (leBytes 8 st.toNat) := by
  unfold Sys.runDone
  simp only [hk, hp, Cmd.runStatus, he]

/-- HALT of a Bight with nothing outstanding ends its part of the RUN (R88). -/
theorem exec_halt {s : State} {f : ControlF} (h : CoreReady s f.b) (hw : ∀ g ∈ s.sys.waiting, g.bight ≠ some f.b.val)
    (hd : (s.sys.bight f.b.val).drains = []) (hs : (s.arch f.b).hitchSets = []) (hp : s.sys.setPending f.b.val = false)
    (hr : (s.sys.bight f.b.val).region = none) :
    exec (.halt f) s = .next { s with sys := { s.sys.endBight f.b.val with replay := none } } := by
  have hexec : exec (.halt f) s = s.onSys (fun y => y.front (.halt f) f.b.val .halyard (fun y => y.haltBight (.halt f) f.b.val)) := rfl
  rw [hexec, State.onSys_next, Sys.front_ready h]
  simp [Sys.haltBight, Sys.anyBusy_of_nothing hw hd hs hp, hr]

/-- Settles O11: an instruction on a Bight that runs nothing is not taken up; HALT leaves the Bight idle and the RUN with its report, then the
RUN completes or not, and no context has work for the Bight. -/
theorem halts : Obligations.Halts := by
  unfold Obligations.Halts
  refine ⟨fun b s hrun hrep i hi => ?_, fun f s hcore hw hd hsets hpend hreg => ?_⟩
  · simp only [List.mem_cons, List.not_mem_nil, or_false] at hi
    rcases hi with ⟨f, rfl, rfl | rfl | rfl⟩ | ⟨f, rfl, rfl | rfl⟩ | ⟨f, rfl, rfl | rfl⟩ | ⟨f, rfl, rfl⟩ | ⟨f, rfl, rfl | rfl⟩
    case inl.inl => exact exec_front_idle hrun hrep rfl
    case inl.inr.inl => exact exec_coreOp_idle hrun hrep rfl
    case inl.inr.inr => exact exec_coreOp_idle hrun hrep rfl
    case inr.inl.inl => exact exec_coreOp_idle hrun hrep rfl
    case inr.inl.inr => exact exec_coreOp_idle hrun hrep rfl
    all_goals exact exec_queueOp_idle hrun hrep rfl
  · intro x words over_ r k ready active st causes spec hrun hring hk hkring hend hp hsigma hnone
    have hexec := exec_halt hcore hw hd hsets hpend hreg
    have hleft := Sys.left_leaves hring hk hp hnone
    rw [Sys.endBight_eq hrun hk hp] at hexec
    rw [Bight.reports_eq] at hexec hleft
    generalize Sys.left _ _ _ _ _ = y at hexec hleft
    have hkept := BightArch.kept_of_no_sets (a := (s.sys.bight f.b.val).arch) hsets
    have hover : ∀ t, y.KeepsUnits t → over_ { s with sys := { t with replay := none } } r := fun t ht =>
      ⟨(ht.bight _).trans hleft.bight, rfl, rfl, (ht.savedBight _ _).trans (by rw [hleft.saved, hkept]; rfl),
        fun c hc => (ht.bight _).trans (hleft.others c hc), ht.mem.trans hleft.mem⟩
    refine ⟨fun hmore => ?_, fun hready hactive => ?_⟩
    · have hdone : y.runDone r.ctx r.ring r.lay = y := by
        refine Sys.runDone_of_more hleft.cmd rfl (hmore.imp_right ?_)
        rintro ⟨c, hc, hcb⟩ hnil
        have := List.filter_eq_nil_iff.mp hnil c hc
        simp [hcb] at this
      rw [hdone, Sys.takeBight_of_unwanted hleft.unwanted] at hexec
      exact ⟨_, hexec, hover y (Sys.KeepsUnits.refl y), hleft.cmd⟩
    · have hnil : active.filter (· != f.b.val) = [] := List.filter_eq_nil_iff.mpr fun c hc => by simp [hactive c hc]
      rw [hready, hnil] at hleft
      have hfinish := fun st res => Sys.finish_outside (st := st) (res := res) (hleft.sigma.trans hsigma) hkring (Sys.lay_of_cmdAt hleft.cmd) hring
      rw [Sys.runDone_of_last hleft.cmd rfl hend, Sys.takeBight_of_unwanted ((hfinish _ _).1.unwanted hleft.unwanted)] at hexec
      obtain ⟨hkeeps, hgone, hout⟩ := hfinish (markStatus (worstMark (causes ++ (s.sys.bight f.b.val).seen))) (leBytes 8 (st ||| words).toNat)
      rw [hleft.outbox] at hout
      exact ⟨_, hexec, hover _ hkeeps, hgone, hout⟩

end Sys2Proof.Machine

/-!
O60, the Logline's rows (R19, R439, R443 to R446): what making a record, taking a record and the freeze change beside the Logline, the round of
the pre-rings, and the wrap of a local count.
-/

namespace Sys2Proof.Machine

/-! Only the Logline changes -/

/-- From `y` to `z` nothing changes but the Logline, the local counts and the free values. -/
def LogOnly (y z : Sys) : Prop := { z with log := y.log, counts := y.counts, free := y.free } = y

theorem LogOnly.of_log (y : Sys) (l : Log) : LogOnly y { y with log := l } := rfl

theorem LogOnly.trans {x y z : Sys} (h : LogOnly x y) (g : LogOnly y z) : LogOnly x z := by
  unfold LogOnly at h g ⊢
  exact (congrArg (fun t : Sys => ({ t with log := x.log, counts := x.counts, free := x.free } : Sys)) g).trans h

/-- The frame from the values that the Logline, the counts and the free values had. -/
theorem LogOnly.frame {y z : Sys} (h : LogOnly y z) {l : Log} {c : SMap (BitVec 48)} {n : Nat} (hl : y.log = l) (hc : y.counts = c)
    (hn : y.free = n) : { z with log := l, counts := c, free := n } = y := by
  subst hl hc hn
  exact h

/-! Making a record (R443, R446) -/

theorem Sys.readCount_logOnly (y : Sys) (d : Nat) : LogOnly y (y.readCount d) := rfl

/-- A pre-ring with an entry free for every event takes the record. -/
theorem Log.push_room {l : Log} {unit : Nat} (h : (l.pre.get [] unit).length < 240) (r : PreRec) :
    l.push unit r = { l with pre := l.pre.set [] unit (l.pre.get [] unit ++ [r]) } := by
  simp [Log.push, h]

/-- A record of the Bowline die that finds room. -/
theorem Sys.logBowline_room {y : Sys} (h : (y.log.pre.get [] fnBowline).length < 240) (part location event arg0 arg1 : Nat) :
    ∃ x : PreRec, (y.logBowline part location event arg0 arg1).log
        = { y.log with pre := y.log.pre.set [] fnBowline (y.log.pre.get [] fnBowline ++ [x]) }
      ∧ x.body.event = BitVec.ofNat 16 event ∧ x.body.unit = 0#8 ∧ x.body.arg0 = BitVec.ofNat 32 arg0 :=
  ⟨_, Log.push_room h _, rfl, rfl, rfl⟩

theorem Sys.logBowline_logOnly (y : Sys) (part location event arg0 arg1 : Nat) :
    LogOnly y (y.logBowline part location event arg0 arg1) :=
  (y.readCount_logOnly domBowline).trans (LogOnly.of_log ..)

/-! LOG_FREEZE and LOG_UNFREEZE -/

/-- Taking a request from its path changes the dictionary's windows alone. -/
theorem Sys.submitted_frame (y : Sys) (path : Path) (d : Bytes) : { y.submitted path d with dict := y.dict } = y := by
  cases path <;> rfl

section Requests

variable (s : State) (r : ReqF) (sub : Nat)

theorem State.takenReq_log : (s.takenReq r 0x7000 sub).sys.log = s.sys.log :=
  (congrArg Sys.log (Sys.submitted_frame s.sys r.path _) :)
theorem State.takenReq_counts : (s.takenReq r 0x7000 sub).sys.counts = s.sys.counts :=
  (congrArg Sys.counts (Sys.submitted_frame s.sys r.path _) :)
theorem State.takenReq_free : (s.takenReq r 0x7000 sub).sys.free = s.sys.free :=
  (congrArg Sys.free (Sys.submitted_frame s.sys r.path _) :)

end Requests

theorem Sys.logResume_logOnly (y : Sys) : LogOnly y y.logResume :=
  (LogOnly.of_log ..).trans (Sys.logBowline_logOnly ..)

/-- The record of LOG_UNFREEZE stands in the running ring's pre-ring. -/
theorem Sys.logResume_room {y : Sys} (h : (y.log.pre.get [] fnBowline).length < 240) :
    ∃ x : PreRec, y.logResume.log
        = { y.log with frozen := false, cause := 0#8, after := 0, dropped := 0, frozenAt := []
                       pre := y.log.pre.set [] fnBowline (y.log.pre.get [] fnBowline ++ [x]) }
      ∧ x.body.event = 0x0802#16 ∧ x.body.arg0 = BitVec.ofNat 32 y.log.dropped := by
  obtain ⟨x, hlog, hevent, -, harg⟩ := Sys.logBowline_room
    (y := { y with log := { y.log with frozen := false, cause := 0#8, after := 0, dropped := 0, frozenAt := [] } })
    h partNone locNone 0x0802 y.log.dropped 0
  exact ⟨x, hlog, hevent, harg⟩

/-! The freeze (R444) -/

/-- The freeze reaches one domain. -/
def Sys.noteDomain (y : Sys) (d : Nat) : Sys :=
  let z := y.readCount d
  { z with log := { z.log with frozenAt := z.log.frozenAt.put d (z.count d) } }

theorem Sys.noteFreeze_eq (y : Sys) : y.noteFreeze = domains.foldl Sys.noteDomain y := rfl

theorem Sys.noteDomain_logOnly (y : Sys) (d : Nat) : LogOnly y (y.noteDomain d) :=
  (y.readCount_logOnly d).trans (LogOnly.of_log ..)

theorem Sys.count_noteDomain_other (y : Sys) {d e : Nat} (h : e ≠ d) : (y.noteDomain d).count e = y.count e :=
  SMap.get_set_other _ _ _ h

theorem Sys.frozenAt_noteDomain_same (y : Sys) (d : Nat) :
    (y.noteDomain d).log.frozenAt.get? d = some ((y.noteDomain d).count d) := SMap.get?_put_same ..

theorem Sys.frozenAt_noteDomain_other (y : Sys) {d e : Nat} (h : e ≠ d) :
    (y.noteDomain d).log.frozenAt.get? e = y.log.frozenAt.get? e := SMap.get?_put_other _ _ h

/-- A domain's noted count stays the one that it was read at: it is read again only where it is noted again. -/
theorem Sys.noteDomains_spec (ds : List Nat) (y : Sys) :
    LogOnly y (ds.foldl Sys.noteDomain y) ∧ { (ds.foldl Sys.noteDomain y).log with frozenAt := y.log.frozenAt } = y.log
      ∧ ∀ d, d ∈ ds ∨ y.log.frozenAt.get? d = some (y.count d) →
          (ds.foldl Sys.noteDomain y).log.frozenAt.get? d = some ((ds.foldl Sys.noteDomain y).count d) := by
  induction ds generalizing y with
  | nil => exact ⟨rfl, rfl, fun d hd => hd.resolve_left (by simp)⟩
  | cons e ds ih =>
    obtain ⟨hframe, hlog, hnoted⟩ := ih (y.noteDomain e)
    refine ⟨(y.noteDomain_logOnly e).trans hframe, (congrArg (fun l : Log => { l with frozenAt := y.log.frozenAt }) hlog), fun d hd => hnoted d ?_⟩
    by_cases hde : d = e
    · subst hde
      exact .inr (Sys.frozenAt_noteDomain_same y d)
    · rw [Sys.frozenAt_noteDomain_other y hde, Sys.count_noteDomain_other y hde]
      exact hd.imp_left fun h => (List.mem_cons.mp h).resolve_left hde

theorem Sys.noteFreeze_spec (y : Sys) :
    LogOnly y y.noteFreeze ∧ { y.noteFreeze.log with frozenAt := y.log.frozenAt } = y.log
      ∧ ∀ d ∈ domains, y.noteFreeze.log.frozenAt.get? d = some (y.noteFreeze.count d) := by
  rw [Sys.noteFreeze_eq]
  obtain ⟨hframe, hlog, hnoted⟩ := Sys.noteDomains_spec domains y
  exact ⟨hframe, hlog, fun d hd => hnoted d (.inl hd)⟩

theorem Log.eq_with_frozenAt {l m : Log} (h : { l with frozenAt := m.frozenAt } = m) : l = { m with frozenAt := l.frozenAt } :=
  (congrArg (fun k : Log => ({ k with frozenAt := l.frozenAt } : Log)) h :)

/-- Of the Logline the freeze changes the counts that it notes. -/
theorem Sys.noteFreeze_log (y : Sys) : y.noteFreeze.log = { y.log with frozenAt := y.noteFreeze.log.frozenAt } :=
  Log.eq_with_frozenAt (Sys.noteFreeze_spec y).2.1

/-! Taking a record (R439, R443, R444) -/

/-- The ring once it has taken a record with these flags. -/
def Log.ringWith (l : Log) (x : PreRec) (flags : Byte) : List LogRec :=
  let ring := l.ring ++ [{ x.body with flags := x.body.flags ||| flags, seq := l.nextSeq }]
  ring.drop (ring.length - 65536)

theorem Log.append_eq (l : Log) (x : PreRec) (flags : Byte) :
    l.append { x.body with flags := x.body.flags ||| flags } = { l with ring := l.ringWith x flags, nextSeq := l.nextSeq + 1#32 } := rfl

/-- A running ring takes a record that is no trigger. -/
theorem Sys.takeRecord_running {y : Sys} {x : PreRec} (hf : y.log.frozen = false) (hc : triggerCause x.body.event = 0#8) :
    y.takeRecord x = { y with log := { y.log with ring := y.log.ringWith x 0#8, nextSeq := y.log.nextSeq + 1#32 } } := by
  rw [← Log.append_eq, BitVec.or_zero]
  simp only [Sys.takeRecord, hf, hc, if_true, if_false, Bool.false_eq_true]

/-- The units once a trigger is in the ring, before the freeze reaches a domain. -/
def Sys.triggered (y : Sys) (x : PreRec) : Sys :=
  { y with log := { y.log with ring := y.log.ringWith x 2#8, nextSeq := y.log.nextSeq + 1#32
                               frozen := true, cause := triggerCause x.body.event, after := 0 } }

/-- A trigger freezes the ring behind itself. -/
theorem Sys.takeRecord_trigger {y : Sys} {x : PreRec} (hf : y.log.frozen = false) (hc : triggerCause x.body.event ≠ 0#8) :
    y.takeRecord x = (y.triggered x).noteFreeze := by
  simp only [Sys.takeRecord, hf, hc, if_false, Bool.false_eq_true, Log.append_eq, Sys.triggered]

/-- A frozen ring takes a record made before the freeze reached its domain. -/
theorem Sys.takeRecord_glowing {y : Sys} {x : PreRec} (hf : y.log.frozen = true) (hg : y.log.glows x = true) :
    y.takeRecord x = { y with log := { y.log with ring := y.log.ringWith x 4#8, nextSeq := y.log.nextSeq + 1#32, after := y.log.after + 1 } } := by
  have happ := Log.append_eq y.log x 4#8
  generalize y.log.ringWith x 4#8 = ring at happ ⊢
  unfold Sys.takeRecord
  rw [if_pos hf, if_pos hg, happ]

/-- It drops and counts every other. -/
theorem Sys.takeRecord_dropped {y : Sys} {x : PreRec} (hf : y.log.frozen = true) (hg : y.log.glows x = false) :
    y.takeRecord x = { y with log := { y.log with dropped := y.log.dropped + 1 } } := by
  simp only [Sys.takeRecord, hf, hg, if_true, if_false, Bool.false_eq_true]

/-- From `y` to `z` only the Logline, the counts and the free values change, and of the Logline neither the pre-rings nor whose turn it is. -/
structure KeepsPre (y z : Sys) : Prop where
  frame : LogOnly y z
  pre : z.log.pre = y.log.pre
  lost : z.log.lost = y.log.lost
  turn : z.log.turn = y.log.turn

theorem keepsPre_ring (y : Sys) (ring : List LogRec) (n : Word32) (after : Nat) :
    KeepsPre y { y with log := { y.log with ring := ring, nextSeq := n, after := after } } := ⟨rfl, rfl, rfl, rfl⟩

theorem keepsPre_dropped (y : Sys) (n : Nat) : KeepsPre y { y with log := { y.log with dropped := n } } := ⟨rfl, rfl, rfl, rfl⟩

theorem keepsPre_trigger (y : Sys) (ring : List LogRec) (n : Word32) (cause : Byte) :
    KeepsPre y { y with log := { y.log with ring := ring, nextSeq := n, frozen := true, cause := cause, after := 0 } } := ⟨rfl, rfl, rfl, rfl⟩

theorem KeepsPre.trans {x y z : Sys} (h : KeepsPre x y) (g : KeepsPre y z) : KeepsPre x z :=
  ⟨h.frame.trans g.frame, g.pre.trans h.pre, g.lost.trans h.lost, g.turn.trans h.turn⟩

theorem keepsPre_noteFreeze (y : Sys) : KeepsPre y y.noteFreeze := by
  obtain ⟨hframe, hlog, -⟩ := Sys.noteFreeze_spec y
  generalize Sys.noteFreeze _ = z at hframe hlog ⊢
  exact ⟨hframe, (congrArg Log.pre hlog :), (congrArg Log.lost hlog :), (congrArg Log.turn hlog :)⟩

/-! The record of a unit in its turn (R439, R443, R444) -/

/-- The Bowline die turns to a unit; its oldest record is taken from the pre-rings, which stand as `pre` then. -/
def Sys.turned (y : Sys) (u : Nat) (pre : SMap (List PreRec)) : Sys := { y with log := { y.log with turn := u, pre := pre } }

section Turned

variable {y : Sys} {u : Nat} {pre : SMap (List PreRec)} {x : PreRec}

theorem Sys.turned_logOnly : LogOnly y (y.turned u pre) := LogOnly.of_log ..

theorem Sys.turned_ringWith (flags : Byte) : (y.turned u pre).log.ringWith x flags = y.log.ringWith x flags := rfl

theorem Sys.takeRecord_turned_running (hf : y.log.frozen = false) (hc : triggerCause x.body.event = 0#8) :
    ((y.turned u pre).takeRecord x).log = { y.log with pre := pre, turn := u, ring := y.log.ringWith x 0#8, nextSeq := y.log.nextSeq + 1#32 }
      ∧ ((y.turned u pre).takeRecord x).counts = y.counts := by
  rw [Sys.takeRecord_running (y := y.turned u pre) hf hc, Sys.turned_ringWith]
  generalize y.log.ringWith x 0#8 = ring
  exact ⟨rfl, rfl⟩

theorem Sys.triggered_turned : ((y.turned u pre).triggered x).log
    = { y.log with
        pre := pre, turn := u, ring := y.log.ringWith x 2#8, nextSeq := y.log.nextSeq + 1#32
        frozen := true, cause := triggerCause x.body.event, after := 0 } := by
  rw [Sys.triggered, Sys.turned_ringWith]
  generalize y.log.ringWith x 2#8 = ring
  rfl

theorem Sys.takeRecord_turned_trigger (hf : y.log.frozen = false) (hc : triggerCause x.body.event ≠ 0#8) :
    ((y.turned u pre).takeRecord x).log = { y.log with
        pre := pre, turn := u, ring := y.log.ringWith x 2#8, nextSeq := y.log.nextSeq + 1#32
        frozen := true, cause := triggerCause x.body.event, after := 0, frozenAt := ((y.turned u pre).takeRecord x).log.frozenAt }
      ∧ ∀ d ∈ domains, ((y.turned u pre).takeRecord x).log.frozenAt.get? d = some (((y.turned u pre).takeRecord x).count d) := by
  rw [Sys.takeRecord_trigger (y := y.turned u pre) hf hc]
  refine ⟨?_, (Sys.noteFreeze_spec _).2.2⟩
  have hlog := Sys.noteFreeze_log ((y.turned u pre).triggered x)
  rw [Sys.triggered_turned] at hlog
  generalize y.log.ringWith x 2#8 = ring at hlog ⊢
  generalize Sys.noteFreeze _ = z at hlog ⊢
  exact hlog

theorem Sys.takeRecord_turned_glowing (hf : y.log.frozen = true) (ha : y.log.after < 4096) (hx : x.unfrozen = true) :
    ((y.turned u pre).takeRecord x).log = { y.log with
      pre := pre, turn := u, ring := y.log.ringWith x 4#8, nextSeq := y.log.nextSeq + 1#32, after := y.log.after + 1 } := by
  have hg : (y.turned u pre).log.glows x = true := by simp [Log.glows, Sys.turned, ha, hx]
  rw [Sys.takeRecord_glowing (y := y.turned u pre) hf hg, Sys.turned_ringWith]
  generalize y.log.ringWith x 4#8 = ring
  rfl

theorem Sys.takeRecord_turned_dropped (hf : y.log.frozen = true) (ha : 4096 ≤ y.log.after) :
    ((y.turned u pre).takeRecord x).log = { y.log with pre := pre, turn := u, dropped := y.log.dropped + 1 } := by
  have hg : (y.turned u pre).log.glows x = false := by simp [Log.glows, Sys.turned, Nat.not_lt.mpr ha]
  rw [Sys.takeRecord_dropped (y := y.turned u pre) hf hg]
  rfl

end Turned

/-- A record on its way into the ring leaves the pre-rings. -/
theorem Sys.takeRecord_keepsPre (y : Sys) (x : PreRec) : KeepsPre y (y.takeRecord x) := by
  cases hf : y.log.frozen with
  | false =>
    by_cases hc : triggerCause x.body.event = 0#8
    · rw [Sys.takeRecord_running hf hc]
      exact keepsPre_ring ..
    · rw [Sys.takeRecord_trigger hf hc]
      exact KeepsPre.trans (keepsPre_trigger ..) (keepsPre_noteFreeze (y.triggered x))
  | true =>
    cases hg : y.log.glows x with
    | false =>
      rw [Sys.takeRecord_dropped hf hg]
      exact keepsPre_dropped ..
    | true =>
      rw [Sys.takeRecord_glowing hf hg]
      exact keepsPre_ring ..

/-! The round of the pre-rings (R439) -/

/-- The turn of one unit. -/
def Sys.serveUnit (y : Sys) (u : Nat) : Sys :=
  if (y.log.pre.get [] u).isEmpty then y else ({ y with log := { y.log with turn := u } } : Sys).logTake u

/-- The units whose turn comes before `unit`. -/
def Log.before (l : Log) (unit : Nat) : List Nat :=
  ((List.range 256).map (fun i => (l.turn + 1 + i) % 256)).takeWhile (fun u => u != unit % 256)

theorem Sys.logRound_eq (y : Sys) (unit : Nat) : y.logRound unit = ((y.log.before unit).foldl Sys.serveUnit y).serveUnit unit := by
  have hround : y.logRound unit = (y.log.before unit ++ [unit]).foldl Sys.serveUnit y := rfl
  rw [hround, List.foldl_append]
  rfl

theorem Sys.serveUnit_empty {y : Sys} {u : Nat} (h : y.log.pre.get [] u = []) : y.serveUnit u = y := by
  simp [Sys.serveUnit, h]

/-- A unit that has lost no record gives its oldest one. -/
theorem Sys.serveUnit_cons {y : Sys} {u : Nat} {x : PreRec} {rest : List PreRec} (h : y.log.pre.get [] u = x :: rest)
    (hl : y.log.lost.get 0 u = 0) :
    y.serveUnit u = (y.turned u (y.log.pre.set [] u rest)).takeRecord x := by
  have hlost : ((y.turned u (y.log.pre.set [] u rest)).takeRecord x).log.lost.get 0 u = 0 := by
    rw [(Sys.takeRecord_keepsPre ..).lost]; exact hl
  have hkeep : ((y.turned u (y.log.pre.set [] u rest)).takeRecord x).lostRecord u = (y.turned u (y.log.pre.set [] u rest)).takeRecord x := by
    rw [Sys.lostRecord, if_pos (.inl hlost)]
  rw [Sys.serveUnit, if_neg (by simp [h]), Sys.logTake]
  simp only [h]
  exact hkeep

/-- A unit's turn takes the head of its own pre-ring. -/
theorem Sys.serveUnit_spec {y : Sys} (u : Nat) (hl : y.log.lost.get 0 u = 0) :
    LogOnly y (y.serveUnit u) ∧ (y.serveUnit u).log.lost = y.log.lost
      ∧ (y.log.pre.get [] u ≠ [] → (y.serveUnit u).log.turn = u)
      ∧ ∀ v, (y.serveUnit u).log.pre.get [] v = if v = u then (y.log.pre.get [] v).tail else y.log.pre.get [] v := by
  cases hq : y.log.pre.get [] u with
  | nil =>
    rw [Sys.serveUnit_empty hq]
    refine ⟨rfl, rfl, fun h => absurd rfl h, fun v => ?_⟩
    split
    · next hv => rw [hv, hq]; rfl
    · rfl
  | cons x rest =>
    rw [Sys.serveUnit_cons hq hl]
    obtain ⟨hframe, hpre, hlost, hturn⟩ := Sys.takeRecord_keepsPre (y.turned u (y.log.pre.set [] u rest)) x
    refine ⟨(Sys.turned_logOnly).trans hframe, hlost, fun _ => hturn, fun v => ?_⟩
    rw [hpre]
    show SMap.get [] (y.log.pre.set [] u rest) v = _
    rw [SMap.get_set]
    split
    · next hv => rw [hv, hq]; rfl
    · rfl

/-- The turns of different units, none of which has lost a record. -/
theorem Sys.serveUnits_spec {us : List Nat} (hnodup : us.Nodup) (y : Sys) (hl : ∀ v, y.log.lost.get 0 v = 0) :
    LogOnly y (us.foldl Sys.serveUnit y) ∧ (us.foldl Sys.serveUnit y).log.lost = y.log.lost
      ∧ ∀ v, (us.foldl Sys.serveUnit y).log.pre.get [] v = if v ∈ us then (y.log.pre.get [] v).tail else y.log.pre.get [] v := by
  induction us generalizing y with
  | nil => exact ⟨rfl, rfl, fun v => by simp⟩
  | cons u us ih =>
    obtain ⟨hu, hus⟩ := List.nodup_cons.mp hnodup
    obtain ⟨hframe, hlost, -, hpre⟩ := Sys.serveUnit_spec u (hl u)
    obtain ⟨hframe', hlost', hpre'⟩ := ih hus (y.serveUnit u) (by rw [hlost]; exact hl)
    refine ⟨hframe.trans hframe', hlost'.trans hlost, fun v => ?_⟩
    rw [List.foldl_cons, hpre', hpre]
    by_cases hvu : v = u
    · subst hvu; simp [hu]
    · simp [hvu]

theorem Sys.serveUnits_empty {us : List Nat} {y : Sys} (h : ∀ u ∈ us, y.log.pre.get [] u = []) : us.foldl Sys.serveUnit y = y := by
  induction us with
  | nil => rfl
  | cons u us ih =>
    obtain ⟨hu, hus⟩ := List.forall_mem_cons.mp h
    rw [List.foldl_cons, Sys.serveUnit_empty hu, ih hus]

/-- How many units stand before `unit` in the round. -/
def Log.place (l : Log) (unit : Nat) : Nat := (unit + 255 - l.turn % 256) % 256

theorem Log.before_eq {l : Log} (unit : Nat) : l.before unit = (List.range (l.place unit)).map (fun i => (l.turn + 1 + i) % 256) := by
  have hlt : l.place unit < 256 := Nat.mod_lt _ (by decide)
  obtain ⟨k, hk⟩ : ∃ k, 256 = l.place unit + (k + 1) := ⟨255 - l.place unit, by omega⟩
  have hhead : (l.turn + 1 + l.place unit) % 256 = unit % 256 := by unfold Log.place; omega
  have hsplit : List.range 256 = List.range (l.place unit) ++ (List.range (k + 1)).map (l.place unit + ·) := by
    rw [← List.range_add, ← hk]
  unfold Log.before
  rw [hsplit, List.map_append, List.takeWhile_append_of_pos]
  · simp [List.range_succ_eq_map, hhead]
  · intro u hu
    obtain ⟨i, hi, rfl⟩ := List.mem_map.mp hu
    have hi' := List.mem_range.mp hi
    have hne : (l.turn + 1 + i) % 256 ≠ unit % 256 := by omega
    simpa using hne

theorem Log.mem_before {l : Log} {unit v : Nat} (hv : v < 256) : v ∈ l.before unit ↔ l.place v < l.place unit := by
  have hlt : l.place unit < 256 := Nat.mod_lt _ (by decide)
  have hplace : (l.turn + 1 + l.place v) % 256 = v := by unfold Log.place; omega
  rw [Log.before_eq, List.mem_map]
  constructor
  · rintro ⟨i, hi, rfl⟩
    have hi' := List.mem_range.mp hi
    have hi'' : l.place ((l.turn + 1 + i) % 256) = i := by
      have : i < 256 := by omega
      unfold Log.place
      omega
    rwa [hi'']
  · exact fun h => ⟨l.place v, List.mem_range.mpr h, hplace⟩

theorem Log.before_nodup (l : Log) (unit : Nat) : (l.before unit).Nodup := by
  have hlt : l.place unit < 256 := Nat.mod_lt _ (by decide)
  rw [Log.before_eq]
  refine List.Nodup.map_on (fun i hi j hj hij => ?_) List.nodup_range
  have := List.mem_range.mp hi
  have := List.mem_range.mp hj
  omega

theorem Log.ne_of_mem_before {l : Log} {unit v : Nat} (h : v ∈ l.before unit) : v ≠ unit := by
  have hne : v ≠ unit % 256 := by simpa using List.mem_takeWhile_imp h
  obtain ⟨i, -, rfl⟩ := List.mem_map.mp (List.takeWhile_subset _ h)
  omega

/-- The round up to `unit`, none of whose records were lost. -/
theorem Sys.logRound_spec {y : Sys} {unit : Nat} (hq : y.log.pre.get [] unit ≠ []) (hu : unit < 256) (hl : ∀ v, y.log.lost.get 0 v = 0) :
    LogOnly y (y.logRound unit) ∧ (y.logRound unit).log.turn = unit
      ∧ ∀ v < 256, (y.logRound unit).log.pre.get [] v
          = if v = unit ∨ y.log.place v < y.log.place unit then (y.log.pre.get [] v).tail else y.log.pre.get [] v := by
  rw [Sys.logRound_eq]
  obtain ⟨hframe, hlost, hpre⟩ := Sys.serveUnits_spec (y.log.before_nodup unit) y hl
  have hself : unit ∉ y.log.before unit := fun h => Log.ne_of_mem_before h rfl
  obtain ⟨hframe', -, hturn, hpre'⟩ := Sys.serveUnit_spec (y := (y.log.before unit).foldl Sys.serveUnit y) unit (by rw [hlost]; exact hl unit)
  refine ⟨hframe.trans hframe', hturn (by rw [hpre, if_neg hself]; exact hq), fun v hv => ?_⟩
  rw [hpre', hpre]
  by_cases hvu : v = unit
  · subst hvu; simp [hself]
  · simp [hvu, Log.mem_before hv]

/-- Where no other unit has a record, the round is the turn of `unit`. -/
theorem Sys.logRound_alone {y : Sys} {unit : Nat} {x : PreRec} {rest : List PreRec} (hq : y.log.pre.get [] unit = x :: rest)
    (hl : y.log.lost.get 0 unit = 0) (hothers : ∀ v, v ≠ unit → y.log.pre.get [] v = []) :
    y.logRound unit = (y.turned unit (y.log.pre.set [] unit rest)).takeRecord x := by
  rw [Sys.logRound_eq, Sys.serveUnits_empty fun u hu => hothers u (Log.ne_of_mem_before hu), Sys.serveUnit_cons hq hl]

/-! The wrap of a local count (R19, R446) -/

theorem exec_countWrap (s : State) (d : Nat) : exec (.countWrap d) s = .next { s with sys := s.sys.wrap d } := rfl

/-- A domain that does not exist, or whose clock stands, does not wrap. -/
theorem Sys.wrap_still {y : Sys} {d : Nat} (h : d ∉ domains ∨ y.clockRuns d = false) : y.wrap d = y := by
  unfold Sys.wrap
  rw [if_pos]
  rcases h with h | h
  · simp [h]
  · simp [h]

/-- The units once a domain's count is 0 again, before the record. -/
def Sys.wrapped (y : Sys) (d : Nat) : Sys :=
  { y.closeWindows d with counts := y.counts.set 0#48 d 0#48, wraps := y.wraps.set 0 d (y.wraps.get 0 d + 1) }

theorem Sys.count_wrapped_same (y : Sys) (d : Nat) : (y.wrapped d).count d = 0#48 :=
  SMap.get_set_same (0#48 : BitVec 48) y.counts d 0#48
theorem Sys.count_wrapped_other (y : Sys) {d e : Nat} (h : e ≠ d) : (y.wrapped d).count e = y.count e :=
  SMap.get_set_other (0#48 : BitVec 48) y.counts 0#48 h
theorem Sys.wraps_wrapped_same (y : Sys) (d : Nat) : (y.wrapped d).wraps.get 0 d = y.wraps.get 0 d + 1 :=
  SMap.get_set_same 0 y.wraps d (y.wraps.get 0 d + 1)
theorem Sys.wraps_wrapped_other (y : Sys) {d e : Nat} (h : e ≠ d) : (y.wrapped d).wraps.get 0 e = y.wraps.get 0 e :=
  SMap.get_set_other 0 y.wraps (y.wraps.get 0 d + 1) h

/-- What a wrap records (R446). -/
def Sys.wrapItem (y : Sys) (d : Nat) : LogItem :=
  { domain := d, unit := domainUnit d, part := partNone, location := locNone, event := 0x0701, arg0 := 0, arg1 := y.wraps.get 0 d + 1, slack := false }

/-- A count whose clock runs wraps with a record, stamped 0, in a pre-ring with room. -/
theorem Sys.wrap_room {y : Sys} {d : Nat} (hd : d ∈ domains) (hc : y.clockRuns d = true)
    (hroom : (y.log.pre.get [] (domainUnit d)).length < 240) :
    ∃ x : PreRec, y.wrap d = { y.wrapped d with log := { (y.wrapped d).log with
        pre := (y.wrapped d).log.pre.set [] (domainUnit d) ((y.wrapped d).log.pre.get [] (domainUnit d) ++ [x]) } }
      ∧ x.body.event = 0x0701#16 ∧ x.body.localCount = 0#48 ∧ x.body.arg1 = BitVec.ofNat 64 (y.wraps.get 0 d + 1) := by
  have hrun : ¬ (!domains.contains d || !y.clockRuns d) = true := by simp [hd, hc]
  have hwrap : y.wrap d = (y.wrapped d).logAt (y.wrapItem d) 0#48 := by
    unfold Sys.wrap
    rw [if_neg hrun]
    rfl
  have hpush := Log.push_room (l := (y.wrapped d).log) hroom ⟨(y.wrapItem d).toRec 0#48, ((y.wrapped d).log.frozenAt.get? d).isNone⟩
  exact ⟨⟨(y.wrapItem d).toRec 0#48, _⟩, hwrap.trans (congrArg (fun l : Log => ({ y.wrapped d with log := l } : Sys)) hpush), rfl, rfl, rfl⟩

/-- The windows of a domain that starts again are past, those of its stores all of them (R447, log 178). -/
theorem Sys.firsts_closeWindows (y : Sys) (d store : Nat) (h : store < 8) :
    ((y.closeWindows d).log.firsts.get? (8 * d + store)).map (fun e => e.1) = (y.log.firsts.get? (8 * d + store)).map (fun _ => noWindow) := by
  have hkey : ((fun e : Nat × Nat × Nat => e.1 == 8 * d + store) ∘ fun e => if e.1 / 8 = d then (e.1, (noWindow, e.2.2)) else e)
      = fun e => e.1 == 8 * d + store := by
    funext e
    by_cases he : e.1 / 8 = d <;> simp [he]
  unfold Sys.closeWindows SMap.get?
  simp only [List.find?_map, hkey]
  cases hf : y.log.firsts.find? (fun e => e.1 == 8 * d + store) with
  | none => rfl
  | some e =>
    have he : e.1 = 8 * d + store := by simpa using List.find?_some hf
    have hdiv : e.1 / 8 = d := by omega
    simp [hdiv]

/-! The rows -/

theorem exec_logRecord (s : State) (unit : Nat) : exec (.logRecord unit) s
    = .next { s with sys := if (s.sys.fn fnBowline).state = .ready && !(s.sys.log.pre.get [] unit).isEmpty then s.sys.logRound unit else s.sys } := rfl

/-- Without a Bowline die that runs, or without a record, nothing is taken. -/
theorem logRecord_nothing {s : State} {unit : Nat} (h : (s.sys.fn fnBowline).state ≠ .ready ∨ s.sys.log.pre.get [] unit = []) :
    exec (.logRecord unit) s = .next s := by
  rw [exec_logRecord, if_neg]
  rcases h with h | h
  · simp [h]
  · simp [h]

theorem logRecord_takes {s : State} {unit : Nat} (hr : (s.sys.fn fnBowline).state = .ready) (hq : s.sys.log.pre.get [] unit ≠ []) :
    exec (.logRecord unit) s = .next { s with sys := s.sys.logRound unit } := by
  rw [exec_logRecord, if_pos (by simp [hr, hq])]

/-- Where there is no domain, or its clock stands, nothing happens. -/
theorem countWrap_still {s : State} {d : Nat} (h : d ∉ domains ∨ s.sys.clockRuns d = false) : exec (.countWrap d) s = .next s := by
  rw [exec_countWrap, Sys.wrap_still h]

/-- COUNT_WRAP writes one count and one number of wraps, and leaves its record. -/
theorem countWrap_row {s : State} {d : Nat} (hd : d ∈ domains) (hc : s.sys.clockRuns d = true)
    (hroom : (s.sys.log.pre.get [] (domainUnit d)).length < 240) :
    ∃ (t : State) (x : PreRec), exec (.countWrap d) s = .next t ∧ t.fuses = s.fuses ∧ t.pending = s.pending ∧ t.sys.count d = 0#48
      ∧ t.sys.wraps.get 0 d = s.sys.wraps.get 0 d + 1
      ∧ t.sys.log = { s.sys.log with pre := s.sys.log.pre.set [] (domainUnit d) (s.sys.log.pre.get [] (domainUnit d) ++ [x])
                                     firsts := t.sys.log.firsts, shared := t.sys.log.shared }
      ∧ (∀ store < 8, (t.sys.log.firsts.get? (8 * d + store)).map (fun e => e.1) = (s.sys.log.firsts.get? (8 * d + store)).map (fun _ => noWindow))
      ∧ x.body.event = 0x0701#16 ∧ x.body.localCount = 0#48 ∧ x.body.arg1 = BitVec.ofNat 64 (s.sys.wraps.get 0 d + 1)
      ∧ (∀ e, e ≠ d → t.sys.count e = s.sys.count e ∧ t.sys.wraps.get 0 e = s.sys.wraps.get 0 e)
      ∧ { t.sys with log := s.sys.log, counts := s.sys.counts, wraps := s.sys.wraps } = s.sys := by
  obtain ⟨x, hwrap, hevent, hstamp, harg⟩ := Sys.wrap_room hd hc hroom
  have hexec := exec_countWrap s d
  rw [hwrap] at hexec
  exact ⟨_, x, hexec, rfl, rfl, Sys.count_wrapped_same s.sys d, Sys.wraps_wrapped_same s.sys d, rfl,
    fun store hs => Sys.firsts_closeWindows s.sys d store hs, hevent, hstamp, harg,
    fun e he => ⟨Sys.count_wrapped_other s.sys he, Sys.wraps_wrapped_other s.sys he⟩, rfl⟩

section Requests

variable {s : State} {r : ReqF} (h : s.serves r.path r.submit r.role r.transfer 0x7000 .operator)
  (hroom : (s.sys.log.pre.get [] fnBowline).length < 240)
include h hroom

/-- LOG_FREEZE is answered and leaves its record. -/
theorem logFreeze_row : ∃ (y : Sys) (x : PreRec), Grants (.logFreeze r) s r 0x7000 1 0 { s.takenReq r 0x7000 1 with sys := y }
    ∧ y.log = { s.sys.log with pre := s.sys.log.pre.set [] fnBowline (s.sys.log.pre.get [] fnBowline ++ [x]) }
    ∧ x.body.event = 0x0808#16 ∧ x.body.unit = 0#8 ∧ x.body.arg0 = BitVec.ofNat 32 (pathCode r.path)
    ∧ { y with log := s.sys.log, counts := s.sys.counts, free := s.sys.free } = (s.takenReq r 0x7000 1).sys := by
  have hgrants := grants_of_serves h (sub := 1) (may := Who.isOp) (op := fun _ t => ({ t with sys := t.sys.logFreeze r.path }, 0))
    (i := .logFreeze r) rfl rfl rfl (show 0 ≠ noAnswer by decide)
  have hframe : LogOnly (s.takenReq r 0x7000 1).sys ((s.takenReq r 0x7000 1).sys.logFreeze r.path) := Sys.logBowline_logOnly ..
  have htaken := State.takenReq_log s r 1
  rw [← htaken] at hroom
  obtain ⟨x, hlog, hevent, hunit, harg⟩ := Sys.logBowline_room hroom partNone locNone 0x0808 (pathCode r.path) 0
  rw [htaken] at hlog
  exact ⟨_, x, hgrants, hlog, hevent, hunit, harg, hframe.frame htaken (State.takenReq_counts s r 1) (State.takenReq_free s r 1)⟩

/-- LOG_UNFREEZE is answered, leaves its record, and the ring runs again. -/
theorem logUnfreeze_row : ∃ (y : Sys) (x : PreRec), Grants (.logUnfreeze r) s r 0x7000 7 0 { s.takenReq r 0x7000 7 with sys := y }
    ∧ y.log = { s.sys.log with frozen := false, cause := 0#8, after := 0, dropped := 0, frozenAt := []
                               pre := s.sys.log.pre.set [] fnBowline (s.sys.log.pre.get [] fnBowline ++ [x]) }
    ∧ x.body.event = 0x0802#16 ∧ x.body.arg0 = BitVec.ofNat 32 s.sys.log.dropped
    ∧ { y with log := s.sys.log, counts := s.sys.counts, free := s.sys.free } = (s.takenReq r 0x7000 7).sys := by
  have hgrants := grants_of_serves h (sub := 7) (may := Who.isOp) (op := fun _ t => ({ t with sys := t.sys.logResume }, 0))
    (i := .logUnfreeze r) rfl rfl rfl (show 0 ≠ noAnswer by decide)
  have hframe := Sys.logResume_logOnly (s.takenReq r 0x7000 7).sys
  have htaken := State.takenReq_log s r 7
  rw [← htaken] at hroom
  obtain ⟨x, hlog, hevent, harg⟩ := Sys.logResume_room hroom
  rw [htaken] at hlog harg
  exact ⟨_, x, hgrants, hlog, hevent, harg, hframe.frame htaken (State.takenReq_counts s r 7) (State.takenReq_free s r 7)⟩

end Requests

/-- Settles O60: the two writes leave the record of a unit with room; the round gives one record of each unit up to the one that is named, and
where that is alone what becomes of its record is what the ring does with it; the wrap is one write of the count, with its record. -/
theorem logRows : Obligations.LogRows := by
  unfold Obligations.LogRows
  intro s L
  refine ⟨fun r hs => ⟨fun hroom => logFreeze_row hs hroom, fun hroom => logUnfreeze_row hs hroom⟩, fun unit => ?_, fun d => ?_⟩
  · refine ⟨fun h => logRecord_nothing (.inl h), fun h => logRecord_nothing (.inr h), fun hr hq hu hl => ?_, fun x rest hr hq hl hothers => ?_⟩
    · obtain ⟨hframe, hturn, hpre⟩ := Sys.logRound_spec hq hu hl
      exact ⟨_, logRecord_takes hr hq, rfl, rfl, hturn, hframe, hpre⟩
    · intro trigger keep
      have hq' : s.sys.log.pre.get [] unit ≠ [] := fun h => List.cons_ne_nil x rest (hq.symm.trans h)
      refine ⟨_, logRecord_takes hr hq', ?_⟩
      rw [Sys.logRound_alone hq hl hothers]
      have hkeeps := Sys.takeRecord_keepsPre (s.sys.turned unit (s.sys.log.pre.set [] unit rest)) x
      have hkeep : ∀ flags, keep flags = s.sys.log.ringWith x flags := fun _ => rfl
      refine ⟨hkeeps.pre, rfl, rfl, Sys.turned_logOnly.trans hkeeps.frame, fun hf hc => ?_, fun hf hc => ?_, fun hf ha => ?_, fun hf ha => ?_⟩
      · rw [hkeeps.pre, hkeep]
        exact Sys.takeRecord_turned_running hf hc
      · rw [hkeeps.pre, hkeep]
        exact Sys.takeRecord_turned_trigger hf hc
      · rw [hkeeps.pre, hkeep]
        exact Sys.takeRecord_turned_glowing hf ha.1 ha.2
      · rw [hkeeps.pre]
        exact Sys.takeRecord_turned_dropped hf ha
  · exact ⟨fun h => countWrap_still h, fun hd hc hroom => countWrap_row hd hc hroom⟩

end Sys2Proof.Machine

/-!
O4, the scalar operations on registers (R83, R85): what each operation on 64-bit and FP32 values comes to as arithmetic on integers and
natural numbers.
-/

namespace Sys2Proof.Machine

/-! Register s0 and the others (R83) -/

theorem BightArch.s_setS_cases (a : BightArch) (d r : BitVec 5) (v : Word64) :
    (a.setS d v).s r = if r = 0#5 then 0#64 else if r = d then v else a.s r := by
  rw [BightArch.s_setS]
  by_cases hr : r = 0#5
  · subst hr
    rw [if_neg (fun h => h.2 h.1.symm), BightArch.s_zero, if_pos rfl]
  · rw [if_neg hr]
    by_cases hd : r = d
    · rw [if_pos ⟨hd, hd ▸ hr⟩, if_pos hd]
    · rw [if_neg (fun h => hd h.1), if_neg hd]

theorem BightArch.setS_frame (a : BightArch) (d : BitVec 5) (v : Word64) : { a.setS d v with sregs := a.sregs } = a := by
  unfold BightArch.setS
  split <;> rfl

/-! Integer operations as arithmetic (R85) -/

section Integer

variable {w : Nat} (a b : BitVec w)

theorem add_eq_ofNat : a + b = BitVec.ofNat w (a.toNat + b.toNat) := by
  apply BitVec.eq_of_toNat_eq
  simp

theorem mul_eq_ofNat : a * b = BitVec.ofNat w (a.toNat * b.toNat) := by
  apply BitVec.eq_of_toNat_eq
  simp

theorem sub_eq_ofInt : a - b = BitVec.ofInt w (a.toInt - b.toInt) := by
  apply BitVec.eq_of_toInt_eq
  simp [BitVec.toInt_sub]

theorem and_eq_ofFnLE : a &&& b = BitVec.ofFnLE (fun i : Fin w => a[i] && b[i]) := by
  ext i hi
  simp

theorem or_eq_ofFnLE : a ||| b = BitVec.ofFnLE (fun i : Fin w => a[i] || b[i]) := by
  ext i hi
  simp

theorem xor_eq_ofFnLE : a ^^^ b = BitVec.ofFnLE (fun i : Fin w => a[i] ^^ b[i]) := by
  ext i hi
  simp

theorem shiftLeft_eq_ofNat (n : Nat) : a <<< n = BitVec.ofNat w (a.toNat * 2 ^ n) := by
  apply BitVec.eq_of_toNat_eq
  simp [Nat.shiftLeft_eq]

theorem ushiftRight_eq_ofNat (n : Nat) : a >>> n = BitVec.ofNat w (a.toNat / 2 ^ n) := by
  apply BitVec.eq_of_toNat_eq
  have hlt : a.toNat / 2 ^ n < 2 ^ w := lt_of_le_of_lt (Nat.div_le_self ..) a.isLt
  simp [Nat.shiftRight_eq_div_pow, Nat.mod_eq_of_lt hlt]

theorem sshiftRight_eq_ofInt (n : Nat) : a.sshiftRight n = BitVec.ofInt w (a.toInt / 2 ^ n) := by
  rw [BitVec.sshiftRight_eq, Int.shiftRight_eq_div_pow]
  norm_cast

theorem select_min_eq_ofInt : (if b.toInt < a.toInt then b else a) = BitVec.ofInt w (min a.toInt b.toInt) := by
  split
  · rw [min_eq_right (by omega), BitVec.ofInt_toInt]
  · rw [min_eq_left (by omega), BitVec.ofInt_toInt]

theorem select_max_eq_ofInt : (if a.toInt < b.toInt then b else a) = BitVec.ofInt w (max a.toInt b.toInt) := by
  split
  · rw [max_eq_right (by omega), BitVec.ofInt_toInt]
  · rw [max_eq_left (by omega), BitVec.ofInt_toInt]

theorem select_minu_eq_ofNat : (if b.toNat < a.toNat then b else a) = BitVec.ofNat w (min a.toNat b.toNat) := by
  split
  · rw [min_eq_right (by omega), BitVec.ofNat_toNat, BitVec.setWidth_eq]
  · rw [min_eq_left (by omega), BitVec.ofNat_toNat, BitVec.setWidth_eq]

theorem select_maxu_eq_ofNat : (if a.toNat < b.toNat then b else a) = BitVec.ofNat w (max a.toNat b.toNat) := by
  split
  · rw [max_eq_right (by omega), BitVec.ofNat_toNat, BitVec.setWidth_eq]
  · rw [max_eq_left (by omega), BitVec.ofNat_toNat, BitVec.setWidth_eq]

end Integer

/-- MOVHI puts IMM above the low half of its source. -/
theorem append_setWidth_eq_ofNat (imm : BitVec 32) (a : Word64) :
    imm ++ a.setWidth 32 = BitVec.ofNat 64 (imm.toNat * 2 ^ 32 + a.toNat % 2 ^ 32) := by
  apply BitVec.eq_of_toNat_eq
  rw [BitVec.toNat_append, BitVec.toNat_setWidth, ← Nat.shiftLeft_add_eq_or_of_lt (Nat.mod_lt _ (by decide)), Nat.shiftLeft_eq, BitVec.toNat_ofNat]
  have := imm.isLt
  omega

/-! FP32 values in registers (R35, R85) -/

theorem regFp_eq (a : Word64) : regFp a = a.extractLsb' 0 32 := by
  simp [regFp, BitVec.setWidth_eq_extractLsb']

theorem fpReg_eq (x : Word32) : fpReg x = 0#32 ++ x := by
  apply BitVec.eq_of_toNat_eq
  rw [fpReg, BitVec.toNat_setWidth, BitVec.toNat_append, Nat.mod_eq_of_lt (by have := x.isLt; omega)]
  simp

theorem fp2_eq (op : Word32 → Word32 → Word32) (a b : Word64) :
    fp2 op a b = 0#32 ++ op (a.extractLsb' 0 32) (b.extractLsb' 0 32) := by
  rw [fp2, fpReg_eq, regFp_eq, regFp_eq]

/-- A comparison with a NaN is false. -/
theorem oneIf_fpLt (a b : Word32) : oneIf (fpLt a b) = if fpIsNaN a ∨ fpIsNaN b then 0#64 else if fpLt a b then 1#64 else 0#64 := by
  by_cases h : fpIsNaN a ∨ fpIsNaN b
  · have hlt : fpLt a b = false := by rcases h with h | h <;> simp [fpLt, h]
    rw [if_pos h, hlt]; rfl
  · rw [if_neg h]; rfl

theorem signExtend_eq_ofInt (x : Word32) : x.signExtend 64 = BitVec.ofInt 64 x.toInt := rfl

theorem oneIf_decide (p : Prop) [Decidable p] : oneIf (decide p) = if p then 1#64 else 0#64 := by
  by_cases h : p <;> simp [oneIf, h]

/-- An instruction whose operation comes to `v` writes `v`. -/
theorem writes_scalar_eq {s : State} {f : ScalarF} (h : CoreReady s f.b) (i : Instr) (op : Word64 → Word64 → Word64)
    (he : exec i s = s.scalar i f op) {v : Word64} (hv : op ((s.arch f.b).s f.sa) (s.operand f) = v) : Writes i s f.b f.sd v :=
  hv ▸ writes_scalar h i op he

/-- Settles O4: every operation is `writes_scalar` with its value written as arithmetic. -/
theorem scalarArithmetic : Obligations.ScalarArithmetic := by
  unfold Obligations.ScalarArithmetic
  refine ⟨⟨fun a d r v => ⟨a.s_setS_cases d r v, a.setS_frame d v⟩, fun f s h => ?_⟩, fun f s h => ?_⟩
  · refine ⟨?_, ?_, ?_, ?_, ?_, ?_, ?_, ?_, ?_, ?_, ?_, ?_, ?_, ?_, ?_, ?_, ?_, ?_⟩
    · exact writes_scalar_eq h _ _ rfl (add_eq_ofNat ..)
    · exact writes_scalar_eq h _ _ rfl (sub_eq_ofInt ..)
    · exact writes_scalar_eq h _ _ rfl (mul_eq_ofNat ..)
    · exact writes_scalar h _ mulHigh rfl
    · exact writes_scalar_eq h _ _ rfl (and_eq_ofFnLE ..)
    · exact writes_scalar_eq h _ _ rfl (or_eq_ofFnLE ..)
    · exact writes_scalar_eq h _ _ rfl (xor_eq_ofFnLE ..)
    · exact writes_scalar_eq h _ _ rfl (shiftLeft_eq_ofNat ..)
    · exact writes_scalar_eq h _ _ rfl (ushiftRight_eq_ofNat ..)
    · exact writes_scalar_eq h _ _ rfl (sshiftRight_eq_ofInt ..)
    · exact writes_scalar_eq h _ _ rfl (select_min_eq_ofInt ..)
    · exact writes_scalar_eq h _ _ rfl (select_max_eq_ofInt ..)
    · exact writes_scalar_eq h _ _ rfl (select_minu_eq_ofNat ..)
    · exact writes_scalar_eq h _ _ rfl (select_maxu_eq_ofNat ..)
    · exact writes_scalar_eq h _ _ rfl (oneIf_decide _)
    · exact writes_scalar_eq h _ _ rfl (oneIf_decide _)
    · exact writes_scalar_eq h _ _ rfl (oneIf_decide _)
    · exact writes_scalar_eq h _ _ rfl (append_setWidth_eq_ofNat ..)
  · intro a b
    refine ⟨?_, ?_, ?_, ?_, ?_, ?_, ?_, ?_, ?_⟩
    · exact writes_scalar_eq h _ _ rfl (fp2_eq ..)
    · exact writes_scalar_eq h _ _ rfl (fp2_eq ..)
    · exact writes_scalar_eq h _ _ rfl (fp2_eq ..)
    · exact writes_scalar_eq h _ _ rfl (fp2_eq ..)
    · exact writes_scalar_eq h _ _ rfl (fp2_eq ..)
    · exact writes_scalar_eq h _ _ rfl (fp2_eq ..)
    · exact writes_scalar_eq h _ _ rfl (by rw [regFp_eq, regFp_eq, oneIf_fpLt])
    · exact writes_scalar_eq h _ _ rfl (by rw [regFp_eq, signExtend_eq_ofInt])
    · exact writes_scalar_eq h _ _ rfl (by simp only [fpReg_eq, a, ← regFp_eq]; rfl)

end Sys2Proof.Machine

/-!
Instructions of a queue on a Bight with nothing outstanding, by the Bight's state alone (R80, R90, R92): an instruction that changes that state
completes with it, and its set follows.
-/

namespace Sys2Proof.Machine

/-- The effect of an instruction on its Bight's registers, slots and locker alone. -/
def Sys.withArch (y : Sys) (b : Nat) (a : BightArch) : Sys := y.setBight b { y.bight b with arch := a }

/-- The state in which an instruction takes effect, with the summary entry that it reserves. -/
def BightArch.reserveIf (a : BightArch) (push : Bool) : BightArch := if push then a.reserve else a

theorem dropHitch_reserve (a : BightArch) (h : BitVec 5) : a.reserve.dropHitch h = (a.dropHitch h).reserve := by
  simp only [BightArch.dropHitch, BightArch.reserve]
  cases a.hitchSets.find? (fun w => w.hitch == h) <;> rfl

@[simp] theorem dropHitch_locker (a : BightArch) (h : BitVec 5) : (a.dropHitch h).locker = a.locker := by
  unfold BightArch.dropHitch
  split <;> rfl

@[simp] theorem dropHitch_fifo (a : BightArch) (h : BitVec 5) : (a.dropHitch h).fifo = a.fifo := by
  unfold BightArch.dropHitch
  split <;> rfl

@[simp] theorem dropHitch_fifoNext (a : BightArch) (h : BitVec 5) : (a.dropHitch h).fifoNext = a.fifoNext := by
  unfold BightArch.dropHitch
  split <;> rfl

@[simp] theorem dropHitch_slots (a : BightArch) (h : BitVec 5) : (a.dropHitch h).slots = a.slots := by
  unfold BightArch.dropHitch
  split <;> rfl

section AtIssue

variable (s : State) (b : Fin 80) (waitEn : Bool) (waitH : BitVec 5)

@[simp] theorem State.atIssue_locker : (s.atIssue b waitEn waitH).locker = (s.arch b).locker := by
  unfold State.atIssue
  split <;> simp

@[simp] theorem State.atIssue_fifo : (s.atIssue b waitEn waitH).fifo = (s.arch b).fifo := by
  unfold State.atIssue
  split <;> simp

@[simp] theorem State.atIssue_fifoNext : (s.atIssue b waitEn waitH).fifoNext = (s.arch b).fifoNext := by
  unfold State.atIssue
  split <;> simp

@[simp] theorem State.atIssue_slots : (s.atIssue b waitEn waitH).slots = (s.arch b).slots := by
  unfold State.atIssue
  split <;> simp

/-- Waiting and reserving a summary entry act on different parts of the Bight. -/
theorem waited_reserveIf (push : Bool) :
    waited (if push then (s.arch b).reserve else s.arch b).step8 (optHitch waitEn waitH) = (s.atIssue b waitEn waitH).reserveIf push := by
  cases push <;> cases waitEn
  · rfl
  · rfl
  · rfl
  · exact dropHitch_reserve { s.arch b with pc := (s.arch b).pc + 8#64 } waitH

end AtIssue

theorem setHitchOpt_eq_andSet (a : BightArch) (setEn : Bool) (setH : BitVec 5) (seq : Nat) (eng : Engine) :
    a.setHitchOpt (optHitch setEn setH) seq eng = a.andSet setEn setH seq eng := by
  cases setEn <;> rfl

section Queue

variable {s : State} {b : Fin 80} {waitEn setEn : Bool} {waitH setH : BitVec 5} {q : QOp} {push : Bool} {i : Instr}

/-- An instruction of a queue whose effect leaves `a` as its Bight's state, and nothing else changed, completes so. -/
theorem queued_of_effect (h : QueueReady s b) (hh : HitchReady s b waitEn waitH) (hexec : exec i s = s.onSys (fun y => y.queueOp i b.val q))
    (hwait : q.wait = optHitch waitEn waitH) (hset : q.set = optHitch setEn setH) (hpush : ∀ c, q.push c = push)
    (hroom : push = true → (s.arch b).fifo.length < 32)
    (hready : q.ready (atDispatch s.sys b.val push) b.val (capOf (s.sys.bight b.val) q) = true) {a : BightArch}
    (heff : q.effect (atEffect s.sys b q push) b.val (capOf (s.sys.bight b.val) q) = ((atEffect s.sys b q push).withArch b.val a, none))
    {poisoned : Prop} {post : BightArch → BightArch → Prop} (hpost : post (s.atIssue b waitEn waitH) a) :
    Queued i s b waitEn waitH setEn setH q.eng poisoned post := by
  have hfree : ∀ n, q.wait = some n → (s.arch b).hitch n = true := fun n hn => by
    rw [hwait] at hn
    cases waitEn with
    | false => cases hn
    | true => cases hn; exact hh rfl
  have hrun : s.sys.queueOp i b.val q = { s.sys.setBight b.val { s.sys.bight b.val with
      arch := a.andSet setEn setH (s.sys.bight b.val).nextSeq q.eng, nextSeq := (s.sys.bight b.val).nextSeq + 1 } with replay := none } := by
    rw [Sys.queueOp_ready h i q push hpush hroom hfree hready, heff]
    dsimp only
    have hregion : (((atEffect s.sys b q push).withArch b.val a).bight b.val).region = none := by
      simpa [Sys.withArch, atEffect] using h.2.2.2.2.1
    rw [Sys.onArch_none hregion, hset, setHitchOpt_eq_andSet]
    simp [Sys.withArch, atEffect, Sys.setBight_setBight]
  obtain ⟨honly, hbight⟩ := onlyBight_setBight _ hrun
  refine ⟨_, a, hexec, hpost, ?_, fun _ => ⟨honly, ?_⟩⟩
  · exact congrArg Bight.arch hbight
  · show BightKept _ ((s.sys.queueOp i b.val q).bight b.val)
    rw [hbight]
    exact ⟨rfl, rfl, rfl, rfl, rfl, rfl, rfl, fun hr => hr, fun g hg _ => hg⟩

theorem atEffect_arch (hwait : q.wait = optHitch waitEn waitH) :
    ((atEffect s.sys b.val q push).bight b.val).arch = (s.atIssue b waitEn waitH).reserveIf push := by
  simp only [atEffect, Sys.bight_setBight, hwait, ← waited_reserveIf]
  rfl

/-- An operation of the Serving unit or of the Lay array that meets no poison changes the Bight's state to what it gives. -/
theorem onVec_of_clean {y : Sys} {cap : Cap} {g : Cap → BightArch → VRes} (hregion : (y.bight b.val).region = none)
    (hclean : (g cap (y.bight b.val).arch).seen.isBad = false) :
    y.onVec b.val cap g = y.withArch b.val (g cap (y.bight b.val).arch).arch := by
  simp only [Sys.onVec, Sys.withArch, hregion, Option.map_none]
  exact Sys.saw_of_clean _ _ hclean

/-- A vector or matrix instruction that meets no poison completes with the state that its operation gives. -/
theorem queued_onVec (h : QueueReady s b) (hh : HitchReady s b waitEn waitH) (hexec : exec i s = s.onSys (fun y => y.queueOp i b.val q))
    (hwait : q.wait = optHitch waitEn waitH) (hset : q.set = optHitch setEn setH) (hpush : ∀ c, q.push c = push)
    (hroom : push = true → (s.arch b).fifo.length < 32)
    (hready : q.ready (atDispatch s.sys b.val push) b.val (capOf (s.sys.bight b.val) q) = true) {g : Cap → BightArch → VRes}
    (hop : ∀ y cap, q.effect y b.val cap = (y.onVec b.val cap g, none)) {r : VRes}
    (hres : g (capOf (s.sys.bight b.val) q) ((s.atIssue b waitEn waitH).reserveIf push) = r) (hclean : r.seen.isBad = false)
    {poisoned : Prop} {post : BightArch → BightArch → Prop} (hpost : post (s.atIssue b waitEn waitH) r.arch) :
    Queued i s b waitEn waitH setEn setH q.eng poisoned post := by
  subst hres
  have hregion : ((atEffect s.sys b.val q push).bight b.val).region = none := by
    simpa [atEffect] using h.2.2.2.2.1
  refine queued_of_effect h hh hexec hwait hset hpush hroom hready ?_ hpost
  rw [hop, onVec_of_clean hregion (by rw [atEffect_arch hwait]; exact hclean), atEffect_arch hwait]

end Queue

/-! Vector instructions -/

section Vector

variable {s : State} {f : VectorF} {i : Instr} {n : Nat} {push : Bool} {g : Cap → BightArch → VRes}

/-- What a vector instruction captures at dispatch: two scalar registers, and the summary entry that it reserves. -/
def vecCap (s : State) (f : VectorF) (push : Bool) : Cap := capOf (s.sys.bight f.b.val) (vecQ f push (fun _ => Foot.none) (fun _ a => ⟨a, .clean⟩))

theorem vecCap_entry : (vecCap s f push).entry = if push then some (s.arch f.b).fifoNext else none := rfl

/-- A vector instruction on registers whose operation gives `r`, having met no poison, completes with it. -/
theorem serves_of_res (h : QueueReady s f.b) (hh : HitchReady s f.b f.waitEn f.waitH) (hexec : exec i s = s.vector i f n push g)
    (hroom : push = true → (s.arch f.b).fifo.length < 32) {r : VRes}
    (hres : g (vecCap s f push) ((s.atIssue f.b f.waitEn f.waitH).reserveIf push) = r) (hclean : r.seen.isBad = false)
    {poisoned : Prop} {post : BightArch → BightArch → Prop} (hpost : post (s.atIssue f.b f.waitEn f.waitH) r.arch) : Serves i s f poisoned post :=
  queued_onVec (q := vecQ f push (fun _ => { Foot.none with vregs := vecDest f n }) g) h hh hexec rfl rfl (fun _ => rfl) hroom rfl (fun _ _ => rfl)
    hres hclean hpost

end Vector

end Sys2Proof.Machine

/-!
Masked writes of a vector register (R94, R96, R100): the lanes, the status bits and the frame of what the Serving unit writes.
-/

namespace Sys2Proof.Machine

theorem any_congr_mem {α : Type} {l : List α} {p q : α → Bool} (h : ∀ x ∈ l, p x = q x) : l.any p = l.any q := by
  induction l with
  | nil => rfl
  | cons x t ih => rw [List.any_cons, List.any_cons, h x List.mem_cons_self, ih (fun y hy => h y (List.mem_cons_of_mem _ hy))]

theorem getD_ofFn_getElem? {α : Type} {n : Nat} (g : Nat → α) (d : α) {l : Nat} (h : l < n) :
    ((Array.ofFn (fun i : Fin n => g i.val))[l]?).getD d = g l := by
  simp [h]

/-! Lanes -/

theorem BightArch.lane_setV (a : BightArch) (r q : Nat) (g : Nat → Lane) {l : Nat} (hl : l < 512) :
    (a.setV r g).lane q l = if q % 64 = r % 64 then g l else a.lane q l := by
  unfold BightArch.lane BightArch.setV
  split
  · next h =>
    rw [h]
    exact SMap.get_setFn_in _ _ _ _ g hl
  · next h => exact SMap.get_setFn_out _ _ _ _ g (by omega)

/-- The lanes that PRED selects: p0 reads as all ones. -/
theorem activeLane_eq (f : VectorF) (x : BightArch) {l : Nat} (hl : l < 512) : activeLane x f.pred l = laneOn f x l := by
  unfold activeLane laneOn BightArch.p
  by_cases h : f.pred = 0#4
  · have h0 : f.pred = 0 := h
    rw [if_pos h0, BitVec.getLsbD_allOnes]
    simp [h, hl]
  · have h0 : ¬ f.pred = 0 := h
    rw [if_neg h0]
    simp [h]

theorem maskLane_eq (f : VectorF) (x : BightArch) (res : Nat → Lane) {l : Nat} (hl : l < 512) :
    maskLane f x res l = if laneOn f x l then res l else if f.zero then Lane.zero else x.lane f.vd.toNat l := by
  rw [maskLane, activeLane_eq f x hl]

/-- A lane that is not poisoned is clean. -/
theorem Mark.eq_clean_of_isBad {m : Mark} (h : m.isBad = false) : m = .clean := by
  cases m with
  | clean => rfl
  | poisoned => cases h
  | unknown => cases h
  | tagFail => cases h

theorem Mark.isBad_clean : Mark.isBad .clean = false := rfl

/-- The worst of clean marks is clean. -/
theorem foldl_worse_clean {α : Type} (mk : α → Mark) (l : List α) (h : ∀ x ∈ l, mk x = .clean) :
    l.foldl (fun (w : Mark) x => w.worse (mk x)) Mark.clean = Mark.clean := by
  induction l with
  | nil => rfl
  | cons x t ih =>
    rw [List.foldl_cons, h x List.mem_cons_self]
    exact ih (fun y hy => h y (List.mem_cons_of_mem _ hy))

theorem activeMark_clean {f : VectorF} {x : BightArch} {res : Nat → Lane} (h : ∀ l < 512, laneOn f x l = true → (res l).mark = .clean) :
    activeMark f x res = .clean := by
  have hstep : activeMark f x res
      = (List.range 512).foldl (fun w l => w.worse (if activeLane x f.pred l then (res l).mark else .clean)) .clean := by
    refine List.foldl_ext _ _ _ (fun w l _ => ?_)
    split
    · rfl
    · cases w <;> rfl
  rw [hstep]
  refine foldl_worse_clean _ _ (fun l hl => ?_)
  split
  · next hon => exact h l (List.mem_range.mp hl) (by rwa [← activeLane_eq f x (List.mem_range.mp hl)])
  · rfl

/-! The masked write -/

/-- Whether some active lane has a property. -/
def anyOn (f : VectorF) (x : BightArch) (p : Nat → Bool) : Bool := (List.range 512).any (fun l => laneOn f x l && p l)

theorem anyOn_congr {f : VectorF} {x : BightArch} {p q : Nat → Bool} (h : ∀ l < 512, p l = q l) : anyOn f x p = anyOn f x q :=
  any_congr_mem (fun l hl => by rw [h l (List.mem_range.mp hl)])

theorem anyOn_false (f : VectorF) (x : BightArch) : anyOn f x (fun _ => false) = false := by
  simp [anyOn]

theorem anyOn_and (f : VectorF) (x : BightArch) (c : Bool) (p : Nat → Bool) : anyOn f x (fun l => c && p l) = (c && anyOn f x p) := by
  cases c
  · simpa using anyOn_false f x
  · simp

theorem anyOn_poison_clean {f : VectorF} {x : BightArch} {res : Nat → Lane} (h : ∀ l < 512, laneOn f x l = true → (res l).mark = .clean) :
    anyOn f x (fun l => (res l).mark.isBad) = false := by
  rw [anyOn, List.any_eq_false]
  intro l hl
  cases hon : laneOn f x l with
  | false => simp
  | true => simp [h l (List.mem_range.mp hl) hon, Mark.isBad_clean]

section Write

variable (f : VectorF) (x : BightArch) (fp consumes : Bool) (res : Nat → Lane) (sat nan : Nat → Bool)

theorem BightArch.setV_orServe_frame (a : BightArch) (r : Nat) (g : Nat → Lane) (w : Word16) :
    { (a.setV r g).orServe w with vregs := a.vregs } = { a with serve := a.serve ||| w } := rfl

/-- What a masked write does, by the result lanes as it holds them for repeated reads. -/
theorem vecWrite_eq : ∃ held : Nat → Lane, (∀ l < 512, held l = res l) ∧ vecWrite f x fp consumes res sat nan =
    ⟨(x.setV f.vd.toNat (maskLane f x held)).orServe
      (stOf ((List.range 512).any (fun l => activeLane x f.pred l && ((fp && fpIsNaN (held l).val) || nan l)))
        ((List.range 512).any (fun l => activeLane x f.pred l && (fp && fpIsInf (held l).val)))
        ((List.range 512).any (fun l => activeLane x f.pred l && sat l))
        ((List.range 512).any (fun l => activeLane x f.pred l && (held l).poison))),
      if consumes then activeMark f x held else .clean⟩ := by
  obtain ⟨arr, harr⟩ : ∃ arr, arr = Array.ofFn (fun l : Fin 512 => res l.val) := ⟨_, rfl⟩
  refine ⟨fun l => (arr[l]?).getD Lane.zero, fun l hl => ?_, ?_⟩
  · rw [harr]
    exact getD_ofFn_getElem? res Lane.zero hl
  · unfold vecWrite
    rw [← harr]

@[simp] theorem BightArch.lane_orServe (a : BightArch) (w : Word16) (r l : Nat) : (a.orServe w).lane r l = a.lane r l := rfl

theorem vecWrite_lane {l : Nat} (hl : l < 512) : (vecWrite f x fp consumes res sat nan).arch.lane f.vd.toNat l
    = if laneOn f x l then res l else if f.zero then Lane.zero else x.lane f.vd.toNat l := by
  obtain ⟨held, hheld, heq⟩ := vecWrite_eq f x fp consumes res sat nan
  rw [heq, BightArch.lane_orServe, BightArch.lane_setV _ _ _ _ hl, if_pos rfl, maskLane_eq f x _ hl, hheld l hl]

theorem vecWrite_lane_other {r l : Nat} (hr : r < 64) (hl : l < 512) (hne : r ≠ f.vd.toNat) :
    (vecWrite f x fp consumes res sat nan).arch.lane r l = x.lane r l := by
  have hd := f.vd.isLt
  obtain ⟨held, -, heq⟩ := vecWrite_eq f x fp consumes res sat nan
  rw [heq, BightArch.lane_orServe, BightArch.lane_setV _ _ _ _ hl, if_neg (by omega)]

/-- The status bits that a masked write reports (R100). -/
def writeStatus : Word16 :=
  stOf (anyOn f x (fun l => (fp && fpIsNaN (res l).val) || nan l)) (anyOn f x (fun l => fp && fpIsInf (res l).val)) (anyOn f x sat)
    (anyOn f x (fun l => (res l).mark.isBad))

theorem vecWrite_frame : { (vecWrite f x fp consumes res sat nan).arch with vregs := x.vregs }
    = { x with serve := x.serve ||| writeStatus f x fp res sat nan } := by
  obtain ⟨held, hheld, heq⟩ := vecWrite_eq f x fp consumes res sat nan
  have hany : ∀ p q : Nat → Bool, (∀ l < 512, p l = q l) →
      (List.range 512).any (fun l => activeLane x f.pred l && p l) = anyOn f x q := fun p q h =>
    any_congr_mem (fun l hl => by rw [h l (List.mem_range.mp hl), activeLane_eq f x (List.mem_range.mp hl)])
  rw [heq, hany _ (fun l => (fp && fpIsNaN (res l).val) || nan l) (fun l hl => by rw [hheld l hl]),
    hany _ (fun l => fp && fpIsInf (res l).val) (fun l hl => by rw [hheld l hl]), hany sat sat (fun _ _ => rfl),
    hany _ (fun l => (res l).mark.isBad) (fun l hl => by rw [hheld l hl, Lane.poison])]
  exact BightArch.setV_orServe_frame ..

/-- Without reports of a conversion these are the bits of the result lanes. -/
theorem writeStatus_never : writeStatus f x fp res never never = laneStatus f x fp res := by
  have hnan : anyOn f x (fun l => (fp && fpIsNaN (res l).val) || never l) = (fp && anyOn f x (fun l => fpIsNaN (res l).val)) := by
    rw [← anyOn_and]
    exact anyOn_congr (fun l _ => Bool.or_false _)
  have hsat : anyOn f x never = false := anyOn_false f x
  rw [writeStatus, hnan, anyOn_and, hsat]
  simp only [stOf, stIf, Bool.false_eq_true, if_false]
  rw [BitVec.or_zero]
  rfl

/-- A masked write without a conversion report. -/
theorem laneWrite_vecWrite : LaneWrite f fp res x (vecWrite f x fp consumes res never never).arch :=
  ⟨fun _ hl => vecWrite_lane f x fp consumes res never never hl, fun _ _ hr hl hne => vecWrite_lane_other f x fp consumes res never never hr hl hne,
    by rw [vecWrite_frame, writeStatus_never]⟩

variable {res} in
/-- A masked write of lanes that are not poisoned meets no poison. -/
theorem vecWrite_seen_clean (h : ∀ l < 512, laneOn f x l = true → (res l).mark = .clean) : (vecWrite f x fp consumes res sat nan).seen = .clean := by
  obtain ⟨held, hheld, heq⟩ := vecWrite_eq f x fp consumes res sat nan
  rw [heq]
  cases consumes
  · rfl
  · simp only [if_true]
    exact activeMark_clean (fun l hl hon => by rw [hheld l hl]; exact h l hl hon)

end Write

/-- Lanes that are equal where they are active write the same. -/
theorem LaneWrite.congr {f : VectorF} {fp : Bool} {res res' : Nat → Lane} {x a : BightArch} (h : LaneWrite f fp res x a)
    (heq : ∀ l < 512, laneOn f x l = true → res l = res' l) : LaneWrite f fp res' x a := by
  obtain ⟨hlane, hother, hframe⟩ := h
  have hany : ∀ p : Lane → Bool, anyOn f x (fun l => p (res l)) = anyOn f x (fun l => p (res' l)) := fun p =>
    any_congr_mem (fun l hl => by
      cases hon : laneOn f x l with
      | false => rfl
      | true => simp only [heq l (List.mem_range.mp hl) hon])
  have hst : laneStatus f x fp res = laneStatus f x fp res' := by
    have h1 := hany (fun v => fpIsNaN v.val)
    have h2 := hany (fun v => fpIsInf v.val)
    have h3 := hany (fun v => v.mark.isBad)
    simp only [anyOn] at h1 h2 h3
    simp only [laneStatus, h1, h2, h3]
  refine ⟨fun l hl => ?_, hother, hst ▸ hframe⟩
  rw [hlane l hl]
  split
  · next hon => exact heq l hl hon
  · rfl

theorem clean_of_not_lanePoison {f : VectorF} {x : BightArch} {res : Nat → Lane} (h : ¬ lanePoison f x res) :
    ∀ l < 512, laneOn f x l = true → (res l).mark = .clean := by
  intro l hl hon
  refine Mark.eq_clean_of_isBad ?_
  by_contra hbad
  exact h ⟨l, hl, hon, by simpa using hbad⟩

/-! Codes that have no effect (R82, R94) -/

section Bad

variable {s : State} {f : VectorF} {i : Instr} {n : Nat} {g : Cap → BightArch → VRes}

/-- A code that is reserved leaves BAD_ENCODING alone. -/
theorem serves_vecBad (h : QueueReady s f.b) (hh : HitchReady s f.b f.waitEn f.waitH) (hexec : exec i s = s.vector i f n false g)
    (hbad : ∀ cap x, g cap x = vecBad cap x) {poisoned : Prop} :
    Serves i s f poisoned (fun x a => a = { x with serve := x.serve ||| 0x0020#16 }) :=
  serves_of_res h hh hexec (fun hc => by cases hc) (hbad _ _) rfl rfl

end Bad

end Sys2Proof.Machine

/-!
O16, VSCAN and VCVT (R35, R95): the running result of a scan, lane by lane, and the conversions as masked writes.
-/

namespace Sys2Proof.Machine

/-! VSCAN -/

section Scan

/-- The result of an active lane, from that of the nearest active lane below. -/
def scanStep (op : Word32 → Word32 → Word32) (fp : Bool) (prev : Option Lane) (x : Lane) : Lane :=
  match prev with
  | some p => lane2 op p x
  | none => if fp then lane1 canon x else x

/-- The result of the nearest active lane below `l`. -/
def scanBelow (op : Word32 → Word32 → Word32) (fp : Bool) (f : VectorF) (a : BightArch) : Nat → Option Lane
  | 0 => none
  | l + 1 => if activeLane a f.pred l then some (scanStep op fp (scanBelow op fp f a l) (a.lane f.va.toNat l)) else scanBelow op fp f a l

/-- The result of lane `l`. -/
def scanAt (op : Word32 → Word32 → Word32) (fp : Bool) (f : VectorF) (a : BightArch) (l : Nat) : Lane :=
  scanStep op fp (scanBelow op fp f a l) (a.lane f.va.toNat l)

variable (op : Word32 → Word32 → Word32) (fp : Bool) (f : VectorF) (a : BightArch)

theorem scanBelow_active {l : Nat} (h : activeLane a f.pred l = true) : scanBelow op fp f a (l + 1) = some (scanAt op fp f a l) := by
  rw [scanBelow, if_pos h]
  rfl

theorem scanBelow_masked {l : Nat} (h : activeLane a f.pred l = false) : scanBelow op fp f a (l + 1) = scanBelow op fp f a l := by
  rw [scanBelow, if_neg (by simp [h])]

/-- Masked lanes hand on the result from below. -/
theorem scanBelow_through {k l : Nat} (hkl : k ≤ l) (h : ∀ j, k ≤ j → j < l → activeLane a f.pred j = false) :
    scanBelow op fp f a l = scanBelow op fp f a k := by
  induction l, hkl using Nat.le_induction with
  | base => rfl
  | succ l hkl ih =>
    rw [scanBelow_masked op fp f a (h l hkl (Nat.lt_succ_self l))]
    exact ih (fun j hj hjl => h j hj (by omega))

theorem getElem?_scanList (n s i : Nat) (hi : i < n) :
    (scanList op fp f a (List.range' s n) (scanBelow op fp f a s))[i]?
      = some (if activeLane a f.pred (s + i) then some (scanAt op fp f a (s + i)) else none) := by
  induction n generalizing s i with
  | zero => omega
  | succ n ih =>
    have hnext : scanList op fp f a (List.range' s (n + 1)) (scanBelow op fp f a s)
        = (if activeLane a f.pred s then some (scanAt op fp f a s) else none) :: scanList op fp f a (List.range' (s + 1) n) (scanBelow op fp f a (s + 1)) := by
      rw [List.range'_succ, scanList]
      cases hs : activeLane a f.pred s with
      | false => simp [scanBelow_masked op fp f a hs]
      | true =>
        rw [scanBelow_active op fp f a hs]
        cases hb : scanBelow op fp f a s <;> simp [scanAt, scanStep, hb]
    rw [hnext]
    cases i with
    | zero => rfl
    | succ i =>
      rw [List.getElem?_cons_succ, ih (s + 1) i (by omega), show s + 1 + i = s + (i + 1) by omega]

/-- What VSCAN holds for an active lane. -/
theorem scanList_active {l : Nat} (hl : l < 512) (hon : activeLane a f.pred l = true) :
    (((scanList op fp f a (List.range 512) none).toArray[l]?).getD none).getD Lane.zero = scanAt op fp f a l := by
  have h := getElem?_scanList op fp f a 512 0 l hl
  rw [Nat.zero_add, if_pos hon, ← List.range_eq_range'] at h
  rw [List.getElem?_toArray, show scanList op fp f a (List.range 512) none = scanList op fp f a (List.range 512) (scanBelow op fp f a 0) from rfl, h]
  rfl

/-- Unpoisoned elements give unpoisoned results. -/
theorem scanBelow_clean {l : Nat} (hc : ∀ k < l, activeLane a f.pred k = true → (a.lane f.va.toNat k).mark = .clean) :
    ∀ p, scanBelow op fp f a l = some p → p.mark = .clean := by
  induction l with
  | zero => intro p hp; cases hp
  | succ l ih =>
    have ih := ih (fun k hk => hc k (by omega))
    intro p hp
    cases hon : activeLane a f.pred l with
    | false => exact ih p (by rwa [scanBelow_masked op fp f a hon] at hp)
    | true =>
      rw [scanBelow_active op fp f a hon, Option.some.injEq] at hp
      have hx := hc l (Nat.lt_succ_self l) hon
      subst hp
      unfold scanAt scanStep
      cases hb : scanBelow op fp f a l with
      | some q => simp [lane2, ih q hb, hx, Mark.worse]
      | none => cases fp <;> simpa [lane1] using hx

end Scan

theorem canon_fp (f : VectorF) (x : Lane) (hx : x.mark = .clean) :
    (if typeFp f then lane1 canon x else x) = ⟨if f.type = 0#2 ∧ fpIsNaN x.val then 0x7FC00000#32 else x.val, .clean⟩ := by
  by_cases ht : f.type = 0#2
  · simp [typeFp, ht, lane1, canon, hx, fpNaN]
  · simp [typeFp, ht, ← hx]

/-- The combination of VSCAN, by VC. -/
def scanOp (f : VectorF) : Word32 → Word32 → Word32 := if f.vc = 0#6 then vAdd f.type else if f.vc = 1#6 then vMax f.type else vMin f.type

theorem vecScan_eq {f : VectorF} (ht : f.type ≠ 3#2) (hvc : f.vc.toNat ≤ 2) (cap : Cap) (x : BightArch) :
    vecScan f cap x = vecWrite f x (typeFp f) true
      (fun l => (((scanList (scanOp f) (typeFp f) f x (List.range 512) none).toArray[l]?).getD none).getD Lane.zero) never never := by
  have hzero : f.vc = 0#6 ↔ f.vc.toNat = 0 := by rw [← BitVec.toNat_inj]; rfl
  have hone : f.vc = 1#6 ↔ f.vc.toNat = 1 := by rw [← BitVec.toNat_inj]; rfl
  rw [vecScan, if_neg (by simpa [typeBad] using ht), scanOp, if_congr hzero rfl (if_congr hone rfl rfl)]
  generalize f.vc.toNat = c at hvc
  match c, hvc with
  | 0, _ => rfl
  | 1, _ => rfl
  | 2, _ => rfl

theorem vecScan_bad {f : VectorF} (hvc : 3 ≤ f.vc.toNat) (cap : Cap) (x : BightArch) : vecScan f cap x = vecBad cap x := by
  unfold vecScan
  split
  · rfl
  · generalize f.vc.toNat = c at hvc
    match c, hvc with
    | _ + 3, _ => rfl

/-- The clauses of VSCAN on its results. -/
theorem scanAt_spec {f : VectorF} {x : BightArch} (hc : ∀ l < 512, laneOn f x l = true → (x.lane f.va.toNat l).mark = .clean) :
    (∀ l < 512, laneOn f x l = true → (∀ k < l, laneOn f x k = false) → scanAt (scanOp f) (typeFp f) f x l
        = ⟨if f.type = 0#2 ∧ fpIsNaN (x.lane f.va.toNat l).val then 0x7FC00000#32 else (x.lane f.va.toNat l).val, .clean⟩)
    ∧ ∀ k l, k < l → l < 512 → laneOn f x k = true → laneOn f x l = true → (∀ j, k < j → j < l → laneOn f x j = false) →
        scanAt (scanOp f) (typeFp f) f x l = ⟨scanOp f (scanAt (scanOp f) (typeFp f) f x k).val (x.lane f.va.toNat l).val, .clean⟩ := by
  refine ⟨fun l hl hon hfirst => ?_, fun k l hkl hl honk honl hbetween => ?_⟩
  · have hbelow : scanBelow (scanOp f) (typeFp f) f x l = none :=
      scanBelow_through _ _ f x (Nat.zero_le l) (fun j _ hj => by rw [activeLane_eq f x (by omega)]; exact hfirst j hj)
    rw [scanAt, hbelow]
    exact canon_fp f _ (hc l hl hon)
  · have honk' : activeLane x f.pred k = true := by rw [activeLane_eq f x (by omega)]; exact honk
    have hbelow : scanBelow (scanOp f) (typeFp f) f x l = some (scanAt (scanOp f) (typeFp f) f x k) := by
      rw [scanBelow_through _ _ f x (Nat.succ_le_of_lt hkl) (fun j hj hjl => by rw [activeLane_eq f x (by omega)]; exact hbetween j hj hjl),
        scanBelow_active _ _ f x honk']
    have hmark := scanBelow_clean _ _ f x (l := l) (fun j hj hon => hc j (by omega) (by rwa [← activeLane_eq f x (by omega)])) _ hbelow
    rw [scanAt, hbelow]
    simp [scanStep, lane2, hmark, hc l hl honl, Mark.worse]

/-- VSCAN of unpoisoned lanes. -/
theorem vscan_row {f : VectorF} {s : State} (h : QueueReady s f.b) (hh : HitchReady s f.b f.waitEn f.waitH) (ht : f.type ≠ 3#2)
    (hc : ¬ lanePoison f (s.atIssue f.b f.waitEn f.waitH) (fun l => (s.atIssue f.b f.waitEn f.waitH).lane f.va.toNat l)) (hvc : f.vc.toNat ≤ 2)
    {post : BightArch → BightArch → Prop}
    (hpost : ∀ a, LaneWrite f (f.type == 0#2) (scanAt (scanOp f) (typeFp f) f (s.atIssue f.b f.waitEn f.waitH)) (s.atIssue f.b f.waitEn f.waitH) a →
      post (s.atIssue f.b f.waitEn f.waitH) a) : Serves (.vscan f) s f False post := by
  have hclean := clean_of_not_lanePoison hc
  generalize hx : s.atIssue f.b f.waitEn f.waitH = x at *
  have hres : ∀ l < 512, laneOn f x l = true →
      (((scanList (scanOp f) (typeFp f) f x (List.range 512) none).toArray[l]?).getD none).getD Lane.zero = scanAt (scanOp f) (typeFp f) f x l :=
    fun l hl hon => scanList_active _ _ f x hl (by rw [activeLane_eq f x hl]; exact hon)
  have hmark : ∀ l < 512, laneOn f x l = true → (scanAt (scanOp f) (typeFp f) f x l).mark = .clean := fun l hl hon => by
    have hon' : activeLane x f.pred l = true := by rw [activeLane_eq f x hl]; exact hon
    exact scanBelow_clean _ _ f x (l := l + 1) (fun j hj hj' => hclean j (by omega) (by rwa [← activeLane_eq f x (by omega)])) _
      (scanBelow_active _ _ f x hon')
  refine serves_of_res h hh rfl (fun hpush => by cases hpush) (vecScan_eq ht hvc _ _) ?_ ?_
  · rw [show (s.atIssue f.b f.waitEn f.waitH).reserveIf false = x from hx,
      vecWrite_seen_clean f x _ _ _ _ (fun l hl hon => by rw [hres l hl hon]; exact hmark l hl hon)]
    rfl
  · rw [show (s.atIssue f.b f.waitEn f.waitH).reserveIf false = x from hx, hx]
    exact hpost _ ((laneWrite_vecWrite f x _ _ _).congr hres)

/-! VCVT -/

section Convert

variable {f : VectorF} {x : BightArch} (cap : Cap)

theorem vecCvt_toInt (h : f.aux.toNat % 16 = 0) : vecCvt f cap x = vecWrite f x false true (fun l => lane1 (fun v => (fpToInt v).1) (x.lane f.va.toNat l))
    (fun l => (fpToInt (x.lane f.va.toNat l).val).2.1) (fun l => (fpToInt (x.lane f.va.toNat l).val).2.2) := by
  unfold vecCvt
  rw [h]
  rfl

theorem vecCvt_ofInt (h : f.aux.toNat % 16 = 1) : vecCvt f cap x = vecUn0 true intToFp f x := by
  unfold vecCvt
  rw [h]
  rfl

theorem vecCvt_ofBf16 (h : f.aux.toNat % 16 = 3) : vecCvt f cap x = vecUn0 true (halfToFp .bf16) f x := by
  unfold vecCvt
  rw [h]
  rfl

theorem vecCvt_ofFp16 (h : f.aux.toNat % 16 = 5) : vecCvt f cap x = vecUn0 true (halfToFp .fp16) f x := by
  unfold vecCvt
  rw [h]
  rfl

theorem vecCvt_bad (h : 6 ≤ f.aux.toNat % 16) : vecCvt f cap x = vecBad cap x := by
  unfold vecCvt
  generalize f.aux.toNat % 16 = c at h
  match c, h with
  | _ + 6, _ => rfl

/-- The format that a narrowing conversion names. -/
def narrowFmt (f : VectorF) : Fmt := if f.aux.toNat % 16 = 2 then .bf16 else .fp16

/-- The masked write of a narrowing conversion. -/
def narrowWrite (f : VectorF) (x : BightArch) : VRes :=
  vecWrite f x false true (fun l => lane1 (fun v => BitVec.ofNat 32 (encPlain (narrowFmt f) (fpVal v))) (x.lane f.va.toNat l)) never
    (fun l => fpIsNaN (x.lane f.va.toNat l).val)

theorem narrowWrite_seen (hc : ∀ l < 512, laneOn f x l = true → (x.lane f.va.toNat l).mark = .clean) : (narrowWrite f x).seen = .clean := by
  unfold narrowWrite
  refine vecWrite_seen_clean f x _ _ _ _ (fun l hl hon => ?_)
  exact hc l hl hon

theorem narrowWrite_frame : { (narrowWrite f x).arch with vregs := x.vregs }
    = { x with serve := x.serve ||| (writeStatus f x false (fun l => lane1 (fun v => BitVec.ofNat 32 (encPlain (narrowFmt f) (fpVal v)))
        (x.lane f.va.toNat l)) never (fun l => fpIsNaN (x.lane f.va.toNat l).val)) } := vecWrite_frame ..

/-- The narrowing conversions are a masked write, with INF_SEEN beside it. -/
theorem vecCvt_narrow (h : f.aux.toNat % 16 = 2 ∨ f.aux.toNat % 16 = 4) :
    ∃ w : Word16, vecCvt f cap x = ⟨(narrowWrite f x).arch.orServe w, (narrowWrite f x).seen⟩ := by
  unfold vecCvt narrowWrite narrowFmt
  rcases h with h | h <;> rw [h] <;> exact ⟨_, rfl⟩

end Convert

/-- Whatever SERVE_STATUS a masked write leaves, nothing else beside its register changes. -/
theorem BightArch.frame_orServe {a x : BightArch} {w u : Word16} (h : { a with vregs := x.vregs } = { x with serve := u }) :
    { a.orServe w with vregs := x.vregs, serve := x.serve } = x :=
  congrArg (fun y : BightArch => { y with serve := x.serve }) h

/-- SATURATED and NAN_SEEN of a conversion to integers. -/
theorem writeStatus_toInt {f : VectorF} {x : BightArch} {res : Nat → Lane} (sat nan : Nat → Bool)
    (hc : ∀ l < 512, laneOn f x l = true → (res l).mark = .clean) :
    writeStatus f x false res sat nan = (if anyOn f x nan then 0x0001#16 else 0#16) ||| (if anyOn f x sat then 0x0004#16 else 0#16) := by
  have hinf : anyOn f x (fun l => false && fpIsInf (res l).val) = false := anyOn_false f x
  have hnan : anyOn f x (fun l => (false && fpIsNaN (res l).val) || nan l) = anyOn f x nan := rfl
  rw [writeStatus, anyOn_poison_clean hc, hinf, hnan]
  generalize anyOn f x nan = a
  generalize anyOn f x sat = b
  cases a <;> cases b <;> rfl

section Rows

variable {f : VectorF} {s : State} (h : QueueReady s f.b) (hh : HitchReady s f.b f.waitEn f.waitH) {x : BightArch} (hx : s.atIssue f.b f.waitEn f.waitH = x)
  (hc : ∀ l < 512, laneOn f x l = true → (x.lane f.va.toNat l).mark = .clean)
include h hh hx hc

omit hc in
/-- A conversion, by what it gives. -/
theorem serves_vcvt {r : VRes} (hres : vecCvt f (vecCap s f false) x = r) (hclean : r.seen = .clean) {post : BightArch → BightArch → Prop} (hpost : post x r.arch) :
    Serves (.vcvt f) s f False post := by
  subst hx
  exact serves_of_res h hh rfl (fun hpush => by cases hpush) hres (by rw [hclean]; rfl) hpost

/-- A widening conversion is a masked write of FP32 lanes. -/
theorem vcvt_wide_row {op : Word32 → Word32} (hop : vecCvt f (vecCap s f false) x = vecUn0 true op f x) :
    Serves (.vcvt f) s f False (LaneWrite f true (fun l => ⟨op (x.lane f.va.toNat l).val, .clean⟩)) :=
  serves_vcvt h hh hx hop (vecWrite_seen_clean f x true true never never hc)
    ((laneWrite_vecWrite f x true true _).congr (fun l hl hon => by rw [lane1, hc l hl hon]))

theorem vcvt_toInt_row (hcode : f.aux.toNat % 16 = 0) : Serves (.vcvt f) s f False (fun x a =>
    (∀ l < 512, a.lane f.vd.toNat l = if laneOn f x l then ⟨(fpToInt (x.lane f.va.toNat l).val).1, .clean⟩ else if f.zero then Lane.zero else x.lane f.vd.toNat l)
    ∧ { a with vregs := x.vregs } = { x with serve := x.serve ||| ((if anyOn f x (fun l => (fpToInt (x.lane f.va.toNat l).val).2.2) then 0x0001#16 else 0#16)
        ||| (if anyOn f x (fun l => (fpToInt (x.lane f.va.toNat l).val).2.1) then 0x0004#16 else 0#16)) }) := by
  refine serves_vcvt h hh hx (vecCvt_toInt _ hcode) (vecWrite_seen_clean f x _ _ _ _ hc) ⟨fun l hl => ?_, ?_⟩
  · rw [vecWrite_lane _ _ _ _ _ _ _ hl]
    refine if_ctx_congr Iff.rfl (fun hon => ?_) (fun _ => rfl)
    rw [lane1, hc l hl hon]
  · have hst := writeStatus_toInt (res := fun l => lane1 (fun v => (fpToInt v).1) (x.lane f.va.toNat l))
      (fun l => (fpToInt (x.lane f.va.toNat l).val).2.1) (fun l => (fpToInt (x.lane f.va.toNat l).val).2.2) hc
    rw [vecWrite_frame, hst]

theorem vcvt_narrow_row (hcode : f.aux.toNat % 16 = 2 ∨ f.aux.toNat % 16 = 4) : Serves (.vcvt f) s f False (fun x a =>
    (∀ l < 512, a.lane f.vd.toNat l = if laneOn f x l then ⟨BitVec.ofNat 32 (encPlain (narrowFmt f) (fpVal (x.lane f.va.toNat l).val)), .clean⟩
        else if f.zero then Lane.zero else x.lane f.vd.toNat l)
    ∧ { a with vregs := x.vregs, serve := x.serve } = x) := by
  obtain ⟨w, hres⟩ := vecCvt_narrow (vecCap s f false) (x := x) hcode
  refine serves_vcvt h hh hx hres (by dsimp only; exact narrowWrite_seen hc) ⟨fun l hl => ?_, BightArch.frame_orServe narrowWrite_frame⟩
  rw [BightArch.lane_orServe, narrowWrite, vecWrite_lane _ _ _ _ _ _ _ hl]
  refine if_ctx_congr Iff.rfl (fun hon => ?_) (fun _ => rfl)
  rw [lane1, hc l hl hon]

end Rows

/-- Settles O16: a scan lane by lane from the nearest active lane below; each conversion as the masked write of its code. -/
theorem vectorScanConvert : Obligations.VectorScanConvert := by
  unfold Obligations.VectorScanConvert
  refine ⟨fun f s h hh ht => ⟨fun hc hvc => ?_, fun hvc => ?_⟩, fun f s h hh => ?_⟩
  · refine vscan_row h hh ht hc hvc (fun a ha => ⟨_, ha, ?_⟩)
    exact scanAt_spec (clean_of_not_lanePoison hc)
  · exact serves_vecBad h hh rfl (fun cap x => vecScan_bad hvc cap x)
  · intro x code va any wide hp
    have hc := clean_of_not_lanePoison hp
    refine ⟨fun h0 => ?_, fun h1 => ?_, fun h3 => ?_, fun h5 => ?_, fun h24 => ?_, fun h6 => ?_⟩
    · have hrow := vcvt_toInt_row h hh rfl hc h0
      simp only [← BitVec.or_assoc] at hrow
      exact hrow
    · exact vcvt_wide_row h hh rfl hc (vecCvt_ofInt _ h1)
    · exact vcvt_wide_row h hh rfl hc (vecCvt_ofBf16 _ h3)
    · exact vcvt_wide_row h hh rfl hc (vecCvt_ofFp16 _ h5)
    · exact vcvt_narrow_row h hh rfl hc h24
    · exact serves_vecBad h hh rfl (fun cap x => vecCvt_bad cap h6)

end Sys2Proof.Machine

/-!
O17, VRED and VSOFTMAX (R44 to R48, R103): the elements of a reduction, its flags, and the record that it leaves.
-/

namespace Sys2Proof.Machine

/-! Reductions depend on their elements alone -/

theorem reduceRegs_congr {α : Type} (op : α → α → α) {n : Nat} {elem elem' : Nat → Nat → Option α}
    (h : ∀ j l, j < n → l < 512 → elem j l = elem' j l) : reduceRegs op n elem = reduceRegs op n elem' := by
  refine List.foldl_ext _ _ _ (fun acc j hj => ?_)
  rw [List.map_congr_left (fun l hl => h j l (List.mem_range.mp hj) (List.mem_range.mp hl))]

theorem reduceVal_congr (k : RedKind) (t : BitVec 2) {n : Nat} {elem elem' : Nat → Nat → Option Word32}
    (h : ∀ j l, j < n → l < 512 → elem j l = elem' j l) : reduceVal k t n elem = reduceVal k t n elem' := by
  have hall : (List.range n).flatMap (fun j => (List.range 512).filterMap (elem j)) = (List.range n).flatMap (fun j => (List.range 512).filterMap (elem' j)) :=
    List.flatMap_congr (fun j hj => List.filterMap_congr (fun l hl => h j l (List.mem_range.mp hj) (List.mem_range.mp hl)))
  have hplain : ∀ (op : Word32 → Word32 → Word32) (g : Word32 → Word32),
      reduceRegs op n (fun j l => (elem j l).map g) = reduceRegs op n (fun j l => (elem' j l).map g) := fun op g =>
    reduceRegs_congr op (fun j l hj hl => by rw [h j l hj hl])
  have harg : ∀ (c : Int × Nat → Int × Nat → Int × Nat) (g : Nat → Nat → Word32 → Int × Nat),
      reduceRegs c n (fun j l => (elem j l).map (g j l)) = reduceRegs c n (fun j l => (elem' j l).map (g j l)) := fun c g =>
    reduceRegs_congr c (fun j l hj hl => by rw [h j l hj hl])
  simp only [reduceVal, hall, hplain, harg]

/-- An empty reduction has the value of R47. -/
theorem reduceVal_empty {k : RedKind} {t : BitVec 2} {n : Nat} {elem : Nat → Nat → Option Word32} (h : (reduceVal k t n elem).2 = true) :
    (reduceVal k t n elem).1 = redEmpty k t := by
  unfold reduceVal at h ⊢
  dsimp only at h ⊢
  split
  · rfl
  · next hne => rw [if_neg hne] at h; cases h

/-! Flags (R102, R103) -/

theorem flagByte_bits (nan inf : Bool) : (flagByte nan inf false false false).getLsbD 4 = false ∧ (flagByte nan inf false false false).getLsbD 3 = false
    ∧ (flagByte nan inf false false false).getLsbD 0 = nan ∧ (flagByte nan inf false false false).getLsbD 1 = inf := by
  cases nan <;> cases inf <;> decide

/-- Only an empty maximum or minimum of FP32 is infinite. -/
theorem redEmpty_inf (k : RedKind) (t : BitVec 2) : (redFp k t && fpIsInf (redEmpty k t)) = decide (t = 0#2 ∧ (k = .max ∨ k = .min)) := by
  by_cases ht : t = 0#2
  · subst ht
    cases k <;> decide
  · simp [redFp, ht]

theorem redFlags_empty (k : RedKind) (t : BitVec 2) (vals : List Word32) (poison : Bool) :
    redFlags k t vals (redEmpty k t) true poison = if t = 0#2 ∧ (k = .max ∨ k = .min) then 0x12#8 else 0x10#8 := by
  rw [redFlags, if_pos rfl, redEmpty_inf]
  by_cases h : t = 0#2 ∧ (k = .max ∨ k = .min)
  · rw [if_pos h, decide_eq_true h]; rfl
  · rw [if_neg h, decide_eq_false h]; rfl

theorem redFlags_present (k : RedKind) {t : BitVec 2} (vals : List Word32) (v : Word32) :
    let fl := redFlags k t vals v false false
    fl.getLsbD 4 = false ∧ fl.getLsbD 3 = false
      ∧ (t = 0#2 → ((∃ u ∈ vals, fpIsNaN u = true) → fl.getLsbD 0 = true) ∧ ((∃ u ∈ vals, fpIsInf u = true) → fl.getLsbD 1 = true)) := by
  obtain ⟨hempty, hpoison, hnan, hinf⟩ := flagByte_bits ((t == 0#2 && vals.any fpIsNaN) || (redFp k t && fpIsNaN v))
    ((t == 0#2 && vals.any fpIsInf) || (redFp k t && fpIsInf v))
  refine ⟨hempty, hpoison, fun ht => ⟨fun hu => hnan.trans ?_, fun hu => hinf.trans ?_⟩⟩
  · simp [ht, List.any_eq_true.mpr hu]
  · simp [ht, List.any_eq_true.mpr hu]

/-! The record that an instruction reserves (R102, R104) -/

section Record

variable (x : BightArch) (push : Bool)

@[simp] theorem BightArch.lane_reserveIf (r l : Nat) : (x.reserveIf push).lane r l = x.lane r l := by cases push <;> rfl
@[simp] theorem laneOn_reserveIf (f : VectorF) (l : Nat) : laneOn f (x.reserveIf push) l = laneOn f x l := by cases push <;> rfl

/-- The FIFO with a record of value `v` and flags `fl` at its end, when one was reserved. -/
def BightArch.recordIf (v : Word64) (fl : Byte) : BightArch :=
  { x with fifo := if push then x.fifo ++ [⟨x.fifoNext, true, v, fl, false⟩] else x.fifo
           fifoNext := if push then x.fifoNext + 1 else x.fifoNext }

theorem map_fill_append {l : List SumEntry} {n : Nat} (h : ∀ e ∈ l, e.id ≠ n) (v : Word64) (fl : Byte) :
    (l ++ [(⟨n, false, 0#64, 0#8, false⟩ : SumEntry)]).map (fun e => if e.id == n then e.fill v fl else e)
      = l ++ [⟨n, true, v, fl, false⟩] := by
  rw [List.map_append, List.map_congr_left (g := fun e => e) (fun e he => by simp [h e he])]
  simp [SumEntry.fill]

/-- An instruction that reserved a record and wrote vector registers fills it. -/
theorem fillOpt_reserveIf (h : ∀ e ∈ x.fifo, e.id ≠ x.fifoNext) (vregs : SMap Lane) (serve : Word16) (v : Word64) (fl : Byte) :
    BightArch.fillOpt { x.reserveIf push with vregs := vregs, serve := serve } (if push then some x.fifoNext else none) v fl
      = BightArch.recordIf { x with vregs := vregs, serve := serve } push v fl := by
  cases push with
  | false => rfl
  | true =>
    exact congrArg (fun l : List SumEntry => ({ x with fifo := l, fifoNext := x.fifoNext + 1, vregs := vregs, serve := serve } : BightArch))
      (map_fill_append h v fl)

theorem setVs_eq (r n : Nat) (g : Nat → Nat → Lane) : x.setVs r n g = { x with vregs := (x.setVs r n g).vregs } := by
  unfold BightArch.setVs
  induction n with
  | zero => rfl
  | succ n ih => rw [List.range_succ, List.foldl_append, ih]; rfl

/-- Registers that follow one another, up to 64 of them, are different ones. -/
theorem lane_setVs (r : Nat) {n : Nat} (hn : n ≤ 64) (g : Nat → Nat → Lane) {j l : Nat} (hj : j < n) (hl : l < 512) :
    (x.setVs r n g).lane (r + j) l = g j l := by
  unfold BightArch.setVs
  induction n with
  | zero => omega
  | succ n ih =>
    rw [List.range_succ, List.foldl_append, List.foldl_cons, List.foldl_nil, BightArch.lane_setV _ _ _ _ hl]
    by_cases hjn : j = n
    · rw [if_pos (by rw [hjn]), hjn]
    · rw [if_neg (by omega), ih (by omega) (by omega)]

end Record

/-! The elements of a row of registers -/

section Row

variable (f : VectorF) (x : BightArch)

theorem BightArch.getLsbD_p (r : BitVec 4) {l : Nat} (hl : l < 512) :
    (x.p r).getLsbD l = decide (r = 0#4 ∨ (x.pregs[r.toNat]).getLsbD l = true) := by
  unfold BightArch.p
  by_cases h : r = 0#4
  · have h0 : r = 0 := h
    rw [if_pos h0, BitVec.getLsbD_allOnes]
    simp [h, hl]
  · have h0 : ¬ r = 0 := h
    rw [if_neg h0]
    simp [h]

/-- The lanes of `n` registers from v[VA], held for repeated reads. -/
theorem getD_rowLanes (r : Nat) {n j l : Nat} (hj : j < n) (hl : l < 512) :
    ((Array.ofFn (fun i : Fin (n * 512) => x.lane (r + i.val / 512) (i.val % 512)))[j * 512 + l]?).getD Lane.zero = x.lane (r + j) l := by
  rw [getD_ofFn_getElem? (fun i => x.lane (r + i / 512) (i % 512)) Lane.zero (by omega : j * 512 + l < n * 512)]
  rw [show (j * 512 + l) / 512 = j by omega, show (j * 512 + l) % 512 = l by omega]

/-- The active elements of `n` registers, in their order. -/
def presentLanes (n : Nat) (src : Nat → Nat → Lane) : List Lane :=
  (List.range n).flatMap (fun j => ((List.range 512).filter (activeLane x f.pred)).map (src j))

/-- An active element, none for a masked lane. -/
def activeElem (src : Nat → Nat → Lane) (j l : Nat) : Option Word32 := if laneOn f x l then some (src j l).val else none

variable {f x} {n : Nat} {src : Nat → Nat → Lane}

theorem mem_presentLanes {v : Lane} : v ∈ presentLanes f x n src ↔ ∃ j l, j < n ∧ l < 512 ∧ laneOn f x l = true ∧ src j l = v := by
  simp only [presentLanes, List.mem_flatMap, List.mem_range, List.mem_map, List.mem_filter]
  constructor
  · rintro ⟨j, hj, l, ⟨hl, hon⟩, hv⟩
    exact ⟨j, l, hj, hl, by rwa [← activeLane_eq f x hl], hv⟩
  · rintro ⟨j, l, hj, hl, hon, hv⟩
    exact ⟨j, hj, l, ⟨hl, by rwa [activeLane_eq f x hl]⟩, hv⟩

theorem presentLanes_clean (h : ∀ j l, j < n → l < 512 → laneOn f x l = true → (src j l).mark = .clean) :
    (presentLanes f x n src).foldl (fun (w : Mark) v => w.worse v.mark) Mark.clean = Mark.clean := by
  refine foldl_worse_clean _ _ (fun v hv => ?_)
  obtain ⟨j, l, hj, hl, hon, rfl⟩ := mem_presentLanes.mp hv
  exact h j l hj hl hon

theorem exists_present_of_elem {p : Word32 → Bool} (h : ∃ j l v, j < n ∧ l < 512 ∧ activeElem f x src j l = some v ∧ p v = true) :
    ∃ u ∈ (presentLanes f x n src).map (fun v => v.val), p u = true := by
  obtain ⟨j, l, v, hj, hl, hv, hp⟩ := h
  by_cases hon : laneOn f x l = true
  · rw [activeElem, if_pos hon, Option.some.injEq] at hv
    exact ⟨v, List.mem_map.mpr ⟨src j l, mem_presentLanes.mpr ⟨j, l, hj, hl, hon, rfl⟩, hv⟩, hp⟩
  · rw [activeElem, if_neg hon] at hv
    cases hv

end Row

/-! VRED -/

section Reduce

/-- TYPE of a reduction; a predicate source counts as unsigned. -/
def redType (f : VectorF) : BitVec 2 := if f.aux.getLsbD 6 then 2#2 else f.type

/-- The registers that a reduction reads; one for a predicate source. -/
def redCount (f : VectorF) : Nat := if f.aux.getLsbD 6 then 1 else f.aux.toNat % 64 + 1

/-- The element of lane `l` of register `j` of a reduction, or of its predicate source. -/
def redSrc (f : VectorF) (x : BightArch) (j l : Nat) : Lane :=
  if f.aux.getLsbD 6 then ⟨if f.va.extractLsb' 0 4 = 0#4 ∨ (x.pregs[(f.va.extractLsb' 0 4).toNat]).getLsbD l = true then 1#32 else 0#32, .clean⟩
  else x.lane (f.va.toNat + j) l

/-- What VRED writes and pushes for a value, from the values present. -/
def redOut (f : VectorF) (cap : Cap) (x : BightArch) (v : Word32) (m : Mark) (fl : Byte) : VRes :=
  ⟨((x.setV f.vd.toNat (fun _ => ⟨v, m⟩)).orServe (fl.setWidth 16)).fillOpt cap.entry (v.setWidth 64) fl, m⟩

variable {f : VectorF} {k : RedKind} (cap : Cap) (x : BightArch)

/-- VRED of a legal kind, by the lanes as it holds them for repeated reads. -/
theorem vecRed_eq (hk : redKind (f.vc.toNat % 16) = some k) (ht : f.type ≠ 3#2 ∨ f.aux.getLsbD 6 = true) (hlegal : redBad k (redType f) = false) :
    ∃ held : Nat → Nat → Lane, (∀ j l, j < redCount f → l < 512 → held j l = redSrc f x j l) ∧
      vecRed f cap x =
        let present := presentLanes f x (redCount f) held
        let m := present.foldl (fun w v => w.worse v.mark) .clean
        let r := reduceVal k (redType f) (redCount f) (fun j l => if activeLane x f.pred l then some (held j l).val else none)
        redOut f cap x r.1 m (redFlags k (redType f) (present.map (fun v => v.val)) r.1 r.2 m.isBad) := by
  obtain ⟨lanes, hlanes⟩ : ∃ lanes, lanes = Array.ofFn (fun i : Fin (redCount f * 512) => x.lane (f.va.toNat + i.val / 512) (i.val % 512)) := ⟨_, rfl⟩
  refine ⟨fun j l => if f.aux.getLsbD 6 then Lane.ok (if (x.p (f.va.setWidth 4)).getLsbD l then 1#32 else 0#32)
    else (lanes[j * 512 + l]?).getD Lane.zero, fun j l hj hl => ?_, ?_⟩
  · unfold redSrc
    split
    · simp only [BitVec.setWidth_eq_extractLsb' (show 4 ≤ 6 by decide), BightArch.getLsbD_p x _ hl, decide_eq_true_eq]
      rfl
    · rw [hlanes]
      exact getD_rowLanes x _ hj hl
  · have hcode : (typeBad f && !f.aux.getLsbD 6) = false := by
      rcases ht with h | h <;> simp [typeBad, h]
    unfold redType at hlegal
    unfold redCount at hlanes
    unfold vecRed redType redCount
    dsimp only
    rw [hcode, if_neg (by decide), hk]
    dsimp only
    rw [if_neg (Bool.eq_false_iff.mp hlegal), ← hlanes]
    rfl

/-- What a reduction leaves, with the record that it reserved. -/
theorem redOut_arch {push : Bool} (hids : ∀ e ∈ x.fifo, e.id ≠ x.fifoNext) (hentry : cap.entry = if push then some x.fifoNext else none)
    (v : Word32) (m : Mark) (fl : Byte) : (redOut f cap (x.reserveIf push) v m fl).arch
      = BightArch.recordIf { x with vregs := (x.setV f.vd.toNat (fun _ => ⟨v, m⟩)).vregs, serve := x.serve ||| (0#8 ++ fl) } push (0#32 ++ v) fl := by
  have hwide : fl.setWidth 16 = 0#8 ++ fl := by
    apply BitVec.eq_of_toNat_eq
    rw [BitVec.toNat_setWidth, BitVec.toNat_append, Nat.mod_eq_of_lt (by have := fl.isLt; omega)]
    simp
  rw [← hwide, ← fpReg_eq, ← fillOpt_reserveIf x push hids, redOut, hentry]
  cases push <;> rfl

/-- The value of the elements of x, whatever else the Bight holds. -/
theorem redSrc_reserveIf (push : Bool) (j l : Nat) : redSrc f (x.reserveIf push) j l = redSrc f x j l := by
  cases push <;> rfl

/-- The value, the flags and the record of a reduction of unpoisoned elements. -/
theorem vecRed_reserved (push : Bool) (hk : redKind (f.vc.toNat % 16) = some k) (ht : f.type ≠ 3#2 ∨ f.aux.getLsbD 6 = true) (hlegal : redBad k (redType f) = false)
    (hclean : ∀ j l, j < redCount f → l < 512 → laneOn f x l = true → (redSrc f x j l).mark = .clean) :
    let r := reduceVal k (redType f) (redCount f) (activeElem f x (redSrc f x))
    ∃ vals : List Word32, (∀ p : Word32 → Bool, (∃ j l v, j < redCount f ∧ l < 512 ∧ activeElem f x (redSrc f x) j l = some v ∧ p v = true) →
        ∃ u ∈ vals, p u = true)
      ∧ vecRed f cap (x.reserveIf push) = redOut f cap (x.reserveIf push) r.1 .clean (redFlags k (redType f) vals r.1 r.2 false) := by
  obtain ⟨held, hheld, heq⟩ := vecRed_eq cap (x.reserveIf push) hk ht hlegal
  have hsrc : ∀ j l, j < redCount f → l < 512 → held j l = redSrc f x j l := fun j l hj hl => by rw [hheld j l hj hl, redSrc_reserveIf]
  have hmark : (presentLanes f (x.reserveIf push) (redCount f) held).foldl (fun (w : Mark) v => w.worse v.mark) Mark.clean = Mark.clean :=
    presentLanes_clean (fun j l hj hl hon => by rw [hsrc j l hj hl]; exact hclean j l hj hl (by rwa [laneOn_reserveIf] at hon))
  have hval : reduceVal k (redType f) (redCount f) (fun j l => if activeLane (x.reserveIf push) f.pred l then some (held j l).val else none)
      = reduceVal k (redType f) (redCount f) (activeElem f x (redSrc f x)) :=
    reduceVal_congr k _ (fun j l hj hl => by rw [activeLane_eq f _ hl, laneOn_reserveIf, hsrc j l hj hl]; rfl)
  dsimp only at heq
  rw [hmark, hval] at heq
  refine ⟨_, fun p hp => ?_, heq⟩
  refine exists_present_of_elem (src := held) ?_
  obtain ⟨j, l, v, hj, hl, hv, hpv⟩ := hp
  refine ⟨j, l, v, hj, hl, ?_, hpv⟩
  rw [activeElem, laneOn_reserveIf, hsrc j l hj hl]
  exact hv

end Reduce

/-- What VRED of the elements of `x₀` leaves of the Bight's state: the value, the flags of R103, and the record. -/
def RedPost (f : VectorF) (k : RedKind) (x₀ x a : BightArch) : Prop :=
  let elem := activeElem f x₀ (redSrc f x₀)
  let r := reduceVal k (redType f) (redCount f) elem
  ∃ fl : Byte, (∀ l < 512, a.lane f.vd.toNat l = ⟨r.1, .clean⟩) ∧ (∀ g l, g < 64 → l < 512 → g ≠ f.vd.toNat → a.lane g l = x.lane g l)
    ∧ { a with vregs := x.vregs } = { x with
          serve := x.serve ||| (0#8 ++ fl), fifoNext := if f.aux.getLsbD 7 then x.fifoNext + 1 else x.fifoNext
          fifo := if f.aux.getLsbD 7 then x.fifo ++ [⟨x.fifoNext, true, 0#32 ++ r.1, fl, false⟩] else x.fifo }
    ∧ (r.2 = true → fl = if redType f = 0#2 ∧ (k = .max ∨ k = .min) then 0x12#8 else 0x10#8)
    ∧ (r.2 = false → fl.getLsbD 4 = false ∧ fl.getLsbD 3 = false
        ∧ (redType f = 0#2 → ((∃ j l v, j < redCount f ∧ l < 512 ∧ elem j l = some v ∧ fpIsNaN v = true) → fl.getLsbD 0 = true)
            ∧ ((∃ j l v, j < redCount f ∧ l < 512 ∧ elem j l = some v ∧ fpIsInf v = true) → fl.getLsbD 1 = true)))

section Row

variable {f : VectorF} {k : RedKind} {s : State} (h : QueueReady s f.b) (hh : HitchReady s f.b f.waitEn f.waitH)
  (hroom : f.aux.getLsbD 7 = true → (s.arch f.b).fifo.length < 32) (hids : ∀ e ∈ (s.arch f.b).fifo, e.id ≠ (s.arch f.b).fifoNext)
include h hh hroom hids

theorem vred_row (hk : redKind (f.vc.toNat % 16) = some k) (ht : f.type ≠ 3#2 ∨ f.aux.getLsbD 6 = true) (hlegal : redBad k (redType f) = false)
    (hclean : ∀ j l, j < redCount f → l < 512 → laneOn f (s.atIssue f.b f.waitEn f.waitH) l = true →
      (redSrc f (s.atIssue f.b f.waitEn f.waitH) j l).mark = .clean) : Serves (.vred f) s f False (RedPost f k (s.atIssue f.b f.waitEn f.waitH)) := by
  have hentry : (vecCap s f (sumEn f)).entry = if sumEn f then some (s.atIssue f.b f.waitEn f.waitH).fifoNext else none := by
    rw [State.atIssue_fifoNext, vecCap_entry]
  have hids' : ∀ e ∈ (s.atIssue f.b f.waitEn f.waitH).fifo, e.id ≠ (s.atIssue f.b f.waitEn f.waitH).fifoNext := by
    rw [State.atIssue_fifo, State.atIssue_fifoNext]
    exact hids
  generalize hx : s.atIssue f.b f.waitEn f.waitH = x at *
  obtain ⟨vals, hvals, heq⟩ := vecRed_reserved (vecCap s f (sumEn f)) x (sumEn f) hk ht hlegal hclean
  refine serves_of_res (push := sumEn f) h hh rfl hroom (Eq.trans (by rw [hx]) heq) rfl ?_
  rw [hx]
  unfold RedPost
  dsimp only
  have hred := reduceVal_empty (k := k) (t := redType f) (n := redCount f) (elem := activeElem f x (redSrc f x))
  generalize reduceVal k (redType f) (redCount f) (activeElem f x (redSrc f x)) = r at *
  refine ⟨redFlags k (redType f) vals r.1 r.2 false, fun l hl => ?_, fun g l hg hl hne => ?_, ?_, fun hr => ?_, fun hr => ?_⟩
  · rw [redOut_arch _ x hids' hentry]
    exact (BightArch.lane_setV x _ _ _ hl).trans (if_pos rfl)
  · rw [redOut_arch _ x hids' hentry]
    have hd := f.vd.isLt
    exact (BightArch.lane_setV x _ _ _ hl).trans (if_neg (by omega))
  · rw [redOut_arch _ x hids' hentry]
    rfl
  · rw [hr, hred hr]
    exact redFlags_empty k _ vals false
  · rw [hr]
    obtain ⟨hempty, hpoison, hseen⟩ := redFlags_present k vals r.1 (t := redType f)
    exact ⟨hempty, hpoison, fun h0 => ⟨fun hn => (hseen h0).1 (hvals _ hn), fun hn => (hseen h0).2 (hvals _ hn)⟩⟩

end Row

/-- A kind that is legal for its TYPE. -/
theorem redBad_eq_false {k : RedKind} {t : BitVec 2} (h : ¬ (t = 0#2 ∧ (k = .and ∨ k = .or ∨ k = .xor))) : redBad k t = false := by
  by_cases ht : t = 0#2
  · cases k <;> simp [redBad, ht] at h ⊢
  · simp [redBad, ht]

/-! VSOFTMAX -/

section Softmax

/-- The registers of a row. -/
def rowCount (f : VectorF) : Nat := f.aux.toNat % 64 + 1

/-- The element of lane `l` of register `j` of a row. -/
def rowSrc (f : VectorF) (x : BightArch) (j l : Nat) : Lane := x.lane (f.va.toNat + j) l

/-- The maximum of a row, and whether the row is empty. -/
def rowMax (f : VectorF) (x : BightArch) : Word32 × Bool := reduceVal .max 0#2 (rowCount f) (activeElem f x (rowSrc f x))

/-- The exponential of an element less the maximum. -/
def rowExp (f : VectorF) (x : BightArch) (j l : Nat) : Word32 := fpExp (fpSub (rowSrc f x j l).val (rowMax f x).1)

/-- The sum of the exponentials. -/
def rowSum (f : VectorF) (x : BightArch) : Word32 :=
  (reduceRegs fpAdd (rowCount f) (fun j l => if laneOn f x l then some (rowExp f x j l) else none)).getD 0#32

variable {f : VectorF} (cap : Cap) (x : BightArch)

/-- What VSOFTMAX writes and pushes for quotients, a maximum and flags. -/
def softOut (f : VectorF) (cap : Cap) (x : BightArch) (g : Nat → Nat → Word32) (mx : Word32) (m : Mark) (fl : Byte) : VRes :=
  ⟨((x.setVs f.vd.toNat (rowCount f) (fun j l => if activeLane x f.pred l then ⟨g j l, m⟩ else Lane.zero)).orServe (fl.setWidth 16)).fillOpt
    cap.entry (mx.setWidth 64) fl, m⟩

/-- VSOFTMAX of a row with a finite maximum, by the lanes and exponentials as it holds them for repeated reads. -/
theorem vecSoftmax_eq : ∃ held : Nat → Nat → Lane, (∀ j l, j < rowCount f → l < 512 → held j l = rowSrc f x j l) ∧
    let present := presentLanes f x (rowCount f) held
    let m := present.foldl (fun w v => w.worse v.mark) .clean
    let r := reduceVal .max 0#2 (rowCount f) (fun j l => if activeLane x f.pred l then some (held j l).val else none)
    (r.2 = false → fpIsNaN r.1 = false → fpIsInf r.1 = false →
      ∃ e : Nat → Nat → Word32, (∀ j l, j < rowCount f → l < 512 → e j l = fpExp (fpSub (rowSrc f x j l).val r.1)) ∧
        let sum := (reduceRegs fpAdd (rowCount f) (fun j l => if activeLane x f.pred l then some (e j l) else none)).getD 0#32
        vecSoftmax f cap x = softOut f cap x (fun j l => fpDiv (e j l) sum) r.1 m (redFlags .max 0#2 (present.map (fun v => v.val)) r.1 false m.isBad)) := by
  obtain ⟨lanes, hlanes⟩ : ∃ lanes, lanes = Array.ofFn (fun i : Fin (rowCount f * 512) => x.lane (f.va.toNat + i.val / 512) (i.val % 512)) := ⟨_, rfl⟩
  have hheld : ∀ j l, j < rowCount f → l < 512 → (lanes[j * 512 + l]?).getD Lane.zero = rowSrc f x j l := fun j l hj hl => by
    rw [hlanes]
    exact getD_rowLanes x _ hj hl
  refine ⟨fun j l => (lanes[j * 512 + l]?).getD Lane.zero, hheld, ?_⟩
  intro present m r hr hnan hinf
  refine ⟨fun j l => ((lanes.map (fun v => fpExp (fpSub v.val r.1)))[j * 512 + l]?).getD 0#32, fun j l hj hl => ?_, ?_⟩
  · have hlt : j * 512 + l < lanes.size := by rw [hlanes, Array.size_ofFn]; omega
    rw [← hheld j l hj hl]
    simp [hlt]
  · have hhigh : (r.1 == fpInf true) = false := by
      rw [beq_eq_false_iff_ne]
      intro h
      rw [h] at hinf
      exact absurd hinf (by decide)
    have hlow : (r.1 == fpInf false) = false := by
      rw [beq_eq_false_iff_ne]
      intro h
      rw [h] at hinf
      exact absurd hinf (by decide)
    have hspecial : (fpIsNaN r.1 || r.1 == fpInf false) = false := by rw [hnan, hlow]; rfl
    unfold rowCount at hlanes
    unfold vecSoftmax
    dsimp only
    rw [← hlanes]
    exact (if_neg (Bool.eq_false_iff.mp hr)).trans ((if_neg (Bool.eq_false_iff.mp hhigh)).trans (if_neg (Bool.eq_false_iff.mp hspecial)))

/-- What a row leaves, with the record that it reserved. -/
theorem softOut_arch {push : Bool} (hids : ∀ e ∈ x.fifo, e.id ≠ x.fifoNext) (hentry : cap.entry = if push then some x.fifoNext else none)
    (g : Nat → Nat → Word32) (mx : Word32) (m : Mark) (fl : Byte) : (softOut f cap (x.reserveIf push) g mx m fl).arch
      = BightArch.recordIf { x with vregs := ((x.reserveIf push).setVs f.vd.toNat (rowCount f) (fun j l =>
            if activeLane (x.reserveIf push) f.pred l then ⟨g j l, m⟩ else Lane.zero)).vregs
                                    serve := x.serve ||| fl.setWidth 16 } push (0#32 ++ mx) fl := by
  rw [← fpReg_eq, ← fillOpt_reserveIf x push hids, softOut, hentry, setVs_eq]
  cases push <;> rfl

/-- The quotients and the record of a row of unpoisoned elements with a finite maximum. -/
theorem vecSoftmax_reserved (push : Bool) (hclean : ∀ j l, j < rowCount f → l < 512 → laneOn f x l = true → (rowSrc f x j l).mark = .clean)
    (hr : (rowMax f x).2 = false) (hnan : fpIsNaN (rowMax f x).1 = false) (hinf : fpIsInf (rowMax f x).1 = false) :
    ∃ (e : Nat → Nat → Word32) (fl : Byte), (∀ j l, j < rowCount f → l < 512 → e j l = rowExp f x j l)
      ∧ vecSoftmax f cap (x.reserveIf push) = softOut f cap (x.reserveIf push) (fun j l => fpDiv (e j l) (rowSum f x)) (rowMax f x).1 .clean fl := by
  obtain ⟨held, hheld, heq⟩ := vecSoftmax_eq (f := f) cap (x.reserveIf push)
  have hsrc : ∀ j l, j < rowCount f → l < 512 → held j l = rowSrc f x j l := fun j l hj hl => by
    rw [hheld j l hj hl, rowSrc, BightArch.lane_reserveIf]
    rfl
  have hmark : (presentLanes f (x.reserveIf push) (rowCount f) held).foldl (fun (w : Mark) v => w.worse v.mark) Mark.clean = Mark.clean :=
    presentLanes_clean (fun j l hj hl hon => by rw [hsrc j l hj hl]; exact hclean j l hj hl (by rwa [laneOn_reserveIf] at hon))
  have hval : reduceVal .max 0#2 (rowCount f) (fun j l => if activeLane (x.reserveIf push) f.pred l then some (held j l).val else none) = rowMax f x :=
    reduceVal_congr .max _ (fun j l hj hl => by rw [activeLane_eq f _ hl, laneOn_reserveIf, hsrc j l hj hl]; rfl)
  dsimp only at heq
  rw [hmark, hval] at heq
  obtain ⟨e, he, heq⟩ := heq hr hnan hinf
  have hexp : ∀ j l, j < rowCount f → l < 512 → e j l = rowExp f x j l := fun j l hj hl => by
    rw [he j l hj hl, rowSrc, BightArch.lane_reserveIf]
    rfl
  have hsum : (reduceRegs fpAdd (rowCount f) (fun j l => if activeLane (x.reserveIf push) f.pred l then some (e j l) else none)).getD 0#32 = rowSum f x :=
    congrArg (fun o : Option Word32 => o.getD 0#32)
      (reduceRegs_congr fpAdd (fun j l hj hl => by rw [activeLane_eq f _ hl, laneOn_reserveIf, hexp j l hj hl]))
  rw [hsum] at heq
  exact ⟨e, _, hexp, heq⟩

end Softmax

/-- What VSOFTMAX of the row of `x₀` leaves of the Bight's state. -/
def SoftPost (f : VectorF) (x₀ x a : BightArch) : Prop :=
  (∀ j l, j < rowCount f → l < 512 → a.lane (f.vd.toNat + j) l = if laneOn f x l then ⟨fpDiv (rowExp f x₀ j l) (rowSum f x₀), .clean⟩ else Lane.zero)
    ∧ (f.aux.getLsbD 7 = true → ∃ fl, a.fifo = x.fifo ++ [⟨x.fifoNext, true, 0#32 ++ (rowMax f x₀).1, fl, false⟩])
    ∧ { a with vregs := x.vregs, serve := x.serve, fifo := x.fifo, fifoNext := x.fifoNext } = x

theorem vsoftmax_row {f : VectorF} {s : State} (h : QueueReady s f.b) (hh : HitchReady s f.b f.waitEn f.waitH)
    (hroom : f.aux.getLsbD 7 = true → (s.arch f.b).fifo.length < 32) (hids : ∀ e ∈ (s.arch f.b).fifo, e.id ≠ (s.arch f.b).fifoNext) {x : BightArch}
    (hx : s.atIssue f.b f.waitEn f.waitH = x)
    (hclean : ∀ j l, j < rowCount f → l < 512 → laneOn f x l = true → (rowSrc f x j l).mark = .clean)
    (hr : (rowMax f x).2 = false) (hnan : fpIsNaN (rowMax f x).1 = false) (hinf : fpIsInf (rowMax f x).1 = false) :
    Serves (.vsoftmax f) s f False (SoftPost f x) := by
  have hentry : (vecCap s f (sumEn f)).entry = if sumEn f then some x.fifoNext else none := by
    rw [← hx, State.atIssue_fifoNext, vecCap_entry]
  have hids' : ∀ e ∈ x.fifo, e.id ≠ x.fifoNext := by
    rw [← hx, State.atIssue_fifo, State.atIssue_fifoNext]
    exact hids
  obtain ⟨e, fl, he, heq⟩ := vecSoftmax_reserved (vecCap s f (sumEn f)) x (sumEn f) hclean hr hnan hinf
  refine serves_of_res (push := sumEn f) h hh rfl hroom (Eq.trans (by rw [hx]) heq) rfl ?_
  rw [hx, softOut_arch _ x hids' hentry]
  refine ⟨fun j l hj hl => ?_, fun hpush => ⟨fl, if_pos hpush⟩, rfl⟩
  have hlane := lane_setVs (x.reserveIf (sumEn f)) f.vd.toNat (show rowCount f ≤ 64 by unfold rowCount; omega)
    (fun j l => if activeLane (x.reserveIf (sumEn f)) f.pred l then ⟨fpDiv (e j l) (rowSum f x), .clean⟩ else Lane.zero) hj hl
  refine Eq.trans hlane ?_
  simp only [activeLane_eq f _ hl, laneOn_reserveIf, he j l hj hl]

/-- Settles O17: a reduction of the elements of its registers, with the flags of their values; a row by its maximum, exponentials and sum. -/
theorem vectorReduce : Obligations.VectorReduce := by
  unfold Obligations.VectorReduce
  refine ⟨fun f s k h hh hroom hids hk => ?_, fun f s h hh hroom hids => ?_⟩
  · intro x pred t n src elem r ht hlegal hclean
    exact vred_row h hh hroom hids hk ht (redBad_eq_false hlegal) hclean
  · intro x n elem r ex sum hclean hr hnan hinf
    exact vsoftmax_row h hh hroom hids rfl hclean hr hnan hinf

end Sys2Proof.Machine

/-!
O20, LAY.MMA (R36 to R42, R60 to R66): reading unpoisoned tiles, the element that an accumulation gives, and the refusals.
-/

namespace Sys2Proof.Machine

/-! Unpoisoned stores -/

theorem SMap_get_clean {m : SMap Mark} (h : ∀ e ∈ m, e.2 = Mark.clean) (k : Nat) : m.get .clean k = .clean := by
  unfold SMap.get
  split
  · next e he => exact h e (List.mem_of_find?_eq_some he)
  · rfl

theorem Mem.mark_clean {m : Mem} (h : ∀ e ∈ m.marks, e.2 = .clean) (c : Nat) : m.mark c = .clean := SMap_get_clean h c

theorem getD_window_clean {m : SMap Mark} (h : ∀ e ∈ m, e.2 = Mark.clean) (base n i : Nat) : ((m.window .clean base n)[i]?).getD .clean = .clean := by
  rw [SMap.getElem?_window]
  split
  · exact SMap_get_clean h _
  · rfl

theorem getD_ofFn_clean {n : Nat} {g : Fin n → Mark} (h : ∀ i, g i = .clean) (i : Nat) : ((Array.ofFn g)[i]?).getD .clean = .clean := by
  rw [Array.getElem?_ofFn]
  split
  · exact h _
  · rfl

theorem foldl_ofFn_clean {n : Nat} {g : Fin n → Mark} (h : ∀ i, g i = .clean) : (Array.ofFn g).foldl Mark.worse .clean = .clean := by
  rw [← Array.foldl_toList, Array.toList_ofFn]
  refine foldl_worse_clean (fun m => m) _ (fun m hm => ?_)
  obtain ⟨i, rfl⟩ := (List.mem_ofFn' ..).mp hm
  exact h i

/-! Tiles -/

section Tile

variable {a : BightArch} (h : ∀ e ∈ a.locker.marks, e.2 = .clean) (fm : Fmt) (addr : Nat)
include h

theorem lockerTile_marks_clean (n : Nat) : (((lockerTile a fm addr).marks)[n]?).getD .clean = .clean := by
  unfold lockerTile decodeTile
  simp only [getD_window_clean h]
  refine getD_ofFn_clean (fun i => ?_) n
  split <;> rfl

theorem lockerTile_scaleMarks_clean (n : Nat) : (((lockerTile a fm addr).scaleMarks)[n]?).getD .clean = .clean := by
  unfold lockerTile decodeTile
  dsimp only
  split
  · exact getD_ofFn_clean (fun i => getD_window_clean h ..) n
  · rfl

theorem elemMarks_clean (n : Nat) : elemMarks a fm addr n = .clean := by
  rw [elemMarks, Mem.mark_clean h, Mem.mark_clean h]
  rfl

/-- A row of an unpoisoned tile. -/
theorem rowMark_clean (int : Bool) (idx : Nat → Nat) (blk : Nat) (ks : List Nat) :
    rowMark (lockerTile a fm addr) int idx blk (elemMarks a fm addr) ks = .clean := by
  unfold rowMark
  split
  · rw [lockerTile_scaleMarks_clean h]
    exact foldl_worse_clean _ _ (fun k _ => elemMarks_clean h fm addr _)
  · exact foldl_worse_clean _ _ (fun k _ => lockerTile_marks_clean h fm addr _)

end Tile

/-! The element order of R51 -/

theorem tileIndex_lt {i j : Nat} (hi : i < 128) (hj : j < 128) : tileIndex i j < 16384 := by
  unfold tileIndex
  omega

theorem tileRow_tileIndex {i j : Nat} (hj : j < 128) : tileRow (tileIndex i j) = i := by
  unfold tileRow tileIndex
  omega

theorem tileCol_tileIndex {i j : Nat} (hj : j < 128) : tileCol (tileIndex i j) = j := by
  unfold tileCol tileIndex
  omega

theorem SMap.get_gen {α : Type} [DecidableEq α] (d : α) (n : Nat) (g : Nat → α) {i : Nat} (h : i < n) : (SMap.gen d 0 n g).get d i = g i := by
  have hfind := SMap.find_gen_some d 0 n g h
  rw [Nat.zero_add] at hfind
  rw [SMap.get, hfind]
  by_cases hd : g i = d
  · rw [if_pos hd, hd]
  · rw [if_neg hd]

theorem Slot.cell_mark_clean {x : Slot} (h : ∀ e ∈ x.cells, e.2.mark = .clean) (i j : Nat) : (x.cell i j).mark = .clean := by
  unfold Slot.cell SMap.get
  split
  · next e he => exact h e (List.mem_of_find?_eq_some he)
  · rfl

/-! The accumulation -/

/-- The number of k values of an instruction (R60). -/
def mmaCount (f : MmaF) : Nat := 16 * (f.kLast.toNat + 1 - f.kFirst.toNat)

/-- The value of an element after the products of an instruction, from the value before. -/
def mmaValue (f : MmaF) (A B : TileIn) (old : Word32) (i j : Nat) : Word32 :=
  if f.pair = 16#5 then
    (mmaInt old ((List.range (mmaCount f)).map (fun t =>
      int8Val ((A.raw[idxA f.ta i (16 * f.kFirst.toNat + t)]?).getD 0) * int8Val ((B.raw[idxB f.tb (16 * f.kFirst.toNat + t) j]?).getD 0)))).1
  else
    (mmaFp old ((List.range (mmaCount f / (4 * 2 ^ f.g.toNat))).map (fun g => (List.range (4 * 2 ^ f.g.toNat)).map (fun t =>
      xMul ((A.vals[idxA f.ta i (16 * f.kFirst.toNat + 4 * 2 ^ f.g.toNat * g + t)]?).getD (.fin false 0))
        ((B.vals[idxB f.tb (16 * f.kFirst.toNat + 4 * 2 ^ f.g.toNat * g + t) j]?).getD (.fin false 0)))))).1

theorem mmaInto_spec {f : MmaF} {cap : Cap} {fa fb : Fmt} {a : BightArch} {x : Slot} (hlocker : ∀ e ∈ a.locker.marks, e.2 = .clean)
    (hcells : ∀ e ∈ x.cells, e.2.mark = .clean) :
    (mmaInto f cap fa fb a x).seen = .clean ∧ ∃ (st : Word16) (y : Slot), (mmaInto f cap fa fb a x).arch = (a.setSlot f.slot y).orLay st
      ∧ y.state = x.state ∧ y.int = x.int ∧ ∀ i j, i < 128 → j < 128 →
        y.cell i j = ⟨mmaValue f (lockerTile a fa (mmaA cap)) (lockerTile a fb (mmaB cap)) (x.cell i j).val i j, .clean⟩ := by
  unfold mmaInto
  refine ⟨?_, _, _, rfl, rfl, rfl, fun i j hi hj => ?_⟩
  · dsimp only
    rw [foldl_ofFn_clean (fun i => rowMark_clean hlocker ..), foldl_ofFn_clean (fun i => rowMark_clean hlocker ..)]
    rfl
  · have hold : ((SMap.window Lane.zero x.cells 0 16384)[tileIndex i j]?).getD Lane.zero = x.cell i j := by
      rw [SMap.getElem?_window, if_pos (tileIndex_lt hi hj), Nat.zero_add]
      rfl
    have hmark : (x.cell i j).mark = .clean := Slot.cell_mark_clean hcells i j
    rw [Slot.cell]
    simp only [SMap.get_gen _ _ _ (tileIndex_lt hi hj), Array.getElem?_ofFn, tileIndex_lt hi hj, tileRow_tileIndex hj, tileCol_tileIndex hj, hi, hj,
      dite_true, Option.getD_some, Option.map_some, rowMark_clean hlocker, hold, hmark]
    unfold mmaValue
    by_cases hint : f.pair = 16#5
    · simp only [hint, decide_true, if_true, mmaKs, List.map_map, mmaCount]
      rfl
    · simp only [hint, decide_false, if_false, Bool.false_eq_true, mmaKs, List.length_map, List.length_range, mmaCount]
      rfl

/-! LAY.MMA by its slot (R60, R63, R66) -/

theorem pairFmts_reserved {p : Nat} (h : 22 ≤ p) : pairFmts p = none := by
  match p, h with
  | _ + 22, _ => rfl

/-- What LAY.MMA captures at dispatch. -/
def mmaCap (s : State) (f : MmaF) : Cap := capOf (s.sys.bight f.b.val) (mmaQ f)

section Outcomes

variable {f : MmaF} {cap : Cap} {a : BightArch} {fa fb : Fmt}

theorem layMma_bad (h : mmaBad f cap = true) : layMma f cap a = ⟨a.orLay lsBadEncoding, .clean⟩ := by
  rw [layMma, if_pos h]

theorem mmaBad_of_codes (h : f.g = 3#2 ∨ f.kLast.toNat < f.kFirst.toNat ∨ 22 ≤ f.pair.toNat) : mmaBad f cap = true := by
  unfold mmaBad
  rcases h with h | h | h
  · simp [h]
  · simp [h]
  · simp [pairFmts_reserved h]

variable (hf : pairFmts f.pair.toNat = some (fa, fb))
include hf

theorem mmaBad_of_range (h : lockerBytes < mmaA cap + fmtRecord fa ∨ lockerBytes < mmaB cap + fmtRecord fb) : mmaBad f cap = true := by
  unfold mmaBad
  rw [hf]
  rcases h with h | h <;> simp [inLocker, h]

theorem mmaBad_eq_false (hg : f.g ≠ 3#2) (hk : f.kFirst.toNat ≤ f.kLast.toNat) (ha : mmaA cap + fmtRecord fa ≤ lockerBytes)
    (hb : mmaB cap + fmtRecord fb ≤ lockerBytes) : mmaBad f cap = false := by
  unfold mmaBad
  rw [hf]
  simp [hg, hk, inLocker, ha, hb]

variable (hbad : mmaBad f cap = false)
include hbad

theorem layMma_mismatch (hs : (a.slot f.slot).state = .opened) (ht : (a.slot f.slot).int ≠ decide (f.pair = 16#5)) :
    layMma f cap a = ⟨a.orLay lsTypeMismatch, .clean⟩ := by
  rw [layMma, if_neg (by simp [hbad]), hf]
  dsimp only
  rw [hs]
  exact if_neg ht

theorem layMma_opened (hs : (a.slot f.slot).state = .opened) (ht : (a.slot f.slot).int = decide (f.pair = 16#5)) :
    layMma f cap a = mmaInto f cap fa fb a (a.slot f.slot) := by
  rw [layMma, if_neg (by simp [hbad]), hf]
  dsimp only
  rw [hs]
  exact if_pos ht

theorem layMma_free (hs : (a.slot f.slot).state = .free) :
    layMma f cap a = mmaInto f cap fa fb (a.orLay lsSlotNotOpen) (Slot.zero (decide (f.pair = 16#5))) := by
  rw [layMma, if_neg (by simp [hbad]), hf]
  dsimp only
  rw [hs]

end Outcomes

/-- What an accumulation into its slot leaves of the Bight's state. -/
def MmaPost (f : MmaF) (fa fb : Fmt) (addrA addrB : Nat) (x a : BightArch) : Prop :=
  { a with slots := x.slots, lay := x.lay } = x ∧ (∀ n : Fin 8, n ≠ f.slot → a.slots[n] = x.slots[n])
    ∧ a.slots[f.slot].state = .opened ∧ (a.slots[f.slot].int = true ↔ f.pair = 16#5)
    ∧ (x.slots[f.slot].state = .free → a.lay.getLsbD 5 = true)
    ∧ ∀ i j, i < 128 → j < 128 → a.slots[f.slot].cell i j
        = ⟨mmaValue f (lockerTile x fa addrA) (lockerTile x fb addrB) (if x.slots[f.slot].state = .free then 0#32 else (x.slots[f.slot].cell i j).val) i j, .clean⟩

theorem slots_setSlot (a : BightArch) (n m : Fin 8) (y : Slot) : (a.setSlot n y).slots[m] = if m = n then y else a.slots[m] := by
  simp only [BightArch.setSlot, Fin.getElem_fin, Vector.getElem_set, Fin.ext_iff, eq_comm]

/-- Writing the slot and status bits gives the accumulated slot. -/
theorem mmaPost_of_slot {f : MmaF} {fa fb : Fmt} {addrA addrB : Nat} {x : BightArch} {st : Word16} {y : Slot} (hstate : y.state = .opened)
    (hint : y.int = decide (f.pair = 16#5)) (hfree : x.slots[f.slot].state = .free → st.getLsbD 5 = true)
    (hcell : ∀ i j, i < 128 → j < 128 → y.cell i j
      = ⟨mmaValue f (lockerTile x fa addrA) (lockerTile x fb addrB) (if x.slots[f.slot].state = .free then 0#32 else (x.slots[f.slot].cell i j).val) i j, .clean⟩) :
    MmaPost f fa fb addrA addrB x ((x.setSlot f.slot y).orLay st) := by
  have hslot : ((x.setSlot f.slot y).orLay st).slots[f.slot] = y := (slots_setSlot x f.slot f.slot y).trans (if_pos rfl)
  refine ⟨rfl, fun n hn => (slots_setSlot x f.slot n y).trans (if_neg hn), ?_, ?_, fun hs => ?_, fun i j hi hj => ?_⟩
  · rw [hslot, hstate]
  · rw [hslot, hint, decide_eq_true_eq]
  · show (x.lay ||| st).getLsbD 5 = true
    rw [BitVec.getLsbD_or, hfree hs, Bool.or_true]
  · rw [hslot, hcell i j hi hj]

/-- An accumulation into a slot that takes it. -/
theorem layMma_accumulates {f : MmaF} {cap : Cap} {x : BightArch} {fa fb : Fmt} (hf : pairFmts f.pair.toNat = some (fa, fb)) (hbad : mmaBad f cap = false)
    (hs : x.slots[f.slot].state ≠ .draining) (ht : x.slots[f.slot].state = .free ∨ (x.slots[f.slot].int = true ↔ f.pair = 16#5))
    (hlocker : ∀ e ∈ x.locker.marks, e.2 = .clean) (hcells : ∀ e ∈ x.slots[f.slot].cells, e.2.mark = .clean) :
    (layMma f cap x).seen = .clean ∧ MmaPost f fa fb (mmaA cap) (mmaB cap) x (layMma f cap x).arch := by
  by_cases hfree : x.slots[f.slot].state = .free
  · rw [layMma_free hf hbad hfree]
    obtain ⟨hseen, st, y, harch, hstate, hint, hcell⟩ := mmaInto_spec (f := f) (cap := cap) (fa := fa) (fb := fb) (a := x.orLay lsSlotNotOpen)
      (x := Slot.zero (decide (f.pair = 16#5))) hlocker (fun e he => by cases he)
    refine ⟨hseen, ?_⟩
    have hlay : ((x.orLay lsSlotNotOpen).setSlot f.slot y).orLay st = (x.setSlot f.slot y).orLay (lsSlotNotOpen ||| st) := by
      simp only [BightArch.orLay, BightArch.setSlot, BitVec.or_assoc]
    rw [harch, hlay]
    refine mmaPost_of_slot hstate hint (fun _ => ?_) (fun i j hi hj => ?_)
    · rw [BitVec.getLsbD_or]
      exact Bool.or_eq_true_iff.mpr (.inl (by decide))
    · rw [hcell i j hi hj, if_pos hfree]
      rfl
  · have hopen : x.slots[f.slot].state = .opened := by
      cases hst : x.slots[f.slot].state with
      | free => exact absurd hst hfree
      | opened => rfl
      | draining => exact absurd hst hs
    have htype : (x.slot f.slot).int = decide (f.pair = 16#5) := by
      rw [Bool.eq_iff_iff, decide_eq_true_eq]
      exact ht.resolve_left hfree
    rw [layMma_opened hf hbad hopen htype]
    obtain ⟨hseen, st, y, harch, hstate, hint, hcell⟩ := mmaInto_spec (f := f) (cap := cap) (fa := fa) (fb := fb) (a := x) (x := x.slot f.slot) hlocker hcells
    refine ⟨hseen, ?_⟩
    rw [harch]
    refine mmaPost_of_slot (hstate.trans hopen) (hint.trans htype) (fun h => absurd h hfree) (fun i j hi hj => ?_)
    rw [hcell i j hi hj, if_neg hfree]
    rfl

/-- LAY.MMA on a slot that is not DRAINING, by what its operation gives. -/
theorem queued_layMma {f : MmaF} {s : State} (h : QueueReady s f.b) (hh : HitchReady s f.b f.waitEn f.waitH)
    (hs : (s.arch f.b).slots[f.slot].state ≠ .draining) {r : VRes} (hres : layMma f (mmaCap s f) (s.atIssue f.b f.waitEn f.waitH) = r)
    (hclean : r.seen = .clean) {post : BightArch → BightArch → Prop} (hpost : post (s.atIssue f.b f.waitEn f.waitH) r.arch) :
    Queued (.layMma f) s f.b f.waitEn f.waitH f.setEn f.setH .matrix False post := by
  have hready : (mmaQ f).ready (atDispatch s.sys f.b.val false) f.b.val (mmaCap s f) = true := by
    have hslot : ((atDispatch s.sys f.b.val false).bight f.b.val).arch.slot f.slot = (s.arch f.b).slots[f.slot] := by
      simp only [atDispatch, Sys.bight_setBight]
      rfl
    simp only [mmaQ, hslot, bne_iff_ne.mpr hs, Bool.or_true]
  exact queued_onVec (q := mmaQ f) h hh rfl rfl rfl (fun _ => rfl) (fun hp => by cases hp) hready (fun _ _ => rfl) hres (by rw [hclean]; rfl) hpost

/-- Settles O20: LAY.MMA by its codes, its ranges and the state of its slot; an accumulation element by element. -/
theorem matrixMultiply : Obligations.MatrixMultiply := by
  unfold Obligations.MatrixMultiply
  intro f s h hh hs x at_ slot done int
  refine ⟨fun hcodes => queued_layMma h hh hs (layMma_bad (mmaBad_of_codes hcodes)) rfl rfl, fun fa fb hf hg hk => ⟨fun hrange => ?_, fun ha hb => ?_⟩⟩
  · exact queued_layMma h hh hs (layMma_bad (mmaBad_of_range hf hrange)) rfl rfl
  · have hbad : mmaBad f (mmaCap s f) = false := mmaBad_eq_false hf hg hk ha hb
    refine ⟨fun hopen htype => ?_, fun htakes hlocker hcells => ?_⟩
    · refine queued_layMma h hh hs (layMma_mismatch hf hbad hopen (fun heq => ?_)) rfl rfl
      have : slot.int = decide (f.pair = 16#5) := heq
      simp [this, int] at htype
    · have hs' : x.slots[f.slot].state ≠ .draining := by
        rw [State.atIssue_slots]
        exact hs
      obtain ⟨hseen, hpost⟩ := layMma_accumulates hf hbad hs' htakes hlocker hcells
      exact queued_layMma h hh hs rfl hseen hpost

end Sys2Proof.Machine

/-!
O26, MOV.IMPORT (R34, R54, R114): reads of memory that meet no poison, and the tile records that an import writes.
-/

namespace Sys2Proof.Machine

/-! What does not depend on a Bight's registers -/

section SetBight

variable (y : Sys) (b : Fin 80) (x : Bight)

theorem Sys.readPart_setBight (p a n : Nat) : (y.setBight b.val x).readPart p a n = y.readPart p a n := rfl

variable {y b x} (hrun : x.run = (y.bight b.val).run)
include hrun

theorem Sys.runPart_setBight : (y.setBight b.val x).runPart b.val = y.runPart b.val := by
  simp [Sys.runPart, hrun]

theorem Sys.importCheck_setBight (d : Bytes) : (y.setBight b.val x).importCheck b.val d = y.importCheck b.val d := by
  unfold Sys.importCheck Sys.moverPart
  rw [Sys.runPart_setBight hrun]
  rfl

theorem Sys.rangesWait_setBight (rs : List (Nat × Nat)) : (y.setBight b.val x).rangesWait b.val rs = y.rangesWait b.val rs := by
  unfold Sys.rangesWait
  rw [Sys.runPart_setBight hrun]
  rfl

end SetBight

/-! Reads outside every region -/

theorem Sys.readSeen_of_no_region {y : Sys} {b : Nat} (hr : (y.bight b).region = none) (hs : y.sigmaOf b = none) (seq p a n : Nat) :
    y.readSeen b seq p a n = y.readPart p a n := by
  simp [Sys.readSeen, hs, hr, Sys.readOver]

/-- A read that meets no failing check and needs no mirror leaves nothing. -/
theorem Sys.noteRead_quiet {y : Sys} {p a n : Nat} (h : y.readsQuietly p a n) : y.noteRead p a n = y := by
  obtain ⟨hfails, hserved⟩ := h
  simp only [Sys.noteRead, hfails, List.foldl_nil, hserved]

/-- A Bight's quiet reads, each in the partition that its run then has. -/
theorem Sys.foldl_noteRead_quiet {y : Sys} {b p : Nat} (hp : y.runPart b = some p) (rs : List (Nat × Nat)) (h : ∀ r ∈ rs, y.readsQuietly p r.1 r.2) :
    rs.foldl (fun s r => s.noteRead ((s.runPart b).getD 80) r.1 r.2) y = y := by
  induction rs with
  | nil => rfl
  | cons r t ih =>
    have hread : y.noteRead ((y.runPart b).getD 80) r.1 r.2 = y := by
      rw [hp]
      exact Sys.noteRead_quiet (h r List.mem_cons_self)
    rw [List.foldl_cons, hread]
    exact ih (fun q hq => h q (List.mem_cons_of_mem _ hq))

/-! Unpoisoned strips -/

theorem Strip.mark_clean {x : Strip} (h : x.blob.bad = []) (i : Nat) : x.mark i = .clean := by
  simp only [Strip.mark, Blob.mark, Blob.word, h, List.foldl_nil]
  split <;> rfl

theorem ImportSrc.elem_clean {x : ImportSrc} (hscales : x.scales.blob.bad = []) (hrows : ∀ s ∈ x.rows, s.blob.bad = []) (d : Bytes) (f : Fmt)
    (r c : Nat) : (x.elem d f r c).2 = .clean := by
  unfold ImportSrc.elem
  split
  · split
    · rfl
    · next row hrow =>
      have hbad := hrows row (Array.mem_of_getElem? hrow)
      simp only [Strip.mark_clean hbad, Strip.mark_clean hscales]
      rfl
  · rfl

theorem tileSrc_clean {src : Nat → Nat → Src} (h : ∀ r c, (src r c).2 = .clean) :
    (tileSrc src).foldl (fun (w : Mark) e => w.worse e.2) .clean = .clean := by
  rw [← Array.foldl_toList]
  refine foldl_worse_clean (fun e : Src => e.2) _ (fun e he => ?_)
  rw [tileSrc, Array.toList_ofFn] at he
  obtain ⟨i, rfl⟩ := (List.mem_ofFn' ..).mp he
  exact h _ _

/-! Tile records in the locker -/

theorem putTile_byte_in (a : BightArch) (addr : Nat) (t : TileOut) {k : Nat} (h : k < fmtRecord t.fmt) :
    (putTile a addr t).locker.byte (addr + k) = tileByte t k := Mem.byte_write_in _ _ _ _ _ _ h

theorem putTile_byte_out (a : BightArch) (addr : Nat) (t : TileOut) {q : Nat} (h : q < addr ∨ addr + fmtRecord t.fmt ≤ q) :
    (putTile a addr t).locker.byte q = a.locker.byte q := Mem.byte_write_out _ _ _ _ _ _ h

/-- Tile records one after the other, each with the status bits that it leaves. -/
def putTiles (base : Nat) (g : Fmt) (tile : Nat → TileOut) (st : Nat → Word16) (n : Nat) (a : BightArch) : BightArch :=
  (List.range n).foldl (fun a m => (putTile a (base + m * fmtRecord g) (tile m)).orFairlead (st m)) a

section Tiles

variable (base : Nat) (g : Fmt) (tile : Nat → TileOut) (st : Nat → Word16) (a : BightArch)

theorem putTiles_succ (n : Nat) : putTiles base g tile st (n + 1) a
    = (putTile (putTiles base g tile st n a) (base + n * fmtRecord g) (tile n)).orFairlead (st n) := by
  simp [putTiles, List.range_succ]

theorem putTiles_frame (n : Nat) : { putTiles base g tile st n a with locker := a.locker, fairlead := a.fairlead } = a := by
  induction n with
  | zero => rfl
  | succ n ih =>
    rw [putTiles_succ]
    exact ih

variable {tile} (hfmt : ∀ m, (tile m).fmt = g)
include hfmt

theorem putTiles_byte_out (n : Nat) {q : Nat} (h : q < base ∨ base + n * fmtRecord g ≤ q) :
    (putTiles base g tile st n a).locker.byte q = a.locker.byte q := by
  induction n with
  | zero => rfl
  | succ n ih =>
    have hmul : (n + 1) * fmtRecord g = n * fmtRecord g + fmtRecord g := Nat.succ_mul ..
    rw [putTiles_succ]
    refine (putTile_byte_out _ _ _ ?_).trans (ih (by omega))
    rw [hfmt]
    omega

theorem putTiles_byte_in (n : Nat) {m k : Nat} (hm : m < n) (hk : k < fmtRecord g) :
    (putTiles base g tile st n a).locker.byte (base + m * fmtRecord g + k) = tileByte (tile m) k := by
  induction n with
  | zero => omega
  | succ n ih =>
    rw [putTiles_succ]
    by_cases hmn : m = n
    · rw [hmn]
      exact putTile_byte_in _ _ _ (by rw [hfmt]; exact hk)
    · have hle : (m + 1) * fmtRecord g ≤ n * fmtRecord g := Nat.mul_le_mul_right _ (by omega)
      have hmul : (m + 1) * fmtRecord g = m * fmtRecord g + fmtRecord g := Nat.succ_mul ..
      exact (putTile_byte_out _ _ _ (by omega)).trans (ih (by omega))

end Tiles

/-! The import -/

theorem Sys.withArch_self (y : Sys) (b : Fin 80) : y.withArch b.val (y.bight b.val).arch = y := Sys.setBight_self y b

/-- Effects one after the other that change the Bight's state alone. -/
theorem Sys.foldl_onArch {y : Sys} {b : Fin 80} (hr : (y.bight b.val).region = none) (seq : Nat) (g : Nat → BightArch → BightArch) (l : List Nat) :
    l.foldl (fun s n => s.onArch b.val seq (g n)) y = y.withArch b.val (l.foldl (fun a n => g n a) (y.bight b.val).arch) := by
  induction l generalizing y with
  | nil => exact (Sys.withArch_self y b).symm
  | cons n t ih =>
    rw [List.foldl_cons, List.foldl_cons, Sys.onArch_none hr, ih (by simpa using hr)]
    simp [Sys.withArch, Sys.setBight_setBight]

section Import

variable {y : Sys} {b : Fin 80} {p : Nat} {d : Bytes} {sf df : Fmt}

/-- The source does not depend on the Bight's registers. -/
theorem Sys.importSrc_setBight {x : Bight} (hrun : x.run = (y.bight b.val).run) (hr : (y.bight b.val).region = none) (hr' : x.region = none)
    (hs : y.sigmaOf b.val = none) (seq : Nat) : (y.setBight b.val x).importSrc b.val seq p d sf = y.importSrc b.val seq p d sf := by
  have hsigma : (y.setBight b.val x).sigmaOf b.val = none := by rw [Sys.sigmaOf_setBight _ _ _ hrun, hs]
  have hregion : ((y.setBight b.val x).bight b.val).region = none := by simpa using hr'
  simp only [Sys.importSrc, Sys.strip, Sys.readSeen_of_no_region hr hs, Sys.readSeen_of_no_region hregion hsigma, Sys.readPart_setBight]

/-- The tile of number `m` in the order of R54. -/
def ImportSrc.tileNo (src : ImportSrc) (d : Bytes) (sf df : Fmt) (m : Nat) : TileOut :=
  src.tile d sf df (src.bands d sf df (fieldN d 0x29 1)) (m / tilesOf (mdCols d)) (m % tilesOf (mdCols d))

/-- An import from unpoisoned memory writes its tile records. -/
theorem Sys.importTiles_clean {cap : Cap} (hr : (y.bight b.val).region = none) (hp : y.runPart b.val = some p) (hsf : mdSrcFmt cap.desc = some sf)
    (hdf : mdDstFmt cap.desc = some df) (hquiet : ∀ r ∈ importReads cap.desc, y.readsQuietly p r.1 r.2)
    (hscales : (y.importSrc b.val cap.seq p cap.desc sf).scales.blob.bad = [])
    (hrows : ∀ x ∈ (y.importSrc b.val cap.seq p cap.desc sf).rows, x.blob.bad = []) :
    ∃ st : Nat → Word16, y.importTiles b.val cap = y.withArch b.val (putTiles (mdLocker cap.desc) df
      ((y.importSrc b.val cap.seq p cap.desc sf).tileNo cap.desc sf df) st (tilesOf (mdRows cap.desc) * tilesOf (mdCols cap.desc)) (y.bight b.val).arch) := by
  have hclean := ImportSrc.elem_clean hscales hrows cap.desc sf
  unfold Sys.importTiles
  simp only [hp, hsf, hdf, Option.getD_some, Sys.foldl_noteRead_quiet hp _ hquiet]
  simp only [tileSrc_clean (fun r c => hclean _ _), Sys.saw_of_clean _ _ Mark.isBad_clean]
  exact ⟨_, Sys.foldl_onArch hr cap.seq _ _⟩

end Import

/-! MOV.IMPORT -/

theorem Mem.worst_clean {m : Mem} (h : ∀ e ∈ m.marks, e.2 = .clean) (a n : Nat) : m.worst a n = .clean :=
  foldl_worse_clean m.mark _ (fun c _ => Mem.mark_clean h c)

/-- MOV.IMPORT as an instruction of a queue. -/
def importQ (f : MoverF) : QOp where
  eng := .mover
  wait := optHitch f.waitEn f.waitH
  set := optHitch f.setEn f.setH
  regs := fun _ => []
  desc := some (f.descReg, 64)
  push := fun _ => false
  foot := fun s b cap => if cap.descMark.isBad || (s.importCheck b cap.desc).isSome then Foot.none
    else { Foot.none with
      wr := [(mdLocker cap.desc, importOut cap.desc ((mdDstFmt cap.desc).getD .int8))]
      memRd := importReads cap.desc }
  ready := fun s b cap => cap.descMark.isBad || (s.importCheck b cap.desc).isSome || !s.rangesWait b (importReads cap.desc)
  items := fun _ _ _ => 0
  effect := fun s b cap =>
    if cap.descMark.isBad then (s.movePoisonedDesc b cap, none)
    else match s.importCheck b cap.desc with
      | some e => (s.moveBad b cap e, none)
      | none => (s.importTiles b cap, none)
  finish := fun s _ _ => some s

theorem exec_movImport (f : MoverF) (s : State) : exec (.movImport f) s = s.onSys (fun y => y.queueOp (.movImport f) f.b.val (importQ f)) := rfl

section MovImport

variable (f : MoverF) {y : Sys} {b : Nat} {cap : Cap}

theorem importQ_ready (hcheck : y.importCheck b cap.desc = none) (hwait : y.rangesWait b (importReads cap.desc) = false) :
    (importQ f).ready y b cap = true := by
  simp [importQ, hcheck, hwait]

theorem importQ_effect (hmark : cap.descMark.isBad = false) (hcheck : y.importCheck b cap.desc = none) :
    (importQ f).effect y b cap = (y.importTiles b cap, none) := by
  simp [importQ, hmark, hcheck]

end MovImport

/-- What MOV.IMPORT captures at dispatch: its number and its descriptor, which the wait and the PC leave as they are. -/
theorem capOf_importQ (s : State) (f : MoverF) :
    let x := s.atIssue f.b f.waitEn f.waitH
    let addr := ((s.arch f.b).s f.descReg).toNat / 256 % 65536 * 256
    let cap := capOf (s.sys.bight f.b.val) (importQ f)
    cap.seq = (s.sys.bight f.b.val).nextSeq ∧ cap.desc = x.locker.read addr 64 ∧ cap.descMark = x.locker.worst addr 64 := by
  dsimp only
  rw [State.atIssue_locker]
  exact ⟨rfl, rfl, rfl⟩

/-- Dispatch and issue change a Bight's registers and its numbering, not its run nor its region. -/
theorem atDispatch_eq_setBight (y : Sys) (b : Nat) (push : Bool) : ∃ x, atDispatch y b push = y.setBight b x ∧ x.run = (y.bight b).run :=
  ⟨_, rfl, rfl⟩

theorem atEffect_eq_setBight (y : Sys) (b : Nat) (q : QOp) (push : Bool) :
    ∃ x, atEffect y b q push = y.setBight b x ∧ x.run = (y.bight b).run ∧ x.region = (y.bight b).region := ⟨_, rfl, rfl, rfl⟩

theorem ImportSrc.tileNo_fmt (src : ImportSrc) (d : Bytes) (sf df : Fmt) (m : Nat) : (src.tileNo d sf df m).fmt = df := rfl

/-- What the tile records of an import leave, by their bytes. -/
theorem putTiles_tileNo (src : ImportSrc) (d : Bytes) (sf df : Fmt) (base : Nat) (st : Nat → Word16) (n : Nat) (x : BightArch) :
    let a := putTiles base df (src.tileNo d sf df) st n x
    { a with locker := x.locker, fairlead := x.fairlead } = x
    ∧ (∀ m k, m < n → k < fmtRecord df → a.locker.byte (base + m * fmtRecord df + k) = tileByte (src.tileNo d sf df m) k)
    ∧ ∀ q, (q < base ∨ base + n * fmtRecord df ≤ q) → a.locker.byte q = x.locker.byte q :=
  have hfmt := src.tileNo_fmt d sf df
  ⟨putTiles_frame .., fun _ _ hm hk => putTiles_byte_in _ _ _ _ hfmt n hm hk, fun _ hq => putTiles_byte_out _ _ _ _ hfmt n hq⟩

/-- Settles O26: the instruction is ready and takes effect at once; its source is that of the state it is issued in, since neither the PC nor a
hitch is part of memory, and its effect is the tile records one after the other. -/
theorem moverImport : Obligations.MoverImport := by
  intro f s p sf df h hh hp x d tc n src hlocker hcheck hsf hdf hwait hquiet hscales hrows
  have ⟨_, _, _, _, hregion, hsigma⟩ := h
  obtain ⟨hseq, hdesc, hmark⟩ := capOf_importQ s f
  rw [Mem.worst_clean hlocker] at hmark
  obtain ⟨x₁, hx₁, hrun₁⟩ := atDispatch_eq_setBight s.sys f.b.val false
  obtain ⟨x₂, hx₂, hrun₂, hregion₂⟩ := atEffect_eq_setBight s.sys f.b.val (importQ f) false
  have harch := atEffect_arch (s := s) (b := f.b) (push := false) (q := importQ f) (waitEn := f.waitEn) (waitH := f.waitH) rfl
  generalize hcap : capOf (s.sys.bight f.b.val) (importQ f) = cap at hseq hdesc hmark
  change cap.desc = d at hdesc
  rw [hregion] at hregion₂
  have hready : (importQ f).ready (atDispatch s.sys f.b.val false) f.b.val cap = true := by
    rw [hx₁]
    exact importQ_ready f (by rw [Sys.importCheck_setBight hrun₁, hdesc]; exact hcheck) (by rw [Sys.rangesWait_setBight hrun₁, hdesc]; exact hwait)
  have hsrc : (s.sys.setBight f.b.val x₂).importSrc f.b.val cap.seq p cap.desc sf = src := by
    rw [Sys.importSrc_setBight hrun₂ hregion hregion₂ hsigma, hdesc, hseq]
  obtain ⟨st, htiles⟩ := Sys.importTiles_clean (y := s.sys.setBight f.b.val x₂) (cap := cap) (p := p) (sf := sf) (df := df)
    (by simpa using hregion₂) ((Sys.runPart_setBight hrun₂).trans hp) (by rw [hdesc]; exact hsf) (by rw [hdesc]; exact hdf)
    (by rw [hdesc]; exact hquiet) (by rw [hsrc]; exact hscales) (by rw [hsrc]; exact hrows)
  have heffect : (importQ f).effect (s.sys.setBight f.b.val x₂) f.b.val cap = ((s.sys.setBight f.b.val x₂).importTiles f.b.val cap, none) :=
    importQ_effect f (by rw [hmark]; rfl) (by rw [Sys.importCheck_setBight hrun₂, hdesc]; exact hcheck)
  rw [hsrc, hdesc, ← hx₂, harch] at htiles
  rw [← hx₂, htiles] at heffect
  refine queued_of_effect (q := importQ f) (push := false) h hh (exec_movImport f s) rfl rfl (fun _ => rfl) (fun hpush => nomatch hpush)
    (by rw [hcap]; exact hready) (by rw [hcap]; exact heffect) ?_
  exact putTiles_tileNo src d sf df (mdLocker d) st n _

end Sys2Proof.Machine

/-!
Words and tiles as the locker and the slots hold them (R3, R51, R67, R69): what the arrays that the operations take for repeated reads give.
-/

namespace Sys2Proof.Machine

/-- Four bytes as one word, least significant first (R3). -/
theorem word_of_bytes (b : Nat → Byte) :
    (b 3 ++ b 2 ++ b 1 ++ b 0 : BitVec 32) = BitVec.ofNat 32 ((List.range 4).foldr (fun k n => (b k).toNat + 256 * n) 0) := by
  have h0 := (b 0).isLt
  have h1 := (b 1).isLt
  have h2 := (b 2).isLt
  have h3 := (b 3).isLt
  apply BitVec.eq_of_toNat_eq
  simp only [BitVec.toNat_append, List.range, List.range.loop, List.foldr_cons, List.foldr_nil, BitVec.toNat_ofNat]
  rw [← Nat.shiftLeft_add_eq_or_of_lt h2, ← Nat.shiftLeft_add_eq_or_of_lt h1, ← Nat.shiftLeft_add_eq_or_of_lt h0]
  simp only [Nat.shiftLeft_eq]
  omega

/-- Bytes of the locker, held for repeated reads. -/
theorem Mem.getD_window (m : Mem) (addr : Nat) {n i : Nat} (h : i < n) : ((m.bytes.window 0 addr n)[i]?).getD 0 = m.byte (addr + i) := by
  rw [SMap.getElem?_window, if_pos h]
  rfl

/-- Elements of a slot, held for repeated reads. -/
theorem Slot.getD_window (x : Slot) {r c : Nat} (hr : r < 128) (hc : c < 128) :
    ((x.cells.window Lane.zero 0 16384)[tileIndex r c]?).getD Lane.zero = x.cell r c := by
  rw [SMap.getElem?_window, if_pos (tileIndex_lt hr hc), Nat.zero_add]
  rfl

/-! The element order of R51 -/

theorem tileIndex_tileRow_tileCol (n : Nat) : tileIndex (tileRow n) (tileCol n) = n := by
  unfold tileIndex tileRow tileCol
  omega

theorem tileRow_lt {n : Nat} (h : n < 16384) : tileRow n < 128 := by
  unfold tileRow
  omega

theorem tileCol_lt (n : Nat) : tileCol n < 128 := by
  unfold tileCol
  omega

theorem tileSrc_congr {src src' : Nat → Nat → Src} (h : ∀ r c, r < 128 → c < 128 → src r c = src' r c) : tileSrc src = tileSrc src' := by
  refine congrArg Array.ofFn (funext fun n => ?_)
  exact h _ _ (tileRow_lt n.isLt) (tileCol_lt _)

/-- A conversion reads the elements of its tile alone. -/
theorem convertTile_congr (fm : Fmt) (scope : Nat) {src src' : Nat → Nat → Src} (h : ∀ r c, r < 128 → c < 128 → src r c = src' r c) :
    convertTile fm scope src = convertTile fm scope src' := by
  unfold convertTile
  rw [tileSrc_congr h]

end Sys2Proof.Machine

/-!
O19, the vector instructions that name the locker or a slot (R64, R66, R69, R95, R96, R461): each by the operation that it performs at its locker
address.
-/

namespace Sys2Proof.Machine

section Locker

variable {s : State} {f : VectorF} {i : Instr} {foot : Cap → Foot} {g : Cap → BightArch → VRes}

/-- A vector instruction that pushes no record, whatever its footprint, completes with what its operation gives. -/
theorem serves_vecQ (h : QueueReady s f.b) (hh : HitchReady s f.b f.waitEn f.waitH)
    (hexec : exec i s = s.onSys (fun y => y.queueOp i f.b.val (vecQ f false foot g))) {r : VRes}
    (hres : g (vecCap s f false) (s.atIssue f.b f.waitEn f.waitH) = r) (hclean : r.seen = .clean)
    {poisoned : Prop} {post : BightArch → BightArch → Prop} (hpost : post (s.atIssue f.b f.waitEn f.waitH) r.arch) : Serves i s f poisoned post :=
  queued_onVec (q := vecQ f false foot g) (push := false) h hh hexec rfl rfl (fun _ => rfl) (fun hp => nomatch hp) rfl (fun _ _ => rfl) hres
    (by rw [hclean]; rfl) hpost

/-- A range outside the locker, or a reserved code, leaves BAD_ENCODING alone. -/
theorem serves_bad (h : QueueReady s f.b) (hh : HitchReady s f.b f.waitEn f.waitH)
    (hexec : exec i s = s.onSys (fun y => y.queueOp i f.b.val (vecQ f false foot g)))
    (hbad : ∀ x, g (vecCap s f false) x = vecBad (vecCap s f false) x) {poisoned : Prop} :
    Serves i s f poisoned (fun x a => a = { x with serve := x.serve ||| 0x0020#16 }) :=
  serves_vecQ h hh hexec (hbad _) rfl rfl

end Locker

/-- The locker address that a vector instruction captures at dispatch (R461). -/
theorem vecAddr_vecCap (s : State) (f : VectorF) (push : Bool) :
    vecAddr (vecCap s f push) = ((s.arch f.b).s (f.va.extractLsb' 0 5)).toNat / 256 % 65536 * 256 := by
  rw [← BitVec.setWidth_eq_extractLsb' (by decide : 5 ≤ 6)]
  rfl

theorem inLocker_eq_true {a n : Nat} (h : a + n ≤ 2 ^ 24) : inLocker a n = true := decide_eq_true h

theorem inLocker_eq_false {a n : Nat} (h : 2 ^ 24 < a + n) : inLocker a n = false := decide_eq_false (Nat.not_le.mpr h)

/-- What a store to `n` bytes of the locker leaves of the Bight's state. -/
def StoredPost (addr n : Nat) (byte : Nat → Byte) (x a : BightArch) : Prop :=
  (∀ k < n, a.locker.byte (addr + k) = byte k) ∧ (∀ p, (p < addr ∨ addr + n ≤ p) → a.locker.byte p = x.locker.byte p)
    ∧ { a with locker := x.locker, serve := x.serve } = x

section Ops

variable {f : VectorF} {cap : Cap} (x : BightArch)

/-! VLD and VST -/

/-- Lane `l` of 2,048 locker bytes. -/
def ldLane (x : BightArch) (addr l : Nat) : Lane :=
  ⟨(x.locker.byte (addr + 4 * l + 3) ++ x.locker.byte (addr + 4 * l + 2) ++ x.locker.byte (addr + 4 * l + 1) ++ x.locker.byte (addr + 4 * l) : BitVec 32),
    x.locker.mark (addr / 16 + l / 4)⟩

theorem vecLd_bad (h : inLocker (vecAddr cap) 2048 = false) : vecLd f cap x = vecBad cap x := by
  simp [vecLd, h]

/-- VLD is a masked write of the locker's words. -/
theorem vecLd_spec (h : inLocker (vecAddr cap) 2048 = true) :
    (vecLd f cap x).seen = .clean ∧ LaneWrite f true (ldLane x (vecAddr cap)) x (vecLd f cap x).arch := by
  have heq : ∃ lanes : Nat → Lane, (∀ l < 512, lanes l = ldLane x (vecAddr cap) l) ∧ vecLd f cap x = vecWrite f x true false lanes never never := by
    refine ⟨_, fun l hl => ?_, by unfold vecLd; simp only [h, Bool.not_true, Bool.false_eq_true, if_false]; rfl⟩
    simp only [ldLane, Mem.getD_window _ _ (show 4 * l + 3 < 2048 by omega), Mem.getD_window _ _ (show 4 * l + 2 < 2048 by omega),
      Mem.getD_window _ _ (show 4 * l + 1 < 2048 by omega), Mem.getD_window _ _ (show 4 * l < 2048 by omega), Nat.add_assoc]
  obtain ⟨lanes, hlanes, heq⟩ := heq
  rw [heq]
  exact ⟨rfl, (laneWrite_vecWrite f x true false lanes).congr (fun l hl _ => hlanes l hl)⟩

/-- Byte `k` of what VST stores: that of an active lane, else what the locker holds. -/
def stByte (f : VectorF) (x : BightArch) (addr k : Nat) : Byte :=
  if laneOn f x (k / 4) then BitVec.ofNat 8 ((x.lane f.vd.toNat (k / 4)).val.toNat / 256 ^ (k % 4)) else x.locker.byte (addr + k)

theorem vecSt_bad (h : inLocker (vecAddr cap) 2048 = false) : vecSt f cap x = vecBad cap x := by
  simp [vecSt, h]

theorem vecSt_spec (h : inLocker (vecAddr cap) 2048 = true) :
    (vecSt f cap x).seen = .clean ∧ StoredPost (vecAddr cap) 2048 (stByte f x (vecAddr cap)) x (vecSt f cap x).arch := by
  unfold vecSt
  simp only [h, Bool.not_true, Bool.false_eq_true, if_false, true_and]
  refine ⟨fun k hk => ?_, fun p hp => Mem.byte_write_out _ _ _ _ _ _ hp, rfl⟩
  rw [Mem.byte_write_in _ _ _ _ _ _ hk, Mem.getD_window _ _ hk, activeLane_eq f x (show k / 4 < 512 by omega)]
  rfl

/-! VBLK.ST and VBLK.LD -/

/-- The tile that VBLK.ST stores. -/
def blkTile (f : VectorF) (x : BightArch) : TileOut :=
  convertTile (auxFmt f) (if auxFmt f = .int8 then f.aux.toNat / 8 % 4 else 0) (fun r c => (blkLane f x r c).src)

theorem vecBlkSt_bad (h : inLocker (vecAddr cap) (fmtRecord (auxFmt f)) = false ∨ f.aux.toNat / 8 % 4 = 3) : vecBlkSt f cap x = vecBad cap x := by
  rcases h with h | h <;> simp [vecBlkSt, h]

/-- VBLK.ST writes the tile record of its registers, with status bits. -/
theorem vecBlkSt_spec (h : inLocker (vecAddr cap) (fmtRecord (auxFmt f)) = true) (hscope : f.aux.toNat / 8 % 4 ≠ 3) :
    ∃ w : Word16, vecBlkSt f cap x = ⟨(putTile x (vecAddr cap) (blkTile f x)).orServe w, .clean⟩ := by
  have hregs : ∀ r c, r < 128 → c < 128 →
      (((Array.ofFn (fun i : Fin 16384 => x.lane (f.vd.toNat + i.val / 512) (i.val % 512)))[512 * (r / 4) + 128 * (r % 4) + c]?).getD Lane.zero).src
        = (blkLane f x r c).src := fun r c hr hc => by
    rw [getD_ofFn_getElem? (fun i => x.lane (f.vd.toNat + i / 512) (i % 512)) Lane.zero (by omega), blkLane,
      show (512 * (r / 4) + 128 * (r % 4) + c) / 512 = r / 4 by omega, show (512 * (r / 4) + 128 * (r % 4) + c) % 512 = 128 * (r % 4) + c by omega]
  unfold vecBlkSt
  simp only [h, hscope, Bool.not_true, Bool.or_false, decide_false, Bool.false_eq_true, if_false]
  rw [convertTile_congr _ _ hregs]
  exact ⟨_, rfl⟩

theorem vecBlkLd_bad (h : inLocker (vecAddr cap) (fmtRecord (auxFmt f)) = false) : vecBlkLd f cap x = vecBad cap x := by
  simp [vecBlkLd, h]

/-- Beside vector registers, a write of them changes the status word that takes its bits alone. -/
theorem setVs_frame (r n : Nat) (lanes : Nat → Nat → Lane) (w : Word16) :
    { (x.setVs r n lanes).orServe w with vregs := x.vregs, serve := x.serve } = x := by
  rw [setVs_eq]
  rfl

theorem setVs_frame_lay (r n : Nat) (lanes : Nat → Nat → Lane) (w : Word16) :
    { (x.setVs r n lanes).orLay w with vregs := x.vregs } = { x with lay := x.lay ||| w } := by
  rw [setVs_eq]
  rfl

@[simp] theorem BightArch.lane_orLay (a : BightArch) (w : Word16) (r l : Nat) : (a.orLay w).lane r l = a.lane r l := rfl

theorem lane_setVs32 (r : Nat) (lanes : Nat → Nat → Lane) {j l : Nat} (hj : j < 32) (hl : l < 512) : (x.setVs r 32 lanes).lane (r + j) l = lanes j l :=
  lane_setVs x r (by decide) lanes hj hl

/-- VBLK.LD writes the lanes of the tile record to 32 registers, with status bits. -/
theorem vecBlkLd_spec (h : inLocker (vecAddr cap) (fmtRecord (auxFmt f)) = true) :
    (vecBlkLd f cap x).seen = .clean
    ∧ (∀ j l, j < 32 → l < 512 → (vecBlkLd f cap x).arch.lane (f.vd.toNat + j) l
        = (lockerTile x (auxFmt f) (vecAddr cap)).lane ((512 * j + l) / 128) (l % 128))
    ∧ { (vecBlkLd f cap x).arch with vregs := x.vregs, serve := x.serve } = x := by
  unfold vecBlkLd
  simp only [h, Bool.not_true, Bool.false_eq_true, if_false, true_and]
  refine ⟨fun j l hj hl => ?_, setVs_frame ..⟩
  rw [BightArch.lane_orServe, lane_setVs32 _ _ _ hj hl,
    getD_ofFn_getElem? (fun n => (lockerTile x (auxFmt f) (vecAddr cap)).lane (n / 128) (n % 128)) Lane.zero (by omega),
    show (512 * j + l) % 128 = l % 128 by omega]

/-! VSLOT -/

/-- The slot that VSLOT reads. -/
def auxSlot (f : VectorF) : Fin 8 := ⟨f.aux.toNat % 8, Nat.mod_lt _ (by decide)⟩

/-- A FREE slot reads as +0.0 and leaves SLOT_NOT_OPEN. -/
theorem vecSlot_free (h : x.slots[auxSlot f].state = .free) :
    vecSlot f x = ⟨(x.setVs f.vd.toNat 32 (fun _ _ => Lane.zero)).orLay lsSlotNotOpen, .clean⟩ := by
  have h' : (x.slot ⟨f.aux.toNat % 8, Nat.mod_lt _ (by decide)⟩).state = .free := h
  unfold vecSlot
  simp only [h']

/-- Any other slot is written to 32 registers, with status bits. -/
theorem vecSlot_held (h : x.slots[auxSlot f].state ≠ .free) :
    ∃ (lanes : Nat → Nat → Lane) (w : Word16), vecSlot f x = ⟨(x.setVs f.vd.toNat 32 lanes).orServe w, .clean⟩
      ∧ ∀ r c, r < 128 → c < 128 → lanes (r / 4) (128 * (r % 4) + c) = x.slots[auxSlot f].cell r c := by
  have h' : (x.slot ⟨f.aux.toNat % 8, Nat.mod_lt _ (by decide)⟩).state ≠ .free := h
  unfold vecSlot
  dsimp only
  split
  · next hfree => exact absurd hfree h'
  · refine ⟨_, _, rfl, fun r c hr hc => ?_⟩
    rw [show 4 * (r / 4) + (128 * (r % 4) + c) / 128 = r by omega, show (128 * (r % 4) + c) % 128 = c by omega, Slot.getD_window _ hr hc]
    rfl

end Ops

section Rows

variable {f : VectorF} {s : State} (h : QueueReady s f.b) (hh : HitchReady s f.b f.waitEn f.waitH)
include h hh

theorem vslot_free_row (hfree : (s.arch f.b).slots[auxSlot f].state = .free) : Serves (.vslot f) s f False (fun x a =>
    (∀ j l, j < 32 → l < 512 → a.lane (f.vd.toNat + j) l = Lane.zero) ∧ { a with vregs := x.vregs } = { x with lay := x.lay ||| 0x0020#16 }) := by
  refine serves_vecQ h hh rfl (vecSlot_free _ (by rw [State.atIssue_slots]; exact hfree)) rfl ⟨fun j l hj hl => ?_, setVs_frame_lay ..⟩
  rw [BightArch.lane_orLay, lane_setVs32 _ _ _ hj hl]

theorem vslot_held_row (hheld : (s.arch f.b).slots[auxSlot f].state ≠ .free) : Serves (.vslot f) s f False (fun x a =>
    (∀ r c, r < 128 → c < 128 → a.lane (f.vd.toNat + r / 4) (128 * (r % 4) + c) = (s.arch f.b).slots[auxSlot f].cell r c)
      ∧ { a with vregs := x.vregs, serve := x.serve } = x) := by
  obtain ⟨lanes, w, hres, hlanes⟩ := vecSlot_held (s.atIssue f.b f.waitEn f.waitH) (f := f) (by rw [State.atIssue_slots]; exact hheld)
  rw [State.atIssue_slots] at hlanes
  refine serves_vecQ h hh rfl hres rfl ⟨fun r c hr hc => ?_, setVs_frame ..⟩
  rw [BightArch.lane_orServe, lane_setVs32 _ _ _ (show r / 4 < 32 by omega) (show 128 * (r % 4) + c < 512 by omega), hlanes r c hr hc]

theorem vblkSt_row (hrange : inLocker (vecAddr (vecCap s f false)) (fmtRecord (auxFmt f)) = true) (hscope : f.aux.toNat / 8 % 4 ≠ 3) :
    Serves (.vblkSt f) s f False
      (StoredPost (vecAddr (vecCap s f false)) (fmtRecord (auxFmt f)) (tileByte (blkTile f (s.atIssue f.b f.waitEn f.waitH)))) := by
  obtain ⟨w, hres⟩ := vecBlkSt_spec (cap := vecCap s f false) (s.atIssue f.b f.waitEn f.waitH) hrange hscope
  exact serves_vecQ h hh rfl hres rfl ⟨fun k hk => putTile_byte_in _ _ (blkTile f _) hk, fun p hp => putTile_byte_out _ _ (blkTile f _) hp, rfl⟩

end Rows

/-- Settles O19: each instruction by its range; a load as a masked write or 32 registers, a store by the bytes that it leaves. -/
theorem vectorLocker : Obligations.VectorLocker := by
  unfold Obligations.VectorLocker
  refine ⟨fun f s h hh => ?_, fun f s h hh => ⟨vslot_free_row h hh, vslot_held_row h hh⟩⟩
  intro x at_ fm stored bad
  have haddr : vecAddr (vecCap s f false) = at_ := vecAddr_vecCap s f false
  have hinside : ∀ n, at_ + n ≤ 2 ^ 24 → inLocker (vecAddr (vecCap s f false)) n = true := fun n hn => by
    rw [haddr]
    exact inLocker_eq_true hn
  have hpast : ∀ n, 2 ^ 24 < at_ + n → inLocker (vecAddr (vecCap s f false)) n = false := fun n hn => by
    rw [haddr]
    exact inLocker_eq_false hn
  refine ⟨fun hin => ⟨?_, ?_⟩, fun hout => ⟨?_, ?_⟩, fun hin => ⟨fun hscope => ?_, ?_⟩, fun hout => ?_, fun hout => ?_⟩
  · have hspec := vecLd_spec (f := f) (cap := vecCap s f false) x (hinside _ hin)
    rw [haddr] at hspec
    have hrow : Serves (.vld f) s f False (LaneWrite f true (ldLane x at_)) := serves_vecQ h hh rfl rfl hspec.1 hspec.2
    exact hrow
  · have hspec := vecSt_spec (f := f) (cap := vecCap s f false) x (hinside _ hin)
    rw [haddr] at hspec
    have hrow : Serves (.vst f) s f False (StoredPost at_ 2048 (stByte f x at_)) := serves_vecQ h hh rfl rfl hspec.1 hspec.2
    exact hrow
  · exact serves_bad h hh rfl (fun x => vecLd_bad x (hpast _ hout))
  · exact serves_bad h hh rfl (fun x => vecSt_bad x (hpast _ hout))
  · have hrow := vblkSt_row h hh (hinside _ hin) hscope
    rw [haddr] at hrow
    exact hrow
  · obtain ⟨hseen, hlanes, hframe⟩ := vecBlkLd_spec (f := f) (cap := vecCap s f false) x (hinside _ hin)
    rw [haddr] at hlanes
    exact serves_vecQ h hh rfl rfl hseen ⟨hlanes, hframe⟩
  · exact serves_bad h hh rfl (fun x => vecBlkSt_bad x (hout.imp_left (hpast _)))
  · exact serves_bad h hh rfl (fun x => vecBlkLd_bad x (hpast _ hout))

end Sys2Proof.Machine

/-!
O21, the matrix instructions on a slot (R62 to R68): LAY.OPEN and LAY.DISCARD by the slot that they leave, and the entry of a slot into DRAINING.
-/

namespace Sys2Proof.Machine

/-! LAY.OPEN (R62, R63, R67) -/

section Open

variable {f : SlotF} {cap : Cap} (x : BightArch)

/-- SLOT_REOPENED of an OPEN slot that LAY.OPEN opens again (R66). -/
def reopened (f : SlotF) (x : BightArch) : Word16 := if x.slots[f.slot].state = .opened then x.lay ||| 0x0040#16 else x.lay

theorem layOpen_bad (h : 2 ≤ f.src.toNat ∨ (f.src = 1#2 ∧ inLocker (slotAddr cap) 65536 = false)) :
    layOpen f cap x = ⟨x.orLay lsBadEncoding, .clean⟩ := by
  rw [layOpen, if_pos (h.imp_right (fun hs => ⟨hs.1, by rw [hs.2]; rfl⟩))]

/-- The Bight with SLOT_REOPENED where it is due. -/
theorem ite_orLay_reopened : (if (x.slot f.slot).state = .opened then x.orLay lsSlotReopened else x) = { x with lay := reopened f x } := by
  unfold reopened
  by_cases h : x.slots[f.slot].state = .opened
  · rw [if_pos h, if_pos (show (x.slot f.slot).state = .opened from h)]
    rfl
  · rw [if_neg h, if_neg (show ¬ (x.slot f.slot).state = .opened from h)]

theorem layOpen_zeros (h : f.src = 0#2) : layOpen f cap x = ⟨({ x with lay := reopened f x } : BightArch).setSlot f.slot (Slot.zero f.type), .clean⟩ := by
  have hok : ¬ (2 ≤ f.src.toNat ∨ (f.src = 1#2 ∧ (!inLocker (slotAddr cap) 65536) = true)) := by simp [h]
  rw [layOpen, if_neg hok]
  simp only [ite_orLay_reopened, if_neg (show ¬ f.src = 1#2 by rw [h]; decide)]

/-- An element of a slot image at a locker address (R67). -/
theorem loadImage_cell {m : Mem} (hm : ∀ e ∈ m.marks, e.2 = .clean) (int : Bool) (addr : Nat) {i j : Nat} (hi : i < 128) (hj : j < 128) :
    (loadImage int m addr).cell i j
      = ⟨BitVec.ofNat 32 ((List.range 4).foldr (fun k n => (m.byte (addr + 4 * tileIndex i j + k)).toNat + 256 * n) 0), .clean⟩ := by
  have hn := tileIndex_lt hi hj
  unfold loadImage Slot.cell
  simp only [SMap.get_gen _ _ _ hn, Mem.mark_clean hm]
  rw [Mem.getD_window _ _ (show 4 * tileIndex i j + 3 < 65536 by omega), Mem.getD_window _ _ (show 4 * tileIndex i j + 2 < 65536 by omega),
    Mem.getD_window _ _ (show 4 * tileIndex i j + 1 < 65536 by omega), Mem.getD_window _ _ (show 4 * tileIndex i j < 65536 by omega)]
  simp only [← Nat.add_assoc]
  exact congrArg (fun w => (⟨w, .clean⟩ : Lane)) (word_of_bytes (fun k => m.byte (addr + 4 * tileIndex i j + k)))

/-- An image of unpoisoned codewords holds no poison. -/
theorem loadImage_worst {m : Mem} (hm : ∀ e ∈ m.marks, e.2 = .clean) (int : Bool) (addr : Nat) : (loadImage int m addr).worst = .clean := by
  refine foldl_worse_clean (fun e : Nat × Lane => e.2.mark) _ (fun e he => ?_)
  simp only [loadImage, SMap.gen, List.mem_filterMap] at he
  obtain ⟨n, -, hn⟩ := he
  split at hn
  · cases hn
  · cases hn
    exact Mem.mark_clean hm _

/-- Data without poison leaves POISON_SEEN as it is. -/
theorem orLay_poison_clean (a : BightArch) : a.orLay (stIf (Mark.isBad .clean) stPoison) = a :=
  congrArg (fun w => ({ a with lay := w } : BightArch)) BitVec.or_zero

theorem layOpen_image (h : f.src = 1#2) (hin : inLocker (slotAddr cap) 65536 = true) (hm : ∀ e ∈ x.locker.marks, e.2 = .clean) :
    layOpen f cap x = ⟨({ x with lay := reopened f x } : BightArch).setSlot f.slot (loadImage f.type x.locker (slotAddr cap)), .clean⟩ := by
  have hok : ¬ (2 ≤ f.src.toNat ∨ (f.src = 1#2 ∧ (!inLocker (slotAddr cap) 65536) = true)) := by simp [h, hin]
  rw [layOpen, if_neg hok]
  simp only [ite_orLay_reopened, if_pos h, loadImage_worst hm, orLay_poison_clean]

/-- LAY.DISCARD leaves the slot FREE, and nothing else changed. -/
theorem layDiscard_spec : (layDiscard f x).seen = .clean ∧ { (layDiscard f x).arch with slots := x.slots } = x
    ∧ (layDiscard f x).arch.slots[f.slot].state = .free ∧ ∀ n : Fin 8, n ≠ f.slot → (layDiscard f x).arch.slots[n] = x.slots[n] := by
  unfold layDiscard
  split
  · next hfree => exact ⟨rfl, rfl, hfree, fun _ _ => rfl⟩
  · refine ⟨rfl, rfl, ?_, fun n hn => (slots_setSlot x f.slot n _).trans (if_neg hn)⟩
    rw [slots_setSlot, if_pos rfl]
    rfl

end Open

/-- What LAY.OPEN leaves of the Bight's state: the slot, OPEN, of its TYPE and with the given elements. -/
def OpenPost (f : SlotF) (cells : BightArch → Slot → Prop) (x a : BightArch) : Prop :=
  { a with slots := x.slots } = { x with lay := reopened f x } ∧ a.slots[f.slot].state = .opened ∧ a.slots[f.slot].int = f.type
    ∧ cells x a.slots[f.slot] ∧ ∀ n : Fin 8, n ≠ f.slot → a.slots[n] = x.slots[n]

/-- The elements of a slot are zero. -/
def ZeroCells (_ : BightArch) (y : Slot) : Prop := ∀ i j, y.cell i j = Lane.zero

/-- The elements of a slot are those of the image at a locker address (R67). -/
def ImageCells (addr : Nat) (x : BightArch) (y : Slot) : Prop :=
  ∀ i j, i < 128 → j < 128 → y.cell i j
    = ⟨BitVec.ofNat 32 ((List.range 4).foldr (fun k n => (x.locker.byte (addr + 4 * tileIndex i j + k)).toNat + 256 * n) 0), .clean⟩

theorem openPost_setSlot {f : SlotF} {cells : BightArch → Slot → Prop} {x : BightArch} {y : Slot} (hstate : y.state = .opened)
    (hint : y.int = f.type) (hcells : cells x y) :
    OpenPost f cells x (({ x with lay := reopened f x } : BightArch).setSlot f.slot y) := by
  have hslot : (({ x with lay := reopened f x } : BightArch).setSlot f.slot y).slots[f.slot] = y := (slots_setSlot _ _ _ _).trans (if_pos rfl)
  refine ⟨rfl, ?_, ?_, ?_, fun n hn => (slots_setSlot _ _ _ _).trans (if_neg hn)⟩
  · rw [hslot, hstate]
  · rw [hslot, hint]
  · rw [hslot]
    exact hcells

/-! Instructions on a slot that is not DRAINING -/

section Slots

variable {f : SlotF} {s : State} {i : Instr} {set : Option (BitVec 5)} {desc : Option (BitVec 5 × Nat)} {foot : Cap → Foot} {skip : Cap → Bool}
  {effect : Sys → Nat → Cap → Sys}

/-- What a matrix instruction on a slot captures at dispatch. -/
def slotCap (s : State) (f : SlotF) (desc : Option (BitVec 5 × Nat)) : Cap :=
  capOf (s.sys.bight f.b.val) (slotQ f none desc (fun _ => Foot.none) (fun _ => false) (fun y _ _ => y))

theorem slotQ_ready (hs : (s.arch f.b).slots[f.slot].state ≠ .draining) :
    (slotQ f set desc foot skip effect).ready (atDispatch s.sys f.b.val false) f.b.val (slotCap s f desc) = true := by
  have hslot : ((atDispatch s.sys f.b.val false).bight f.b.val).arch.slot f.slot = (s.arch f.b).slots[f.slot] := by
    simp only [atDispatch, Sys.bight_setBight]
    rfl
  simp only [slotQ, hslot, bne_iff_ne.mpr hs, Bool.or_true]

variable (h : QueueReady s f.b) (hh : HitchReady s f.b f.waitEn f.waitH) (hs : (s.arch f.b).slots[f.slot].state ≠ .draining)
include h hh hs

/-- LAY.OPEN and LAY.DISCARD complete with what their operation gives. -/
theorem queued_slotQ {g : Cap → BightArch → VRes}
    (hexec : exec i s = s.onSys (fun y => y.queueOp i f.b.val (slotQ f (optHitch f.setEn f.setH) desc foot skip (fun y b cap => y.onVec b cap g))))
    {r : VRes} (hres : g (slotCap s f desc) (s.atIssue f.b f.waitEn f.waitH) = r) (hclean : r.seen = .clean)
    {poisoned : Prop} {post : BightArch → BightArch → Prop} (hpost : post (s.atIssue f.b f.waitEn f.waitH) r.arch) :
    Queued i s f.b f.waitEn f.waitH f.setEn f.setH .matrix poisoned post :=
  queued_onVec (q := slotQ f (optHitch f.setEn f.setH) desc foot skip (fun y b cap => y.onVec b cap g)) (push := false) h hh hexec rfl rfl
    (fun _ => rfl) (fun hp => nomatch hp) (slotQ_ready hs) (fun _ _ => rfl) hres (by rw [hclean]; rfl) hpost

end Slots

/-! LAY.DRAIN and LAY.SPILL (R62, R64) -/

section Drain

variable {f : SlotF} {spill : Bool}

/-- The item that joins the drain pipeline. -/
def drainItem (f : SlotF) (cap : Cap) (spill : Bool) : DrainItem :=
  { seq := cap.seq, slot := f.slot, spill := spill, addr := slotAddr cap, desc := cap.desc, descMark := cap.descMark, setH := optHitch f.setEn f.setH }

/-- LAY.DRAIN and LAY.SPILL as instructions of a queue. -/
def drainQ (f : SlotF) (desc : Option (BitVec 5 × Nat)) (foot : Cap → Foot) (spill : Bool) : QOp :=
  slotQ f none desc foot (fun _ => false) (fun s b cap => s.enterDrain b f cap spill)

variable {y : Sys} {b : Fin 80} {cap : Cap} (hr : (y.bight b.val).region = none)
include hr

/-- A FREE slot leaves SLOT_NOT_OPEN and the set. -/
theorem enterDrain_free (hs : (y.bight b.val).arch.slots[f.slot].state = .free) :
    y.enterDrain b.val f cap spill = y.withArch b.val (((y.bight b.val).arch.orLay lsSlotNotOpen).andSet f.setEn f.setH cap.seq .matrix) := by
  rw [Sys.enterDrain, if_pos (show ((y.bight b.val).arch.slot f.slot).state = .free from hs), Sys.onArch_none hr, setHitchOpt_eq_andSet]
  rfl

/-- Any other slot becomes DRAINING and its item joins the pipeline. -/
theorem enterDrain_held (hs : (y.bight b.val).arch.slots[f.slot].state ≠ .free) :
    y.enterDrain b.val f cap spill = y.setBight b.val { y.bight b.val with
      arch := layEnterDrain f (y.bight b.val).arch, drains := (y.bight b.val).drains ++ [drainItem f cap spill] } := by
  rw [Sys.enterDrain, if_neg (show ¬ ((y.bight b.val).arch.slot f.slot).state = .free from hs), Sys.onArch_none hr]
  simp only [Sys.bight_setBight, Sys.setBight_setBight]
  rfl

end Drain

section NoSet

variable {s : State} {b : Fin 80} {waitEn : Bool} {waitH : BitVec 5} {q : QOp} {i : Instr}

/-- What takes effect on the units where a queue instruction does, by the Bight that it leaves. -/
theorem atEffect_setBight (y : Sys) (b : Fin 80) (q : QOp) (push : Bool) (x : Bight) : (atEffect y b.val q push).setBight b.val x = y.setBight b.val x :=
  Sys.setBight_setBight ..

/-- An instruction that makes its set later, or none, leaves the units as its effect does. -/
theorem queueOp_of_noSet (h : QueueReady s b) (hh : HitchReady s b waitEn waitH) (hwait : q.wait = optHitch waitEn waitH) (hset : q.set = none)
    (hpush : ∀ c, q.push c = false) (hready : q.ready (atDispatch s.sys b.val false) b.val (capOf (s.sys.bight b.val) q) = true) {y : Sys}
    (heff : q.effect (atEffect s.sys b.val q false) b.val (capOf (s.sys.bight b.val) q) = (y, none)) (hregion : (y.bight b.val).region = none) :
    s.sys.queueOp i b.val q = { y with replay := none } := by
  have hfree : ∀ n, q.wait = some n → (s.arch b).hitch n = true := fun n hn => by
    rw [hwait] at hn
    cases waitEn with
    | false => cases hn
    | true => cases hn; exact hh rfl
  rw [Sys.queueOp_ready h i q false hpush (fun hp => nomatch hp) hfree hready, heff]
  dsimp only
  rw [Sys.onArch_none hregion, hset]
  exact congrArg (fun z : Sys => { z with replay := none }) (Sys.setBight_self y b)

end NoSet

section DrainRows

variable {f : SlotF} {s : State} {i : Instr} {desc : Option (BitVec 5 × Nat)} {foot : Cap → Foot} {spill : Bool}
  (h : QueueReady s f.b) (hh : HitchReady s f.b f.waitEn f.waitH)
  (hexec : exec i s = s.onSys (fun y => y.queueOp i f.b.val (drainQ f desc foot spill)))
include h hh hexec

theorem drainQ_free_row (hs : (s.atIssue f.b f.waitEn f.waitH).slots[f.slot].state = .free) : ∃ t, exec i s = .next t ∧ OnlyBight s t f.b
    ∧ t.arch f.b = ((s.atIssue f.b f.waitEn f.waitH).orLay lsSlotNotOpen).andSet f.setEn f.setH (s.sys.bight f.b.val).nextSeq .matrix := by
  have ⟨_, _, _, _, hregion, _⟩ := h
  have harch := atEffect_arch (s := s) (b := f.b) (push := false) (q := drainQ f desc foot spill) (waitEn := f.waitEn) (waitH := f.waitH) rfl
  have hkeep : ((atEffect s.sys f.b.val (drainQ f desc foot spill) false).bight f.b.val).region = none := by
    simpa [atEffect] using hregion
  have hdone : Queued i s f.b f.waitEn f.waitH false 0#5 .matrix False
      (fun x a => a = (x.orLay lsSlotNotOpen).andSet f.setEn f.setH (s.sys.bight f.b.val).nextSeq .matrix) := by
    refine queued_of_effect (q := drainQ f desc foot spill) (push := false) h hh hexec rfl rfl (fun _ => rfl) (fun hp => nomatch hp)
      (slotQ_ready ?_) ?_ rfl
    · rw [← State.atIssue_slots s f.b f.waitEn f.waitH, hs]
      exact nofun
    · have heff := enterDrain_free (f := f) (cap := slotCap s f desc) (spill := spill) hkeep (by rw [harch]; exact hs)
      rw [harch] at heff
      exact congrArg (fun y => (y, none)) heff
  obtain ⟨t, a, hexec', ha, harch', hkept⟩ := hdone
  exact ⟨t, hexec', (hkept id).1, harch'.trans ha⟩

theorem drainQ_opened_row (hs : (s.atIssue f.b f.waitEn f.waitH).slots[f.slot].state = .opened) : ∃ t, exec i s = .next t ∧ OnlyBight s t f.b
    ∧ (t.sys.bight f.b.val).drains = [drainItem f (slotCap s f desc) spill] ∧ t.arch f.b = layEnterDrain f (s.atIssue f.b f.waitEn f.waitH) := by
  have harch := atEffect_arch (s := s) (b := f.b) (push := false) (q := drainQ f desc foot spill) (waitEn := f.waitEn) (waitH := f.waitH) rfl
  have ⟨_, _, _, hdrains, hregion, _⟩ := h
  have heff := enterDrain_held (f := f) (cap := slotCap s f desc) (spill := spill) (b := f.b) (y := atEffect s.sys f.b.val (drainQ f desc foot spill) false)
    (by simpa [atEffect] using hregion) (by rw [harch]; exact fun hfree => nomatch hs.symm.trans hfree)
  rw [harch, atEffect_setBight] at heff
  have hrun := queueOp_of_noSet h hh (i := i) (q := drainQ f desc foot spill) rfl rfl (fun _ => rfl)
    (slotQ_ready (by rw [← State.atIssue_slots s f.b f.waitEn f.waitH, hs]; exact nofun)) (congrArg (fun y => (y, none)) heff)
    (by simpa [atEffect] using hregion)
  obtain ⟨honly, hbight⟩ := onlyBight_setBight _ hrun
  refine ⟨_, hexec, honly, ?_, congrArg Bight.arch hbight⟩
  refine (congrArg Bight.drains hbight).trans ?_
  simp [atEffect, hdrains]

end DrainRows

/-- Settles O21: LAY.OPEN by its source, LAY.DISCARD, and the entry into DRAINING by the state of the slot. -/
theorem matrixSlots : Obligations.MatrixSlots := by
  unfold Obligations.MatrixSlots
  refine ⟨fun f s h hh hs => ?_, fun f s spill h hh => ?_⟩
  · intro at_ done reopened
    refine ⟨fun hbad => ?_, fun hzeros => ?_, fun himage hin hclean => ?_, ?_⟩
    · exact queued_slotQ h hh hs rfl (layOpen_bad _ (hbad.imp_right (And.imp_right inLocker_eq_false))) rfl rfl
    · have hrow : done (.layOpen f) (OpenPost f ZeroCells) :=
        queued_slotQ h hh hs rfl (layOpen_zeros _ hzeros) rfl (openPost_setSlot rfl rfl (fun _ _ => rfl))
      exact hrow
    · have hm : ∀ e ∈ (s.atIssue f.b f.waitEn f.waitH).locker.marks, e.2 = .clean := by
        rw [State.atIssue_locker]
        exact hclean
      have hrow : done (.layOpen f) (OpenPost f (ImageCells at_)) := queued_slotQ h hh hs rfl (layOpen_image _ himage (inLocker_eq_true hin) hm) rfl
        (openPost_setSlot rfl rfl (fun i j hi hj => loadImage_cell hm _ _ hi hj))
      exact hrow
    · obtain ⟨hseen, hpost⟩ := layDiscard_spec (f := f) (s.atIssue f.b f.waitEn f.waitH)
      exact queued_slotQ h hh hs rfl rfl hseen hpost
  · intro i x
    have hexec : ∃ desc foot, exec i s = s.onSys (fun y => y.queueOp i f.b.val (drainQ f desc foot spill)) := by
      cases spill
      · exact ⟨_, _, rfl⟩
      · exact ⟨_, _, rfl⟩
    obtain ⟨desc, foot, hexec⟩ := hexec
    refine ⟨drainQ_free_row h hh hexec, fun hs => ?_⟩
    obtain ⟨t, hrun, honly, hdrains, harch⟩ := drainQ_opened_row h hh hexec hs
    exact ⟨t, _, hrun, honly, hdrains, harch, rfl, rfl, rfl, rfl⟩

end Sys2Proof.Machine

/-!
O22, what a drain does outside its Bight (R119, R432): the contribution of statistics, a write to partition memory or to the step region, leaves
the Bights; consumed poison leaves all of its Bight but the poison record.
-/

namespace Sys2Proof.Machine

/-- Steps that each leave the Bights leave them one after the other. -/
theorem foldl_bights {α : Type} {g : Sys → α → Sys} (h : ∀ y e, (g y e).bights = y.bights) (l : List α) (y : Sys) : (l.foldl g y).bights = y.bights := by
  induction l generalizing y with
  | nil => rfl
  | cons e t ih => rw [List.foldl_cons, ih, h]

section Writes

variable (y : Sys)

@[simp] theorem Sys.noteFail_bights (tier hank level index : Nat) : (y.noteFail tier hank level index).bights = y.bights := by
  unfold Sys.noteFail
  split <;> rfl

@[simp] theorem Sys.noteSegment_bights (tier hank seg : Nat) : (y.noteSegment tier hank seg).bights = y.bights := by
  unfold Sys.noteSegment
  exact foldl_bights (fun y (e : Nat × Nat) => y.noteFail_bights tier hank e.1 e.2) _ y

@[simp] theorem Sys.poisonLine_bights (tier hank line o n : Nat) (m : Mark) : (y.poisonLine tier hank line o n m).bights = y.bights := by
  unfold Sys.poisonLine Sys.forMemory
  split <;> rfl

@[simp] theorem Sys.event_bights (p code : Nat) (args : Bytes) : (y.event p code args).bights = y.bights := by
  unfold Sys.event
  dsimp only
  split <;> rfl

@[simp] theorem Sys.exhaust_bights (tier hank page : Nat) : (y.exhaust tier hank page).bights = y.bights := by
  unfold Sys.exhaust
  dsimp only
  split
  · rw [Sys.event_bights]
    rfl
  · rfl

@[simp] theorem Sys.lineEffects_bights (tier hank line : Nat) (o : LineOut) : (y.lineEffects tier hank line o).bights = y.bights := by
  cases o with
  | exhausted => exact (Sys.exhaust_bights ..).trans (Sys.poisonLine_bights ..)
  | refused => exact Sys.poisonLine_bights ..
  | done => rfl
  | failed => rfl
  | reencrypted => rfl
  | discarded => rfl

@[simp] theorem Sys.fitThimble_bights (fuel tier hank page : Nat) : (Sys.fitThimble fuel tier hank page y).bights = y.bights := by
  induction fuel generalizing y with
  | zero => rfl
  | succ fuel ih =>
    unfold Sys.fitThimble
    split
    · rfl
    · split
      · exact (ih _).trans (Sys.setRegion_bights ..)
      · rfl

@[simp] theorem Sys.writeLine_bights (tier hank line : Nat) : (y.writeLine tier hank line).1.bights = y.bights :=
  (Sys.lineEffects_bights ..).trans ((Sys.fitThimble_bights ..).trans (Sys.setRegion_bights ..))

@[simp] theorem Sys.writeSlice_bights (h l k n i : Nat) (whole : Bool) (arr : Array Byte) (mk : Nat → Mark) :
    (y.writeSlice h l k n i whole arr mk).bights = y.bights := by
  unfold Sys.writeSlice
  dsimp only
  split
  · exact Sys.noteSegment_bights ..
  · split <;> rfl

@[simp] theorem Sys.pokeRun_bights (k n i : Nat) (arr : Array Byte) (mk : Nat → Mark) : (y.pokeRun k n i arr mk).bights = y.bights := by
  unfold Sys.pokeRun
  dsimp only
  split
  · exact foldl_bights (fun y l => y.writeSlice_bights ..) _ y
  · refine foldl_bights (fun y g => ?_) _ y
    split
    · exact Sys.noteSegment_bights ..
    · refine foldl_bights (fun y l => ?_) _ y
      have hline := y.writeLine_bights 1 (keyHank k) l
      split
      · next heq => exact (Sys.noteFail_bights ..).trans (by rw [heq] at hline; exact hline)
      · next heq =>
        rw [heq] at hline
        split
        · exact hline
        · exact hline
  · rfl

@[simp] theorem Sys.pokeRuns_bights (runs : List (Nat × Nat)) (arr : Array Byte) (b : Blob) : (y.pokeRuns runs arr b).bights = y.bights := by
  have hfold : ∀ (l : List (Nat × Nat)) (acc : Sys × Nat), (l.foldl (fun (acc : Sys × Nat) r =>
      (acc.1.pokeRun r.1 r.2 acc.2 arr (fun c => b.markOver (r.1 - acc.2) c), acc.2 + r.2)) acc).1.bights = acc.1.bights := fun l => by
    induction l with
    | nil => exact fun _ => rfl
    | cons r t ih => exact fun acc => (ih _).trans (Sys.pokeRun_bights ..)
  exact hfold runs (y, 0)

@[simp] theorem Sys.writePart_bights (p a : Nat) (b : Blob) : (y.writePart p a b).bights = y.bights := by
  unfold Sys.writePart
  split
  · rfl
  · exact Sys.pokeRuns_bights ..

/-- A contribution to statistics, performed or held in the step region, leaves the Bights. -/
theorem Sys.effect_stat_bights {b : Nat} (hr : (y.bight b).region = none) (seq size p : Nat) (x : StatSum) :
    (y.effect b seq size (.stat p x)).bights = y.bights := by
  have hperform : ∀ (z : Sys) (i : HeldItem), i.effect = .stat p x → (z.perform i).bights = z.bights := fun z i hi => by
    unfold Sys.perform
    rw [hi]
    exact Sys.writePart_bights ..
  unfold Sys.effect
  dsimp only
  split
  · exact hperform _ _ rfl
  · split
    · unfold Sys.addSigma
      split
      · rfl
      · exact hperform _ _ rfl
    · rw [hr]
      exact hperform _ _ rfl

theorem Sys.contribute_bights {b : Nat} (hr : (y.bight b).region = none) (seq : Nat) (xs : List StatSum) :
    (y.contribute b seq xs).bights = y.bights := by
  have hfold : ∀ (p : Nat) (l : List StatSum) (z : Sys), (z.bight b).region = none →
      (l.foldl (fun s x => s.effect b seq 256 (.stat p x)) z).bights = z.bights := fun p l => by
    induction l with
    | nil => exact fun _ _ => rfl
    | cons x t ih =>
      intro z hz
      have hstep := z.effect_stat_bights hz seq 256 p x
      exact (ih _ (by rw [Sys.bight, hstep]; exact hz)).trans hstep
  unfold Sys.contribute
  split
  · exact hfold _ xs y hr
  · rfl

end Writes

/-- Recording poison changes of its Bight what the poison record says alone. -/
theorem Sys.bight_saw (y : Sys) (b : Fin 80) (m : Mark) : ∃ seen, (y.saw b.val m).bight b.val = { y.bight b.val with seen := seen } := by
  unfold Sys.saw
  split
  · exact ⟨_, rfl⟩
  · dsimp only
    split
    · exact ⟨_, rfl⟩
    · split <;> split <;> exact ⟨_, by simp only [Sys.bight_setPart, Sys.bight_setCtx, Sys.bight_setBight, Sys.bight_logRec]; rfl⟩

end Sys2Proof.Machine

/-!
O22, the drain pipeline (R64, R67, R72, R76): the slot that it takes, and a spill image.
-/

namespace Sys2Proof.Machine

/-! The turn of the pipeline (R72) -/

theorem Sys.settle_of_not_ending {y : Sys} {b : Nat} (h : (y.bight b).ending = false) : y.settle b = y := by
  simp [Sys.settle, h]

/-- The units once the pipeline has taken a slot, before what the drain contributes and consumes. -/
def drained (y : Sys) (b : Fin 80) (rest : List DrainItem) (a : BightArch) : Sys :=
  y.setBight b.val { y.bight b.val with arch := a, drains := rest }

theorem drained_bight (y : Sys) (b : Fin 80) (rest : List DrainItem) (a : BightArch) :
    (drained y b rest a).bight b.val = { y.bight b.val with arch := a, drains := rest } := Sys.bight_setBight ..

section Turn

variable {b : Fin 80} {s : State} (hr : (s.sys.bight b.val).region = none) (hs : s.sys.sigmaOf b.val = none) (he : (s.sys.bight b.val).ending = false)

/-- Without a slot to drain, and with no drain in the matrix queue, nothing happens. -/
theorem exec_drainPipelineSlot_empty (hd : (s.sys.bight b.val).drains = []) (hw : ∀ h ∈ s.sys.waiting, h.bight ≠ some b.val) :
    exec (.drainPipelineSlot b) s = .next { s with sys := { s.sys with replay := none } } := by
  have hqueue : s.sys.waiting.any (fun h => h.bight == some b.val && h.eng == .matrix) = false := by
    rw [List.any_eq_false]
    intro h hh
    simp [hw h hh]
  show execDrainPipelineSlot b s = _
  unfold execDrainPipelineSlot
  rw [State.onSys_next]
  simp only [hd, hqueue, Bool.false_eq_true, if_false]

include hr hs

/-- The pipeline takes its oldest slot. -/
theorem exec_drainPipelineSlot_cons {d : DrainItem} {rest : List DrainItem} (hd : (s.sys.bight b.val).drains = d :: rest) :
    exec (.drainPipelineSlot b) s = .next { s with sys := { (((drained s.sys b rest (drainSlot d (s.arch b)).arch).contribute b.val d.seq
      (drainSlot d (s.arch b)).stats).saw b.val (drainSlot d (s.arch b)).seen).settle b.val with replay := none } } := by
  have hholds : s.sys.holds b.val d.seq = false := by simp [Sys.holds, Bight.inRegion, hr, hs]
  show execDrainPipelineSlot b s = _
  unfold execDrainPipelineSlot
  rw [State.onSys_next]
  simp only [hd, hholds, hr, Option.map_none, Bool.false_and, Bool.false_eq_true, if_false, drained, State.arch]

include he

/-- Whatever the drain contributes and consumes, the Bight has its result and the rest of the pipeline. -/
theorem drainPipelineSlot_arch {d : DrainItem} {rest : List DrainItem} (hd : (s.sys.bight b.val).drains = d :: rest) :
    ∃ t, exec (.drainPipelineSlot b) s = .next t ∧ (t.sys.bight b.val).drains = rest ∧ t.pending = s.pending ∧ t.fuses = s.fuses
      ∧ t.arch b = (drainSlot d (s.arch b)).arch := by
  generalize hdrain : drainSlot d (s.arch b) = r
  have hregion : ((drained s.sys b rest r.arch).bight b.val).region = none := by rw [drained_bight]; exact hr
  have hkeep : ((drained s.sys b rest r.arch).contribute b.val d.seq r.stats).bight b.val = { s.sys.bight b.val with arch := r.arch, drains := rest } := by
    rw [Sys.bight, Sys.contribute_bights _ hregion]
    exact drained_bight ..
  obtain ⟨seen, hseen⟩ := Sys.bight_saw ((drained s.sys b rest r.arch).contribute b.val d.seq r.stats) b r.seen
  rw [hkeep] at hseen
  have hsettle := Sys.settle_of_not_ending (y := ((drained s.sys b rest r.arch).contribute b.val d.seq r.stats).saw b.val r.seen) (b := b.val)
    (by rw [hseen]; exact he)
  have hexec := exec_drainPipelineSlot_cons hr hs hd
  rw [hdrain, hsettle] at hexec
  exact ⟨_, hexec, congrArg Bight.drains hseen, rfl, rfl, congrArg Bight.arch hseen⟩

/-- A drain that contributes nothing and consumes no poison changes nothing outside its Bight. -/
theorem drainPipelineSlot_only {d : DrainItem} {rest : List DrainItem} (hd : (s.sys.bight b.val).drains = d :: rest) {a : BightArch}
    (hres : drainSlot d (s.arch b) = ⟨a, [], .clean⟩) : ∃ t, exec (.drainPipelineSlot b) s = .next t ∧ OnlyBight s t b ∧ t.arch b = a := by
  have hnone : (drained s.sys b rest a).contribute b.val d.seq [] = drained s.sys b rest a := by
    unfold Sys.contribute
    split <;> rfl
  have hsettle := Sys.settle_of_not_ending (y := drained s.sys b rest a) (b := b.val) (by rw [drained_bight]; exact he)
  have hexec := exec_drainPipelineSlot_cons hr hs hd
  rw [hres, hnone, Sys.saw_of_clean _ _ Mark.isBad_clean, hsettle] at hexec
  obtain ⟨honly, hbight⟩ := onlyBight_setBight (s := s) { s.sys.bight b.val with arch := a, drains := rest } rfl
  exact ⟨_, hexec, honly, congrArg Bight.arch hbight⟩

end Turn

/-! The slot that the pipeline takes (R64, R67, R76) -/

/-- The outputs of a drain, before its slot becomes FREE and its set is made. -/
def drainOut (d : DrainItem) (x : BightArch) : DrainRes :=
  if d.spill then
    (if inLocker d.addr 65536 then ⟨{ x with locker := putImage x.locker d.addr (x.slot d.slot) }, [], .clean⟩
     else ⟨x.orLay lsBadEncoding, [], .clean⟩)
  else if d.descMark.isBad then ⟨x.orLay stPoison, [], d.descMark⟩
  else if ddUndefined d.desc || !allInLocker (ddReads d.desc ++ ddWrites d.desc) || !inLocker d.addr 128 then ⟨x.orLay lsBadEncoding, [], .clean⟩
  else drainTile d.desc x (x.slot d.slot)

section Slot

variable (d : DrainItem) (x : BightArch)

theorem setHitchOpt_eq_andSet_getD (h : Option (BitVec 5)) (seq : Nat) (eng : Engine) : x.setHitchOpt h seq eng = x.andSet h.isSome (h.getD 0#5) seq eng := by
  cases h <;> rfl

/-- The slot becomes FREE and the set is made. -/
theorem drainSlot_eq : drainSlot d x
    = { drainOut d x with arch := ((drainOut d x).arch.setSlot d.slot Slot.empty).andSet d.setH.isSome (d.setH.getD 0#5) d.seq .matrix } := by
  rw [← setHitchOpt_eq_andSet_getD]
  rfl

/-- A drain changes the locker and the status word alone, before its slot becomes FREE. -/
theorem drainTile_frame (desc : DrainDesc) (y : Slot) : { (drainTile desc x y).arch with locker := x.locker, lay := x.lay } = x := by
  unfold drainTile
  extract_lets w src es xs tile out out2 z stat en sums range seen st a₁ a₂ a₃
  have h₁ : { a₁ with locker := x.locker, lay := x.lay } = x := by
    unfold a₁
    split <;> rfl
  have h₂ : { a₂ with locker := x.locker, lay := x.lay } = x := by
    unfold a₂
    clear_value z
    cases z <;> exact h₁
  have h₃ : { a₃ with locker := x.locker, lay := x.lay } = x := by
    unfold a₃
    clear_value out2
    cases out2 <;> exact h₂
  exact h₃

theorem drainOut_frame : { (drainOut d x).arch with locker := x.locker, lay := x.lay } = x := by
  unfold drainOut
  split
  · split <;> rfl
  · split
    · rfl
    · split
      · rfl
      · exact drainTile_frame ..

theorem drainOut_spill_bad (hs : d.spill = true) (h : inLocker d.addr 65536 = false) : drainOut d x = ⟨x.orLay lsBadEncoding, [], .clean⟩ := by
  rw [drainOut, if_pos hs, if_neg (by simp [h])]

theorem drainOut_spill (hs : d.spill = true) (h : inLocker d.addr 65536 = true) :
    drainOut d x = ⟨{ x with locker := putImage x.locker d.addr (x.slot d.slot) }, [], .clean⟩ := by
  rw [drainOut, if_pos hs, if_pos h]

end Slot

/-- A spill image holds the bytes of each element (R67). -/
theorem putImage_byte_in (m : Mem) (addr : Nat) (y : Slot) {r c k : Nat} (hr : r < 128) (hc : c < 128) (hk : k < 4) :
    (putImage m addr y).byte (addr + 4 * tileIndex r c + k) = BitVec.ofNat 8 ((y.cell r c).val.toNat / 256 ^ k) := by
  have hn := tileIndex_lt hr hc
  unfold putImage
  rw [Nat.add_assoc, Mem.byte_write_in _ _ _ _ _ _ (show 4 * tileIndex r c + k < 65536 by omega), show (4 * tileIndex r c + k) / 4 = tileIndex r c by omega,
    show (4 * tileIndex r c + k) % 4 = k by omega]
  dsimp only
  rw [Slot.getD_window _ hr hc]
  rfl

theorem putImage_byte_out (m : Mem) (addr : Nat) (y : Slot) {p : Nat} (h : p < addr ∨ addr + 65536 ≤ p) : (putImage m addr y).byte p = m.byte p :=
  Mem.byte_write_out _ _ _ _ _ _ h

/-- What the pipeline leaves of its Bight, before the set of the drain. -/
def DrainPost (d : DrainItem) (x a : BightArch) : Prop :=
  a.slots = x.slots.set d.slot Slot.empty
    ∧ { a with slots := x.slots, locker := x.locker, lay := x.lay } = x
    ∧ (d.spill = true → d.addr + 65536 ≤ 2 ^ 24 → a.lay = x.lay
        ∧ (∀ r c k, r < 128 → c < 128 → k < 4 →
            a.locker.byte (d.addr + 4 * tileIndex r c + k) = BitVec.ofNat 8 ((x.slots[d.slot].cell r c).val.toNat / 256 ^ k))
        ∧ ∀ p, (p < d.addr ∨ d.addr + 65536 ≤ p) → a.locker.byte p = x.locker.byte p)
    ∧ (d.spill = true → 2 ^ 24 < d.addr + 65536 → a.locker = x.locker ∧ a.lay = x.lay ||| 0x0010#16)

theorem drainPost_drainOut (d : DrainItem) (x : BightArch) : DrainPost d x ((drainOut d x).arch.setSlot d.slot Slot.empty) := by
  have hframe := drainOut_frame d x
  refine ⟨?_, congrArg (fun z : BightArch => { z with slots := x.slots }) hframe, fun hs hin => ?_, fun hs hout => ?_⟩
  · have hslots : (drainOut d x).arch.slots = x.slots := (congrArg BightArch.slots hframe :)
    rw [BightArch.setSlot, hslots]
  · rw [drainOut_spill d x hs (inLocker_eq_true hin)]
    exact ⟨rfl, fun r c k hr hc hk => putImage_byte_in _ _ _ hr hc hk, fun p hp => putImage_byte_out _ _ _ hp⟩
  · rw [drainOut_spill_bad d x hs (inLocker_eq_false hout)]
    exact ⟨rfl, rfl⟩

end Sys2Proof.Machine

/-!
O22, a plain drain (R74 to R79): its descriptor, the stages of one element, and the tile that it writes.
-/

namespace Sys2Proof.Machine

/-! Functions (R79) -/

@[simp] theorem Fx.v_of (v : Word32) : (Fx.of v).v = v := rfl

theorem Fx.v_pos (z : Fx) : z.pos.v = if fpPos z.v then z.v else 0#32 := apply_ite Fx.v ..

/-- The value of a function reads the value of its operand alone, not what arose before it. -/
theorem actFx_v (act : Nat) (leak : Word32) (z : Fx) : (actFx act leak z).v = actF act leak z.v := by
  have hpos : z.pos.v = (Fx.of z.v).pos.v := by rw [Fx.v_pos, Fx.v_pos, Fx.v_of]
  unfold actF actFx
  rw [Fx.v_of]
  split
  · rfl
  · split
    · exact hpos
    · rw [apply_ite Fx.v, apply_ite Fx.v]
      rfl
    · rfl
    · rfl
    · rfl
    · rfl
    · rfl
    · rfl
    · exact congrArg₂ fpMul hpos hpos
    · rfl

/-! The descriptor (R74 to R76) -/

/-- A descriptor in order, of plain MODE without gate, dropout and statistics (R74 to R76). -/
structure PlainDesc (d : DrainDesc) : Prop where
  act : fieldN d 0 1 < 0x0A
  mode : fieldN d 1 1 = 0
  outFmt : fieldN d 2 1 < 8
  scope : fieldN d 3 1 < 3
  zFmt : fieldN d 4 1 < 8
  gateFmt : fieldN d 6 1 < 8
  flags : fieldN d 5 1 = 0x20 ∨ fieldN d 5 1 = 0x21 ∨ fieldN d 5 1 = 0x23

namespace PlainDesc

variable {d : DrainDesc} (h : PlainDesc d)
include h

theorem gated : ddGated d = false := by
  have hact : ¬ 0x0A ≤ ddAct d := Nat.not_le.mpr h.act
  simp [ddGated, actGated, hact]

theorem deriv : ddDeriv d = false := by simp [ddDeriv, ddMode, h.mode]

theorem two : ddTwo d = false := by simp [ddTwo, h.gated]

theorem zIn : ddZIn d = false := h.deriv

/-- The flags that a plain drain has: OUT, and those of its bias. -/
theorem flags_eq : ddFlag d 0 = !decide (fieldN d 5 1 = 0x20) ∧ ddFlag d 1 = decide (fieldN d 5 1 = 0x23) ∧ ddFlag d 2 = false ∧ ddFlag d 3 = false
    ∧ ddFlag d 4 = false ∧ ddFlag d 5 = true := by
  unfold ddFlag
  rcases h.flags with hf | hf | hf <;> rw [hf] <;> decide

theorem zOut : ddZOut d = false := by
  obtain ⟨-, -, -, -, hz, -⟩ := h.flags_eq
  simp [ddZOut, hz]

theorem defined : ddUndefined d = false := by
  obtain ⟨hact, hmode, hout, hscope, hz, hgate, -⟩ := h
  simp only [ddUndefined, ddAct, ddMode, Bool.or_eq_false_iff, decide_eq_false_iff_not]
  exact ⟨⟨⟨⟨⟨decide_eq_false (by omega), decide_eq_false (by omega)⟩, by omega⟩, by omega⟩, by omega⟩, by omega⟩

/-- Its ranges lie within the locker when OUT and the bias do. -/
theorem inside (hout : ddAddr d 0x20 + fmtRecord (ddFmt d 2) ≤ 2 ^ 24) (hbias : ddAddr d 0x18 + 512 ≤ 2 ^ 24) :
    allInLocker (ddReads d ++ ddWrites d) = true := by
  have hrange : allInLocker [(ddAddr d 0x18, 512)] = true := by simp [allInLocker, inLocker_eq_true hbias]
  obtain ⟨-, -, -, -, -, hflag⟩ := h.flags_eq
  have hwrite : allInLocker (ddWrites d) = true := by
    simp [ddWrites, hflag, h.zOut, h.two, allInLocker, inLocker_eq_true hout]
  have hread : allInLocker (ddReads d) = true := by
    simp only [ddReads, h.zIn, h.gated, Bool.false_eq_true, if_false, List.append_nil]
    split
    · exact hrange
    · rfl
  rw [allInLocker, List.all_append]
  exact Bool.and_eq_true_iff.mpr ⟨hread, hwrite⟩

end PlainDesc

/-! Stages 1 to 4 of one element (R77) -/

/-- Word `n` of the bias (R77). -/
def biasWord (d : DrainDesc) (x : BightArch) (n : Nat) : Word32 :=
  BitVec.ofNat 32 ((List.range 4).foldr (fun k v => (x.locker.byte (ddAddr d 0x18 + 4 * n + k)).toNat + 256 * v) 0)

/-- An element after SCALE and bias. -/
def biasedAt (d : DrainDesc) (x : BightArch) (y : Slot) (r c : Nat) : Word32 :=
  let scaled := fpMul (y.cell r c).val (ddWord d 8)
  if fieldN d 5 1 = 0x20 then scaled else fpAdd scaled (biasWord d x (if fieldN d 5 1 = 0x23 then r else c))

/-- An element of the tile that a plain drain writes: zero outside the valid rows and columns (R75). -/
def plainLane (d : DrainDesc) (x : BightArch) (y : Slot) (r c : Nat) : Lane :=
  if r < ddValid d 0x14 ∧ c < ddValid d 0x16 then ⟨actF (ddAct d) (ddWord d 0x10) (biasedAt d x y r c), .clean⟩ else Lane.zero

/-- What a plain drain reads: an FP32 slot and the words of the bias, none of them poisoned. -/
structure PlainSrc (d : DrainDesc) (x : BightArch) (y : Slot) (src : DrainSrc) : Prop where
  fp : src.slot.int = false
  cell : ∀ r c, r < 128 → c < 128 → (src.cells[tileIndex r c]?).getD Lane.zero = y.cell r c
  clean : ∀ r c, (y.cell r c).mark = .clean
  bias : ∀ n, n < 128 → (src.bias[n]?).getD Lane.zero = ⟨biasWord d x n, .clean⟩

/-- Stages 1 to 4 of a plain drain give its element, and nothing for OUT2. -/
theorem drainElem_plain {d : DrainDesc} {x : BightArch} {y : Slot} {src : DrainSrc} (h : PlainDesc d) (hs : PlainSrc d x y src) {n : Nat} (hn : n < 16384) :
    (drainElem d src n).y = plainLane d x y (tileRow n) (tileCol n) ∧ (drainElem d src n).y2.mark = .clean := by
  have hr := tileRow_lt hn
  have hc := tileCol_lt n
  have hcell := hs.cell _ _ hr hc
  rw [tileIndex_tileRow_tileCol] at hcell
  unfold drainElem plainLane
  by_cases hvalid : ddValid d 0x14 ≤ tileRow n ∨ ddValid d 0x16 ≤ tileCol n
  · rw [if_neg (show ¬ (tileRow n < ddValid d 0x14 ∧ tileCol n < ddValid d 0x16) by omega)]
    simp only [if_pos hvalid]
    exact ⟨rfl, rfl⟩
  · rw [if_pos (show tileRow n < ddValid d 0x14 ∧ tileCol n < ddValid d 0x16 by omega)]
    obtain ⟨hadd, hrow, hdrop, -⟩ := h.flags_eq
    simp only [if_neg hvalid, h.gated, h.deriv, h.two, hdrop, hadd, hrow, hcell, slotFp, hs.fp, Bool.false_eq_true, if_false]
    refine ⟨?_, rfl⟩
    simp only [FxLane.lane, FxLane.map, actFx_v]
    unfold biasedAt
    by_cases hb : fieldN d 5 1 = 0x20
    · simp only [hb, decide_true, Bool.not_true, Bool.false_eq_true, if_false, if_true]
      exact congrArg (Lane.mk _) (hs.clean _ _)
    · have hbias := hs.bias (if fieldN d 5 1 = 0x23 then tileRow n else tileCol n) (by split <;> assumption)
      simp only [hb, decide_false, Bool.not_false, if_true, if_false, decide_eq_true_eq, hbias]
      refine congrArg (Lane.mk _) ?_
      show (y.cell (tileRow n) (tileCol n)).mark.worse .clean = .clean
      rw [hs.clean]
      rfl

/-! The tile -/

/-- Steps that each leave a value leave it one after the other. -/
theorem foldl_fixed {α β : Type} {g : β → α → β} {b : β} {l : List α} (h : ∀ e ∈ l, g b e = b) : l.foldl g b = b := by
  induction l with
  | nil => rfl
  | cons e t ih => rw [List.foldl_cons, h e List.mem_cons_self, ih (fun e he => h e (List.mem_cons_of_mem _ he))]

/-- The tile that a plain drain writes. -/
def plainTile (d : DrainDesc) (x : BightArch) (y : Slot) : TileOut :=
  convertTile (ddFmt d 2) (ddScope d) (fun r c => (plainLane d x y r c).src)

/-- The worst mark of what a drain writes of its elements. -/
def writtenMark (d : DrainDesc) (es : Array DrainElem) : Mark :=
  es.foldl (fun w e => ((w.worse e.y.mark).worse e.y2.mark).worse (if ddZOut d then e.z.mark else .clean)) .clean

/-- A plain drain, by the elements that it forms for repeated reads. -/
theorem drainTile_elems {d : DrainDesc} (h : PlainDesc d) {x : BightArch} (hm : ∀ e ∈ x.locker.marks, e.2 = .clean) {y : Slot} (hfp : y.int = false)
    (hy : ∀ e ∈ y.cells, e.2.mark = .clean) : ∃ (src : DrainSrc) (w : Word16), PlainSrc d x y src ∧
      let es := Array.ofFn (fun n : Fin 16384 => drainElem d src n.val)
      let xs := es.map (fun e => e.y.src)
      drainTile d x y = ⟨(putTile x (ddAddr d 0x20) (convertUnder (ddFmt d 2) (tileScales (ddFmt d 2) (ddScope d) xs) xs)).orLay w, [], writtenMark d es⟩ := by
  obtain ⟨-, -, -, hstats, -, hout⟩ := h.flags_eq
  unfold drainTile
  extract_lets bytes src es xs tile out out2 z stat en sums range seen st a₁ a₂ a₃
  have hout2 : out2 = none := if_neg (by simp [h.two])
  have hz : z = none := if_neg (by simp [h.zOut])
  have hsums : sums = [] := by
    unfold sums en
    rw [hout2, hstats]
    rfl
  have ha : a₃ = putTile x (ddAddr d 0x20) out := by
    unfold a₃ a₂ a₁
    rw [hout2, hz]
    exact if_pos hout
  refine ⟨src, st, ⟨hfp, fun r c hr hc => Slot.getD_window y hr hc, fun r c => Slot.cell_mark_clean hy r c, fun n hn => ?_⟩, ?_⟩
  · have hword := word_of_bytes (fun k => x.locker.byte (ddAddr d 0x18 + 4 * n + k))
    simp only [src, bytes, Array.getElem?_ofFn, hn, dite_true, Option.getD_some, Mem.mark_clean hm, Mem.getD_window _ _ (show 4 * n + 3 < 512 by omega),
      Mem.getD_window _ _ (show 4 * n + 2 < 512 by omega), Mem.getD_window _ _ (show 4 * n + 1 < 512 by omega),
      Mem.getD_window _ _ (show 4 * n + 0 < 512 by omega), ← Nat.add_assoc]
    exact congrArg (fun v => (⟨v, .clean⟩ : Lane)) hword
  · rw [ha, hsums]
    rfl

/-- A plain drain writes its tile at OUT, contributes nothing and consumes no poison. -/
theorem drainTile_plain {d : DrainDesc} (h : PlainDesc d) {x : BightArch} (hm : ∀ e ∈ x.locker.marks, e.2 = .clean) {y : Slot} (hfp : y.int = false)
    (hy : ∀ e ∈ y.cells, e.2.mark = .clean) :
    ∃ w : Word16, drainTile d x y = ⟨(putTile x (ddAddr d 0x20) (plainTile d x y)).orLay w, [], .clean⟩ := by
  obtain ⟨src, w, hsrc, hres⟩ := drainTile_elems h hm hfp hy
  have helem : ∀ n : Fin 16384, (drainElem d src n.val).y = plainLane d x y (tileRow n.val) (tileCol n.val) ∧ (drainElem d src n.val).y2.mark = .clean :=
    fun n => drainElem_plain h hsrc n.isLt
  have hmark : ∀ r c, (plainLane d x y r c).mark = .clean := fun r c => by
    unfold plainLane
    split <;> rfl
  have hxs : (Array.ofFn (fun n : Fin 16384 => drainElem d src n.val)).map (fun e => e.y.src) = tileSrc (fun r c => (plainLane d x y r c).src) := by
    rw [Array.map_ofFn]
    refine congrArg Array.ofFn (funext fun n => ?_)
    exact congrArg Lane.src (helem n).1
  have hseen : writtenMark d (Array.ofFn (fun n : Fin 16384 => drainElem d src n.val)) = .clean := by
    rw [writtenMark, ← Array.foldl_toList, Array.toList_ofFn]
    refine foldl_fixed (fun e he => ?_)
    obtain ⟨n, rfl⟩ := (List.mem_ofFn' ..).mp he
    rw [(helem n).1, (helem n).2, hmark, h.zOut]
    rfl
  dsimp only at hres
  rw [hxs, hseen] at hres
  exact ⟨w, hres⟩

/-- A LAY.DRAIN whose descriptor is plain and whose ranges lie within the locker is performed. -/
theorem drainOut_plain {d : DrainItem} {x : BightArch} (h : PlainDesc d.desc) (hspill : d.spill = false) (hmark : d.descMark = .clean)
    (haddr : d.addr + 128 ≤ 2 ^ 24) (hout : ddAddr d.desc 0x20 + fmtRecord (ddFmt d.desc 2) ≤ 2 ^ 24) (hbias : ddAddr d.desc 0x18 + 512 ≤ 2 ^ 24) :
    drainOut d x = drainTile d.desc x (x.slot d.slot) := by
  rw [drainOut, if_neg (by simp [hspill]), if_neg (by simp [hmark, Mark.isBad_clean]),
    if_neg (by simp [h.defined, h.inside hout hbias, inLocker_eq_true haddr])]

@[simp] theorem andSet_locker (a : BightArch) (setEn : Bool) (setH : BitVec 5) (seq : Nat) (eng : Engine) : (a.andSet setEn setH seq eng).locker = a.locker := by
  unfold BightArch.andSet BightArch.setHitch
  split
  · split <;> rfl
  · rfl

section PlainRow

variable {b : Fin 80} {s : State} {d : DrainItem} {rest : List DrainItem} (hr : (s.sys.bight b.val).region = none) (hs : s.sys.sigmaOf b.val = none)
  (he : (s.sys.bight b.val).ending = false) (hd : (s.sys.bight b.val).drains = d :: rest)
include hr hs he hd

/-- The pipeline takes the slot of a plain drain: its tile at OUT, and no other byte. -/
theorem drainPipelineSlot_plain (h : PlainDesc d.desc) (hspill : d.spill = false) (hmark : d.descMark = .clean) (haddr : d.addr + 128 ≤ 2 ^ 24)
    (hfp : (s.arch b).slots[d.slot].int = false) (hout : ddAddr d.desc 0x20 + fmtRecord (ddFmt d.desc 2) ≤ 2 ^ 24)
    (hbias : ddAddr d.desc 0x18 + 512 ≤ 2 ^ 24) (hm : ∀ e ∈ (s.arch b).locker.marks, e.2 = .clean)
    (hy : ∀ e ∈ (s.arch b).slots[d.slot].cells, e.2.mark = .clean) :
    ∃ t, exec (.drainPipelineSlot b) s = .next t ∧ OnlyBight s t b
      ∧ (∀ k < fmtRecord (ddFmt d.desc 2), (t.arch b).locker.byte (ddAddr d.desc 0x20 + k) = tileByte (plainTile d.desc (s.arch b) (s.arch b).slots[d.slot]) k)
      ∧ ∀ p, (p < ddAddr d.desc 0x20 ∨ ddAddr d.desc 0x20 + fmtRecord (ddFmt d.desc 2) ≤ p) → (t.arch b).locker.byte p = (s.arch b).locker.byte p := by
  obtain ⟨w, htile⟩ := drainTile_plain h hm hfp hy
  have hres := drainSlot_eq d (s.arch b)
  rw [drainOut_plain h hspill hmark haddr hout hbias] at hres
  have htile' : drainTile d.desc (s.arch b) ((s.arch b).slot d.slot) = _ := htile
  rw [htile'] at hres
  obtain ⟨t, hexec, honly, harch⟩ := drainPipelineSlot_only hr hs he hd hres
  refine ⟨t, hexec, honly, fun k hk => ?_, fun p hp => ?_⟩
  · rw [harch, andSet_locker]
    exact putTile_byte_in _ _ (plainTile _ _ _) hk
  · rw [harch, andSet_locker]
    exact putTile_byte_out _ _ (plainTile _ _ _) hp

end PlainRow

/-- An element of the tile of a plain drain, by its value. -/
theorem plainLane_src (d : DrainDesc) (x : BightArch) (y : Slot) (r c : Nat) : (plainLane d x y r c).src
    = (if r < ddValid d 0x14 ∧ c < ddValid d 0x16 then fpVal (actF (ddAct d) (ddWord d 0x10) (biasedAt d x y r c)) else fpVal 0#32, .clean) := by
  unfold plainLane
  split <;> rfl

/-- Settles O22: the pipeline by its oldest slot, whatever the drain contributes and consumes; a plain drain by the elements of its tile. -/
theorem drainPipeline : Obligations.DrainPipeline := by
  unfold Obligations.DrainPipeline
  refine ⟨fun b s hr hs he => ⟨fun hd hw => ?_, fun d rest hd => ?_⟩, ?_⟩
  · exact ⟨_, exec_drainPipelineSlot_empty hd hw, ⟨rfl, rfl, rfl, fun _ _ => rfl⟩, rfl⟩
  · intro x
    obtain ⟨t, hexec, hdrains, hpending, hfuses, harch⟩ := drainPipelineSlot_arch hr hs he hd
    obtain ⟨hslots, hframe, hspill, hbad⟩ := drainPost_drainOut d x
    exact ⟨t, _, hexec, hdrains, hpending, hfuses, harch.trans (congrArg DrainRes.arch (drainSlot_eq d x)), hslots, hframe, hspill, hbad⟩
  · intro b s d rest hr hs he hd hspill hmark _ haddr hfp hact hmode hout hscope hz hgate hflags x fm out bias w rows bword scaled biased y hout' hbias' hm hy
    have htile : plainTile d.desc x x.slots[d.slot] = convertTile fm (if fm = .int8 then fieldN d.desc 3 1 else 0) (fun r c => (y r c, .clean)) :=
      congrArg (convertTile fm _) (funext fun r => funext fun c => plainLane_src d.desc x _ r c)
    have hrow := drainPipelineSlot_plain hr hs he hd ⟨hact, hmode, hout, hscope, hz, hgate, hflags⟩ hspill hmark haddr hfp hout' hbias' hm hy
    rw [htile] at hrow
    exact hrow

end Sys2Proof.Machine

/-!
O5, the divisions (R86): the four operations share one form, the write of a result with DIV_ZERO beside it where the divisor is 0.
-/

namespace Sys2Proof.Machine

/-- The Bight's state after a division by `b` with the result `v`. -/
def BightArch.divided (a : BightArch) (d : BitVec 5) (b v : Word64) : BightArch :=
  { a.setS d v with pc := a.pc + 8#64, halyard := if b = 0#64 then a.halyard ||| 0x0004#16 else a.halyard }

@[simp] theorem BightArch.setS_halyard (a : BightArch) (r : BitVec 5) (v : Word64) : (a.setS r v).halyard = a.halyard :=
  (congrArg BightArch.halyard (a.setS_frame r v) :)

theorem divArch_step8 (f : ScalarF) (op : Word64 → Word64 → Word64) (a : BightArch) :
    (divArch f op a).step8 = a.divided f.sd (scalarB f a) (op (a.s f.sa) (scalarB f a)) := by
  unfold BightArch.divided
  split
  · next hb => simp [divArch, scalarArch, hb, stIf, hsDivZero, BightArch.orHalyard, BightArch.step8]
  · next hb => simp [divArch, scalarArch, hb, stIf, BightArch.orHalyard, BightArch.step8]

/-- A division whose operation comes to `v` ends with it. -/
theorem ends_div {s : State} {f : ScalarF} (h : CoreReady s f.b) (i : Instr) (op : Word64 → Word64 → Word64)
    (he : exec i s = s.onSys (fun y => y.coreArch i f.b.val (divArch f op))) {v : Word64} (hv : op ((s.arch f.b).s f.sa) (s.operand f) = v) :
    Ends i s f.b ((s.arch f.b).divided f.sd (s.operand f) v) := by
  have hends := ends_coreArch h i (divArch f op) he
  rw [divArch_step8] at hends
  exact hv ▸ hends

section Division

variable {a b : Word64}

theorem divU_eq_ofNat (hb : b ≠ 0#64) : divU a b = BitVec.ofNat 64 (a.toNat / b.toNat) := by
  rw [divU, if_neg hb, BitVec.udiv_def]

theorem remU_eq_ofNat (hb : b ≠ 0#64) : remU a b = BitVec.ofNat 64 (a.toNat % b.toNat) := by
  rw [remU, if_neg hb]
  apply BitVec.eq_of_toNat_eq
  rw [BitVec.toNat_umod, BitVec.toNat_ofNat, Nat.mod_eq_of_lt (lt_of_le_of_lt (Nat.mod_le ..) a.isLt)]

theorem divS_eq_ofInt (hb : b ≠ 0#64) : divS a b = BitVec.ofInt 64 (a.toInt.tdiv b.toInt) := if_neg hb

theorem remS_eq_ofInt (hb : b ≠ 0#64) : remS a b = BitVec.ofInt 64 (a.toInt.tmod b.toInt) := if_neg hb

end Division

/-- Settles O5: each operation is `ends_div` with its result, by whether the divisor is 0. -/
theorem scalarDivision : Obligations.ScalarDivision := by
  unfold Obligations.ScalarDivision
  intro f s h a b done
  refine ⟨fun hb => ⟨?_, ?_, ?_, ?_⟩, fun hb => ⟨?_, ?_, ?_, ?_⟩, fun ha hb => ⟨?_, ?_⟩⟩
  · exact ends_div h _ divU rfl (if_pos hb)
  · exact ends_div h _ remU rfl (if_pos hb)
  · exact ends_div h _ divS rfl (if_pos hb)
  · exact ends_div h _ remS rfl (if_pos hb)
  · exact ends_div h _ divU rfl (divU_eq_ofNat hb)
  · exact ends_div h _ remU rfl (remU_eq_ofNat hb)
  · exact ends_div h _ divS rfl (divS_eq_ofInt hb)
  · exact ends_div h _ remS rfl (remS_eq_ofInt hb)
  · exact ends_div h _ divS rfl (show divS a b = _ by rw [ha, hb]; decide)
  · exact ends_div h _ remS rfl (show remS a b = _ by rw [ha, hb]; decide)

end Sys2Proof.Machine

/-!
O7, the control instructions and the hitches (R88, R89, R92): branch targets as arithmetic on addresses, the conditions of BR, and what a set
and a drop of a hitch do to each of the 32.
-/

namespace Sys2Proof.Machine

/-! Targets (R88) -/

theorem offset_eq_ofInt {w : Nat} (hw : w ≤ 64) (pc : Word64) (n : BitVec w) :
    pc + 8#64 * n.signExtend 64 = BitVec.ofInt 64 (pc.toInt + 8 * n.toInt) := by
  apply BitVec.eq_of_toInt_eq
  rw [BitVec.toInt_add, BitVec.toInt_mul, BitVec.toInt_signExtend_of_le hw, BitVec.toInt_ofInt]
  simp

theorem target_eq_ofInt (a : BightArch) (imm : BitVec 32) : target a imm = BitVec.ofInt 64 (a.pc.toInt + 8 * imm.toInt) :=
  offset_eq_ofInt (by decide) a.pc imm

theorem and_not_seven_eq_ofNat (a : Word64) : a &&& ~~~ 7#64 = BitVec.ofNat 64 (a.toNat / 8 * 8) := by
  have hshift : a &&& ~~~ 7#64 = (a >>> 3) <<< 3 := by
    refine BitVec.eq_of_getLsbD_eq (fun i hi => ?_)
    have hseven : (7#64).getLsbD i = decide (i < 3) := by
      revert i
      decide
    rw [BitVec.getLsbD_and, BitVec.getLsbD_not, hseven, BitVec.getLsbD_shiftLeft, BitVec.getLsbD_ushiftRight]
    by_cases h3 : i < 3
    · simp [h3]
    · simp [h3, hi, show 3 + (i - 3) = i by omega]
  rw [hshift]
  apply BitVec.eq_of_toNat_eq
  simp [Nat.shiftRight_eq_div_pow, Nat.shiftLeft_eq]

/-! BR (R89) -/

theorem setWidth_mask (m : Byte) : m.setWidth 64 = (0#56 ++ m : Word64) := by
  apply BitVec.eq_of_toNat_eq
  rw [BitVec.toNat_setWidth, BitVec.toNat_append, Nat.mod_eq_of_lt (by have := m.isLt; omega)]
  simp

theorem exec_br (f : ControlF) (s : State) :
    exec (.br f) s = s.onSys (fun y => y.coreOp (.br f) f.b.val (fun _ => false) (fun q y => y.onArch f.b.val q (brArch f))) := rfl

section Branch

variable {f : ControlF} {s : State} (h : CoreReady s f.b)
include h

/-- BR of a condition that comes to `p` goes to its target exactly when `p` holds. -/
theorem br_ends {p : Prop} [Decidable p] (hc : condHolds f.cond ((s.arch f.b).s f.ra) ((s.arch f.b).s f.rb) f.mask = some (decide p)) :
    Ends (.br f) s f.b { s.arch f.b with
      pc := if p then BitVec.ofInt 64 ((s.arch f.b).pc.toInt + 8 * f.imm.toInt) else (s.arch f.b).pc + 8#64 } := by
  have hends := ends_coreOp h (.br f) rfl (brArch f) (exec_br f s)
  unfold brArch at hends
  rw [hc] at hends
  by_cases hp : p
  · rw [if_pos hp, ← target_eq_ofInt]
    rw [decide_eq_true hp] at hends
    exact hends
  · rw [if_neg hp]
    rw [decide_eq_false hp] at hends
    exact hends

/-- BR of a reserved condition goes on, with BAD_ENCODING. -/
theorem br_ends_reserved (hc : 9 ≤ f.cond.toNat) :
    Ends (.br f) s f.b { s.arch f.b with pc := (s.arch f.b).pc + 8#64, halyard := (s.arch f.b).halyard ||| 0x0001#16 } := by
  have hnone : condHolds f.cond ((s.arch f.b).s f.ra) ((s.arch f.b).s f.rb) f.mask = none := by
    unfold condHolds
    generalize f.cond.toNat = c at hc
    match c, hc with
    | _ + 9, _ => rfl
  have hends := ends_coreOp h (.br f) rfl (brArch f) (exec_br f s)
  unfold brArch at hends
  rw [hnone] at hends
  exact hends

end Branch

/-- COND of BR and SLACK.OPEN as relations between two values (R89). -/
theorem condHolds_eq (c : BitVec 4) (x y : Word64) (m : Byte) :
    (c = 0#4 → condHolds c x y m = some (decide True)) ∧ (c = 1#4 → condHolds c x y m = some (decide (x = y)))
    ∧ (c = 2#4 → condHolds c x y m = some (decide (x ≠ y))) ∧ (c = 3#4 → condHolds c x y m = some (decide (x.toInt < y.toInt)))
    ∧ (c = 4#4 → condHolds c x y m = some (decide (x.toInt ≥ y.toInt))) ∧ (c = 5#4 → condHolds c x y m = some (decide (x.toNat < y.toNat)))
    ∧ (c = 6#4 → condHolds c x y m = some (decide (x.toNat ≥ y.toNat))) ∧ (c = 7#4 → condHolds c x y m = some (decide (x &&& (0#56 ++ m) ≠ 0#64)))
    ∧ (c = 8#4 → condHolds c x y m = some (decide (x &&& (0#56 ++ m) = 0#64))) := by
  refine ⟨?_, ?_, ?_, ?_, ?_, ?_, ?_, ?_, ?_⟩ <;> rintro rfl
  · rfl
  · exact congrArg some (by rw [Bool.eq_iff_iff]; simp)
  · exact congrArg some (by rw [Bool.eq_iff_iff]; simp)
  · rfl
  · rfl
  · rfl
  · rfl
  · rw [← setWidth_mask]
    exact congrArg some (by rw [Bool.eq_iff_iff]; simp)
  · rw [← setWidth_mask]
    exact congrArg some (by rw [Bool.eq_iff_iff]; simp)

/-! Hitches (R92) -/

theorem hitches_putHitch (a : BightArch) (h : BitVec 5) (v : Bool) {n : Nat} (hn : n < 32) :
    (a.putHitch h v).hitches.getLsbD n = if n = h.toNat then v else a.hitches.getLsbD n := by
  have hone : ((1#32 <<< h.toNat).getLsbD n) = decide (n = h.toNat) := by
    rw [BitVec.getLsbD_shiftLeft, BitVec.getLsbD_one]
    by_cases hlt : n < h.toNat
    · simp [hlt, hn, show n ≠ h.toNat by omega]
    · simp [hlt, hn]
      omega
  simp only [BightArch.putHitch, BitVec.getLsbD_or, BitVec.getLsbD_and, BitVec.getLsbD_not, hone, hn]
  by_cases hnh : n = h.toNat
  · cases v
    · simp [hnh]
    · simp [hnh, h.isLt]
  · cases v <;> simp [hnh, hone]

theorem putHitch_frame (a : BightArch) (h : BitVec 5) (v : Bool) : { a.putHitch h v with hitches := a.hitches } = a := rfl

theorem immHitch_toNat (f : ControlF) : (immHitch f).toNat = f.imm.toNat % 32 := by
  simp [immHitch]

theorem beq_immHitch (f : ControlF) (g : BitVec 5) : (g == immHitch f) = (g.toNat == f.imm.toNat % 32) := by
  rw [Bool.eq_iff_iff, beq_iff_eq, beq_iff_eq, ← immHitch_toNat, BitVec.toNat_inj]

/-- A drop makes its hitch 0, or lets the first set that waits for it make it 1 at once: the others stay. -/
structure DropsHitch (h : Nat) (x a : BightArch) : Prop where
  frame : { a with hitches := x.hitches, hitchSets := x.hitchSets } = x
  hitch : ∀ n < 32, a.hitches.getLsbD n = if n = h then x.hitches.getLsbD n && x.hitchSets.any (fun w => w.hitch.toNat == h) else x.hitches.getLsbD n
  sets : ∀ n < 32, a.hitchSets.countP (fun w => w.hitch.toNat == n) = x.hitchSets.countP (fun w => w.hitch.toNat == n) - if n = h then 1 else 0

theorem dropsHitch (x : BightArch) (f : ControlF) : DropsHitch (f.imm.toNat % 32) x (x.dropHitch (immHitch f)) := by
  have hfind : x.hitchSets.find? (fun w => w.hitch == immHitch f) = x.hitchSets.find? (fun w => w.hitch.toNat == f.imm.toNat % 32) := by
    simp only [beq_immHitch]
  unfold BightArch.dropHitch
  rw [hfind]
  cases hw : x.hitchSets.find? (fun w => w.hitch.toNat == f.imm.toNat % 32) with
  | none =>
    have hnone : ∀ w ∈ x.hitchSets, ¬ (w.hitch.toNat == f.imm.toNat % 32) = true := List.find?_eq_none.mp hw
    refine ⟨rfl, fun n hn => ?_, fun n hn => ?_⟩
    · rw [hitches_putHitch _ _ _ hn, immHitch_toNat, List.any_eq_false.mpr hnone, Bool.and_false]
    · show x.hitchSets.countP _ = _
      split
      · next h => rw [h, List.countP_eq_zero.mpr hnone]
      · rfl
  | some w =>
    have hmem : w ∈ x.hitchSets := List.mem_of_find?_eq_some hw
    have hkey : (w.hitch.toNat == f.imm.toNat % 32) = true := by simpa using List.find?_some hw
    refine ⟨rfl, fun n hn => ?_, fun n hn => ?_⟩
    · have hany : x.hitchSets.any (fun w => w.hitch.toNat == f.imm.toNat % 32) = true := List.any_eq_true.mpr ⟨w, hmem, hkey⟩
      rw [hany, Bool.and_true, ite_self]
    · show (x.hitchSets.erase w).countP _ = _
      rw [List.countP_erase, beq_iff_eq.mp hkey]
      simp only [hmem, true_and, beq_iff_eq, @eq_comm _ n]

/-- HITCH.WAIT and HITCH.CLEAR: what a core instruction that drops its hitch leaves. -/
theorem DropsHitch.of_ends {i : Instr} {s : State} {b : Fin 80} {h : Nat} {a : BightArch} (hends : Ends i s b a.step8) (hdrop : DropsHitch h (s.arch b) a) :
    ∃ t, exec i s = .next t ∧ OnlyBight s t b ∧ BightKept (s.sys.bight b.val) (t.sys.bight b.val)
      ∧ { t.arch b with hitches := (s.arch b).hitches, hitchSets := (s.arch b).hitchSets } = { s.arch b with pc := (s.arch b).pc + 8#64 }
      ∧ (∀ n < 32, (t.arch b).hitches.getLsbD n
          = if n = h then (s.arch b).hitches.getLsbD n && (s.arch b).hitchSets.any (fun w => w.hitch.toNat == h) else (s.arch b).hitches.getLsbD n)
      ∧ ∀ n < 32, (t.arch b).hitchSets.countP (fun w => w.hitch.toNat == n)
          = (s.arch b).hitchSets.countP (fun w => w.hitch.toNat == n) - if n = h then 1 else 0 := by
  obtain ⟨t, hexec, honly, harch, hkept⟩ := hends
  refine ⟨t, hexec, honly, hkept, ?_⟩
  rw [harch]
  have hpc : a.pc = (s.arch b).pc := (congrArg BightArch.pc hdrop.frame :)
  refine ⟨?_, hdrop.hitch, hdrop.sets⟩
  rw [← hpc]
  exact congrArg (fun y : BightArch => { y with pc := a.pc + 8#64 }) hdrop.frame

/-- Whether HITCH.WAIT waits. -/
def hitchWaits (f : ControlF) (y : Sys) : Bool := !y.hitchFree f.b.val y.ordNow (some (immHitch f))

theorem exec_hitchWait (f : ControlF) (s : State) : exec (.hitchWait f) s = s.onSys (fun y => y.coreOp (.hitchWait f) f.b.val (hitchWaits f)
    (fun q y => y.onArch f.b.val q (fun a => (a.dropHitch (immHitch f)).step8))) := rfl

/-- HITCH.WAIT need not wait on a hitch that is 1 and that no older instruction waits on. -/
theorem hitchWaits_eq_false {f : ControlF} {y : Sys} (hset : (y.bight f.b.val).arch.hitches.getLsbD (f.imm.toNat % 32) = true)
    (hfirst : ∀ g ∈ y.waiting, g.bight = some f.b.val → g.waitH ≠ some (BitVec.ofNat 5 (f.imm.toNat % 32))) : hitchWaits f y = false := by
  have himm : BitVec.ofNat 5 (f.imm.toNat % 32) = immHitch f := by rw [← immHitch_toNat, BitVec.ofNat_toNat, BitVec.setWidth_eq]
  have holder : (y.older f.b.val y.ordNow).any (fun e => e.queued && e.waitH == some (immHitch f)) = false := by
    rw [List.any_eq_false]
    intro g hg
    simp only [Sys.older, List.mem_filter, Bool.and_eq_true, beq_iff_eq] at hg
    obtain ⟨hmem, hb, -⟩ := hg
    have hne := hfirst g hmem hb
    rw [himm] at hne
    simp [hne]
  simp only [hitchWaits, Sys.hitchFree, holder, BightArch.hitch, immHitch_toNat, hset]
  rfl

/-- Whether HITCH.SET waits: its hitch is still 1. -/
def setWaits (f : ControlF) (y : Sys) : Bool := (y.bight f.b.val).arch.hitch (immHitch f)

theorem exec_hitchSet (f : ControlF) (s : State) : exec (.hitchSet f) s = s.onSys (fun y => y.coreOp (.hitchSet f) f.b.val (setWaits f)
    (fun q y => y.onArch f.b.val q (fun a => (a.putHitch (immHitch f) true).step8))) := rfl

/-- Settles O7: each control instruction by its effect on the Bight's state; HITCH.WAIT and HITCH.CLEAR as one drop. -/
theorem controlFlowHitches : Obligations.ControlFlowHitches := by
  unfold Obligations.ControlFlowHitches
  refine ⟨fun f s h => ?_, fun f s h => ?_⟩
  · intro x a b m dest onward
    have hdest : dest = target x f.imm := (target_eq_ofInt x f.imm).symm
    obtain ⟨h0, h1, h2, h3, h4, h5, h6, h7, h8⟩ := condHolds_eq f.cond a b f.mask
    refine ⟨ends_coreArch h _ (fun a => a) rfl, ?_, ?_, fun hc => br_ends h (h0 hc), fun hc => br_ends h (h1 hc), fun hc => br_ends h (h2 hc), fun hc => br_ends h (h3 hc),
      fun hc => br_ends h (h4 hc), fun hc => br_ends h (h5 hc), fun hc => br_ends h (h6 hc), fun hc => br_ends h (h7 hc), fun hc => br_ends h (h8 hc),
      br_ends_reserved h⟩
    · rw [hdest]
      exact ends_coreOp h _ rfl (fun a => { a.setS f.ra (a.pc + 8#64) with pc := target a f.imm }) rfl
    · rw [← and_not_seven_eq_ofNat]
      exact ends_coreOp h _ rfl (fun a => { a with pc := a.s f.ra &&& ~~~ 7#64 }) rfl
  · intro x n low
    refine ⟨fun hclear => ?_, fun hset hfirst => ?_, ?_⟩
    · have hfree : setWaits f s.sys = false := by rw [setWaits, BightArch.hitch, immHitch_toNat]; exact hclear
      obtain ⟨t, hexec, honly, harch, hkept⟩ := ends_coreOp h _ hfree _ (exec_hitchSet f s)
      refine ⟨t, hexec, honly, hkept, ?_⟩
      rw [harch]
      refine ⟨rfl, fun k hk => ?_⟩
      show ((s.arch f.b).putHitch (immHitch f) true).hitches.getLsbD k = _
      rw [hitches_putHitch _ _ _ hk, immHitch_toNat]
      by_cases hkn : k = n
      · simp [hkn, n]
      · simp [hkn, n, x, beq_eq_false_iff_ne.mpr hkn]
    · exact DropsHitch.of_ends (ends_coreOp h _ (hitchWaits_eq_false hset hfirst) (fun a => (a.dropHitch (immHitch f)).step8) (exec_hitchWait f s))
        (dropsHitch _ f)
    · exact DropsHitch.of_ends (ends_coreArch h _ (fun a => a.dropHitch (immHitch f)) rfl) (dropsHitch _ f)

end Sys2Proof.Machine

/-!
O8, SUM.POP and STAT (R93, R104, R105): the oldest unbound entry of the summary FIFO, an instruction that the Halyard core keeps, and the
record of a status word.
-/

namespace Sys2Proof.Machine

/-! Entries of the summary FIFO (R105, R106) -/

/-- `e` is the oldest entry of a FIFO that is not bound; `pre` and `post` are the entries before and behind it. -/
structure OldestOf (x : BightArch) (pre : List SumEntry) (e : SumEntry) (post : List SumEntry) : Prop where
  fifo : x.fifo = pre ++ e :: post
  pre_bound : ∀ d ∈ pre, d.bound = true
  unbound : e.bound = false
  ids : ∀ d ∈ pre ++ post, d.id ≠ e.id

namespace OldestOf

variable {x : BightArch} {pre post : List SumEntry} {e : SumEntry} (h : OldestOf x pre e post)
include h

theorem oldest_eq : x.oldest = some e := by
  have hpre : pre.find? (fun d => !d.bound) = none := List.find?_eq_none.mpr (fun d hd => by simp [h.pre_bound d hd])
  rw [BightArch.oldest, h.fifo, List.find?_append, hpre]
  simp [h.unbound]

theorem filter_eq : x.fifo.filter (fun d => d.id != e.id) = pre ++ post := by
  have hpre : pre.filter (fun d => d.id != e.id) = pre :=
    List.filter_eq_self.mpr (fun d hd => by simp [h.ids d (List.mem_append_left _ hd)])
  have hpost : post.filter (fun d => d.id != e.id) = post :=
    List.filter_eq_self.mpr (fun d hd => by simp [h.ids d (List.mem_append_right _ hd)])
  simp [h.fifo, hpre, hpost]

theorem dropEntry_eq : x.dropEntry e.id = { x with fifo := pre ++ post } := by
  rw [BightArch.dropEntry, h.filter_eq]

end OldestOf

theorem BightArch.oldest_eq_none {x : BightArch} (h : ∀ d ∈ x.fifo, d.bound = true) : x.oldest = none :=
  List.find?_eq_none.mpr (fun d hd => by simp [h d hd])

theorem setWidth_flags (fl : Byte) : fl.setWidth 64 = (0#56 ++ fl : Word64) := by
  apply BitVec.eq_of_toNat_eq
  rw [BitVec.toNat_setWidth, BitVec.toNat_append, Nat.mod_eq_of_lt (by have := fl.isLt; omega)]
  simp

/-! An instruction that waits in the Halyard core -/

theorem mem_insHeld (h : Held) (ws : List Held) : h ∈ insHeld h ws := by
  induction ws with
  | nil => exact List.mem_singleton.mpr rfl
  | cons w t ih =>
    unfold insHeld
    split
    · exact List.mem_cons_self
    · exact List.mem_cons_of_mem _ ih

/-- A core instruction that has to wait is kept, and nothing of any Bight changes. -/
theorem coreOp_waits {s : State} {b : Fin 80} (h : CoreReady s b) {i : Instr} {busy : Sys → Bool} (hb : busy s.sys = true) {body : Nat → Sys → Sys}
    (he : exec i s = s.onSys (fun y => y.coreOp i b.val busy body)) :
    ∃ t, exec i s = .next t ∧ t.sys.bights = s.sys.bights ∧ ∃ g ∈ t.sys.waiting, g.cmd = i := by
  have hkeep : s.sys.coreOp i b.val busy body = s.sys.keepFront i b.val .halyard := by
    rw [Sys.coreOp, Sys.front_ready h, if_pos hb]
  refine ⟨{ s with sys := s.sys.keepFront i b.val .halyard }, ?_, rfl, _, mem_insHeld _ _, rfl⟩
  rw [he, State.onSys_next, hkeep]

/-- Writing a register and moving the PC act on different parts of the Bight. -/
theorem BightArch.setS_pc_comm (a : BightArch) (pc : Word64) (r : BitVec 5) (v : Word64) :
    ({ a with pc := pc } : BightArch).setS r v = { a.setS r v with pc := pc } := by
  unfold BightArch.setS
  split <;> rfl

/-! SUM.POP -/



theorem setS_orHalyard (a : BightArch) (w : Word16) (r : BitVec 5) (v : Word64) : (a.orHalyard w).setS r v = (a.setS r v).orHalyard w := by
  unfold BightArch.setS
  split <;> rfl

/-- Whether SUM.POP waits: the entry that it takes is not filled. -/
def popWaits (f : ControlF) (y : Sys) : Bool := ((y.bight f.b.val).arch.oldest).any (fun e => !e.filled)

theorem exec_sumPop (f : ControlF) (s : State) : exec (.sumPop f) s = s.onSys (fun y => y.coreOp (.sumPop f) f.b.val (popWaits f)
    (fun q y => y.onArch f.b.val q (popArch f))) := rfl

section SumPop

variable {f : ControlF} {s : State} (h : CoreReady s f.b)

theorem popWaits_of_oldest {pre post : List SumEntry} {e : SumEntry} (he : OldestOf (s.arch f.b) pre e post) : popWaits f s.sys = !e.filled := by
  have hold : (s.sys.bight f.b.val).arch.oldest = some e := he.oldest_eq
  simp [popWaits, hold]

include h

theorem sumPop_takes {pre post : List SumEntry} {e : SumEntry} (he : OldestOf (s.arch f.b) pre e post) (hfilled : e.filled = true) :
    Ends (.sumPop f) s f.b { ({ s.arch f.b with fifo := pre ++ post }.setS f.ra e.value).setS f.rb (0#56 ++ e.flags) with pc := (s.arch f.b).pc + 8#64 } := by
  have hends := ends_coreOp h _ (by rw [popWaits_of_oldest he, hfilled]; rfl) (popArch f) (exec_sumPop f s)
  rw [popArch, he.oldest_eq] at hends
  simpa only [he.dropEntry_eq, setWidth_flags, BightArch.step8, BightArch.setS_pc] using hends

theorem sumPop_empty (hall : ∀ d ∈ (s.arch f.b).fifo, d.bound = true) : Ends (.sumPop f) s f.b
    { ((s.arch f.b).setS f.ra 0#64).setS f.rb 0x80#64 with pc := (s.arch f.b).pc + 8#64, halyard := (s.arch f.b).halyard ||| 0x0008#16 } := by
  have hold : (s.arch f.b).oldest = none := BightArch.oldest_eq_none hall
  have hfree : popWaits f s.sys = false := by
    rw [popWaits, show (s.sys.bight f.b.val).arch.oldest = none from hold]
    rfl
  have hends := ends_coreOp h _ hfree (popArch f) (exec_sumPop f s)
  rw [popArch, hold] at hends
  dsimp only at hends
  rw [setS_orHalyard, setS_orHalyard] at hends
  have hhalyard : (((s.arch f.b).setS f.ra 0#64).setS f.rb 0x80#64).halyard = (s.arch f.b).halyard := by simp
  have hpc : (((s.arch f.b).setS f.ra 0#64).setS f.rb 0x80#64).pc = (s.arch f.b).pc := by simp
  rw [← hpc, ← hhalyard]
  exact hends

end SumPop

/-! STAT -/

theorem reserve_fill_eq {a : BightArch} (h : ∀ e ∈ a.fifo, e.id ≠ a.fifoNext) (v : Word64) (fl : Byte) :
    a.reserve.fillOpt (some a.fifoNext) v fl = a.recordIf true v fl := fillOpt_reserveIf a true h a.vregs a.serve v fl

theorem setWidth_status (w : Word16) : w.setWidth 64 = (0#48 ++ w : Word64) := by
  apply BitVec.eq_of_toNat_eq
  rw [BitVec.toNat_setWidth, BitVec.toNat_append, Nat.mod_eq_of_lt (by have := w.isLt; omega)]
  simp

theorem low_flags_eq (w : Word16) : (w &&& 0xF#16).setWidth 8 = (0#4 ++ w.extractLsb' 0 4 : Byte) := by
  apply BitVec.eq_of_toNat_eq
  rw [BitVec.toNat_setWidth, BitVec.toNat_and, BitVec.toNat_append, BitVec.extractLsb'_toNat, show (0xF#16).toNat = 2 ^ 4 - 1 from rfl, Nat.and_two_pow_sub_one_eq_mod]
  simp
  omega

theorem not_mask_eq (m : Byte) : ~~~ (m.setWidth 16) = ~~~ (0#8 ++ m : Word16) := by
  congr 1
  apply BitVec.eq_of_toNat_eq
  rw [BitVec.toNat_setWidth, BitVec.toNat_append, Nat.mod_eq_of_lt (by have := m.isLt; omega)]
  simp

/-- A queue instruction without hitches, by the state that it leaves. -/
theorem Queued.ends {i : Instr} {s : State} {b : Fin 80} {w v : BitVec 5} {eng : Engine} {a : BightArch}
    (h : Queued i s b false w false v eng False (fun _ z => z = a)) : Ends i s b a := by
  obtain ⟨t, z, hexec, rfl, harch, hkeep⟩ := h
  obtain ⟨honly, hkept⟩ := hkeep not_false
  exact ⟨t, hexec, honly, harch, hkept⟩

/-- The unit of STAT has nothing outstanding. -/
theorem statQ_ready {f : ControlF} {s : State} (hw : ∀ g ∈ s.sys.waiting, g.bight ≠ some f.b.val) (hd : (s.sys.bight f.b.val).drains = [])
    (hs : (s.arch f.b).hitchSets = []) (n : Nat) (cap : Cap) : (statQ f n).ready (atDispatch s.sys f.b.val true) f.b.val cap = true := by
  have hbight : (atDispatch s.sys f.b.val true).bight f.b.val
      = { s.sys.bight f.b.val with arch := (s.arch f.b).reserve.step8, nextSeq := (s.sys.bight f.b.val).nextSeq + 1 } := Sys.bight_setBight ..
  have hwaiting : s.sys.waiting.any (fun g => g.bight == some f.b.val && g.eng == statEng n && g.cap.any (fun c => decide (c.seq < cap.seq))) = false := by
    rw [List.any_eq_false]
    intro g hg
    simp [hw g hg]
  have hkeep : (atDispatch s.sys f.b.val true).waiting = s.sys.waiting := rfl
  simp only [statQ, hbight, hkeep, hwaiting, hd, BightArch.step8, BightArch.reserve, hs]
  cases n == 2 <;> rfl

theorem exec_stat (f : ControlF) (s : State) (h : f.cond.toNat % 4 ≠ 0) :
    exec (.stat f) s = s.onSys (fun y => y.queueOp (.stat f) f.b.val (statQ f (f.cond.toNat % 4))) := by
  show execStat f s = _
  unfold execStat
  simp only [if_neg h]

theorem exec_stat_halyard (f : ControlF) (s : State) (h : f.cond.toNat % 4 = 0) : exec (.stat f) s = s.onSys (fun y => y.coreOp (.stat f) f.b.val
    (fun y => decide (32 ≤ (y.bight f.b.val).arch.fifo.length)) (fun q y => y.onArch f.b.val q (fun a => (statArch 0 f.mask (some a.fifoNext) a.reserve).step8))) := by
  show execStat f s = _
  unfold execStat
  simp only [if_pos h]

section Stat

variable {f : ControlF} {s : State}

/-- STAT of a unit other than the Halyard core, with nothing outstanding: the record of its word, and the bits of MASK cleared. -/
theorem stat_ends (h : QueueReady s f.b) (hs : (s.arch f.b).hitchSets = []) (hroom : (s.arch f.b).fifo.length < 32)
    {n : Nat} (hn : f.cond.toNat % 4 = n) (hne : n ≠ 0) :
    Ends (.stat f) s f.b (statArch n f.mask (some (s.arch f.b).fifoNext) ({ s.arch f.b with pc := (s.arch f.b).pc + 8#64 } : BightArch).reserve) := by
  obtain ⟨-, -, hw, hd, hregion, -⟩ := id h
  have hregion' : ((atEffect s.sys f.b.val (statQ f n) true).bight f.b.val).region = none := by
    simpa [atEffect] using hregion
  have hexec : exec (.stat f) s = s.onSys (fun y => y.queueOp (.stat f) f.b.val (statQ f n)) := hn ▸ exec_stat f s (by rw [hn]; exact hne)
  have hnohitch : HitchReady s f.b false 0#5 := fun hw => nomatch hw
  refine Queued.ends (queued_of_effect (setEn := false) (setH := 0#5) (poisoned := False) h hnohitch hexec rfl rfl (fun _ => rfl) (fun _ => hroom)
    (statQ_ready hw hd hs n _) ?_ rfl)
  show ((atEffect s.sys f.b.val (statQ f n) true).onArch f.b.val _ _, none) = _
  rw [Sys.onArch_none hregion', atEffect_arch (waitEn := false) (waitH := 0#5) rfl]
  rfl

/-- What STAT of unit `n` leaves (R93, R104). -/
theorem statArch_eq {a : BightArch} (hids : ∀ e ∈ a.fifo, e.id < a.fifoNext) (n : Nat) (m : Byte) :
    statArch n m (some a.fifoNext) a.reserve = statClear n m (a.recordIf true (0#48 ++ statWord n a) (statFlags n (statWord n a))) := by
  have hword : statWord n a.reserve = statWord n a := by
    unfold statWord
    split <;> rfl
  rw [statArch, hword, reserve_fill_eq (fun e he => Nat.ne_of_lt (hids e he)), setWidth_status]

theorem statFlags_eq {n : Nat} (hn : n ≠ 0) (w : Word16) : statFlags n w = 0#4 ++ w.extractLsb' 0 4 := by
  rw [statFlags, if_neg hn, low_flags_eq]

end Stat

/-- Settles O8: SUM.POP by the entry that it takes; STAT by the record that it pushes and the word that it clears. -/
theorem summaryStatus : Obligations.SummaryStatus := by
  unfold Obligations.SummaryStatus
  refine ⟨fun f s h => ⟨fun e pre post hfifo hpre he hids => ?_, fun hall => sumPop_empty h hall⟩, fun f s h hrep hw hroom hids hd hs hp hr hsig => ?_⟩
  · have hold : OldestOf (s.arch f.b) pre e post := ⟨hfifo, hpre, he, hids⟩
    exact ⟨fun hfilled => sumPop_takes h hold hfilled, fun hempty => coreOp_waits h (by rw [popWaits_of_oldest hold, hempty]; rfl) (exec_sumPop f s)⟩
  · intro x keep out
    have hq : QueueReady s f.b := ⟨h, hrep, hw, hd, hr, hsig⟩
    have hkeep : ~~~ (f.mask.setWidth 16) = keep := not_mask_eq f.mask
    have hidsAt : ∀ e ∈ ({ x with pc := x.pc + 8#64 } : BightArch).fifo, e.id < x.fifoNext := hids
    refine ⟨fun hn => ?_, fun hn => ?_, fun hn => ?_, fun hn => ?_⟩
    · have hends := ends_coreOp h _ (decide_eq_false (Nat.not_le.mpr hroom)) (fun a => (statArch 0 f.mask (some a.fifoNext) a.reserve).step8) (exec_stat_halyard f s hn)
      rw [statArch_eq hids] at hends
      rw [← hkeep]
      exact hends
    · have hends := stat_ends hq hs hroom hn (by decide)
      rw [statArch_eq hidsAt, statFlags_eq (by decide)] at hends
      rw [← hkeep]
      exact hends
    · have hends := stat_ends hq hs hroom hn (by decide)
      rw [statArch_eq hidsAt, statFlags_eq (by decide)] at hends
      rw [← hkeep]
      exact hends
    · have hends := stat_ends hq hs hroom hn (by decide)
      rw [statArch_eq hidsAt, statFlags_eq (by decide)] at hends
      rw [← hkeep]
      exact hends

end Sys2Proof.Machine

/-!
O9, slack regions as they open (R87, R106, R109, R110, R190): the test of a region, what a region in no step region becomes at its haul and at
its cut, and SLACK.OPEN by the entry that it binds.
-/

namespace Sys2Proof.Machine

/-! The test of a region (R106) -/

/-- The test of a region, with a COND that is not reserved, on an entry. -/
def Region.Passes (g : Region) (e : SumEntry) : Prop :=
  e.flags &&& g.mask = g.expect ∧ (g.cond = 0#4 ∨ (g.cond = 1#4 ∧ e.value = g.ra) ∨ (g.cond = 2#4 ∧ e.value ≠ g.ra)
    ∨ (g.cond = 3#4 ∧ e.value.toInt < g.ra.toInt) ∨ (g.cond = 4#4 ∧ e.value.toInt ≥ g.ra.toInt)
    ∨ (g.cond = 5#4 ∧ e.value.toNat < g.ra.toNat) ∨ (g.cond = 6#4 ∧ e.value.toNat ≥ g.ra.toNat))

theorem cond_cases {c : BitVec 4} (h : c.toNat < 7) : c = 0#4 ∨ c = 1#4 ∨ c = 2#4 ∨ c = 3#4 ∨ c = 4#4 ∨ c = 5#4 ∨ c = 6#4 := by
  revert c
  decide

theorem Region.holds_iff {g : Region} (e : SumEntry) (h : g.cond.toNat < 7) : g.holds e = true ↔ g.Passes e := by
  obtain ⟨-, h1, h2, h3, h4, h5, h6, -⟩ := condHolds_eq g.cond e.value g.ra 0#8
  unfold Region.holds Region.Passes
  rw [Bool.and_eq_true, beq_iff_eq, Bool.or_eq_true, beq_iff_eq]
  rcases cond_cases h with hc | hc | hc | hc | hc | hc | hc
  · simp [hc]
  · rw [h1 hc]
    simp [hc]
  · rw [h2 hc]
    simp [hc]
  · rw [h3 hc]
    simp [hc]
  · rw [h4 hc]
    simp [hc]
  · rw [h5 hc]
    simp [hc]
  · rw [h6 hc]
    simp [hc]

/-! Haul and cut outside every step region (R108, R111) -/

section Resolve

variable {y : Sys} {b : Fin 80} {g : Region} (hg : (y.bight b.val).region = some g) (hs : y.sigmaOf b.val = none)

theorem Sys.settleLocal_of_no_sigma (hs : y.sigmaOf b.val = none) (cut : Bool) : y.settleLocal b.val cut = y := by
  unfold Sys.settleLocal
  rw [hs]
  cases (y.bight b.val).run <;> rfl

include hg

/-- The region of a Bight resolves by its bound entry, once that is filled. -/
theorem Sys.resolveRegion_filled {e : SumEntry} (he : (y.bight b.val).arch.fifo.find? (fun d => d.id == g.bound && d.filled) = some e) :
    y.resolveRegion b.val = if g.holds e then y.haulRegion b.val (e.flags.setWidth 64) else y.cutRegion b.val (e.flags.setWidth 64) := by
  simp only [Sys.resolveRegion, Bight.boundEntry, hg, he, Option.map_some]

theorem Sys.resolveRegion_unfilled (he : (y.bight b.val).arch.fifo.find? (fun d => d.id == g.bound && d.filled) = none) : y.resolveRegion b.val = y := by
  simp only [Sys.resolveRegion, Bight.boundEntry, hg, he, Option.map_none]

include hs

theorem Sys.cutRegion_eq (flags : Word64) : y.cutRegion b.val flags = (y.setBight b.val ((y.bight b.val).cutTo g flags)).dropHeld b.val g.first := by
  simp only [Sys.cutRegion, hg, Sys.settleLocal_of_no_sigma hs]

/-- A region that holds no effects is hauled by its Bight alone. -/
theorem Sys.haulRegion_eq (hi : g.items = []) (flags : Word64) : y.haulRegion b.val flags = y.setBight b.val ((y.bight b.val).hauledTo g flags) := by
  simp only [Sys.haulRegion, hg, Sys.settleLocal_of_no_sigma hs, hi]
  rfl

end Resolve

/-- Nothing is held of a Bight that has nothing outstanding. -/
theorem Sys.dropHeld_of_nothing {y : Sys} {b : Nat} (h : ∀ g ∈ y.waiting, g.bight ≠ some b) (first : Nat) : y.dropHeld b first = y := by
  have hsame : y.waiting.filter (fun g => !(g.bight == some b && (match g.cap with | some c => decide (first ≤ c.seq) | none => true))) = y.waiting :=
    List.filter_eq_self.mpr (fun g hg => by simp [h g hg])
  unfold Sys.dropHeld
  exact congrArg (fun w => ({ y with waiting := w } : Sys)) hsame

/-! SLACK.OPEN (R106) -/

/-- Whether SLACK.OPEN waits. -/
def slackWaits (f : ControlF) (y : Sys) : Bool :=
  (y.bight f.b.val).region.isSome || ((y.sigmaOf f.b.val).isSome && !(y.bight f.b.val).arch.fifo.any (fun e => e.id == 0 && !e.bound))

/-- The Bight with the region that SLACK.OPEN opens on entry `e`. -/
def Bight.slackOpened (x : Bight) (f : ControlF) (q : Nat) (e : SumEntry) : Bight :=
  { x with arch := ({ x.arch with fifo := (openedRegion f q x.arch e).snap.fifo } : BightArch).step8, region := some (openedRegion f q x.arch e) }

/-- The effect of SLACK.OPEN. -/
def slackBody (f : ControlF) (q : Nat) (y : Sys) : Sys :=
  if 7 ≤ f.cond.toNat then y.onArch f.b.val q (fun a => (a.orHalyard hsBadEncoding).step8)
  else match (y.bight f.b.val).arch.oldest with
    | none => y.onArch f.b.val q (fun a => (a.orHalyard hsSlackUnbound).step8)
    | some e => (y.setBight f.b.val ((y.bight f.b.val).slackOpened f q e)).resolveRegion f.b.val

theorem exec_slackOpen (f : ControlF) (s : State) :
    exec (.slackOpen f) s = s.onSys (fun y => y.coreOp (.slackOpen f) f.b.val (slackWaits f) (slackBody f)) := rfl

section Open

variable {f : ControlF} {s : State} (h : CoreReady s f.b) (hr : (s.sys.bight f.b.val).region = none) (hs : s.sys.sigmaOf f.b.val = none)

include hr hs in
theorem slackWaits_eq_false : slackWaits f s.sys = false := by
  simp [slackWaits, hr, hs]

include h hr hs

theorem slackOpen_reserved (hc : 7 ≤ f.cond.toNat) :
    Ends (.slackOpen f) s f.b { s.arch f.b with pc := (s.arch f.b).pc + 8#64, halyard := (s.arch f.b).halyard ||| 0x0001#16 } :=
  ends_coreOp_of_body h _ (slackWaits_eq_false hr hs) (fun a => (a.orHalyard hsBadEncoding).step8) (if_pos hc) (exec_slackOpen f s)

theorem slackOpen_unbound (hc : f.cond.toNat < 7) (hall : ∀ d ∈ (s.arch f.b).fifo, d.bound = true) :
    Ends (.slackOpen f) s f.b { s.arch f.b with pc := (s.arch f.b).pc + 8#64, halyard := (s.arch f.b).halyard ||| 0x0010#16 } := by
  refine ends_coreOp_of_body h _ (slackWaits_eq_false hr hs) (fun a => (a.orHalyard hsSlackUnbound).step8) ?_ (exec_slackOpen f s)
  have hold : ((s.sys.numbered f.b.val).bight f.b.val).arch.oldest = none := by
    rw [Sys.numbered_bight]
    exact BightArch.oldest_eq_none hall
  rw [slackBody, if_neg (Nat.not_le.mpr hc), hold]

variable {pre post : List SumEntry} {e : SumEntry} (he : OldestOf (s.arch f.b) pre e post) (hc : f.cond.toNat < 7)

/-- The Bight once SLACK.OPEN has bound entry `e`. -/
def State.opened (s : State) (f : ControlF) (e : SumEntry) : Bight :=
  ({ s.sys.bight f.b.val with nextSeq := (s.sys.bight f.b.val).nextSeq + 1 } : Bight).slackOpened f (s.sys.bight f.b.val).nextSeq e

include he hc

/-- SLACK.OPEN binds the oldest unbound entry; the region resolves at once where that is filled (R190). -/
theorem exec_slackOpen_binds :
    exec (.slackOpen f) s = .next { s with sys := { (s.sys.setBight f.b.val (s.opened f e)).resolveRegion f.b.val with replay := none } } := by
  have hbody : slackBody f (s.sys.bight f.b.val).nextSeq (s.sys.numbered f.b.val) = (s.sys.setBight f.b.val (s.opened f e)).resolveRegion f.b.val := by
    have hold : ((s.sys.numbered f.b.val).bight f.b.val).arch.oldest = some e := by
      rw [Sys.numbered_bight]
      exact he.oldest_eq
    rw [slackBody, if_neg (Nat.not_le.mpr hc), hold]
    dsimp only
    rw [Sys.numbered_bight, Sys.numbered, Sys.setBight_setBight]
    rfl
  rw [exec_slackOpen, State.onSys_next, Sys.coreOp_ready h _ (slackWaits_eq_false hr hs)]
  exact congrArg (fun y : Sys => Host.Outcome.next { s with sys := { y with replay := none } }) hbody

omit h hr hs hc in
theorem opened_fifo : (s.opened f e).arch.fifo = pre ++ { e with bound := true } :: post := by
  have hsame : ∀ l : List SumEntry, (∀ d ∈ l, d.id ≠ e.id) → l.map (fun d => if d.id == e.id then { d with bound := true } else d) = l := fun l hl => by
    rw [List.map_congr_left (g := fun d => d) (fun d hd => by simp [hl d hd]), List.map_id']
  have hmap : (s.opened f e).arch.fifo = (s.arch f.b).fifo.map (fun d => if d.id == e.id then { d with bound := true } else d) := rfl
  rw [hmap, he.fifo, List.map_append, List.map_cons, hsame pre (fun d hd => he.ids d (List.mem_append_left _ hd)),
    hsame post (fun d hd => he.ids d (List.mem_append_right _ hd)), if_pos (beq_self_eq_true _)]

omit h hr hs hc in
/-- The bound entry, as the region finds it. -/
theorem find_opened : (s.opened f e).arch.fifo.find? (fun d => d.id == e.id && d.filled) = if e.filled then some { e with bound := true } else none := by
  have hnone : ∀ l : List SumEntry, (∀ d ∈ l, d.id ≠ e.id) → l.find? (fun d => d.id == e.id && d.filled) = none := fun l hl =>
    List.find?_eq_none.mpr (fun d hd => by simp [hl d hd])
  rw [opened_fifo he, List.find?_append, hnone pre (fun d hd => he.ids d (List.mem_append_left _ hd)), List.find?_cons,
    hnone post (fun d hd => he.ids d (List.mem_append_right _ hd))]
  cases e.filled <;> simp

omit h hr hs hc in
theorem dropEntry_opened (a : BightArch) (ha : a.fifo = (s.opened f e).arch.fifo) : a.dropEntry e.id = { a with fifo := pre ++ post } := by
  have hids : ∀ l : List SumEntry, (∀ d ∈ l, d.id ≠ e.id) → l.filter (fun d => d.id != e.id) = l := fun l hl =>
    List.filter_eq_self.mpr (fun d hd => by simp [hl d hd])
  rw [BightArch.dropEntry, ha, opened_fifo he, List.filter_append, List.filter_cons, hids pre (fun d hd => he.ids d (List.mem_append_left _ hd)),
    hids post (fun d hd => he.ids d (List.mem_append_right _ hd))]
  simp

omit h hr hs he hc in
theorem opened_region : (s.opened f e).region = some (openedRegion f (s.sys.bight f.b.val).nextSeq (s.arch f.b) e) := rfl

omit h hr hs he hc in
theorem opened_resume (q : Nat) (a : BightArch) : (openedRegion f q a e).resume = BitVec.ofInt 64 (a.pc.toInt + 8 * (f.imm.extractLsb' 0 24).toInt) := by
  rw [← BitVec.setWidth_eq_extractLsb' (by decide)]
  exact offset_eq_ofInt (by decide) a.pc _

omit h hr hs he hc in
theorem opened_expect (q : Nat) (a : BightArch) : (openedRegion f q a e).expect = f.imm.extractLsb' 24 8 := rfl

omit h hr he hc in
theorem opened_sigma : (s.sys.setBight f.b.val (s.opened f e)).sigmaOf f.b.val = none := by
  rw [Sys.sigmaOf_setBight s.sys f.b (s.opened f e) rfl]
  exact hs

/-- SLACK.OPEN on an entry that is not filled. -/
theorem slackOpen_waits (hempty : e.filled = false) : ∃ t, exec (.slackOpen f) s = .next t ∧ OnlyBight s t f.b ∧ t.sys.bight f.b.val = s.opened f e := by
  have hregion : ((s.sys.setBight f.b.val (s.opened f e)).bight f.b.val).region = some (openedRegion f (s.sys.bight f.b.val).nextSeq (s.arch f.b) e) := by
    rw [Sys.bight_setBight]
    rfl
  have hexec := exec_slackOpen_binds h hr hs he hc
  rw [Sys.resolveRegion_unfilled hregion (by rw [Sys.bight_setBight]; exact (find_opened he).trans (by rw [hempty]; rfl))] at hexec
  obtain ⟨honly, hbight⟩ := onlyBight_setBight (s := s) (s.opened f e) rfl
  exact ⟨_, hexec, honly, hbight⟩

/-- SLACK.OPEN on a filled entry, of a Bight with nothing outstanding: the region resolves by its test. -/
theorem slackOpen_resolves (hfilled : e.filled = true) (hw : ∀ g ∈ s.sys.waiting, g.bight ≠ some f.b.val) {g : Region}
    (hg : (s.opened f e).region = some g) : ∃ t, exec (.slackOpen f) s = .next t ∧ OnlyBight s t f.b
      ∧ t.sys.bight f.b.val = if g.holds e then (s.opened f e).hauledTo g (e.flags.setWidth 64) else (s.opened f e).cutTo g (e.flags.setWidth 64) := by
  have hgid : g.bound = e.id ∧ g.items = [] := by
    rw [opened_region, Option.some.injEq] at hg
    subst hg
    exact ⟨rfl, rfl⟩
  have hregion : ((s.sys.setBight f.b.val (s.opened f e)).bight f.b.val).region = some g := by rw [Sys.bight_setBight, hg]
  have hsigma := opened_sigma (e := e) hs
  have hfound : ((s.sys.setBight f.b.val (s.opened f e)).bight f.b.val).arch.fifo.find? (fun d => d.id == g.bound && d.filled) = some { e with bound := true } := by
    rw [Sys.bight_setBight, hgid.1]
    exact (find_opened he).trans (if_pos hfilled)
  have hsame : g.holds { e with bound := true } = g.holds e := rfl
  have hresolve : (s.sys.setBight f.b.val (s.opened f e)).resolveRegion f.b.val = s.sys.setBight f.b.val
      (if g.holds e then (s.opened f e).hauledTo g (e.flags.setWidth 64) else (s.opened f e).cutTo g (e.flags.setWidth 64)) := by
    rw [Sys.resolveRegion_filled hregion hfound, hsame, Sys.haulRegion_eq hregion hsigma hgid.2, Sys.cutRegion_eq hregion hsigma, Sys.bight_setBight,
      Sys.setBight_setBight, Sys.setBight_setBight, Sys.dropHeld_of_nothing (y := s.sys.setBight f.b.val _) hw]
    split <;> rfl
  obtain ⟨honly, hbight⟩ := onlyBight_setBight (s := s) _ rfl
  exact ⟨_, (exec_slackOpen_binds h hr hs he hc).trans (by rw [hresolve]), honly, hbight⟩

end Open

/-! HAUL, CUT and QWAIT (R87, R109, R110) -/

/-- Whether HAUL waits. -/
def haulWaits (f : ControlF) (y : Sys) : Bool := (y.bight f.b.val).region.isSome

theorem exec_haul (f : ControlF) (s : State) :
    exec (.haul f) s = s.onSys (fun y => y.coreOp (.haul f) f.b.val (haulWaits f) (fun q y => y.onArch f.b.val q BightArch.step8)) := rfl

/-- The effect of CUT. -/
def cutBody (f : ControlF) (q : Nat) (y : Sys) : Sys :=
  if (y.bight f.b.val).region.isSome then y.cutRegion f.b.val 0#64 else y.onArch f.b.val q BightArch.step8

theorem exec_cut (f : ControlF) (s : State) : exec (.cut f) s = s.onSys (fun y => y.coreOp (.cut f) f.b.val (fun _ => false) (cutBody f)) := rfl

/-- CUT with no region open goes on. -/
theorem cut_ends {f : ControlF} {s : State} (h : CoreReady s f.b) (hr : (s.sys.bight f.b.val).region = none) :
    Ends (.cut f) s f.b (s.arch f.b).step8 := by
  refine ends_coreOp_of_body h (.cut f) rfl BightArch.step8 (if_neg ?_) (exec_cut f s)
  rw [Sys.numbered_bight]
  simp [hr]

/-- Whether QWAIT waits for one of the queues that it names. -/
def qwaitWaits (f : ControlF) (y : Sys) : Bool :=
  (f.cond.getLsbD 0 && y.queueBusy f.b.val y.ordNow .matrix) || (f.cond.getLsbD 1 && y.queueBusy f.b.val y.ordNow .vector) ||
    (f.cond.getLsbD 2 && y.queueBusy f.b.val y.ordNow .mover)

theorem exec_qwait (f : ControlF) (s : State) :
    exec (.qwait f) s = s.onSys (fun y => y.coreOp (.qwait f) f.b.val (qwaitWaits f) (fun q y => y.onArch f.b.val q BightArch.step8)) := rfl

theorem qwaitWaits_eq_false {f : ControlF} {y : Sys} (h : y.anyBusy f.b.val y.ordNow = false) : qwaitWaits f y = false := by
  simp only [Sys.anyBusy, Bool.or_eq_false_iff] at h
  obtain ⟨⟨hmatrix, hvector⟩, hmover⟩ := h
  simp [qwaitWaits, hmatrix, hvector, hmover]

/-- Settles O9: SLACK.OPEN by its COND and the entry that it binds; the others by whether a region is open. -/
theorem slackOpens : Obligations.SlackOpens := by
  unfold Obligations.SlackOpens
  refine ⟨fun f s h hr hs => ⟨fun hc => slackOpen_reserved h hr hs hc, fun hc hall => slackOpen_unbound h hr hs hc hall, ?_, ?_⟩, fun f s h => ⟨fun hr => ⟨?_, ?_, ?_⟩, ?_⟩⟩
  · intro e pre post hc hfifo hpre hunbound hids hfilled hw a holds left over_
    have he : OldestOf (s.arch f.b) pre e post := ⟨hfifo, hpre, hunbound, hids⟩
    obtain ⟨t, hexec, honly, hbight⟩ := slackOpen_resolves h hr hs he hc hfilled hw opened_region
    have hiff : (openedRegion f (s.sys.bight f.b.val).nextSeq (s.arch f.b) e).holds e = true ↔ holds := Region.holds_iff e hc
    refine ⟨fun hholds => ⟨t, hexec, honly, ?_⟩, fun hfails => ⟨t, hexec, honly, ?_⟩⟩
    · rw [if_pos (hiff.mpr hholds)] at hbight
      refine ⟨congrArg Bight.region hbight, (congrArg Bight.arch hbight).trans ?_⟩
      show ((s.opened f e).arch.dropEntry e.id).setS f.rb _ = _
      rw [dropEntry_opened he _ rfl, setWidth_flags]
      exact BightArch.setS_pc_comm { s.arch f.b with fifo := pre ++ post } ((s.arch f.b).pc + 8#64) f.rb _
    · rw [if_neg (fun hh => hfails (hiff.mp hh))] at hbight
      refine ⟨congrArg Bight.region hbight, (congrArg Bight.arch hbight).trans ?_⟩
      show ({ ((openedRegion f (s.sys.bight f.b.val).nextSeq (s.arch f.b) e).snap.dropEntry e.id).setS f.rb _ with
        pc := (openedRegion f (s.sys.bight f.b.val).nextSeq (s.arch f.b) e).resume } : BightArch) = _
      rw [opened_resume, dropEntry_opened he (openedRegion f (s.sys.bight f.b.val).nextSeq (s.arch f.b) e).snap rfl, setWidth_flags]
      rfl
  · intro e pre post hc hfifo hpre hunbound hids hempty
    have he : OldestOf (s.arch f.b) pre e post := ⟨hfifo, hpre, hunbound, hids⟩
    obtain ⟨t, hexec, honly, hbight⟩ := slackOpen_waits h hr hs he hc hempty
    have harch : t.arch f.b = (s.opened f e).arch := congrArg Bight.arch hbight
    have hopened : (s.opened f e).arch = { s.arch f.b with fifo := pre ++ { e with bound := true } :: post, pc := (s.arch f.b).pc + 8#64 } := by
      rw [← opened_fifo he]
      rfl
    exact ⟨t, _, hexec, honly, congrArg Bight.region hbight, harch.trans hopened, harch.symm, rfl, rfl, rfl, opened_expect _ _, rfl, rfl, opened_resume _ _, rfl⟩
  · exact ends_coreOp h _ (by simp [haulWaits, hr]) BightArch.step8 (exec_haul f s)
  · exact cut_ends h hr
  · intro hw hd hsets hpend
    exact ends_coreOp h _ (qwaitWaits_eq_false (Sys.anyBusy_of_nothing hw hd hsets hpend _)) BightArch.step8 (exec_qwait f s)
  · intro hopen
    exact coreOp_waits h hopen (exec_haul f s)

end Sys2Proof.Machine

/-!
O10, the end of a slack region (R108, R110, R111): one lemma says what the cut of a region leaves, for CUT and for a test that fails.
-/

namespace Sys2Proof.Machine

/-! The bound entry and its test -/

theorem find_bound {l : List SumEntry} {e : SumEntry} {n : Nat} (hmem : e ∈ l) (hid : e.id = n) (hfilled : e.filled = true)
    (hone : ∀ d ∈ l, d.id = n → d = e) : l.find? (fun d => d.id == n && d.filled) = some e := by
  cases hfind : l.find? (fun d => d.id == n && d.filled) with
  | none =>
    have hnot := List.find?_eq_none.mp hfind e hmem
    simp [hid, hfilled] at hnot
  | some d =>
    have hd := List.find?_some hfind
    simp only [Bool.and_eq_true, beq_iff_eq] at hd
    rw [hone d (List.mem_of_find?_eq_some hfind) hd.1]

/-- The test of a region fails on an entry, by its flags or by a relation that does not hold. -/
def Region.Fails (g : Region) (e : SumEntry) : Prop :=
  e.flags &&& g.mask ≠ g.expect ∨ (g.cond = 1#4 ∧ e.value ≠ g.ra) ∨ (g.cond = 2#4 ∧ e.value = g.ra)
    ∨ (g.cond = 3#4 ∧ e.value.toInt ≥ g.ra.toInt) ∨ (g.cond = 4#4 ∧ e.value.toInt < g.ra.toInt)
    ∨ (g.cond = 5#4 ∧ e.value.toNat ≥ g.ra.toNat) ∨ (g.cond = 6#4 ∧ e.value.toNat < g.ra.toNat)

theorem Region.holds_eq_true {g : Region} {e : SumEntry} (h : g.Passes e) : g.holds e = true := by
  refine (Region.holds_iff e ?_).mpr h
  obtain ⟨-, h⟩ := h
  rcases h with hc | ⟨hc, -⟩ | ⟨hc, -⟩ | ⟨hc, -⟩ | ⟨hc, -⟩ | ⟨hc, -⟩ | ⟨hc, -⟩ <;> rw [hc] <;> decide

theorem Region.holds_eq_false {g : Region} {e : SumEntry} (h : g.Fails e) : g.holds e = false := by
  obtain ⟨-, h1, h2, h3, h4, h5, h6, -⟩ := condHolds_eq g.cond e.value g.ra 0#8
  unfold Region.holds
  rcases h with hflags | ⟨hc, hv⟩ | ⟨hc, hv⟩ | ⟨hc, hv⟩ | ⟨hc, hv⟩ | ⟨hc, hv⟩ | ⟨hc, hv⟩
  · simp [hflags]
  · rw [h1 hc]
    simp [hc, hv]
  · rw [h2 hc]
    simp [hc, hv]
  · rw [h3 hc]
    simp [hc, hv]
  · rw [h4 hc]
    simp [hc, hv]
  · rw [h5 hc]
    simp [hc, hv]
  · rw [h6 hc]
    simp [hc, hv]

/-! The cut (R111) -/

/-- From `s` to `t` the region `g` of Bight `b` has been cut, with `v` in s[RB]. -/
def IsCut (s t : State) (b : Fin 80) (g : Region) (v : Word64) : Prop :=
  (t.sys.bight b.val).region = none
    ∧ t.arch b = { ({ g.snap with fifo := g.snap.fifo.filter (fun e => e.id != g.bound) } : BightArch).setS g.rb v with pc := g.resume }
    ∧ (∀ h ∈ t.sys.waiting, h ∈ s.sys.waiting) ∧ (∀ c : Fin 80, c ≠ b → t.sys.bight c.val = s.sys.bight c.val)
    ∧ t.pending = s.pending ∧ t.fuses = s.fuses
    ∧ { t.sys with bights := s.sys.bights, waiting := s.sys.waiting, replay := s.sys.replay } = s.sys

/-- What is left once a Bight `x` with the region is cut and its held instructions are gone. -/
theorem isCut_dropHeld (s : State) (b : Fin 80) (g : Region) (x : Bight) (v : Word64) (first : Nat) (replay : Option Held) :
    IsCut s { s with sys := { (s.sys.setBight b.val (x.cutTo g v)).dropHeld b.val first with replay := replay } } b g v := by
  have hbight : ((s.sys.setBight b.val (x.cutTo g v)).dropHeld b.val first).bight b.val = x.cutTo g v := Sys.bight_setBight ..
  refine ⟨congrArg Bight.region hbight, congrArg Bight.arch hbight, fun h hh => List.mem_of_mem_filter hh, fun c hc => ?_, rfl, rfl, rfl⟩
  exact Sys.bight_setBight_other s.sys _ (by simpa [Fin.ext_iff] using hc)

section Cut

variable {b : Fin 80} {g : Region} {s : State} (hg : (s.sys.bight b.val).region = some g) (hs : s.sys.sigmaOf b.val = none)
include hg hs

/-- CUT of an open region (R110). -/
theorem cut_isCut {f : ControlF} (hf : f.b = b) (h : CoreReady s b) : ∃ t, exec (.cut f) s = .next t ∧ IsCut s t b g 0#64 := by
  subst hf
  have hregion : ((s.sys.numbered f.b.val).bight f.b.val).region = some g := by rw [Sys.numbered_bight]; exact hg
  have hbody : cutBody f (s.sys.bight f.b.val).nextSeq (s.sys.numbered f.b.val)
      = (s.sys.setBight f.b.val (((s.sys.numbered f.b.val).bight f.b.val).cutTo g 0#64)).dropHeld f.b.val g.first := by
    rw [cutBody, if_pos (by rw [hregion]; rfl), Sys.cutRegion_eq hregion (by rw [Sys.numbered_sigmaOf]; exact hs)]
    conv => lhs; rw [Sys.numbered, Sys.setBight_setBight]
    rfl
  refine ⟨_, ?_, isCut_dropHeld s f.b g ((s.sys.numbered f.b.val).bight f.b.val) 0#64 g.first none⟩
  rw [exec_cut, State.onSys_next, Sys.coreOp_ready h _ rfl]
  exact congrArg (fun y : Sys => Host.Outcome.next { s with sys := { y with replay := none } }) hbody

variable {e : SumEntry} (he : (s.arch b).fifo.find? (fun d => d.id == g.bound && d.filled) = some e)
include he

omit hs in
theorem boundEntry_eq : (s.sys.bight b.val).boundEntry = some (g, e) := by
  have he' : (s.sys.bight b.val).arch.fifo.find? (fun d => d.id == g.bound && d.filled) = some e := he
  simp only [Bight.boundEntry, hg, he', Option.map_some]

/-- The resolution of a region whose test fails (R111). -/
theorem slackRegionCut_isCut (hfails : g.Fails e) : ∃ t, exec (.slackRegionCut b) s = .next t ∧ IsCut s t b g (0#56 ++ e.flags) := by
  refine ⟨_, ?_, isCut_dropHeld s b g (s.sys.bight b.val) (0#56 ++ e.flags) g.first s.sys.replay⟩
  show execSlackRegionCut b s = _
  unfold execSlackRegionCut
  rw [State.onSys_next, boundEntry_eq hg he]
  dsimp only
  rw [if_neg (by simp [Region.holds_eq_false hfails]), Sys.cutRegion_eq hg hs, setWidth_flags]
  rfl

/-- The resolution of a region that holds no effects and whose test holds (R108). -/
theorem slackRegionHaul_only (hi : g.items = []) (hpasses : g.Passes e) : ∃ t, exec (.slackRegionHaul b) s = .next t ∧ OnlyBight s t b
    ∧ t.sys.bight b.val = (s.sys.bight b.val).hauledTo g (0#56 ++ e.flags) := by
  refine ⟨{ s with sys := s.sys.setBight b.val ((s.sys.bight b.val).hauledTo g (0#56 ++ e.flags)) }, ?_, ⟨rfl, rfl, rfl, fun c hc => ?_⟩, Sys.bight_setBight ..⟩
  · show execSlackRegionHaul b s = _
    unfold execSlackRegionHaul
    rw [State.onSys_next, boundEntry_eq hg he]
    dsimp only
    rw [if_pos (Region.holds_eq_true hpasses), Sys.haulRegion_eq hg hs hi, setWidth_flags]
  · exact Sys.bight_setBight_other s.sys _ (by simpa [Fin.ext_iff] using hc)

end Cut

/-- Settles O10: a cut by `isCut_dropHeld`, whichever instruction makes it; a haul without effects changes the Bight alone. -/
theorem slackResolves : Obligations.SlackResolves := by
  unfold Obligations.SlackResolves
  refine ⟨fun b g s hg hs => ⟨fun f hf h => cut_isCut hg hs hf h, fun e hmem hid hfilled hone hfails => ?_⟩,
    fun b g s hg hs hi e hmem hid hfilled hone hflags hcond => ?_⟩
  · exact slackRegionCut_isCut hg hs (find_bound hmem hid hfilled hone) hfails
  · obtain ⟨t, hexec, honly, hbight⟩ := slackRegionHaul_only hg hs (find_bound hmem hid hfilled hone) hi ⟨hflags, hcond⟩
    exact ⟨t, hexec, honly, congrArg Bight.region hbight, congrArg Bight.arch hbight⟩

end Sys2Proof.Machine

/-!
O12, reserved words (R82): the word's class selects the unit that reports BAD_ENCODING.
-/

namespace Sys2Proof.Machine

theorem wordClass_eq (w : Word64) : wordClass w = w.toNat / 2 ^ 60 := by
  simp [wordClass, BitVec.extractLsb'_toNat, Nat.shiftRight_eq_div_pow]
  have := w.isLt
  omega

section Reserved

variable {b : Fin 80} {w : Word64} {s : State}

/-- A reserved word of a queue class, whose unit's report is `bad`. -/
theorem queued_reserved (h : QueueReady s b) (hh : HitchReady s b (w.getLsbD 27) (w.extractLsb' 22 5)) {eng : Engine} {bad : BightArch → BightArch}
    (hexec : exec (.reservedOpcode b w) s = s.onSys (fun y => y.queueOp (.reservedOpcode b w) b.val (reservedQ eng w bad))) :
    Queued (.reservedOpcode b w) s b (w.getLsbD 27) (w.extractLsb' 22 5) (w.getLsbD 21) (w.extractLsb' 16 5) eng False (fun x a => a = bad x) := by
  have hregion : ((atEffect s.sys b.val (reservedQ eng w bad) false).bight b.val).region = none := by
    obtain ⟨-, -, -, -, hr, -⟩ := h
    simpa [atEffect] using hr
  refine queued_of_effect (q := reservedQ eng w bad) (push := false) h hh hexec rfl rfl (fun _ => rfl) (fun hp => nomatch hp) rfl ?_ rfl
  show ((atEffect s.sys b.val (reservedQ eng w bad) false).onArch b.val _ bad, none) = _
  rw [Sys.onArch_none hregion, atEffect_arch rfl]
  rfl

theorem exec_reservedOpcode (b : Fin 80) (w : Word64) (s : State) : exec (.reservedOpcode b w) s = execReservedOpcode b w s := rfl

theorem exec_reserved_matrix (h : wordClass w = 2) : exec (.reservedOpcode b w) s
    = s.onSys (fun y => y.queueOp (.reservedOpcode b w) b.val (reservedQ .matrix w (fun a => a.orLay lsBadEncoding))) := by
  rw [exec_reservedOpcode, execReservedOpcode]
  simp only [h]

theorem exec_reserved_vector (h : wordClass w = 3) : exec (.reservedOpcode b w) s
    = s.onSys (fun y => y.queueOp (.reservedOpcode b w) b.val (reservedQ .vector w (fun a => a.orServe ssBadEncoding))) := by
  rw [exec_reservedOpcode, execReservedOpcode]
  simp only [h]

theorem exec_reserved_mover (h : wordClass w = 4) : exec (.reservedOpcode b w) s
    = s.onSys (fun y => y.queueOp (.reservedOpcode b w) b.val (reservedQ .mover w (fun a => a.orFairlead fsBadEncoding))) := by
  rw [exec_reservedOpcode, execReservedOpcode]
  simp only [h]

theorem exec_reserved_core (h : wordClass w < 2 ∨ 4 < wordClass w) : exec (.reservedOpcode b w) s
    = s.onSys (fun y => y.coreArch (.reservedOpcode b w) b.val (fun a => a.orHalyard hsBadEncoding)) := by
  rw [exec_reservedOpcode, execReservedOpcode]
  generalize wordClass w = c at h
  match c, h with
  | 0, _ => rfl
  | 1, _ => rfl
  | _ + 5, _ => rfl

end Reserved

/-- Settles O12: the three queue classes by `queued_reserved`, every other class by the Halyard core. -/
theorem reservedWords : Obligations.ReservedWords := by
  unfold Obligations.ReservedWords
  intro b w s h _ cls wait waitH queued
  have hcls : wordClass w = cls := wordClass_eq w
  refine ⟨fun hc hh => ?_, fun hc hh => ?_, fun hc hh => ?_, fun hc => ?_⟩
  · exact queued_reserved h hh (exec_reserved_matrix (hcls.trans hc))
  · exact queued_reserved h hh (exec_reserved_vector (hcls.trans hc))
  · exact queued_reserved h hh (exec_reserved_mover (hcls.trans hc))
  · rw [← hcls] at hc
    exact ends_coreArch h.1 _ (fun a => a.orHalyard hsBadEncoding) (exec_reserved_core hc)

end Sys2Proof.Machine

/-!
Vector instructions that may consume poison (R94, R97, R100, R432): the lanes, the set and the status bits are the same whatever is recorded of
the poison; nothing outside the Bight changes where there is none.
-/

namespace Sys2Proof.Machine

/-! An operation with its poison record -/

/-- What an operation of the Serving unit leaves of its Bight, whatever it consumed. -/
theorem Sys.bight_onVec {y : Sys} {b : Fin 80} (hr : (y.bight b.val).region = none) (cap : Cap) (g : Cap → BightArch → VRes) :
    ∃ seen, (y.onVec b.val cap g).bight b.val = { y.bight b.val with arch := (g cap (y.bight b.val).arch).arch, seen := seen } := by
  obtain ⟨seen, hseen⟩ := Sys.bight_saw (y.setBight b.val { y.bight b.val with arch := (g cap (y.bight b.val).arch).arch }) b (g cap (y.bight b.val).arch).seen
  refine ⟨seen, ?_⟩
  rw [Sys.bight_setBight] at hseen
  rw [← hseen]
  simp only [Sys.onVec, hr, Option.map_none]

section Poison

variable {s : State} {f : VectorF} {i : Instr} {n : Nat} {g : Cap → BightArch → VRes}

/-- A vector instruction completes with what its operation gives, poisoned or not. -/
theorem serves_of_op (h : QueueReady s f.b) (hh : HitchReady s f.b f.waitEn f.waitH) (hexec : exec i s = s.vector i f n false g) {r : VRes}
    (hres : g (vecCap s f false) (s.atIssue f.b f.waitEn f.waitH) = r) {poisoned : Prop} (hclean : ¬ poisoned → r.seen = .clean)
    {post : BightArch → BightArch → Prop} (hpost : post (s.atIssue f.b f.waitEn f.waitH) r.arch) : Serves i s f poisoned post := by
  by_cases hp : poisoned
  · let q := vecQ f false (fun _ => { Foot.none with vregs := vecDest f n }) g
    have hfree : ∀ w, q.wait = some w → (s.arch f.b).hitch w = true := fun w hw => by
      have hw' : optHitch f.waitEn f.waitH = some w := hw
      cases hen : f.waitEn with
      | false => rw [hen] at hw'; cases hw'
      | true => rw [hen] at hw'; cases hw'; exact hh hen
    have hregion : ((atEffect s.sys f.b.val q false).bight f.b.val).region = none := by
      obtain ⟨-, -, -, -, hr, -⟩ := h
      simpa [atEffect] using hr
    obtain ⟨seen, hseen⟩ := Sys.bight_onVec hregion (vecCap s f false) g
    have harch : ((atEffect s.sys f.b.val q false).bight f.b.val).arch = s.atIssue f.b f.waitEn f.waitH := atEffect_arch rfl
    rw [harch, hres] at hseen
    have hrun := Sys.queueOp_ready h i q false (fun _ => rfl) (fun hpush => nomatch hpush) hfree rfl
    refine ⟨_, r.arch, hexec, hpost, ?_, fun hnot => absurd hp hnot⟩
    show ((s.sys.queueOp i f.b.val q).bight f.b.val).arch = _
    rw [hrun]
    show ((((atEffect s.sys f.b.val q false).onVec f.b.val (vecCap s f false) g).onArch f.b.val _ _).bight f.b.val).arch = _
    rw [Sys.onArch_none (by rw [hseen]; exact hregion), Sys.bight_setBight, hseen]
    exact setHitchOpt_eq_andSet ..
  · exact serves_of_res h hh hexec (fun hpush => nomatch hpush) hres (by rw [hclean hp]; rfl) hpost

/-- A vector instruction that computes lanes writes them, and consumes the poison of those that are active. -/
theorem serves_laneWrite (h : QueueReady s f.b) (hh : HitchReady s f.b f.waitEn f.waitH) (hexec : exec i s = s.vector i f n false g) {fp : Bool} {res : Nat → Lane}
    (hop : g (vecCap s f false) (s.atIssue f.b f.waitEn f.waitH) = vecWrite f (s.atIssue f.b f.waitEn f.waitH) fp true res never never) :
    Serves i s f (lanePoison f (s.atIssue f.b f.waitEn f.waitH) res) (LaneWrite f fp res) :=
  serves_of_op h hh hexec hop (fun hclean => vecWrite_seen_clean f _ fp true never never (clean_of_not_lanePoison hclean)) (laneWrite_vecWrite ..)

end Poison

/-! Operands (R94) -/

theorem getD_vecCap_regs_one (s : State) (f : VectorF) (push : Bool) : (vecCap s f push).regs.getD 1 0#64 = (s.arch f.b).s (f.vb.extractLsb' 0 5) := by
  rw [← BitVec.setWidth_eq_extractLsb' (by decide : 5 ≤ 6)]
  rfl

theorem getD_vecCap_regs_zero (s : State) (f : VectorF) (push : Bool) : (vecCap s f push).regs.getD 0 0#64 = (s.arch f.b).s (f.va.extractLsb' 0 5) := by
  rw [← BitVec.setWidth_eq_extractLsb' (by decide : 5 ≤ 6)]
  rfl

/-- The second operand, with the scalar captured at dispatch. -/
theorem vecB_vecCap (s : State) (f : VectorF) (push : Bool) (x : BightArch) (l : Nat) : vecB f (vecCap s f push).regs x l = second f s x l := by
  rw [vecB, second, getD_vecCap_regs_one, ← BitVec.setWidth_eq_extractLsb' (by decide : 32 ≤ 64)]
  rfl

end Sys2Proof.Machine

/-!
O13, vector arithmetic (R94 to R98, R100): the operations of each TYPE as arithmetic on lanes, and the forms with one, two and three operands.
-/

namespace Sys2Proof.Machine

/-! Operations on lanes by TYPE (R98) -/

theorem add_mul_eq_ofNat (a b c : Word32) : a * b + c = BitVec.ofNat 32 (a.toNat * b.toNat + c.toNat) := by
  apply BitVec.eq_of_toNat_eq
  simp

theorem neg_eq_ofInt (a : Word32) : -a = BitVec.ofInt 32 (- a.toInt) := by
  apply BitVec.eq_of_toInt_eq
  simp [BitVec.toInt_neg]

theorem vMin_signed {t : BitVec 2} (ht : t = 1#2) (a b : Word32) : vMin t a b = BitVec.ofInt 32 (min a.toInt b.toInt) := by
  subst ht
  exact select_min_eq_ofInt a b

theorem vMax_signed {t : BitVec 2} (ht : t = 1#2) (a b : Word32) : vMax t a b = BitVec.ofInt 32 (max a.toInt b.toInt) := by
  subst ht
  exact select_max_eq_ofInt a b

theorem vMin_unsigned {t : BitVec 2} (ht : t = 2#2) (a b : Word32) : vMin t a b = BitVec.ofNat 32 (min a.toNat b.toNat) := by
  subst ht
  exact select_minu_eq_ofNat a b

theorem vMax_unsigned {t : BitVec 2} (ht : t = 2#2) (a b : Word32) : vMax t a b = BitVec.ofNat 32 (max a.toNat b.toNat) := by
  subst ht
  exact select_maxu_eq_ofNat a b

/-- The least value of TYPE 1 has no magnitude of its own. -/
theorem vAbs_signed {t : BitVec 2} (ht : t = 1#2) (a : Word32) : vAbs t a = if a = 0x80000000#32 then Config.absLeast else BitVec.ofInt 32 |a.toInt| := by
  have hones : ∀ v w : Word32, (if (1#2 : BitVec 2) = 0#2 then v else if (1#2 : BitVec 2) = 1#2 then w else a) = w := fun _ _ => rfl
  rw [ht, vAbs, hones]
  refine if_ctx_congr Iff.rfl (fun _ => rfl) (fun _ => ?_)
  split
  · next hneg => rw [abs_of_neg hneg, neg_eq_ofInt]
  · next hpos => rw [abs_of_nonneg (not_lt.mp hpos), BitVec.ofInt_toInt]

theorem vAbs_unsigned {t : BitVec 2} (ht : t = 2#2) (a : Word32) : vAbs t a = a := by
  subst ht
  rfl

section Forms

variable {f : VectorF} {s : State} (h : QueueReady s f.b) (hh : HitchReady s f.b f.waitEn f.waitH) (ht : f.type ≠ 3#2)
include h hh ht

/-- A form with two operands, whose operation comes to `op'` for the TYPE. -/
theorem serves_vecBin {i : Instr} (op : BitVec 2 → Word32 → Word32 → Word32) (hexec : exec i s = s.vector i f 1 false (vecBin op f)) (op' : Word32 → Word32 → Word32)
    (hop : ∀ a b, op f.type a b = op' a b) :
    let x := s.atIssue f.b f.waitEn f.waitH
    let res := fun l => (⟨op' (x.lane f.va.toNat l).val (second f s x l).val, (x.lane f.va.toNat l).mark.worse (second f s x l).mark⟩ : Lane)
    Serves i s f (lanePoison f x res) (LaneWrite f (f.type == 0#2) res) := by
  refine serves_laneWrite h hh hexec ?_
  rw [vecBin, if_neg (by simpa [typeBad] using ht)]
  simp only [lane2, vecB_vecCap, hop]
  rfl

/-- A form with one operand. -/
theorem serves_vecUn {i : Instr} (op : BitVec 2 → Word32 → Word32) (hexec : exec i s = s.vector i f 1 false (vecUn op f)) (op' : Word32 → Word32)
    (hop : ∀ a, op f.type a = op' a) :
    let x := s.atIssue f.b f.waitEn f.waitH
    let res := fun l => (⟨op' (x.lane f.va.toNat l).val, (x.lane f.va.toNat l).mark⟩ : Lane)
    Serves i s f (lanePoison f x res) (LaneWrite f (f.type == 0#2) res) := by
  refine serves_laneWrite h hh hexec ?_
  rw [vecUn, if_neg (by simpa [typeBad] using ht)]
  simp only [lane1, hop]
  rfl

/-- VFMA, the form with three operands. -/
theorem serves_vecFma (op' : Word32 → Word32 → Word32 → Word32) (hop : ∀ a b c, vFma f.type a b c = op' a b c) :
    let x := s.atIssue f.b f.waitEn f.waitH
    let res := fun l => (⟨op' (x.lane f.va.toNat l).val (second f s x l).val (x.lane f.vc.toNat l).val,
      ((x.lane f.va.toNat l).mark.worse (second f s x l).mark).worse (x.lane f.vc.toNat l).mark⟩ : Lane)
    Serves (.vfma f) s f (lanePoison f x res) (LaneWrite f (f.type == 0#2) res) := by
  refine serves_laneWrite (g := vecFma f) (n := 1) h hh rfl ?_
  rw [vecFma, if_neg (by simpa [typeBad] using ht)]
  simp only [lane3, vecB_vecCap, hop]
  rfl

end Forms

/-- TYPE 3 is reserved in every form that reads TYPE (R94). -/
theorem serves_typeBad {f : VectorF} {s : State} (h : QueueReady s f.b) (hh : HitchReady s f.b f.waitEn f.waitH) (ht : f.type = 3#2) {i : Instr} {n : Nat}
    {op : Cap → BightArch → VRes} (hexec : exec i s = s.vector i f n false (fun cap a => if typeBad f then vecBad cap a else op cap a)) :
    Serves i s f False (fun x a => a = { x with serve := x.serve ||| 0x0020#16 }) :=
  serves_vecBad h hh hexec (fun _ _ => if_pos (by rw [typeBad, ht]; rfl))

/-- Settles O13: each form by what its operation comes to for the TYPE. -/
theorem vectorArithmetic : Obligations.VectorArithmetic := by
  unfold Obligations.VectorArithmetic
  intro f s h hh x fp two one three
  refine ⟨fun ht => ?_, fun ht => ?_, fun ht => ?_, fun ht => ?_, fun ht => ?_⟩
  · have hne : f.type ≠ 3#2 := by rw [ht]; decide
    refine ⟨?_, ?_, ?_, ?_, ?_, ?_, ?_, ?_⟩
    · exact serves_vecBin h hh hne vAdd rfl _ (fun _ _ => if_pos ht)
    · exact serves_vecBin h hh hne vSub rfl _ (fun _ _ => if_pos ht)
    · exact serves_vecBin h hh hne vMul rfl _ (fun _ _ => if_pos ht)
    · exact serves_vecFma h hh hne _ (fun _ _ _ => if_pos ht)
    · exact serves_vecBin h hh hne vMin rfl _ (fun _ _ => if_pos ht)
    · exact serves_vecBin h hh hne vMax rfl _ (fun _ _ => if_pos ht)
    · exact serves_vecUn h hh hne vAbs rfl _ (fun _ => if_pos ht)
    · exact serves_vecUn h hh hne vNeg rfl _ (fun _ => if_pos ht)
  · have hne : f.type ≠ 3#2 := by rcases ht with ht | ht <;> rw [ht] <;> decide
    have hint : f.type ≠ 0#2 := by rcases ht with ht | ht <;> rw [ht] <;> decide
    refine ⟨?_, ?_, ?_, ?_, ?_⟩
    · exact serves_vecBin h hh hne vAdd rfl _ (fun a b => (if_neg hint).trans (add_eq_ofNat a b))
    · exact serves_vecBin h hh hne vSub rfl _ (fun a b => (if_neg hint).trans (sub_eq_ofInt a b))
    · exact serves_vecBin h hh hne vMul rfl _ (fun a b => (if_neg hint).trans (mul_eq_ofNat a b))
    · exact serves_vecFma h hh hne _ (fun a b c => (if_neg hint).trans (add_mul_eq_ofNat a b c))
    · exact serves_vecUn h hh hne vNeg rfl _ (fun a => (if_neg hint).trans (neg_eq_ofInt a))
  · have hne : f.type ≠ 3#2 := by rw [ht]; decide
    refine ⟨?_, ?_, ?_⟩
    · exact serves_vecBin h hh hne vMin rfl _ (vMin_signed ht)
    · exact serves_vecBin h hh hne vMax rfl _ (vMax_signed ht)
    · exact serves_vecUn h hh hne vAbs rfl _ (vAbs_signed ht)
  · have hne : f.type ≠ 3#2 := by rw [ht]; decide
    refine ⟨?_, ?_, ?_⟩
    · exact serves_vecBin h hh hne vMin rfl _ (vMin_unsigned ht)
    · exact serves_vecBin h hh hne vMax rfl _ (vMax_unsigned ht)
    · exact serves_vecUn h hh hne vAbs rfl _ (vAbs_unsigned ht)
  · intro i hi
    simp only [List.mem_cons, List.not_mem_nil, or_false] at hi
    rcases hi with rfl | rfl | rfl | rfl | rfl | rfl | rfl | rfl | rfl | rfl
    case inr.inr.inr.inr.inr.inr.inr.inr.inl =>
      exact serves_vecBad (g := vecCmp f) (n := 0) h hh rfl (fun _ _ => if_pos (by simp [typeBad, ht]))
    all_goals exact serves_typeBad h hh ht rfl

end Sys2Proof.Machine

/-!
O14, the FP32 functions, the bitwise operations and the shifts (R95, R98, R99), which read no TYPE.
-/

namespace Sys2Proof.Machine

theorem not_eq_ofFnLE {w : Nat} (a : BitVec w) : ~~~ a = BitVec.ofFnLE (fun i : Fin w => !a[i]) := by
  ext i hi
  simp

section Forms

variable {f : VectorF} {s : State} (h : QueueReady s f.b) (hh : HitchReady s f.b f.waitEn f.waitH)
include h hh

/-- A form with two operands whatever TYPE holds. -/
theorem serves_vecBin0 {i : Instr} (fp : Bool) (op : Word32 → Word32 → Word32) (hexec : exec i s = s.vector i f 1 false (vecBin0 fp op f))
    (op' : Word32 → Word32 → Word32) (hop : ∀ a b, op a b = op' a b) :
    let x := s.atIssue f.b f.waitEn f.waitH
    let res := fun l => (⟨op' (x.lane f.va.toNat l).val (second f s x l).val, (x.lane f.va.toNat l).mark.worse (second f s x l).mark⟩ : Lane)
    Serves i s f (lanePoison f x res) (LaneWrite f fp res) := by
  refine serves_laneWrite h hh hexec ?_
  simp only [vecBin0, lane2, vecB_vecCap, hop]

/-- A form with one operand whatever TYPE holds. -/
theorem serves_vecUn0 {i : Instr} (fp : Bool) (op : Word32 → Word32) (hexec : exec i s = s.vector i f 1 false (fun _ a => vecUn0 fp op f a))
    (op' : Word32 → Word32) (hop : ∀ a, op a = op' a) :
    let x := s.atIssue f.b f.waitEn f.waitH
    let res := fun l => (⟨op' (x.lane f.va.toNat l).val, (x.lane f.va.toNat l).mark⟩ : Lane)
    Serves i s f (lanePoison f x res) (LaneWrite f fp res) := by
  refine serves_laneWrite h hh hexec ?_
  simp only [vecUn0, lane1, hop]

end Forms

/-- Settles O14: each function as the form that it has, with its operation. -/
theorem vectorFunctions : Obligations.VectorFunctions := by
  unfold Obligations.VectorFunctions
  intro f s h hh x one two
  refine ⟨?_, ?_, ?_, ?_, ?_, ?_, ?_, ?_, ?_, ?_, ?_, ?_, ?_, ?_, ?_, ?_, ?_, ?_⟩
  · exact serves_vecBin0 h hh true fpDiv rfl _ (fun _ _ => rfl)
  · exact serves_vecUn0 h hh true fpRcp rfl _ (fun _ => rfl)
  · exact serves_vecUn0 h hh true fpSqrt rfl _ (fun _ => rfl)
  · exact serves_vecUn0 h hh true fpRsqrt rfl _ (fun _ => rfl)
  · exact serves_vecUn0 h hh true fpExp rfl _ (fun _ => rfl)
  · exact serves_vecUn0 h hh true fpExp2 rfl _ (fun _ => rfl)
  · exact serves_vecUn0 h hh true fpLog rfl _ (fun _ => rfl)
  · exact serves_vecUn0 h hh true fpLog2 rfl _ (fun _ => rfl)
  · exact serves_vecUn0 h hh true fpTanh rfl _ (fun _ => rfl)
  · exact serves_vecUn0 h hh true fpSigmoid rfl _ (fun _ => rfl)
  · exact serves_vecUn0 h hh true fpErf rfl _ (fun _ => rfl)
  · exact serves_vecBin0 h hh false (fun a b => a &&& b) rfl _ and_eq_ofFnLE
  · exact serves_vecBin0 h hh false (fun a b => a ||| b) rfl _ or_eq_ofFnLE
  · exact serves_vecBin0 h hh false (fun a b => a ^^^ b) rfl _ xor_eq_ofFnLE
  · exact serves_vecBin0 h hh false vShl rfl _ (fun a b => shiftLeft_eq_ofNat a (b.toNat % 32))
  · exact serves_vecBin0 h hh false vShr rfl _ (fun a b => ushiftRight_eq_ofNat a (b.toNat % 32))
  · exact serves_vecBin0 h hh false vSra rfl _ (fun a b => sshiftRight_eq_ofInt a (b.toNat % 32))
  · exact serves_vecUn0 h hh false (fun a => ~~~ a) rfl _ not_eq_ofFnLE

end Sys2Proof.Machine

/-!
O15, moves of lanes and writes of predicates (R95, R96, R432): a carrier of poison consumes none; a predicate register bit by bit; VCMP by its
two operands.
-/

namespace Sys2Proof.Machine

/-! Carriers of poison (R432) -/

theorem vecWrite_seen_carrier (f : VectorF) (x : BightArch) (fp : Bool) (res : Nat → Lane) (sat nan : Nat → Bool) :
    (vecWrite f x fp false res sat nan).seen = .clean := rfl

section Moves

variable {f : VectorF} {s : State} (h : QueueReady s f.b) (hh : HitchReady s f.b f.waitEn f.waitH)
include h hh

/-- An instruction that moves lanes writes them with their poison. -/
theorem serves_move {i : Instr} {n : Nat} {g : Cap → BightArch → VRes} (hexec : exec i s = s.vector i f n false g) {res res' : Nat → Lane}
    (hop : g (vecCap s f false) (s.atIssue f.b f.waitEn f.waitH) = vecWrite f (s.atIssue f.b f.waitEn f.waitH) true false res never never)
    (hres : ∀ l < 512, res l = res' l) : Serves i s f False (LaneWrite f true res') :=
  serves_of_op h hh hexec hop (fun _ => vecWrite_seen_carrier ..) ((laneWrite_vecWrite f _ true false res).congr (fun l hl _ => hres l hl))

end Moves

/-! Predicate registers (R83, R96) -/

/-- p0 reads as all ones, any other register as it stands. -/
theorem getLsbD_p (x : BightArch) (r : BitVec 4) {l : Nat} (hl : l < 512) :
    (x.p r).getLsbD l = decide (r = 0#4 ∨ (x.pregs[r.toNat]).getLsbD l = true) := by
  unfold BightArch.p
  by_cases hr : r = 0#4
  · rw [if_pos (show r = 0 from hr), BitVec.getLsbD_allOnes]
    simp [hr, hl]
  · rw [if_neg (show ¬ r = 0 from hr)]
    simp [hr]

theorem getLsbD_maskPred (f : VectorF) (x : BightArch) (res : Nat → Bool) {l : Nat} (hl : l < 512) (hd : f.vd.extractLsb' 0 4 ≠ 0#4) :
    (maskPred f x res).getLsbD l = if laneOn f x l then res l else if f.zero then false else (x.pregs[(f.vd.extractLsb' 0 4).toNat]).getLsbD l := by
  have hread : (x.p (f.vd.extractLsb' 0 4)).getLsbD l = (x.pregs[(f.vd.extractLsb' 0 4).toNat]).getLsbD l := by
    rw [getLsbD_p x _ hl]
    simp only [hd, false_or, Bool.decide_eq_true]
  rw [maskPred, BitVec.getLsbD_setWidth, BitVec.getLsbD_ofBoolListLE, BitVec.setWidth_eq_extractLsb' (by decide : 4 ≤ 6), List.getD_eq_getElem?_getD,
    List.getElem?_map, List.getElem?_range hl]
  simp only [hl, decide_true, Bool.true_and, Option.map_some, Option.getD_some, activeLane_eq f x hl, hread]

/-- A masked write of a predicate. -/
theorem predWrite_spec (f : VectorF) (x : BightArch) (res : Nat → Bool) : PredWrite f res x (predWrite f x res) := by
  have hdest : f.vd.setWidth 4 = f.vd.extractLsb' 0 4 := BitVec.setWidth_eq_extractLsb' (by decide)
  unfold PredWrite predWrite BightArch.setP
  rw [hdest]
  dsimp only
  by_cases hd : f.vd.extractLsb' 0 4 = 0#4
  · rw [if_pos (show f.vd.extractLsb' 0 4 = 0 from hd)]
    exact ⟨fun _ _ hne => absurd hd hne, fun _ _ => rfl, rfl⟩
  · rw [if_neg (show ¬ f.vd.extractLsb' 0 4 = 0 from hd)]
    refine ⟨fun l hl hne => ?_, fun r hr => ?_, rfl⟩
    · dsimp only
      rw [Vector.getElem_set_self]
      exact getLsbD_maskPred f x res hl hne
    · have hne : (f.vd.extractLsb' 0 4).toNat ≠ r.val := fun heq => hr.elim (fun hne => hne heq.symm) hd
      exact Vector.getElem_set_ne (f.vd.extractLsb' 0 4).isLt r.isLt hne

/-- Predicates that agree on all lanes write the same. -/
theorem PredWrite.congr {f : VectorF} {res res' : Nat → Bool} {x a : BightArch} (h : PredWrite f res x a) (heq : ∀ l < 512, res l = res' l) :
    PredWrite f res' x a := by
  obtain ⟨hlane, hother, hframe⟩ := h
  refine ⟨fun l hl hd => ?_, hother, hframe⟩
  rw [hlane l hl hd, heq l hl]

section Predicates

variable {f : VectorF} {s : State} (h : QueueReady s f.b) (hh : HitchReady s f.b f.waitEn f.waitH)
include h hh

/-- An instruction that writes a predicate alone. -/
theorem serves_pred {i : Instr} {g : Cap → BightArch → VRes} (hexec : exec i s = s.vector i f 0 false g) {res res' : Nat → Bool}
    (hop : g (vecCap s f false) (s.atIssue f.b f.waitEn f.waitH) = ⟨predWrite f (s.atIssue f.b f.waitEn f.waitH) res, .clean⟩)
    (hres : ∀ l < 512, res l = res' l) : Serves i s f False (fun x a => PredWrite f res' x a ∧ a.serve = x.serve) := by
  refine serves_of_op h hh hexec hop (fun _ => rfl) ⟨(predWrite_spec f _ res).congr hres, ?_⟩
  unfold predWrite BightArch.setP
  split <;> rfl

/-- The predicate operations, on what their operands read as. -/
theorem serves_predBin {i : Instr} (op : Bool → Bool → Bool) (hexec : exec i s = s.vector i f 0 false (fun _ a => predBin op f a)) {res : Nat → Bool}
    (hres : ∀ l, op (decide (f.va.extractLsb' 0 4 = 0#4 ∨ ((s.atIssue f.b f.waitEn f.waitH).pregs[(f.va.extractLsb' 0 4).toNat]).getLsbD l = true))
      (decide (f.vb.extractLsb' 0 4 = 0#4 ∨ ((s.atIssue f.b f.waitEn f.waitH).pregs[(f.vb.extractLsb' 0 4).toNat]).getLsbD l = true)) = res l) :
    Serves i s f False (fun x a => PredWrite f res x a ∧ a.serve = x.serve) := by
  refine serves_pred h hh hexec rfl (fun l hl => ?_)
  rw [getLsbD_p _ _ hl, getLsbD_p _ _ hl, BitVec.setWidth_eq_extractLsb' (by decide : 4 ≤ 6), BitVec.setWidth_eq_extractLsb' (by decide : 4 ≤ 6)]
  exact hres l

end Predicates

theorem xor_decide (p q : Prop) [Decidable p] [Decidable q] : (decide p ^^ decide q) = decide (¬ (p ↔ q)) := by
  by_cases hp : p
  · simp [hp]
  · simp [hp]

/-! VCMP -/

theorem isBad_worse (a b : Mark) : (a.worse b).isBad = (a.isBad || b.isBad) := by
  cases a <;> cases b <;> rfl

/-- The worst of some marks is poison exactly when one of them is. -/
theorem isBad_foldl_worse (p : Nat → Bool) (mk : Nat → Mark) (l : List Nat) (w : Mark) :
    (l.foldl (fun (w : Mark) x => if p x then w.worse (mk x) else w) w).isBad = (w.isBad || l.any (fun x => p x && (mk x).isBad)) := by
  induction l generalizing w with
  | nil => simp
  | cons x t ih =>
    rw [List.foldl_cons, ih, List.any_cons]
    cases hp : p x with
    | false => simp
    | true => simp [isBad_worse, Bool.or_assoc]

section Compare

variable {f : VectorF} {s : State}

/-- The mark that VCMP consumes at a lane. -/
def cmpMark (f : VectorF) (s : State) (x : BightArch) (l : Nat) : Mark := (x.lane f.va.toNat l).mark.worse (second f s x l).mark

/-- The mark that VCMP consumes. -/
def cmpSeen (f : VectorF) (s : State) (x : BightArch) : Mark :=
  (List.range 512).foldl (fun (w : Mark) l => if activeLane x f.pred l then w.worse (cmpMark f s x l) else w) .clean

theorem cmpSeen_isBad (x : BightArch) : (cmpSeen f s x).isBad = true
    ↔ ∃ l < 512, laneOn f x l = true ∧ ((x.lane f.va.toNat l).mark.isBad || (second f s x l).mark.isBad) = true := by
  rw [cmpSeen, isBad_foldl_worse, Mark.isBad_clean, Bool.false_or, List.any_eq_true]
  simp only [List.mem_range, Bool.and_eq_true, cmpMark, isBad_worse]
  refine exists_congr (fun l => and_congr_right (fun hl => ?_))
  rw [activeLane_eq f x hl]

theorem vecCmp_eq (ht : f.type ≠ 3#2) (hcode : f.aux.toNat % 8 < 6) (x : BightArch) : vecCmp f (vecCap s f false) x
    = ⟨(predWrite f x (fun l => !(cmpMark f s x l).isBad
        && (vCmp f.type (f.aux.toNat % 8) (x.lane f.va.toNat l).val (second f s x l).val).getD false)).orServe (stIf (cmpSeen f s x).isBad stPoison), cmpSeen f s x⟩ := by
  have hlegal : (typeBad f || decide (5 < f.aux.toNat % 8)) = false := by
    simp [typeBad, ht]
    omega
  rw [vecCmp, if_neg (by simp [hlegal])]
  simp only [vecB_vecCap]
  rfl

/-- The relation that AUX[2:0] of VCMP selects, for the TYPE (R95). -/
def cmpRel (f : VectorF) (u v : Word32) : Bool :=
  let lt := fun (u v : Word32) => if f.type = 0#2 then fpLt u v else if f.type = 1#2 then decide (u.toInt < v.toInt) else decide (u.toNat < v.toNat)
  let eq := fun (u v : Word32) => if f.type = 0#2 then fpEq u v else decide (u = v)
  match f.aux.toNat % 8 with
  | 0 => eq u v | 1 => !eq u v | 2 => lt u v | 3 => lt u v || eq u v | 4 => lt v u | _ => lt v u || eq u v

theorem vCmp_eq (hcode : f.aux.toNat % 8 < 6) (u v : Word32) : (vCmp f.type (f.aux.toNat % 8) u v).getD false = cmpRel f u v := by
  unfold vCmp cmpRel
  generalize f.aux.toNat % 8 = c at hcode
  match c, hcode with
  | 0, _ => rfl
  | 1, _ => rfl
  | 2, _ => rfl
  | 3, _ => rfl
  | 4, _ => rfl
  | 5, _ => rfl

/-- VCMP of a legal TYPE and code: a poisoned element compares false, and is consumed where its lane is active. -/
theorem vcmp_row (h : QueueReady s f.b) (hh : HitchReady s f.b f.waitEn f.waitH) (ht : f.type ≠ 3#2) (hcode : f.aux.toNat % 8 < 6) :
    let x := s.atIssue f.b f.waitEn f.waitH
    let bad := fun l => (x.lane f.va.toNat l).mark.isBad || (second f s x l).mark.isBad
    let anyBad := ∃ l < 512, laneOn f x l = true ∧ bad l = true
    Serves (.vcmp f) s f anyBad (fun x y => PredWrite f (fun l => !bad l && cmpRel f ((s.atIssue f.b f.waitEn f.waitH).lane f.va.toNat l).val
        (second f s (s.atIssue f.b f.waitEn f.waitH) l).val) x y ∧ (anyBad → y.serve = x.serve ||| 0x0008#16) ∧ (¬ anyBad → y.serve = x.serve)) := by
  intro x bad anyBad
  have hany : (cmpSeen f s x).isBad = true ↔ anyBad := cmpSeen_isBad x
  have hserve : ∀ res, (predWrite f x res).serve = x.serve := fun res => by
    unfold predWrite BightArch.setP
    split <;> rfl
  have hexec : exec (.vcmp f) s = s.vector (.vcmp f) f 0 false (vecCmp f) := rfl
  have hres := vecCmp_eq (s := s) ht hcode x
  generalize cmpSeen f s x = w at hany hres
  refine serves_of_op h hh hexec hres (fun hnot => Mark.eq_clean_of_isBad ?_) ⟨?_, fun hbad => ?_, fun hnot => ?_⟩
  · exact Bool.eq_false_iff.mpr (fun hbad => hnot (hany.mp hbad))
  · exact (predWrite_spec f x _).congr (fun l _ => by rw [cmpMark, isBad_worse, vCmp_eq hcode])
  · show (predWrite f x _).serve ||| stIf w.isBad stPoison = _
    rw [hserve, hany.mpr hbad]
    rfl
  · show (predWrite f x _).serve ||| stIf w.isBad stPoison = _
    rw [hserve, Bool.eq_false_iff.mpr (fun hbad => hnot (hany.mp hbad))]
    exact BitVec.or_zero

end Compare

/-- Settles O15: each move as a carrier of poison, each predicate operation by what its operands read as, VCMP by what it consumes. -/
theorem vectorMovesPredicates : Obligations.VectorMovesPredicates := by
  unfold Obligations.VectorMovesPredicates
  refine ⟨fun f s h hh => ?_, fun f s h hh => ?_⟩
  · intro x va vb by_ c
    refine ⟨?_, ?_, ?_, ?_⟩
    · refine serves_move h hh (g := vecMov f) (n := 1) rfl rfl (fun l _ => ?_)
      simp only [vecB_vecCap]
      rfl
    · refine serves_move h hh (g := vecSel f) (n := 1) rfl rfl (fun l hl => ?_)
      rw [getLsbD_p _ _ hl, BitVec.setWidth_eq_extractLsb' (by decide : 4 ≤ 6), vecB_vecCap]
      simp only [decide_eq_true_eq]
      rfl
    · refine serves_move h hh (g := vecPerm f) (n := 1) rfl rfl (fun l _ => ?_)
      simp only [vecB_vecCap]
      rfl
    · refine serves_move h hh (g := vecRot f) (n := 1) rfl rfl (fun l _ => ?_)
      rw [getD_vecCap_regs_one]
  · intro x p only lo hi
    refine ⟨?_, ?_, ?_, ?_, ?_, fun ht hcode => ?_⟩
    · exact serves_predBin h hh (fun a b => a && b) rfl (fun l => (Bool.decide_and ..).symm)
    · exact serves_predBin h hh (fun a b => a || b) rfl (fun l => (Bool.decide_or ..).symm)
    · exact serves_predBin h hh (fun a b => a ^^ b) rfl (fun l => xor_decide _ _)
    · exact serves_predBin h hh (fun a _ => !a) rfl (fun l => (decide_not ..).symm)
    · refine serves_pred h hh (g := predRange f) rfl rfl (fun l _ => ?_)
      rw [getD_vecCap_regs_one, getD_vecCap_regs_zero]
      exact (Bool.decide_and ..).symm
    · exact vcmp_row h hh ht hcode

end Sys2Proof.Machine

/-!
O18, VEMIT (R95, R102, R104): the flag byte of one lane, and the record that the instruction fills.
-/

namespace Sys2Proof.Machine

/-- A NaN is no infinity (R37). -/
theorem fpIsInf_of_fpIsNaN {v : Word32} (h : fpIsNaN v = true) : fpIsInf v = false := by
  simp only [fpIsNaN, fpIsInf, decide_eq_true_eq, decide_eq_false_iff_not] at *
  omega

/-- The flag byte of a record of one lane: POISON of its mark, and of TYPE 0 what its value is. -/
theorem flagByte_lane (t : BitVec 2) (x : Lane) : flagByte (t == 0#2 && fpIsNaN x.val) (t == 0#2 && fpIsInf x.val) false x.poison false
    = ((if x.mark.isBad then 0x08#8 else 0#8) ||| if t = 0#2 ∧ fpIsNaN x.val then 0x01#8 else if t = 0#2 ∧ fpIsInf x.val then 0x02#8 else 0#8) := by
  have hexcl := @fpIsInf_of_fpIsNaN x.val
  rw [Lane.poison]
  generalize x.mark.isBad = p
  generalize fpIsNaN x.val = nan at *
  generalize fpIsInf x.val = inf at *
  by_cases ht : t = 0#2
  · subst ht
    cases nan with
    | true =>
      rw [hexcl rfl]
      cases p <;> rfl
    | false => cases inf <;> cases p <;> rfl
  · simp only [beq_eq_false_iff_ne.mpr ht, Bool.false_and, ht, false_and, if_false]
    cases p <;> rfl

section Emit

variable {f : VectorF} {x : BightArch} {cap : Cap} (hids : ∀ e ∈ x.fifo, e.id ≠ x.fifoNext) (hentry : cap.entry = some x.fifoNext)
include hids hentry

theorem vecEmit_eq (ht : f.type ≠ 3#2) : vecEmit f cap (x.reserveIf true)
    = let y := x.lane f.va.toNat (if f.sb then (cap.regs.getD 1 0#64).toNat % 512 else 0)
      ⟨x.recordIf true (0#32 ++ y.val) ((if y.mark.isBad then 0x08#8 else 0#8)
        ||| if f.type = 0#2 ∧ fpIsNaN y.val then 0x01#8 else if f.type = 0#2 ∧ fpIsInf y.val then 0x02#8 else 0#8), .clean⟩ := by
  rw [vecEmit, if_neg (by simpa [typeBad] using ht)]
  dsimp only
  rw [BightArch.lane_reserveIf, hentry, typeFp, flagByte_lane, ← fpReg_eq, ← reserve_fill_eq hids]
  rfl

/-- TYPE 3 leaves a record with NONE. -/
theorem vecEmit_bad (ht : f.type = 3#2) : vecEmit f cap (x.reserveIf true)
    = ⟨BightArch.recordIf { x with serve := x.serve ||| 0x0020#16 } true 0#64 0x80#8, .clean⟩ := by
  rw [vecEmit, if_pos (by rw [typeBad, ht]; rfl), vecBad, hentry, ← fillOpt_reserveIf x true hids x.vregs]
  rfl

end Emit

/-- Settles O18: the entry that VEMIT reserved takes the lane that s[VB] selects, or NONE. -/
theorem vectorEmit : Obligations.VectorEmit := by
  unfold Obligations.VectorEmit
  intro f s h hh hroom hids x v fl
  have hids' : ∀ e ∈ x.fifo, e.id ≠ x.fifoNext := by
    rw [State.atIssue_fifo, State.atIssue_fifoNext]
    exact hids
  have hentry : (vecCap s f true).entry = some x.fifoNext := by
    rw [State.atIssue_fifoNext, vecCap_entry]
    rfl
  refine ⟨fun ht => ?_, fun ht => ?_⟩
  · refine serves_of_res (push := true) (n := 0) h hh rfl (fun _ => hroom) (vecEmit_eq hids' hentry ht) rfl ?_
    rw [getD_vecCap_regs_one]
    rfl
  · exact serves_of_res (push := true) (n := 0) h hh rfl (fun _ => hroom) (vecEmit_bad hids' hentry ht) rfl rfl

end Sys2Proof.Machine

/-!
Mover instructions in order (R112, R113, R115): what they capture, the checks that do not depend on a Bight's registers, and lines that are written
one after the other.
-/

namespace Sys2Proof.Machine

/-! Lines in order (R113) -/

section Lines

variable {σ : Type} (read : σ → Nat → Byte) (put : σ → Blob → Nat → σ) (Inv : σ → Prop) (Seen : Nat → Prop) (place : Nat → Nat) (n : Nat)

/-- The write of line `l`, `n` bytes at its place: its bytes stand there, and of the bytes that count no other changes. -/
def WritesLine (l : Nat) (b : Blob) : Prop :=
  ∀ s, Inv s → Inv (put s b l) ∧ (∀ k < n, some (read (put s b l) (place l + k)) = b.data[k]?)
    ∧ ∀ q, Seen q → (q < place l ∨ place l + n ≤ q) → read (put s b l) q = read s q

/-- Lines written one after the other. -/
def putInTurn (bs : List Blob) (s : σ) : σ := bs.zipIdx.foldl (fun s e => put s e.1 e.2) s

variable {read put Inv Seen place n}

theorem putInTurn_concat (bs : List Blob) (b : Blob) (s : σ) : putInTurn put (bs ++ [b]) s = put (putInTurn put bs s) b bs.length := by
  simp [putInTurn, List.zipIdx_append]

/-- Each byte of a line stands where no later line covers it, and what no line covers stays. -/
theorem putInTurn_spec {bs : List Blob} (h : ∀ l b, bs[l]? = some b → WritesLine read put Inv Seen place n l b) {s : σ} (hs : Inv s) :
    Inv (putInTurn put bs s)
    ∧ (∀ l b k, bs[l]? = some b → k < n → Seen (place l + k) → (∀ m, l < m → m < bs.length → ¬ (place m ≤ place l + k ∧ place l + k < place m + n)) →
        some (read (putInTurn put bs s) (place l + k)) = b.data[k]?)
    ∧ ∀ q, Seen q → (∀ l < bs.length, q < place l ∨ place l + n ≤ q) → read (putInTurn put bs s) q = read s q := by
  induction bs using List.reverseRecOn with
  | nil => exact ⟨hs, fun l b k hl => (nomatch hl), fun _ _ _ => rfl⟩
  | append_singleton bs b ih =>
    obtain ⟨hinv, hin, hout⟩ := ih (fun l c hl => h l c (by rw [List.getElem?_append_left (List.getElem?_eq_some_iff.mp hl).1]; exact hl))
    obtain ⟨hinv', hin', hout'⟩ := h bs.length b (by simp) _ hinv
    rw [putInTurn_concat]
    simp only [List.length_append, List.length_singleton]
    refine ⟨hinv', fun l c k hl hk hseen hlater => ?_, fun q hq hnone => ?_⟩
    · by_cases hlast : l < bs.length
      · rw [List.getElem?_append_left hlast] at hl
        have hafter := hlater bs.length hlast (Nat.lt_succ_self _)
        rw [hout' _ hseen (by omega)]
        exact hin l c k hl hk hseen (fun m hm hm' => hlater m hm (Nat.lt_succ_of_lt hm'))
      · obtain rfl : l = bs.length := by
          have hlen := (List.getElem?_eq_some_iff.mp hl).1
          simp only [List.length_append, List.length_singleton] at hlen
          omega
        obtain rfl : b = c := by simpa using hl
        exact hin' k hk
    · rw [hout' q hq (hnone bs.length (Nat.lt_succ_self _))]
      exact hout q hq (fun l hl => hnone l (Nat.lt_succ_of_lt hl))

end Lines

theorem getElem?_map_range {α : Type} (f : Nat → α) {n l : Nat} (h : l < n) : ((List.range n).map f)[l]? = some (f l) := by
  simp [h]

/-! Blobs in a memory -/

theorem Mem.byte_putBlob_in (m : Mem) (a : Nat) (b : Blob) {k : Nat} (h : k < b.data.length) : some ((m.putBlob a b).byte (a + k)) = b.data[k]? := by
  rw [Mem.putBlob, Mem.byte_write_in _ _ _ _ _ _ h]
  simp [h]

theorem Mem.byte_putBlob_out (m : Mem) (a : Nat) (b : Blob) {q : Nat} (h : q < a ∨ a + b.data.length ≤ q) : (m.putBlob a b).byte q = m.byte q :=
  Mem.byte_write_out _ _ _ _ _ _ h

theorem Mem.getElem?_read (m : Mem) (a : Nat) {n k : Nat} (h : k < n) : (m.read a n)[k]? = some (m.byte (a + k)) := by
  rw [Mem.read_eq_map_byte, getElem?_map_range _ h]

@[simp] theorem Mem.length_read (m : Mem) (a n : Nat) : (m.read a n).length = n := by
  rw [Mem.read_eq_map_byte, List.length_map, List.length_range]

/-- A memory with no mark gives unpoisoned blobs. -/
theorem Mem.bad_blob {m : Mem} (h : ∀ e ∈ m.marks, e.2 = .clean) (a n : Nat) : (m.blob a n).bad = [] := by
  simp [Mem.blob, chunkMarks, Mem.mark_clean h, Mark.isBad_clean]

theorem Blob.worst_of_bad_nil {b : Blob} (h : b.bad = []) : b.worst = .clean := by
  rw [Blob.worst, h]
  rfl

theorem worstOf_clean {bs : List Blob} (h : ∀ b ∈ bs, b.bad = []) : worstOf bs = .clean :=
  foldl_worse_clean Blob.worst bs (fun b hb => Blob.worst_of_bad_nil (h b hb))

/-! Lines of a locker (R461) -/

theorem BightArch.getElem?_lockerLines (a : BightArch) (d : Bytes) (base : Nat) {l : Nat} (h : l < mdLines d) :
    (a.lockerLines d base)[l]? = some (a.locker.blob (mdLockerLine d base l) (mdBytes d)) := getElem?_map_range _ h

@[simp] theorem BightArch.length_lockerLines (a : BightArch) (d : Bytes) (base : Nat) : (a.lockerLines d base).length = mdLines d := by
  simp [BightArch.lockerLines]

theorem BightArch.bad_lockerLines {a : BightArch} (h : ∀ e ∈ a.locker.marks, e.2 = .clean) (d : Bytes) (base : Nat) :
    ∀ b ∈ a.lockerLines d base, b.bad = [] := by
  intro b hb
  obtain ⟨l, -, rfl⟩ := List.mem_map.mp hb
  exact Mem.bad_blob h ..

/-- Lines that land in a locker: each byte stands where no later line covers it. -/
theorem putInTurn_locker {d : Bytes} {base : Nat} {bs : List Blob} (hlen : ∀ b ∈ bs, b.data.length = mdBytes d) (m : Mem) :
    let m' := putInTurn (fun m b l => m.putBlob (mdLockerLine d base l) b) bs m
    (∀ l b k, bs[l]? = some b → k < mdBytes d → (∀ j, l < j → j < bs.length → ¬ (mdLockerLine d base j ≤ mdLockerLine d base l + k
        ∧ mdLockerLine d base l + k < mdLockerLine d base j + mdBytes d)) → some (m'.byte (mdLockerLine d base l + k)) = b.data[k]?)
    ∧ ∀ q, (∀ l < bs.length, q < mdLockerLine d base l ∨ mdLockerLine d base l + mdBytes d ≤ q) → m'.byte q = m.byte q := by
  obtain ⟨-, hin, hout⟩ := putInTurn_spec (read := Mem.byte) (put := fun m b l => m.putBlob (mdLockerLine d base l) b) (Inv := fun _ => True)
    (Seen := fun _ => True) (place := mdLockerLine d base) (n := mdBytes d) (bs := bs) (s := m) (fun l b hl m _ => by
      have hb := hlen b (List.mem_of_getElem? hl)
      exact ⟨trivial, fun k hk => Mem.byte_putBlob_in _ _ _ (by omega), fun q _ hq => Mem.byte_putBlob_out _ _ _ (by omega)⟩) trivial
  exact ⟨fun l b k hl hk hlater => hin l b k hl hk trivial hlater, fun q hq => hout q trivial hq⟩

theorem BightArch.putLines_eq (a : BightArch) (d : Bytes) (base : Nat) (bs : List Blob) :
    a.putLines d base bs = { a with locker := putInTurn (fun m b l => m.putBlob (mdLockerLine d base l) b) bs a.locker } := rfl

/-! A mover instruction in order (R112, R115) -/

theorem Sys.insideOf_of_no_sigma {y : Sys} {b : Nat} (h : y.sigmaOf b = none) : y.insideOf b = y := by
  simp only [Sys.insideOf, h]

/-- The checks do not depend on the Bight's registers. -/
theorem Sys.moveCheck_setBight {y : Sys} {b : Fin 80} {x : Bight} (hrun : x.run = (y.bight b.val).run) (hs : y.sigmaOf b.val = none) (d : Bytes) (load store two send : Bool) :
    (y.setBight b.val x).moveCheck b.val d load store two send = y.moveCheck b.val d load store two send := by
  have hs' : (y.setBight b.val x).sigmaOf b.val = none := by rw [Sys.sigmaOf_setBight _ _ _ hrun, hs]
  unfold Sys.moveCheck Sys.moverPart
  rw [Sys.insideOf_of_no_sigma hs, Sys.insideOf_of_no_sigma hs', Sys.runPart_setBight hrun]
  rfl

theorem Sys.movedPoison_clean (y : Sys) (b seq : Nat) : y.movedPoison b seq .clean = y := rfl

/-- What an instruction with a descriptor captures at dispatch: its number and its descriptor, which the wait and the PC leave as they are. -/
theorem capOf_desc {q : QOp} {r : BitVec 5} (hdesc : q.desc = some (r, 64)) (s : State) (b : Fin 80) (waitEn : Bool) (waitH : BitVec 5) :
    let x := s.atIssue b waitEn waitH
    let addr := ((s.arch b).s r).toNat / 256 % 65536 * 256
    let cap := capOf (s.sys.bight b.val) q
    cap.seq = (s.sys.bight b.val).nextSeq ∧ cap.desc = x.locker.read addr 64 ∧ cap.descMark = x.locker.worst addr 64 := by
  dsimp only
  rw [State.atIssue_locker, capOf, hdesc]
  exact ⟨rfl, rfl, rfl⟩

/-- The descriptor that a mover instruction reads. -/
def moverDesc (f : MoverF) (s : State) : Bytes := (s.atIssue f.b f.waitEn f.waitH).locker.read (((s.arch f.b).s f.descReg).toNat / 256 % 65536 * 256) 64

section Check

variable (f : MoverF) {load store two send : Bool} (foot : Bytes → Foot) (ready : Sys → Nat → Cap → Bool) (act : Sys → Nat → Cap → Sys) {y : Sys} {b : Nat} {cap : Cap}

theorem moveQ_effect (hmark : cap.descMark = .clean) (hcheck : y.moveCheck b cap.desc load store two send = none) :
    (moveQ f load store two send foot ready act).effect y b cap = (act y b cap, none) := by
  simp [moveQ, hmark, hcheck, Mark.isBad_clean]

theorem moveQ_effect_bad (hmark : cap.descMark = .clean) {e : MoveBad} (hcheck : y.moveCheck b cap.desc load store two send = some e) :
    (moveQ f load store two send foot ready act).effect y b cap = (y.moveBad b cap e, none) := by
  simp [moveQ, hmark, hcheck, Mark.isBad_clean]

theorem moveQ_ready (hready : ready y b cap = true) : (moveQ f load store two send foot ready act).ready y b cap = true := by
  simp [moveQ, hready]

theorem moveQ_ready_bad {e : MoveBad} (hcheck : y.moveCheck b cap.desc load store two send = some e) :
    (moveQ f load store two send foot ready act).ready y b cap = true := by
  simp [moveQ, hcheck]

end Check

section Mover

variable {f : MoverF} {s : State} {i : Instr} {load store two send : Bool} {foot : Bytes → Foot} {ready : Sys → Nat → Cap → Bool} {act : Sys → Nat → Cap → Sys}
  (h : QueueReady s f.b) (hh : HitchReady s f.b f.waitEn f.waitH)
  (hexec : exec i s = s.onSys (fun y => y.queueOp i f.b.val (moveQ f load store two send foot ready act)))
  (hlocker : ∀ e ∈ (s.atIssue f.b f.waitEn f.waitH).locker.marks, e.2 = .clean)
include h hh hexec hlocker

/-- A mover instruction that passes its checks and is ready completes with what its effect leaves of the Bight. -/
theorem queued_moveQ (hcheck : s.sys.moveCheck f.b.val (moverDesc f s) load store two send = none) {a : BightArch}
    (hready : ∀ cap : Cap, cap.desc = moverDesc f s → ready (atDispatch s.sys f.b.val false) f.b.val cap = true)
    (hact : ∀ (cap : Cap) (x : Bight), cap.desc = moverDesc f s → x.arch = s.atIssue f.b f.waitEn f.waitH → x.run = (s.sys.bight f.b.val).run → x.region = none →
      act (s.sys.setBight f.b.val x) f.b.val cap = (s.sys.setBight f.b.val x).withArch f.b.val a)
    {poisoned : Prop} {post : BightArch → BightArch → Prop} (hpost : post (s.atIssue f.b f.waitEn f.waitH) a) :
    Queued i s f.b f.waitEn f.waitH f.setEn f.setH .mover poisoned post := by
  have ⟨_, _, _, _, hregion, hsigma⟩ := h
  let q := moveQ f load store two send foot ready act
  obtain ⟨-, hdesc, hmark⟩ := capOf_desc (q := q) (r := f.descReg) rfl s f.b f.waitEn f.waitH
  rw [Mem.worst_clean hlocker] at hmark
  obtain ⟨x₁, hx₁, hrun₁⟩ := atDispatch_eq_setBight s.sys f.b.val false
  obtain ⟨x₂, hx₂, hrun₂, hregion₂⟩ := atEffect_eq_setBight s.sys f.b.val q false
  have harch := atEffect_arch (s := s) (b := f.b) (push := false) (q := q) (waitEn := f.waitEn) (waitH := f.waitH) rfl
  rw [hx₂, Sys.bight_setBight] at harch
  rw [hregion] at hregion₂
  generalize hcap : capOf (s.sys.bight f.b.val) q = cap at hdesc hmark
  change cap.desc = moverDesc f s at hdesc
  refine queued_of_effect (q := q) (push := false) h hh hexec rfl rfl (fun _ => rfl) (fun hpush => nomatch hpush) ?_ ?_ hpost
  · rw [hcap]
    exact moveQ_ready f foot ready act (hready cap hdesc)
  · rw [hcap, hx₂, moveQ_effect f foot ready act hmark (by rw [Sys.moveCheck_setBight hrun₂ hsigma, hdesc, hcheck]), hact cap x₂ hdesc harch hrun₂ hregion₂]

/-- A length out of range moves nothing and leaves BAD_ENCODING (R115). -/
theorem queued_moveQ_lengths (hlen : mdLengths (moverDesc f s) = false) : Queued i s f.b f.waitEn f.waitH f.setEn f.setH .mover False
    (fun x a => a = { x with fairlead := x.fairlead ||| 0x0010#16 }) := by
  have ⟨_, _, _, _, hregion, hsigma⟩ := h
  let q := moveQ f load store two send foot ready act
  obtain ⟨-, hdesc, hmark⟩ := capOf_desc (q := q) (r := f.descReg) rfl s f.b f.waitEn f.waitH
  rw [Mem.worst_clean hlocker] at hmark
  have hbad : ∀ y : Sys, y.moveCheck f.b.val (moverDesc f s) load store two send = some .encoding := fun y => by
    rw [Sys.moveCheck, hlen]
    rfl
  have harch := atEffect_arch (s := s) (b := f.b) (push := false) (q := q) (waitEn := f.waitEn) (waitH := f.waitH) rfl
  have hkeep : ((atEffect s.sys f.b.val q false).bight f.b.val).region = none := by simpa [atEffect] using hregion
  generalize hcap : capOf (s.sys.bight f.b.val) q = cap at hdesc hmark
  change cap.desc = moverDesc f s at hdesc
  refine queued_of_effect (q := q) (push := false) h hh hexec rfl rfl (fun _ => rfl) (fun hpush => nomatch hpush) ?_ ?_ rfl
  · rw [hcap]
    exact moveQ_ready_bad f foot ready act (by rw [hdesc]; exact hbad _)
  · rw [hcap, moveQ_effect_bad f foot ready act hmark (by rw [hdesc]; exact hbad _)]
    show (Sys.onArch _ _ _ _, none) = _
    rw [Sys.onArch_none hkeep, harch]
    rfl

end Mover

end Sys2Proof.Machine

/-!
O23, MOV.LOAD and MOV.COPY (R113, R115, R461): how much a read of partition memory gives, and lines that land in the locker.
-/

namespace Sys2Proof.Machine

/-! The length of a read -/

theorem placeRuns_length {P : Partition} {fuel a n : Nat} {runs : List (Nat × Nat)} (h : placeRuns P fuel a n = some runs) :
    (runs.map (fun r => r.2)).sum = n := by
  induction fuel generalizing a n runs with
  | zero =>
    unfold placeRuns at h
    split at h
    · next hn => cases h; exact hn.symm
    · cases h
  | succ fuel ih =>
    unfold placeRuns at h
    split at h
    · next hn => cases h; exact hn.symm
    · split at h
      · cases h
      · obtain ⟨t, ht, rfl⟩ := Option.map_eq_some_iff.mp h
        have hlen := ih ht
        simp only [List.map_cons, List.sum_cons, hlen]
        omega

@[simp] theorem Sys.length_readRaw (y : Sys) (p a n : Nat) : (y.readRaw p a n).data.length = n := by
  unfold Sys.readRaw
  dsimp only
  split
  · next runs hruns =>
    have hfold : ∀ (l : List (Nat × Nat)) (acc : Blob × Nat), (l.foldl (fun (acc : Blob × Nat) r =>
        (⟨acc.1.data ++ y.mem.data.read r.1 r.2,
          acc.1.bad ++ (chunkMarks y.readMark r.1 r.2).map (fun e => ((acc.2 + a % 16) / 16 + e.1, e.2)), a % 16⟩, acc.2 + r.2)) acc).1.data.length
        = acc.1.data.length + (l.map (fun r => r.2)).sum := fun l => by
      induction l with
      | nil => exact fun _ => rfl
      | cons r t ih =>
        intro acc
        rw [List.foldl_cons, ih, List.length_append, Mem.length_read, List.map_cons, List.sum_cons, Nat.add_assoc]
    rw [hfold, placeRuns_length hruns]
    exact Nat.zero_add n
  · simp [Blob.ofBytes]

theorem Sys.length_fromMirror {y : Sys} {p a n : Nat} {d : Bytes} (h : y.fromMirror p a n = some d) : d.length = n := by
  unfold Sys.fromMirror at h
  split at h
  · cases h
  · split at h
    · cases h
    · cases h
      simp

theorem foldl_invariant {α β : Type} {P : β → Prop} {g : β → α → β} (h : ∀ x e, P x → P (g x e)) (l : List α) {x : β} (hx : P x) : P (l.foldl g x) := by
  induction l generalizing x with
  | nil => exact hx
  | cons e t ih => exact ih (h x e hx)

/-- A read gives as many bytes as were asked for, whatever a mirror serves of them. -/
@[simp] theorem Sys.length_readPart (y : Sys) (p a n : Nat) : (y.readPart p a n).data.length = n := by
  unfold Sys.readPart
  refine foldl_invariant (P := fun x : Blob => x.data.length = n) (fun x e hx => ?_) _ (y.length_readRaw p a n)
  dsimp only
  split
  · next d hd =>
    have hlen := Sys.length_fromMirror hd
    simp only [List.length_append, List.length_take, List.length_drop, hlen, hx]
    omega
  · exact hx

/-! Lines of memory (R113) -/

section MemLines

variable {y : Sys} {b : Fin 80} {p : Nat} {d : Bytes}

theorem Sys.memLines_setBight {x : Bight} (hrun : x.run = (y.bight b.val).run) (hr : x.region = none) (hs : y.sigmaOf b.val = none) (seq : Nat) :
    (y.setBight b.val x).memLines b.val seq p d = (List.range (mdLines d)).map (fun l => y.readPart p (mdLine d l) (mdBytes d)) := by
  have hsigma : (y.setBight b.val x).sigmaOf b.val = none := by rw [Sys.sigmaOf_setBight _ _ _ hrun, hs]
  have hregion : ((y.setBight b.val x).bight b.val).region = none := by simpa using hr
  simp only [Sys.memLines, Sys.readSeen_of_no_region hregion hsigma, Sys.readPart_setBight]

theorem Sys.sharedPoison_clean (y : Sys) (q a : Nat) {x : Blob} (h : x.bad = []) : y.sharedPoison q a x = y := by
  unfold Sys.sharedPoison
  split
  · rfl
  · rw [h]
    rfl

/-- Lines that are read quietly and without poison leave nothing but their bytes. -/
theorem Sys.noteSeenAt_clean {bs : List Blob} (hbad : ∀ x ∈ bs, x.bad = []) (hquiet : ∀ l < bs.length, y.readsQuietly p (mdLine d l) (mdBytes d)) :
    y.noteSeenAt b.val p d bs = y := by
  have hmem : ∀ e ∈ bs.zipIdx, e.1.bad = [] ∧ e.2 < bs.length := fun e he => by
    have hget := List.mem_zipIdx_iff_getElem?.mp he
    exact ⟨hbad _ (List.mem_of_getElem? hget), (List.getElem?_eq_some_iff.mp hget).1⟩
  have hfold : ∀ l : List (Blob × Nat), (∀ e ∈ l, e.1.bad = [] ∧ e.2 < bs.length) →
      l.foldl (fun s e => (s.noteRead p (mdLine d e.2) (mdBytes d)).sharedPoison p (mdLine d e.2) e.1) y = y := fun l hl => by
    induction l with
    | nil => rfl
    | cons e t ih =>
      obtain ⟨hclean, hlt⟩ := hl e List.mem_cons_self
      rw [List.foldl_cons, Sys.noteRead_quiet (hquiet _ hlt), Sys.sharedPoison_clean _ _ _ hclean]
      exact ih (fun q hq => hl q (List.mem_cons_of_mem _ hq))
  have hnone : bs.zipIdx.find? (fun e => e.1.worst.isBad) = none := List.find?_eq_none.mpr (fun e he => by
    rw [Blob.worst_of_bad_nil (hmem e he).1]
    decide)
  unfold Sys.noteSeenAt
  rw [hfold _ hmem]
  dsimp only
  rw [hnone]

end MemLines

/-! Lines that land (R461) -/

theorem BightArch.putLines_frame (a : BightArch) (d : Bytes) (base : Nat) (bs : List Blob) : { a.putLines d base bs with locker := a.locker } = a := rfl

/-- The bytes of a locker once lines of memory have landed in it. -/
theorem locker_putLines_readPart (y : Sys) (p : Nat) (x : BightArch) (d : Bytes) (base : Nat) :
    let a := x.putLines d base ((List.range (mdLines d)).map (fun l => y.readPart p (mdLine d l) (mdBytes d)))
    (∀ l k, l < mdLines d → k < mdBytes d → (∀ m, l < m → m < mdLines d → ¬ (mdLockerLine d base m ≤ mdLockerLine d base l + k
        ∧ mdLockerLine d base l + k < mdLockerLine d base m + mdBytes d)) →
      some (a.locker.byte (mdLockerLine d base l + k)) = (y.readPart p (mdLine d l) (mdBytes d)).data[k]?)
    ∧ ∀ q, (∀ l < mdLines d, q < mdLockerLine d base l ∨ mdLockerLine d base l + mdBytes d ≤ q) → a.locker.byte q = x.locker.byte q := by
  obtain ⟨hin, hout⟩ := putInTurn_locker (d := d) (base := base) (bs := (List.range (mdLines d)).map (fun l => y.readPart p (mdLine d l) (mdBytes d)))
    (by simp) x.locker
  simp only [List.length_map, List.length_range] at hin hout
  exact ⟨fun l k hl hk hlater => hin l _ k (getElem?_map_range _ hl) hk hlater, hout⟩

/-- The bytes of a locker once lines of a locker, another or its own, have landed in it. -/
theorem locker_putLines_lockerLines (x y : BightArch) (d : Bytes) (base base' : Nat) :
    let a := y.putLines d base' (x.lockerLines d base)
    (∀ l k, l < mdLines d → k < mdBytes d → (∀ m, l < m → m < mdLines d → ¬ (mdLockerLine d base' m ≤ mdLockerLine d base' l + k
        ∧ mdLockerLine d base' l + k < mdLockerLine d base' m + mdBytes d)) →
      a.locker.byte (mdLockerLine d base' l + k) = x.locker.byte (mdLockerLine d base l + k))
    ∧ ∀ q, (∀ l < mdLines d, q < mdLockerLine d base' l ∨ mdLockerLine d base' l + mdBytes d ≤ q) → a.locker.byte q = y.locker.byte q := by
  obtain ⟨hin, hout⟩ := putInTurn_locker (d := d) (base := base') (bs := x.lockerLines d base) (by simp [BightArch.lockerLines, Mem.blob]) y.locker
  simp only [BightArch.length_lockerLines] at hin hout
  refine ⟨fun l k hl hk hlater => ?_, hout⟩
  have hbyte := hin l _ k (BightArch.getElem?_lockerLines x d base hl) hk hlater
  exact Option.some.inj (hbyte.trans (Mem.getElem?_read _ _ hk))

section Row

variable {f : MoverF} {s : State} {p : Nat} (h : QueueReady s f.b) (hh : HitchReady s f.b f.waitEn f.waitH)
  (hlocker : ∀ e ∈ (s.atIssue f.b f.waitEn f.waitH).locker.marks, e.2 = .clean)
include h hh hlocker

/-- A MOV.LOAD of unpoisoned lines. -/
theorem movLoad_lines (hp : s.sys.runPart f.b.val = some p) (hcheck : s.sys.moveCheck f.b.val (moverDesc f s) true false false false = none) (hspace : addrSpace (mdAddr (moverDesc f s)) ≠ 3)
    (hwait : s.sys.rangesWait f.b.val (mdMemRanges (moverDesc f s)) = false) (hreads : ∀ l < mdLines (moverDesc f s),
      (s.sys.readPart p (mdLine (moverDesc f s) l) (mdBytes (moverDesc f s))).bad = [] ∧ s.sys.readsQuietly p (mdLine (moverDesc f s) l) (mdBytes (moverDesc f s))) :
    Queued (.movLoad f) s f.b f.waitEn f.waitH f.setEn f.setH .mover False (fun x a => a = x.putLines (moverDesc f s) (mdLocker (moverDesc f s))
      ((List.range (mdLines (moverDesc f s))).map (fun l => s.sys.readPart p (mdLine (moverDesc f s) l) (mdBytes (moverDesc f s))))) := by
  have ⟨_, _, _, _, hregion, hsigma⟩ := h
  have hatomic : mdAtomic (moverDesc f s) = false := by simpa [mdAtomic] using hspace
  refine queued_moveQ h hh rfl hlocker hcheck (fun cap hdesc => ?_) (fun cap x hdesc hx hrun hr => ?_) rfl
  · obtain ⟨x₁, hx₁, hrun₁⟩ := atDispatch_eq_setBight s.sys f.b.val false
    rw [hdesc, hatomic, if_neg Bool.false_ne_true, hx₁, Sys.rangesWait_setBight hrun₁, hwait]
    rfl
  · have hreg : ((s.sys.setBight f.b.val x).bight f.b.val).region = none := by simpa using hr
    dsimp only
    rw [hdesc, hatomic, if_neg Bool.false_ne_true, Sys.runPart_setBight hrun, hp, Option.getD_some, Sys.memLines_setBight hrun hr hsigma, Sys.onArch_none hreg,
      Sys.bight_setBight, hx]
    have hbad : ∀ z ∈ (List.range (mdLines (moverDesc f s))).map (fun l => s.sys.readPart p (mdLine (moverDesc f s) l) (mdBytes (moverDesc f s))), z.bad = [] := fun z hz => by
      obtain ⟨l, hl, rfl⟩ := List.mem_map.mp hz
      exact (hreads l (List.mem_range.mp hl)).1
    have hnote := fun w => Sys.noteSeenAt_clean (y := (s.sys.setBight f.b.val x).setBight f.b.val w) (b := f.b) hbad (fun l hl => (hreads l (by simpa using hl)).2)
    rw [worstOf_clean hbad, Sys.movedPoison_clean, hnote]
    simp only [Sys.withArch, Sys.bight_setBight]

/-- A MOV.COPY of unpoisoned lines. -/
theorem movCopy_lines (hcheck : s.sys.moveCheck f.b.val (moverDesc f s) false false true false = none) :
    Queued (.movCopy f) s f.b f.waitEn f.waitH f.setEn f.setH .mover False (fun x a => a = x.putLines (moverDesc f s) (mdLocker2 (moverDesc f s))
      (x.lockerLines (moverDesc f s) (mdLocker (moverDesc f s)))) := by
  refine queued_moveQ h hh rfl hlocker hcheck (fun _ _ => rfl) (fun cap x hdesc hx hrun hr => ?_) rfl
  have hreg : ((s.sys.setBight f.b.val x).bight f.b.val).region = none := by simpa using hr
  dsimp only
  rw [hdesc, Sys.onArch_none hreg, Sys.bight_setBight, hx, worstOf_clean (BightArch.bad_lockerLines hlocker _ _), Sys.movedPoison_clean]
  simp only [Sys.withArch, Sys.bight_setBight]

end Row

/-- Settles O23: the lines read are those of the state at issue, since neither the PC nor a hitch is part of memory or the locker, and they land one after
the other. -/
theorem moverLoadCopy : Obligations.MoverLoadCopy := by
  unfold Obligations.MoverLoadCopy
  refine ⟨?_, ?_⟩
  · intro f s p h hh hp x d hlocker
    refine ⟨fun hlen => queued_moveQ_lengths h hh rfl hlocker hlen, fun hcheck hspace hwait hreads => ?_⟩
    obtain ⟨t, a, hexec, ha, harch, honly⟩ := movLoad_lines h hh hlocker hp hcheck hspace hwait hreads
    refine ⟨t, a, hexec, ?_, harch, honly⟩
    rw [ha]
    exact ⟨BightArch.putLines_frame .., locker_putLines_readPart s.sys p ..⟩
  · intro f s p h hh hp x d hlocker hcheck
    obtain ⟨t, a, hexec, ha, harch, honly⟩ := movCopy_lines h hh hlocker hcheck
    refine ⟨t, a, hexec, ?_, harch, honly⟩
    rw [ha]
    exact ⟨BightArch.putLines_frame .., locker_putLines_lockerLines ..⟩

end Sys2Proof.Machine

/-!
O24 fails: it does not bound the hanks of a partition. A hank numbered 240 gives tier-1 places among the keys where a stack holds the lines that stand
apart from their home slices (R207), and a later line of the same MOV.STORE, in hank 0, sets such a line apart over what an earlier one wrote.
-/

namespace Sys2Proof.Machine

/-- A partition of hanks 240 and 0, in that order, whose tier-1 memory is one object. -/
def strayPart : Partition :=
  { Partition.absent with
    hanks := [240, 0]
    objs := [(0, { gen := 0, source := none, space := 0, first := 0, granules := 16384, owner := 0, live := true, grants := [], readOnly := false, shared := false,
                   mirror := none, listed := false })] }

/-- Two lines of 256 bytes, from locker address 256 on, to the first line of each hank's region. -/
def strayDesc : Bytes :=
  leBytes 8 0 ++ leBytes 8 unitBytes ++ leBytes 4 256 ++ leBytes 4 0 ++ leBytes 4 256 ++ leBytes 4 2 ++ leBytes 4 256 ++ List.replicate 28 0#8

/-- Bight 0 runs a program of that partition, with the descriptor at locker address 0 and a byte 1 at address 256; its Strand die and stack serve. -/
def strayState : State :=
  { pending := [], fuses := Fuses.blank
    sys := { Sys.cold with
      parts := Sys.cold.parts.set 0 strayPart
      plat := { Plat.dark with fns := [(fnStrand 0, ⟨.ready, false, 0⟩), (fnStack 0, ⟨.ready, false, 0⟩)] }
      bights := Sys.cold.bights.set 0 { Bight.idle with
        arch := { BightArch.zero with locker := (Mem.empty.put 0 strayDesc).put 256 [1#8] }
        run := some { ctx := 0, ring := 0, lay := 0, part := 0, rank := 0, prog := 0, size := 4096, spec := false, home := 0 } } } }

def strayStore : MoverF := { b := 0, descReg := 0#5, waitEn := false, waitH := 0#5, setEn := false, setH := 0#5 }

/-- The place of each line: that of the first is one where stack 0 holds a line apart. -/
def strayKey (l : Nat) : Nat := if l = 0 then physKey 3 0 0 else physKey 0 0 0

theorem strayState_ready : QueueReady strayState 0 ∧ strayState.sys.runPart 0 = some 0 := by
  unfold QueueReady CoreReady
  decide +kernel

theorem moverDesc_stray : moverDesc strayStore strayState = strayDesc := by decide +kernel

theorem strayDesc_inOrder : strayState.sys.moveCheck 0 strayDesc false true false false = none ∧ addrSpace (mdAddr strayDesc) ≠ 3
    ∧ strayState.sys.rangesWait 0 (mdMemRanges strayDesc) = false := by decide +kernel

theorem strayDesc_places : mdLines strayDesc = 2 ∧ ∀ l < 2, strayPart.place (mdLine strayDesc l) = some (strayKey l) ∧ keyKind (strayKey l) ≠ 1
    ∧ mdBytes strayDesc ≤ chunkRoom strayPart (mdLine strayDesc l) := by decide +kernel

theorem strayState_memSound : strayState.sys.memSound := fun _ _ _ _ => rfl

/-- The second line sets stack 0's first line apart, with the zeros that it held, over the byte that the first line had written. -/
theorem stray_byte {t : State} (h : exec (.movStore strayStore) strayState = .next t) : t.sys.mem.data.byte (physKey 3 0 0) = 0#8 := by
  have hrun : (match exec (.movStore strayStore) strayState with
      | .next t => t.sys.mem.data.byte (physKey 3 0 0)
      | _ => 1#8) = 0#8 := by decide +kernel
  rw [h] at hrun
  exact hrun

/-- Refutes O24: in a partition with a hank numbered 240 the first byte of the first line does not hold what the locker holds. -/
theorem not_moverStore : ¬ Obligations.MoverStore := by
  intro hstore
  obtain ⟨hready, hpart⟩ := strayState_ready
  obtain ⟨hcheck, hspace, hwait⟩ := strayDesc_inOrder
  obtain ⟨hlines, hplaces⟩ := strayDesc_places
  have hrun := hstore strayStore strayState 0 strayKey hready (fun hen => nomatch hen) hpart
  dsimp only at hrun
  have hdesc := moverDesc_stray
  unfold moverDesc at hdesc
  rw [hdesc] at hrun
  obtain ⟨t, hexec, -, -, -, -, -, hbytes, -⟩ := hrun (by decide +kernel) hcheck hspace hwait strayState_memSound (by rw [hlines]; exact hplaces)
  have hbyte := hbytes 0 0 (by rw [hlines]; decide) (by decide +kernel) (fun m hm hm' => by
    rw [hlines] at hm'
    obtain rfl : m = 1 := by omega
    decide +kernel)
  exact absurd ((stray_byte hexec).symm.trans hbyte) (by decide +kernel)

end Sys2Proof.Machine

/-!
MOV.SEND (R92, R114, R302): what it delivers to a Bight that runs a RUN of the same context, and the set that follows.
-/

namespace Sys2Proof.Machine

/-! A delivery from outside (R302) -/

/-- An effect of an instruction that no region holds is performed. -/
theorem Sys.effect_performed {y : Sys} {b : Nat} (hr : (y.bight b).region = none) (hs : y.sigmaOf b = none) (seq size : Nat) (e : HeldEffect) :
    ∃ i : HeldItem, i.effect = e ∧ y.effect b seq size e = y.perform i := by
  unfold Sys.effect
  dsimp only
  rw [hs]
  split
  · exact ⟨_, rfl, rfl⟩
  · rw [hr]
    exact ⟨_, rfl, rfl⟩

theorem Bight.outside_outside (x : Bight) (g g' : BightArch → BightArch) : (x.outside g).outside g' = x.outside (fun a => g' (g a)) := by
  simp [Bight.outside, Function.comp_def]

theorem Bight.outside_self (x : Bight) : x.outside (fun a => a) = x := by
  simp [Bight.outside]

/-- Bight `b`, which no region holds, sends to Bight `q`, which runs a RUN of context `c` in no open step region. -/
structure SendsTo (y : Sys) (b q : Fin 80) (c : Nat) : Prop where
  other : q ≠ b
  region : (y.bight b.val).region = none
  sigma : y.sigmaOf b.val = none
  opened : (y.ctx c).opened = true
  still : (y.part (y.ctx c).part).sigma = none
  live : y.liveOn c q.val = true

section Send

variable {y : Sys} {b q : Fin 80} {c : Nat} (h : SendsTo y b q c)
include h

theorem SendsTo.val_ne : q.val ≠ b.val := fun hval => h.other (Fin.ext hval)

theorem SendsTo.deliver (g : BightArch → BightArch) : y.deliver c q.val g = y.setBight q.val ((y.bight q.val).outside g) := by
  unfold Sys.deliver
  dsimp only
  rw [h.opened, h.still, h.live]
  rfl

theorem SendsTo.setBight (g : BightArch → BightArch) : SendsTo (y.setBight q.val ((y.bight q.val).outside g)) b q c where
  other := h.other
  region := by rw [Sys.bight_setBight_other _ _ h.val_ne.symm, h.region]
  sigma := by
    rw [Sys.sigmaOf, Sys.bight_setBight_other _ _ h.val_ne.symm]
    exact h.sigma
  opened := h.opened
  still := h.still
  live := by
    rw [Sys.liveOn, Sys.bight_setBight]
    exact h.live

theorem SendsTo.effect_send (seq size a : Nat) (x : Blob) :
    y.effect b.val seq size (.send c q.val a x) = y.setBight q.val ((y.bight q.val).outside (putLocker a x)) := by
  obtain ⟨i, hi, heff⟩ := Sys.effect_performed h.region h.sigma seq size (.send c q.val a x)
  rw [heff, Sys.perform, hi]
  exact h.deliver _

theorem SendsTo.effect_sendHitch (seq size : Nat) (n : BitVec 5) (o : Nat × Nat) : ∃ owner, y.effect b.val seq size (.sendHitch c q.val n o)
    = y.setBight q.val ((y.bight q.val).outside (fun a => a.setHitch n none owner)) := by
  obtain ⟨i, hi, heff⟩ := Sys.effect_performed h.region h.sigma seq size (.sendHitch c q.val n o)
  refine ⟨if y.standsOn i then some o else none, ?_⟩
  rw [heff, Sys.perform, hi]
  exact h.deliver _

/-- Lines that are sent land in the destination's locker one after the other. -/
theorem SendsTo.foldl_send (seq : Nat) (size place : Nat → Nat) (l : List (Blob × Nat)) :
    l.foldl (fun y e => Sys.effect y b.val seq (size e.2) (.send c q.val (place e.2) e.1)) y
      = y.setBight q.val ((y.bight q.val).outside (fun a => l.foldl (fun a e => putLocker (place e.2) e.1 a) a)) := by
  induction l generalizing y with
  | nil => simp only [List.foldl_nil, Bight.outside_self, Sys.setBight_self]
  | cons e t ih =>
    rw [List.foldl_cons, h.effect_send, ih (h.setBight _), Sys.bight_setBight, Sys.setBight_setBight, Bight.outside_outside]
    rfl

end Send

theorem foldl_putLocker (place : Nat → Nat) (l : List (Blob × Nat)) (a : BightArch) :
    l.foldl (fun a e => putLocker (place e.2) e.1 a) a = { a with locker := l.foldl (fun m e => m.putBlob (place e.2) e.1) a.locker } := by
  induction l generalizing a with
  | nil => rfl
  | cons e t ih => rw [List.foldl_cons, ih]; rfl

/-- What a MOV.SEND leaves of its destination: the lines, then the set. -/
def sentTo (d : Bytes) (bs : List Blob) (owner : Option (Nat × Nat)) (a : BightArch) : BightArch :=
  (a.putLines d (mdLocker2 d) bs).setHitch (mdDestHitch d) none owner

/-- A set from outside, made at once or waiting: the hitch is 1 and nothing else but the sets that wait differs. -/
theorem setHitch_spec (a : BightArch) (n : BitVec 5) (seq : Option (Nat × Engine)) (owner : Option (Nat × Nat)) :
    (a.setHitch n seq owner).hitches.getLsbD n.toNat = true ∧ { a.setHitch n seq owner with hitches := a.hitches, hitchSets := a.hitchSets } = a
      ∧ (a.setHitch n seq owner).locker = a.locker := by
  unfold BightArch.setHitch
  split
  · next hset => exact ⟨hset, rfl, rfl⟩
  · refine ⟨?_, rfl, rfl⟩
    rw [hitches_putHitch _ _ _ n.isLt, if_pos rfl]

/-- The set that a MOV.SEND makes is 1, its lines stand in the locker, and nothing else of the destination differs. -/
theorem sentTo_spec (d : Bytes) (bs : List Blob) (owner : Option (Nat × Nat)) (a : BightArch) :
    (sentTo d bs owner a).hitches.getLsbD (fieldN d 0x25 1 % 32) = true
    ∧ { sentTo d bs owner a with locker := a.locker, hitches := a.hitches, hitchSets := a.hitchSets } = a
    ∧ (sentTo d bs owner a).locker = (a.putLines d (mdLocker2 d) bs).locker := by
  obtain ⟨hset, hframe, hlocker⟩ := setHitch_spec (a.putLines d (mdLocker2 d) bs) (mdDestHitch d) none owner
  refine ⟨?_, congrArg (fun x : BightArch => { x with locker := a.locker }) hframe, hlocker⟩
  rw [mdDestHitch, BitVec.toNat_ofNat] at hset
  exact hset

/-! MOV.SEND (R92, R114) -/

/-- The set that an instruction makes as it takes effect, or leaves in flight until it has been made, shows in its Bight alike. -/
theorem QOp.sends_bights {s : State} {f : MoverF} {i : Instr} {q : QOp} (h : QueueReady s f.b) (hh : HitchReady s f.b f.waitEn f.waitH)
    (hwait : q.wait = optHitch f.waitEn f.waitH) (hset : q.set = optHitch f.setEn f.setH) (heng : q.eng = .mover) (hpush : ∀ c, q.push c = false)
    (hready : q.ready (atDispatch s.sys f.b.val false) f.b.val (capOf (s.sys.bight f.b.val) q) = true) {y : Sys}
    (heff : q.effect (atEffect s.sys f.b.val q false) f.b.val (capOf (s.sys.bight f.b.val) q) = (y, none)) (hregion : (y.bight f.b.val).region = none) :
    ∃ t : Sys, s.sys.queueOp i f.b.val q.sends = t ∧ t.mem = y.mem ∧ t.parts = y.parts ∧ t.ctxs = y.ctxs
      ∧ t.bights = (y.withArch f.b.val ((y.bight f.b.val).arch.andSet f.setEn f.setH (s.sys.bight f.b.val).nextSeq .mover)).bights := by
  have hfree : ∀ n, q.wait = some n → (s.arch f.b).hitch n = true := fun n hn => by
    rw [hwait] at hn
    cases hen : f.waitEn with
    | false => rw [hen] at hn; cases hn
    | true => rw [hen] at hn; cases hn; exact hh hen
  have hdone : y.onArch f.b.val (s.sys.bight f.b.val).nextSeq (fun a => a.setHitchOpt q.set (s.sys.bight f.b.val).nextSeq q.eng)
      = y.withArch f.b.val ((y.bight f.b.val).arch.andSet f.setEn f.setH (s.sys.bight f.b.val).nextSeq .mover) := by
    rw [Sys.onArch_none hregion, hset, heng, setHitchOpt_eq_andSet]
    rfl
  have hrun := Sys.queueOp_ready h i q.sends false hpush (fun hp => nomatch hp) hfree hready
  have heff' : q.sends.effect (atEffect s.sys f.b.val q.sends false) f.b.val (capOf (s.sys.bight f.b.val) q.sends)
      = if y.sendWaits f.b.val (capOf (s.sys.bight f.b.val) q) then
          (y.withArch f.b.val ((y.bight f.b.val).arch.andSet f.setEn f.setH (s.sys.bight f.b.val).nextSeq .mover),
            some { capOf (s.sys.bight f.b.val) q with flying := true })
        else (y, none) := by
    rw [← hdone]
    show (let r := q.effect (atEffect s.sys f.b.val q false) f.b.val (capOf (s.sys.bight f.b.val) q); if r.1.sendWaits _ _ then (r.1.onArch _ _ _, _) else r) = _
    rw [heff]
    rfl
  rw [heff'] at hrun
  refine ⟨_, rfl, ?_⟩
  rw [hrun]
  by_cases hw : y.sendWaits f.b.val (capOf (s.sys.bight f.b.val) q) = true
  · rw [if_pos hw]
    dsimp only
    split
    · next z hz =>
      have hsame : z = y.withArch f.b.val ((y.bight f.b.val).arch.andSet f.setEn f.setH (s.sys.bight f.b.val).nextSeq .mover) := by
        unfold QOp.sends at hz
        dsimp only at hz
        split at hz
        · cases hz
        · exact (Option.some.inj hz).symm
      rw [hsame]
      exact ⟨rfl, rfl, rfl, rfl⟩
    · exact ⟨rfl, rfl, rfl, rfl⟩
  · rw [if_neg hw]
    dsimp only
    have hset' : q.sends.set = q.set := rfl
    have heng' : q.sends.eng = q.eng := rfl
    rw [hset', heng', hdone]
    exact ⟨rfl, rfl, rfl, rfl⟩

theorem Sys.deliversInside_of_no_sigma {y : Sys} {b : Nat} (hs : y.sigmaOf b = none) (dest : Nat) : y.deliversInside b dest = false := by
  simp [Sys.deliversInside, hs]

/-- MOV.SEND as an instruction of a queue: it is ready where it delivers nothing inside a step region, and then delivers its lines and the set. -/
theorem exec_movSend (f : MoverF) (s : State) : ∃ foot ready act,
    exec (.movSend f) s = s.onSys (fun y => y.queueOp (.movSend f) f.b.val (QOp.sends (moveQ f false false true true foot ready act)))
    ∧ (∀ y b cap, y.sigmaOf b = none → ready y b cap = true)
    ∧ ∀ (y : Sys) (b q : Fin 80) (r : RunRef) (cap : Cap), SendsTo y b q r.ctx → (y.bight b.val).run = some r → mdDest cap.desc = q.val →
        (∀ e ∈ (y.bight b.val).arch.locker.marks, e.2 = .clean) → ∃ owner, act y b.val cap = y.setBight q.val
          ((y.bight q.val).outside (sentTo cap.desc ((y.bight b.val).arch.lockerLines cap.desc (mdLocker cap.desc)) owner)) := by
  refine ⟨_, _, _, rfl, fun y b cap hs => ?_, fun y b q r cap h hrun hdest hclean => ?_⟩
  · dsimp only
    rw [Sys.deliversInside_of_no_sigma hs]
    rfl
  · dsimp only
    rw [hrun, hdest, worstOf_clean (BightArch.bad_lockerLines hclean _ _), Sys.movedPoison_clean, Sys.deliversInside_of_no_sigma h.sigma,
      if_neg Bool.false_ne_true]
    show ∃ owner, Sys.effect _ _ _ _ (.sendHitch r.ctx _ _ _) = _
    have hlines := h.foldl_send cap.seq (fun l => if l = 0 then heldSize (mdLines cap.desc * mdBytes cap.desc) else 0) (mdLockerLine cap.desc (mdLocker2 cap.desc))
      ((y.bight b.val).arch.lockerLines cap.desc (mdLocker cap.desc)).zipIdx
    obtain ⟨owner, hset⟩ := (h.setBight (fun a => ((y.bight b.val).arch.lockerLines cap.desc (mdLocker cap.desc)).zipIdx.foldl
      (fun a e => putLocker (mdLockerLine cap.desc (mdLocker2 cap.desc) e.2) e.1 a) a)).effect_sendHitch cap.seq 0 (mdDestHitch cap.desc) (b.val, cap.seq)
    refine ⟨owner, ?_⟩
    rw [← hlines] at hset
    refine hset.trans ?_
    rw [hlines, Sys.bight_setBight, Sys.setBight_setBight, Bight.outside_outside]
    simp only [foldl_putLocker]
    rfl

section Row

variable {f : MoverF} {s : State} {r : RunRef} {q : Fin 80} (h : QueueReady s f.b) (hh : HitchReady s f.b f.waitEn f.waitH) (hrun : (s.sys.bight f.b.val).run = some r)
  (hlocker : ∀ e ∈ (s.atIssue f.b f.waitEn f.waitH).locker.marks, e.2 = .clean)
include h hh hrun hlocker

/-- A MOV.SEND of unpoisoned lines to a Bight outside its own: the destination takes them and then the set, the sender is as at issue. -/
theorem movSend_row (hcheck : s.sys.moveCheck f.b.val (moverDesc f s) false false true true = none) (hdest : mdDest (moverDesc f s) = q.val) (hq : q ≠ f.b)
    (hopened : (s.sys.ctx r.ctx).opened = true) (hlive : s.sys.liveOn r.ctx q.val = true) (hstill : (s.sys.part (s.sys.ctx r.ctx).part).sigma = none) :
    ∃ (t : State) (owner : Option (Nat × Nat)), exec (.movSend f) s = .next t
      ∧ t.arch f.b = (s.atIssue f.b f.waitEn f.waitH).andSet f.setEn f.setH (s.sys.bight f.b.val).nextSeq .mover
      ∧ t.arch q = sentTo (moverDesc f s) ((s.atIssue f.b f.waitEn f.waitH).lockerLines (moverDesc f s) (mdLocker (moverDesc f s))) owner (s.arch q)
      ∧ t.sys.mem = s.sys.mem ∧ t.sys.parts = s.sys.parts ∧ t.sys.ctxs = s.sys.ctxs ∧ t.fuses = s.fuses := by
  have ⟨_, _, _, _, hregion, hsigma⟩ := h
  obtain ⟨foot, ready, act, hexec, hready, hact⟩ := exec_movSend f s
  let m := moveQ f false false true true foot ready act
  obtain ⟨-, hdesc, hmark⟩ := capOf_desc (q := m) (r := f.descReg) rfl s f.b f.waitEn f.waitH
  rw [Mem.worst_clean hlocker] at hmark
  obtain ⟨x₁, hx₁, hrun₁⟩ := atDispatch_eq_setBight s.sys f.b.val false
  obtain ⟨x₂, hx₂, hrun₂, hregion₂⟩ := atEffect_eq_setBight s.sys f.b.val m false
  have harch := atEffect_arch (s := s) (b := f.b) (push := false) (q := m) (waitEn := f.waitEn) (waitH := f.waitH) rfl
  rw [hx₂, Sys.bight_setBight] at harch
  change x₂.arch = s.atIssue f.b f.waitEn f.waitH at harch
  rw [hregion] at hregion₂
  have hval : q.val ≠ f.b.val := fun hval => hq (Fin.ext hval)
  have hsend : SendsTo (s.sys.setBight f.b.val x₂) f.b q r.ctx :=
    ⟨hq, by simpa using hregion₂, by rw [Sys.sigmaOf_setBight _ _ _ hrun₂, hsigma], hopened, hstill, by rw [Sys.liveOn, Sys.bight_setBight_other _ _ hval]; exact hlive⟩
  change (capOf (s.sys.bight f.b.val) m).desc = moverDesc f s at hdesc
  obtain ⟨owner, hsent⟩ := hact (s.sys.setBight f.b.val x₂) f.b q r (capOf (s.sys.bight f.b.val) m) hsend (by rw [Sys.bight_setBight, hrun₂, hrun])
    (by rw [hdesc]; exact hdest) (by rw [Sys.bight_setBight, harch]; exact hlocker)
  rw [hdesc, Sys.bight_setBight, harch, Sys.bight_setBight_other _ _ hval] at hsent
  have heff := (moveQ_effect f foot ready act hmark (by rw [Sys.moveCheck_setBight hrun₂ hsigma, hdesc, hcheck])).trans (congrArg (fun y => (y, (none : Option Cap))) hsent)
  have hkeep : ((s.sys.setBight f.b.val x₂).setBight q.val ((s.sys.bight q.val).outside (sentTo (moverDesc f s)
      ((s.atIssue f.b f.waitEn f.waitH).lockerLines (moverDesc f s) (mdLocker (moverDesc f s))) owner))).bight f.b.val = x₂ := by
    rw [Sys.bight_setBight_other _ _ hval.symm, Sys.bight_setBight]
  obtain ⟨t, ht, hmem, hparts, hctxs, hbights⟩ := QOp.sends_bights (i := .movSend f) (q := m) h hh rfl rfl rfl (fun _ => rfl)
    (moveQ_ready f foot ready act (hready _ _ _ (by rw [hx₁, Sys.sigmaOf_setBight _ _ _ hrun₁, hsigma]))) (by rw [hx₂]; exact heff) (by rw [hkeep, hregion₂])
  rw [hkeep, harch] at hbights
  refine ⟨{ s with sys := t }, owner, ?_, ?_, ?_, hmem, hparts, hctxs, rfl⟩
  · rw [hexec]
    exact congrArg (fun y => Host.Outcome.next { s with sys := y }) ht
  · show (t.bight f.b.val).arch = _
    rw [Sys.bight, hbights]
    exact congrArg Bight.arch (Sys.bight_setBight _ f.b _)
  · show (t.bight q.val).arch = _
    rw [Sys.bight, hbights]
    refine (congrArg Bight.arch (Sys.bight_setBight_other _ _ hval)).trans ?_
    rw [Sys.bight_setBight]
    rfl

end Row

end Sys2Proof.Machine

/-!
MOV.FLOW (R268, R270, R272, R273): messages that are cut into frames and sent, and the instruction as it is issued.
-/

namespace Sys2Proof.Machine

/-! Frames of a message (R268) -/

theorem flatMap_pieces (data : Bytes) (pay n : Nat) :
    (List.range n).flatMap (fun i => (data.drop (pay * i)).take (min pay (data.length - pay * i))) = data.take (pay * n) := by
  induction n with
  | zero => simp
  | succ n ih =>
    have hpiece : (data.drop (pay * n)).take (min pay (data.length - pay * n)) = (data.drop (pay * n)).take pay := by
      rw [← List.length_drop]
      exact (List.take_eq_take_min ..).symm
    rw [List.range_succ, List.flatMap_append, ih, List.flatMap_singleton, hpiece, Nat.mul_succ, List.take_add]

/-- The frames of a message carry its bytes in order. -/
theorem payload_cutFrames (by_ : Option Nat) (coll : Bool) (collId msg base total : Nat) {pay : Nat} (hpay : 0 < pay) (b : Blob) :
    (cutFrames by_ coll collId msg base total pay b).flatMap (fun fr => fr.payload) = b.data := by
  have hall : b.data.length ≤ pay * ((b.data.length + pay - 1) / pay) := by
    have := Nat.lt_mul_div_succ (b.data.length + pay - 1) hpay
    rw [Nat.mul_succ] at this
    omega
  rw [cutFrames, List.flatMap_map, flatMap_pieces, List.take_of_length_le hall]

/-- A message that is not empty has a frame. -/
theorem exists_cutFrames (by_ : Option Nat) (collId msg base total : Nat) {pay : Nat} (hpay : 0 < pay) {b : Blob} (hb : b.data ≠ []) :
    ∃ fr ∈ cutFrames by_ false collId msg base total pay b, fr.kind = 0 ∧ fr.coll = false ∧ fr.msg = msg := by
  have hlen := List.length_pos_iff.mpr hb
  have hcount : 0 < (b.data.length + pay - 1) / pay := Nat.div_pos (by omega) hpay
  exact ⟨_, List.mem_map.mpr ⟨0, List.mem_range.mpr hcount, rfl⟩, rfl, rfl, rfl⟩

/-! Sending (R268, R270) -/

/-- A frame without the SEQ that sending gives it. -/
def Frame.unsent (fr : Frame) : Frame := { fr with seq := 0 }

/-- The frames of a flow that are not acknowledged, sent or not. -/
def Flow.frames (x : Flow) : List Frame := (x.unacked ++ x.queue).map Frame.unsent

/-- Sending moves frames of a flow; its messages and partition memory stay. -/
structure Transmits (f : Nat) (y z : Sys) : Prop where
  mem : z.mem = y.mem
  msg : (z.flow f).msg = (y.flow f).msg
  frames : (z.flow f).frames = (y.flow f).frames

theorem Transmits.refl (f : Nat) (y : Sys) : Transmits f y y := ⟨rfl, rfl, rfl⟩

theorem Transmits.trans {f : Nat} {x y z : Sys} (h : Transmits f x y) (h' : Transmits f y z) : Transmits f x z :=
  ⟨h'.mem.trans h.mem, h'.msg.trans h.msg, h'.frames.trans h.frames⟩

theorem transmits_setFlow {y : Sys} {f : Nat} {x : Flow} (hmsg : x.msg = (y.flow f).msg) (hframes : x.frames = (y.flow f).frames) : Transmits f y (y.setFlow f x) :=
  ⟨rfl, by rw [Sys.flow_setFlow, hmsg], by rw [Sys.flow_setFlow, hframes]⟩

/-- What a sent frame and its account leave of the flow. -/
theorem transmits_sendFrame (y : Sys) (f : Nat) (fr : Frame) (retx : Bool) (c tx rx : Nat) : Transmits f y ((y.sendFrame f fr retx).useFabric c tx rx) := by
  unfold Sys.useFabric
  dsimp only
  split
  · exact ⟨rfl, rfl, rfl⟩
  · exact ⟨rfl, rfl, rfl⟩

theorem transmits_txLoop (y : Sys) (fuel f : Nat) : Transmits f y (y.txLoop fuel f) := by
  induction fuel generalizing y with
  | zero => exact .refl f y
  | succ fuel ih =>
    unfold Sys.txLoop
    dsimp only
    split
    · exact .refl f y
    · next fr rest hqueue =>
      split
      · refine Transmits.trans ?_ (ih _)
        refine Transmits.trans ?_ (transmits_sendFrame ..)
        refine transmits_setFlow rfl ?_
        simp [Flow.frames, hqueue, Frame.unsent]
      · exact .refl f y

/-- A posted message: its frames join the flow's, and the next message has the next number. -/
theorem Sys.post_spec (y : Sys) (f : Nat) (b : Blob) (by_ : Option Nat) : (y.post f b by_).mem = y.mem ∧ ((y.post f b by_).flow f).msg = ((y.flow f).msg + 1) % 2 ^ 32
    ∧ ((y.post f b by_).flow f).frames = (y.flow f).frames
      ++ (cutFrames by_ false 0 (y.flow f).msg 0 b.data.length (y.portPayload (y.flow f).port) b).map Frame.unsent := by
  unfold Sys.post Sys.enqueue Sys.tx
  dsimp only
  obtain ⟨hmem, hmsg, hframes⟩ := transmits_txLoop (Sys.setFlow _ f _) _ f
  refine ⟨hmem, hmsg.trans ?_, hframes.trans ?_⟩
  · rw [Sys.flow_setFlow, Sys.flow_setFlow]
  · rw [Sys.flow_setFlow, Sys.flow_setFlow]
    simp [Flow.frames]

end Sys2Proof.Machine

/-!
O25: SEND, RELEASE and COLL_WAIT as they are issued (R272, R273), and the obligation.
-/

namespace Sys2Proof.Machine

/-! The record that a MOV.FLOW reserves (R273) -/

/-- What an instruction captures at dispatch, before it reserves a record. -/
def bareCap (x : Bight) (q : QOp) : Cap := { capOf x q with entry := none }

/-- Whether an instruction reserves a record is decided once, at dispatch. -/
theorem Sys.queueOp_push {s : State} {b : Fin 80} (h : QueueReady s b) (i : Instr) (q : QOp) :
    s.sys.queueOp i b.val q = s.sys.queueOp i b.val { q with push := fun _ => q.push (bareCap (s.sys.bight b.val) q) } := by
  obtain ⟨hcore, hreplay, -⟩ := h
  unfold Sys.queueOp
  simp only [hreplay]
  rw [Sys.front_ready hcore, Sys.front_ready hcore]
  rfl

/-- Whether a MOV.FLOW with an unpoisoned descriptor reserves a record. -/
def flowRecords (d : Bytes) : Bool := fdRecord d || fdKind d == 2

/-- A MOV.FLOW with that decision taken. -/
def flowOp (f : MoverF) (s : State) : QOp := { flowQ f with push := fun _ => flowRecords (moverDesc f s) }

/-- What it captures, and the units when it takes effect. -/
def flowCap (f : MoverF) (s : State) : Cap := capOf (s.sys.bight f.b.val) (flowOp f s)
def flowUnits (f : MoverF) (s : State) : Sys := atEffect s.sys f.b.val (flowOp f s) (flowRecords (moverDesc f s))

section Issue

variable {f : MoverF} {s : State} (hlocker : ∀ e ∈ (s.atIssue f.b f.waitEn f.waitH).locker.marks, e.2 = .clean)

theorem flowCap_seq : (flowCap f s).seq = (s.sys.bight f.b.val).nextSeq := rfl
theorem flowCap_lost : (flowCap f s).lost = false := rfl
theorem flowCap_entry : (flowCap f s).entry = if flowRecords (moverDesc f s) then some (s.arch f.b).fifoNext else none := rfl

theorem flowCap_desc : (flowCap f s).desc = moverDesc f s := (capOf_desc (q := flowOp f s) (r := f.descReg) rfl s f.b f.waitEn f.waitH).2.1

include hlocker in
theorem flowCap_descMark : (flowCap f s).descMark = .clean := by
  obtain ⟨-, -, hmark⟩ := capOf_desc (q := flowOp f s) (r := f.descReg) rfl s f.b f.waitEn f.waitH
  exact hmark.trans (Mem.worst_clean hlocker _ _)

theorem flowUnits_bight : ((flowUnits f s).bight f.b.val).run = (s.sys.bight f.b.val).run ∧ ((flowUnits f s).bight f.b.val).region = (s.sys.bight f.b.val).region
    ∧ ((flowUnits f s).bight f.b.val).arch = (s.atIssue f.b f.waitEn f.waitH).reserveIf (flowRecords (moverDesc f s)) :=
  ⟨by simp [flowUnits, atEffect], by simp [flowUnits, atEffect], atEffect_arch rfl⟩

theorem flowUnits_flow (g : Nat) : (flowUnits f s).flow g = s.sys.flow g := rfl
theorem flowUnits_portPayload (q : Nat) : (flowUnits f s).portPayload q = s.sys.portPayload q := rfl
theorem flowUnits_mem : (flowUnits f s).mem = s.sys.mem := rfl

theorem flowUnits_runPart : (flowUnits f s).runPart f.b.val = s.sys.runPart f.b.val := Sys.runPart_setBight rfl

theorem flowUnits_flowCheck (d : Bytes) : (flowUnits f s).flowCheck f.b.val d = s.sys.flowCheck f.b.val d := by
  have hfor : ∀ g role, (flowUnits f s).flowFor f.b.val g role = s.sys.flowFor f.b.val g role := fun g role => by
    unfold Sys.flowFor
    rw [flowUnits_runPart]
    rfl
  unfold Sys.flowCheck
  rw [flowUnits_runPart, hfor, hfor]

variable (h : QueueReady s f.b)
include h

theorem flowUnits_holds (seq : Nat) : (flowUnits f s).holds f.b.val seq = false := by
  obtain ⟨-, -, -, -, hregion, hsigma⟩ := h
  have hr : ((flowUnits f s).bight f.b.val).region = none := flowUnits_bight.2.1.trans hregion
  have hs : (flowUnits f s).sigmaOf f.b.val = none := by
    rw [flowUnits, atEffect, Sys.sigmaOf_setBight]
    · exact hsigma
    · rfl
  simp [Sys.holds, Bight.inRegion, hr, hs]

variable (hh : HitchReady s f.b f.waitEn f.waitH) (hroom : (s.arch f.b).fifo.length < 32)
include hh hroom hlocker

/-- A MOV.FLOW that is issued and goes in flight ends where that has come, and else stands in its queue. -/
theorem queueOp_flow (i : Instr) {y : Sys} {fly : Cap} (hissue : (flowUnits f s).flowIssue f.b.val (flowCap f s) = (y, some fly)) :
    s.sys.queueOp i f.b.val (flowQ f) = match y.flowFinish f.b.val fly (optHitch f.setEn f.setH) with
      | some z => { z with replay := none }
      | none => y.keepQueued i f.b.val s.sys.ordNow (flowOp f s) { fly with flying := true } := by
  have hbare : (bareCap (s.sys.bight f.b.val) (flowQ f)).descMark = .clean ∧ (bareCap (s.sys.bight f.b.val) (flowQ f)).desc = moverDesc f s :=
    ⟨flowCap_descMark hlocker, flowCap_desc⟩
  have hpush : (flowQ f).push (bareCap (s.sys.bight f.b.val) (flowQ f)) = flowRecords (moverDesc f s) := by
    show ((bareCap (s.sys.bight f.b.val) (flowQ f)).descMark.isBad || fdRecord (bareCap (s.sys.bight f.b.val) (flowQ f)).desc
      || fdKind (bareCap (s.sys.bight f.b.val) (flowQ f)).desc == 2) = _
    rw [hbare.1, hbare.2]
    rfl
  have hfree : ∀ n, (flowOp f s).wait = some n → (s.arch f.b).hitch n = true := fun n hn => by
    have hn' : optHitch f.waitEn f.waitH = some n := hn
    cases hen : f.waitEn with
    | false => rw [hen] at hn'; cases hn'
    | true => rw [hen] at hn'; cases hn'; exact hh hen
  rw [Sys.queueOp_push h, hpush]
  refine (Sys.queueOp_ready h i (flowOp f s) (flowRecords (moverDesc f s)) (fun _ => rfl) (fun _ => hroom) hfree rfl).trans ?_
  have heff : (flowOp f s).effect (flowUnits f s) f.b.val (flowCap f s) = (y, some fly) := hissue
  show (match (flowOp f s).effect (flowUnits f s) f.b.val (flowCap f s) with | (y, some fly) => _ | (y, none) => _) = _
  rw [heff]
  rfl

/-- A MOV.FLOW whose end has come as it is issued. -/
theorem queueOp_flow_ends (i : Instr) {y z : Sys} {fly : Cap} (hissue : (flowUnits f s).flowIssue f.b.val (flowCap f s) = (y, some fly))
    (hfinish : y.flowFinish f.b.val fly (optHitch f.setEn f.setH) = some z) : s.sys.queueOp i f.b.val (flowQ f) = { z with replay := none } := by
  rw [queueOp_flow hlocker h hh hroom i hissue, hfinish]

/-- A MOV.FLOW whose end is to come. -/
theorem queueOp_flow_stays (i : Instr) {y : Sys} {fly : Cap} (hissue : (flowUnits f s).flowIssue f.b.val (flowCap f s) = (y, some fly))
    (hfinish : y.flowFinish f.b.val fly (optHitch f.setEn f.setH) = none) :
    s.sys.queueOp i f.b.val (flowQ f) = y.keepQueued i f.b.val s.sys.ordNow (flowOp f s) { fly with flying := true } := by
  rw [queueOp_flow hlocker h hh hroom i hissue, hfinish]

end Issue

/-! Issue and end by kind (R272, R273) -/

/-- What an instruction in flight keeps of what it captured. -/
structure Flies (cap fly : Cap) : Prop where
  seq : fly.seq = cap.seq
  desc : fly.desc = cap.desc
  entry : fly.entry = cap.entry
  lost : fly.lost = cap.lost

section Kinds

variable {y : Sys} {b : Fin 80} {cap : Cap} (hmark : cap.descMark = .clean) (hcheck : y.flowCheck b.val cap.desc = none)
include hmark hcheck

/-- SEND posts the bytes and waits for their acknowledgement. -/
theorem flowIssue_send (hkind : fdKind cap.desc = 0) (hfree : y.holds b.val cap.seq = false) (hclean : ∀ e ∈ (y.bight b.val).arch.locker.marks, e.2 = .clean) :
    ∃ fly, Flies cap fly ∧ fly.msg = some (y.flow (fdFlow cap.desc)).msg ∧ y.flowIssue b.val cap
      = (y.post (fdFlow cap.desc) ((y.bight b.val).arch.locker.blob (fdLocker cap.desc) (fdBytes cap.desc)) ((y.bight b.val).run.map (fun r => r.ctx)), some fly) := by
  refine ⟨{ cap with flying := true, sentBad := false, msg := some (y.flow (fdFlow cap.desc)).msg }, ⟨rfl, rfl, rfl, rfl⟩, rfl, ?_⟩
  simp [Sys.flowIssue, hmark, hcheck, hkind, hfree, Blob.worst_of_bad_nil (Mem.bad_blob hclean ..), Sys.movedPoison_clean, Mark.isBad_clean]

/-- RELEASE returns the credit at once. -/
theorem flowIssue_release (hkind : fdKind cap.desc = 1) (hfree : y.holds b.val cap.seq = false) :
    ∃ fly, Flies cap fly ∧ fly.msg = some ((y.releaseMsgs (fdFlow cap.desc) (fdCount cap.desc)).flow (fdFlow cap.desc)).credit
      ∧ y.flowIssue b.val cap = (y.releaseMsgs (fdFlow cap.desc) (fdCount cap.desc), some fly) := by
  refine ⟨{ cap with flying := true, msg := some ((y.releaseMsgs (fdFlow cap.desc) (fdCount cap.desc)).flow (fdFlow cap.desc)).credit }, ⟨rfl, rfl, rfl, rfl⟩, rfl, ?_⟩
  simp [Sys.flowIssue, hmark, hcheck, hkind, hfree, Mark.isBad_clean]

/-- COLL_WAIT waits for its collective's outcome. -/
theorem flowIssue_collWait (hkind : fdKind cap.desc = 2) : ∃ fly, Flies cap fly ∧ y.flowIssue b.val cap = (y, some fly) := by
  refine ⟨{ cap with flying := true }, ⟨rfl, rfl, rfl, rfl⟩, ?_⟩
  simp [Sys.flowIssue, hmark, hcheck, hkind, Mark.isBad_clean]

end Kinds

section Ends

variable {y : Sys} {b : Nat} {cap : Cap} (set : Option (BitVec 5))

theorem flowFinish_send {m : Nat} (hkind : fdKind cap.desc = 0) (hmsg : cap.msg = some m) (hlost : cap.lost = false)
    (hgone : (y.flow (fdFlow cap.desc)).delivered m = false) : y.flowFinish b cap set = none := by
  simp [Sys.flowFinish, hkind, hmsg, hlost, hgone]

theorem flowFinish_release {m : Nat} (hkind : fdKind cap.desc = 1) (hmsg : cap.msg = some m) :
    y.flowFinish b cap set = some (y.flowDone b cap set (BitVec.ofNat 64 m) 0#8) := by
  simp [Sys.flowFinish, hkind, hmsg]

theorem flowFinish_collWait {p : Nat} {o : Outcome} (hkind : fdKind cap.desc = 2) (hp : y.runPart b = some p) (hcoll : y.collOf p (fdColl cap.desc) = none)
    (ho : (y.part p).outcomes.find? (fun o => o.coll == fdColl cap.desc) = some o) :
    y.flowFinish b cap set = some (y.flowDone b cap set (BitVec.ofNat 64 o.element) (BitVec.ofNat 8 o.flags)) := by
  simp [Sys.flowFinish, hkind, hp, hcoll, ho]

end Ends

/-- RELEASE of an open context: its oldest unreleased message, and nothing of the Bights. -/
theorem Sys.releaseMsgs_spec {y : Sys} {f : Nat} (h : (y.flow f).state = .open) (n : Nat) :
    ((y.releaseMsgs f n).flow f).credit = min (y.flow f).msg ((y.flow f).credit + n) ∧ (y.releaseMsgs f n).bights = y.bights := by
  unfold Sys.releaseMsgs Sys.sendAck
  dsimp only
  rw [if_pos h]
  refine ⟨?_, rfl⟩
  rw [Sys.flow_setFlow, Sys.flow_setFlow]

theorem Flow.flatMap_frames (x : Flow) : x.frames.flatMap (fun fr => fr.payload) = (x.unacked ++ x.queue).flatMap (fun fr => fr.payload) := by
  rw [Flow.frames, List.flatMap_map]
  rfl

/-- A message with a frame among those of its flow is not delivered. -/
theorem Flow.delivered_eq_false {x : Flow} {fr : Frame} (h : fr.unsent ∈ x.frames) (hkind : fr.kind = 0) (hcoll : fr.coll = false) : x.delivered fr.msg = false := by
  obtain ⟨g, hg, hsame⟩ := List.mem_map.mp h
  have hk : g.unsent.kind = fr.unsent.kind := congrArg Frame.kind hsame
  have hc : g.unsent.coll = fr.unsent.coll := congrArg Frame.coll hsame
  have hm : g.unsent.msg = fr.unsent.msg := congrArg Frame.msg hsame
  simp only [Frame.unsent] at hk hc hm
  have hany : (x.queue ++ x.unacked).any (fun e => e.kind == 0 && !e.coll && e.msg == fr.msg) = true := by
    refine List.any_eq_true.mpr ⟨g, ?_, ?_⟩
    · rw [List.mem_append] at hg ⊢
      exact hg.symm
    · simp [hk, hc, hm, hkind, hcoll]
  rw [Flow.delivered, hany]
  rfl

theorem flowCheck_send {y : Sys} {b : Nat} {d : Bytes} (hkind : fdKind d = 0) (h : y.flowCheck b d = none) : 256 ≤ fdBytes d := by
  unfold Sys.flowCheck at h
  simp only [hkind] at h
  split at h
  · cases h
  · next hlen =>
    simp only [not_or, not_lt] at hlen
    exact hlen.2.1

theorem flowCheck_release {y : Sys} {b : Nat} {d : Bytes} (hkind : fdKind d = 1) (h : y.flowCheck b d = none) : (y.flow (fdFlow d)).state = .open := by
  unfold Sys.flowCheck at h
  simp only [hkind] at h
  split at h
  · cases h
  · next x hx =>
    unfold Sys.flowFor at hx
    dsimp only at hx
    split at hx
    · split at hx
      · next hopen => exact hopen.2.1
      · cases hx
    · cases hx

/-- A record that an instruction reserved, filled. -/
theorem fillOpt_record {x : BightArch} (hids : ∀ e ∈ x.fifo, e.id ≠ x.fifoNext) (push : Bool) (v : Word64) (fl : Byte) :
    (x.reserveIf push).fillOpt (if push then some x.fifoNext else none) v fl = x.recordIf push v fl := by
  cases push with
  | false => rfl
  | true => exact reserve_fill_eq hids v fl

theorem recordIf_eq (x : BightArch) (push : Bool) (v : Word64) (fl : Byte) : x.recordIf push v fl
    = if push = true then { x with fifo := x.fifo ++ [⟨x.fifoNext, true, v, fl, false⟩], fifoNext := x.fifoNext + 1 } else x := by
  cases push <;> rfl

/-- What a MOV.FLOW that ends as it is issued leaves of its Bight: its record and its set. -/
theorem flowDone_units {f : MoverF} {s : State} (h : QueueReady s f.b) (hids : ∀ e ∈ (s.arch f.b).fifo, e.id < (s.arch f.b).fifoNext) {z : Sys}
    (hz : z.bights = (flowUnits f s).bights) {cap : Cap} (hseq : cap.seq = (flowCap f s).seq) (hentry : cap.entry = (flowCap f s).entry) (v : Word64) (fl : Byte) :
    z.flowDone f.b.val cap (optHitch f.setEn f.setH) v fl = z.setBight f.b.val { (flowUnits f s).bight f.b.val with
      arch := ((s.atIssue f.b f.waitEn f.waitH).recordIf (flowRecords (moverDesc f s)) v fl).andSet f.setEn f.setH (s.sys.bight f.b.val).nextSeq .mover } := by
  have ⟨_, _, _, _, hregion, _⟩ := h
  obtain ⟨-, hr, harch⟩ := flowUnits_bight (f := f) (s := s)
  have hbight : z.bight f.b.val = (flowUnits f s).bight f.b.val := by rw [Sys.bight, Sys.bight, hz]
  have hids' : ∀ e ∈ (s.atIssue f.b f.waitEn f.waitH).fifo, e.id ≠ (s.atIssue f.b f.waitEn f.waitH).fifoNext := by
    rw [State.atIssue_fifo, State.atIssue_fifoNext]
    exact fun e he => Nat.ne_of_lt (hids e he)
  unfold Sys.flowDone
  rw [Sys.onArch_none (by rw [hbight, hr, hregion]), hbight, harch, hseq, hentry, flowCap_seq, flowCap_entry, ← State.atIssue_fifoNext s f.b f.waitEn f.waitH,
    fillOpt_record hids', setHitchOpt_eq_andSet]

/-! An instruction that stands in its queue -/

section Keeps

variable (y : Sys) (i : Instr) (b ord : Nat) (q : QOp) {cap : Cap}

theorem Sys.keepQueued_flow (g : Nat) : (y.keepQueued i b ord q cap).flow g = y.flow g := rfl
theorem Sys.keepQueued_mem : (y.keepQueued i b ord q cap).mem = y.mem := rfl
theorem Sys.keepQueued_inFlight (hfly : cap.flying = true) : ∃ e ∈ (y.keepQueued i b ord q cap).waiting, e.cmd = i ∧ e.inFlight = true :=
  ⟨_, mem_insHeld _ _, rfl, hfly⟩

end Keeps

section Rows

variable {f : MoverF} {s : State} (h : QueueReady s f.b) (hh : HitchReady s f.b f.waitEn f.waitH) (hroom : (s.arch f.b).fifo.length < 32)
  (hlocker : ∀ e ∈ (s.atIssue f.b f.waitEn f.waitH).locker.marks, e.2 = .clean)
include h hh hroom hlocker

/-- A SEND on an open context stands in flight, its bytes among the frames of its flow. -/
theorem send_row (hkind : fdKind (moverDesc f s) = 0) (hcheck : s.sys.flowCheck f.b.val (moverDesc f s) = none)
    (hpay : 0 < s.sys.portPayload (s.sys.flow (fdFlow (moverDesc f s))).port) :
    ∃ t, exec (.send f) s = .next t ∧ (∃ e ∈ t.sys.waiting, e.cmd = .send f ∧ e.inFlight = true)
      ∧ (t.sys.flow (fdFlow (moverDesc f s))).msg = ((s.sys.flow (fdFlow (moverDesc f s))).msg + 1) % 2 ^ 32
      ∧ (t.sys.flow (fdFlow (moverDesc f s))).frames.flatMap (fun fr => fr.payload) = (s.sys.flow (fdFlow (moverDesc f s))).frames.flatMap (fun fr => fr.payload)
          ++ (s.atIssue f.b f.waitEn f.waitH).locker.read (fdLocker (moverDesc f s)) (fdBytes (moverDesc f s))
      ∧ t.sys.mem = s.sys.mem ∧ t.fuses = s.fuses := by
  obtain ⟨-, -, harch⟩ := flowUnits_bight (f := f) (s := s)
  have hunits : ((flowUnits f s).bight f.b.val).arch.locker = (s.atIssue f.b f.waitEn f.waitH).locker := by
    rw [harch]
    cases flowRecords (moverDesc f s) <;> rfl
  obtain ⟨fly, hfly, hflymsg, hissue⟩ := flowIssue_send (y := flowUnits f s) (b := f.b) (cap := flowCap f s) (flowCap_descMark hlocker)
    (by rw [flowUnits_flowCheck, flowCap_desc, hcheck]) (by rw [flowCap_desc, hkind]) (flowUnits_holds h _) (by rw [hunits]; exact hlocker)
  rw [flowCap_desc] at hflymsg
  rw [flowCap_desc, hunits] at hissue
  generalize hblob : (s.atIssue f.b f.waitEn f.waitH).locker.blob (fdLocker (moverDesc f s)) (fdBytes (moverDesc f s)) = blob at hissue
  have hdata : blob.data = (s.atIssue f.b f.waitEn f.waitH).locker.read (fdLocker (moverDesc f s)) (fdBytes (moverDesc f s)) := by rw [← hblob]; rfl
  have hlen := flowCheck_send hkind hcheck
  obtain ⟨hmem, hmsg, hframes⟩ := (flowUnits f s).post_spec (fdFlow (moverDesc f s)) blob (((flowUnits f s).bight f.b.val).run.map (fun r => r.ctx))
  rw [flowUnits_flow] at hflymsg hmsg hframes
  rw [flowUnits_portPayload] at hframes
  rw [flowUnits_mem] at hmem
  obtain ⟨fr, hfr, hfk, hfc, hfm⟩ := exists_cutFrames (((flowUnits f s).bight f.b.val).run.map (fun r => r.ctx)) 0
    (s.sys.flow (fdFlow (moverDesc f s))).msg 0 blob.data.length hpay (b := blob)
    (List.ne_nil_of_length_pos (by rw [hdata, Mem.length_read]; omega))
  have hgone := Flow.delivered_eq_false (fr := fr) (by rw [hframes]; exact List.mem_append_right _ (List.mem_map_of_mem hfr)) hfk hfc
  rw [hfm] at hgone
  have hdesc : fly.desc = moverDesc f s := hfly.desc.trans flowCap_desc
  have hrun := queueOp_flow_stays hlocker h hh hroom (.send f) hissue
    (flowFinish_send _ (by rw [hdesc, hkind]) hflymsg hfly.lost (by rw [hdesc]; exact hgone))
  refine ⟨_, rfl, ?_⟩
  show (∃ e ∈ (s.sys.queueOp (.send f) f.b.val (flowQ f)).waiting, _) ∧ ((s.sys.queueOp (.send f) f.b.val (flowQ f)).flow _).msg = _
    ∧ ((s.sys.queueOp (.send f) f.b.val (flowQ f)).flow _).frames.flatMap _ = _ ∧ (s.sys.queueOp (.send f) f.b.val (flowQ f)).mem = _ ∧ _
  rw [hrun, Sys.keepQueued_flow, Sys.keepQueued_mem]
  refine ⟨Sys.keepQueued_inFlight _ _ _ _ _ rfl, hmsg, ?_, hmem, rfl⟩
  rw [hframes, List.flatMap_append, List.flatMap_map, ← hdata]
  exact congrArg _ (payload_cutFrames _ _ _ _ _ _ hpay blob)

variable (hids : ∀ e ∈ (s.arch f.b).fifo, e.id < (s.arch f.b).fifoNext)
include hids

/-- A RELEASE on an open context returns credit and records its oldest unreleased message. -/
theorem release_row (hkind : fdKind (moverDesc f s) = 1) (hcheck : s.sys.flowCheck f.b.val (moverDesc f s) = none) :
    let fl := s.sys.flow (fdFlow (moverDesc f s))
    ∃ t, exec (.release f) s = .next t ∧ (t.sys.flow (fdFlow (moverDesc f s))).credit = min fl.msg (fl.credit + fdCount (moverDesc f s))
      ∧ t.arch f.b = ((s.atIssue f.b f.waitEn f.waitH).recordIf (flowRecords (moverDesc f s)) (BitVec.ofNat 64 (min fl.msg (fl.credit + fdCount (moverDesc f s)))) 0#8).andSet
          f.setEn f.setH (s.sys.bight f.b.val).nextSeq .mover := by
  intro fl
  obtain ⟨fly, hfly, hflymsg, hissue⟩ := flowIssue_release (y := flowUnits f s) (b := f.b) (cap := flowCap f s) (flowCap_descMark hlocker)
    (by rw [flowUnits_flowCheck, flowCap_desc, hcheck]) (by rw [flowCap_desc, hkind]) (flowUnits_holds h _)
  rw [flowCap_desc] at hflymsg hissue
  obtain ⟨hcredit, hbights⟩ := Sys.releaseMsgs_spec (y := flowUnits f s) (f := fdFlow (moverDesc f s)) (by rw [flowUnits_flow]; exact flowCheck_release hkind hcheck)
    (fdCount (moverDesc f s))
  rw [flowUnits_flow] at hcredit
  rw [hcredit] at hflymsg
  have hrun := queueOp_flow_ends hlocker h hh hroom (.release f) hissue (flowFinish_release _ (by rw [hfly.desc, flowCap_desc, hkind]) hflymsg)
  rw [flowDone_units h hids hbights hfly.seq hfly.entry] at hrun
  refine ⟨_, rfl, ?_⟩
  show ((s.sys.queueOp (.release f) f.b.val (flowQ f)).flow _).credit = _ ∧ ((s.sys.queueOp (.release f) f.b.val (flowQ f)).bight f.b.val).arch = _
  rw [hrun]
  exact ⟨hcredit, congrArg Bight.arch (Sys.bight_setBight _ f.b _)⟩

/-- A COLL_WAIT of a completed collective records its outcome. -/
theorem collWait_row {p : Nat} {o : Outcome} (hp : s.sys.runPart f.b.val = some p) (hkind : fdKind (moverDesc f s) = 2)
    (hcoll : s.sys.collOf p (fdColl (moverDesc f s)) = none) (ho : (s.sys.part p).outcomes.find? (fun o => o.coll == fdColl (moverDesc f s)) = some o) :
    ∃ t, exec (.collWait f) s = .next t ∧ OnlyBight s t f.b
      ∧ t.arch f.b = ((s.atIssue f.b f.waitEn f.waitH).recordIf (flowRecords (moverDesc f s)) (BitVec.ofNat 64 o.element) (BitVec.ofNat 8 o.flags)).andSet
          f.setEn f.setH (s.sys.bight f.b.val).nextSeq .mover := by
  have hcheck : s.sys.flowCheck f.b.val (moverDesc f s) = none := by
    unfold Sys.flowCheck
    simp [hkind, hp]
  obtain ⟨fly, hfly, hissue⟩ := flowIssue_collWait (y := flowUnits f s) (b := f.b) (cap := flowCap f s) (flowCap_descMark hlocker)
    (by rw [flowUnits_flowCheck, flowCap_desc, hcheck]) (by rw [flowCap_desc, hkind])
  have hdesc : fly.desc = moverDesc f s := hfly.desc.trans flowCap_desc
  have hrun := queueOp_flow_ends hlocker h hh hroom (.collWait f) hissue
    (flowFinish_collWait _ (by rw [hdesc, hkind]) (flowUnits_runPart.trans hp) (by rw [hdesc]; exact hcoll) (by rw [hdesc]; exact ho))
  rw [flowDone_units h hids rfl hfly.seq hfly.entry, flowUnits, atEffect_setBight] at hrun
  obtain ⟨honly, hbight⟩ := onlyBight_setBight _ hrun
  exact ⟨_, rfl, honly, congrArg Bight.arch hbight⟩

end Rows

/-- A RELEASE records where its descriptor asks for it, a COLL_WAIT always. -/
theorem flowRecords_release {d : Bytes} (hkind : fdKind d = 1) : flowRecords d = decide (fieldN d 5 1 % 2 = 1) := by
  rw [flowRecords, hkind, fdRecord, Nat.testBit_zero]
  exact Bool.or_false _

theorem flowRecords_collWait {d : Bytes} (hkind : fdKind d = 2) : flowRecords d = true := by
  rw [flowRecords, hkind]
  exact Bool.or_true _

/-- Settles O25: a MOV.SEND as a delivery from outside, a SEND as the frames that it leaves, RELEASE and COLL_WAIT as they end. -/
theorem moverSendFlows : Obligations.MoverSendFlows := by
  unfold Obligations.MoverSendFlows
  refine ⟨?_, ?_⟩
  · intro f s r q h hh hrun x d hlocker hcheck hdest hq hopened hlive hstill
    obtain ⟨t, owner, hexec, hown, harch, hmem, hparts, hctxs, hfuses⟩ := movSend_row h hh hrun hlocker hcheck hdest hq hopened hlive hstill
    obtain ⟨hset, hframe, hland⟩ := sentTo_spec d (x.lockerLines d (mdLocker d)) owner (s.arch q)
    obtain ⟨hin, hout⟩ := locker_putLines_lockerLines x (s.arch q) d (mdLocker d) (mdLocker2 d)
    rw [← hland] at hin hout
    refine ⟨t, hexec, hown, ?_⟩
    rw [harch]
    exact ⟨hin, hout, hset, hframe, hmem, hparts, hctxs, hfuses⟩
  · intro f s p h hh hp hroom hids x d fl records pushed hlocker hlen
    refine ⟨fun hkind hcheck hpay => ?_, fun hkind hcheck => ?_, fun hkind hcoll o ho => ?_⟩
    · obtain ⟨t, hexec, hwaits, hmsg, hbytes, hmem, hfuses⟩ := send_row h hh hroom hlocker hkind hcheck hpay
      rw [Flow.flatMap_frames, Flow.flatMap_frames] at hbytes
      exact ⟨t, hexec, hwaits, hmsg, hbytes, hmem, hfuses⟩
    · obtain ⟨t, hexec, hcredit, harch⟩ := release_row h hh hroom hlocker hids hkind hcheck
      rw [recordIf_eq, flowRecords_release (d := moverDesc f s) hkind] at harch
      simp only [decide_eq_true_eq] at harch
      exact ⟨t, hexec, hcredit, harch⟩
    · obtain ⟨t, hexec, honly, harch⟩ := collWait_row h hh hroom hlocker hids hp hkind hcoll ho
      rw [recordIf_eq, flowRecords_collWait (d := moverDesc f s) hkind, if_pos rfl] at harch
      exact ⟨t, hexec, honly, harch⟩

end Sys2Proof.Machine

/-!
O34, RUN (R83, R301, R331): its checks, the Bight that it waits for and takes, and the state that it starts in.
-/

namespace Sys2Proof.Machine

/-! A command in place -/

/-- Changing a command changes of a context its rings alone. -/
theorem Sys.ctx_setProgress (y : Sys) (c r d : Nat) (x : Cmd) (p : Progress) :
    { (y.setProgress c r x p).ctx d with rings := (y.ctx d).rings } = y.ctx d := by
  by_cases hd : d = c
  · subst hd
    rw [Sys.setProgress, Sys.setCmd, Sys.ctx_setRing]
    rfl
  · rw [Sys.setProgress, Sys.setCmd, Sys.setRing, Sys.ctx_setCtx_other _ _ hd]

section Progress

variable (y : Sys) (c r : Nat) (x : Cmd) (p : Progress)

theorem Sys.ctx_setProgress_other {d : Nat} (h : d ≠ c) : (y.setProgress c r x p).ctx d = y.ctx d := by
  rw [Sys.setProgress, Sys.setCmd, Sys.setRing, Sys.ctx_setCtx_other _ _ h]

@[simp] theorem Sys.part_ctx_setProgress (d : Nat) : ((y.setProgress c r x p).ctx d).part = (y.ctx d).part :=
  (congrArg Context.part (y.ctx_setProgress c r d x p) :)

@[simp] theorem Sys.batches_ctx_setProgress (d : Nat) : ((y.setProgress c r x p).ctx d).batches = (y.ctx d).batches :=
  (congrArg Context.batches (y.ctx_setProgress c r d x p) :)

@[simp] theorem Sys.opened_ctx_setProgress (d : Nat) : ((y.setProgress c r x p).ctx d).opened = (y.ctx d).opened :=
  (congrArg Context.opened (y.ctx_setProgress c r d x p) :)

@[simp] theorem Sys.resident_ctx_setProgress (d : Nat) : ((y.setProgress c r x p).ctx d).resident = (y.ctx d).resident :=
  (congrArg Context.resident (y.ctx_setProgress c r d x p) :)

@[simp] theorem Sys.evictFor_ctx_setProgress (d : Nat) : ((y.setProgress c r x p).ctx d).evictFor = (y.ctx d).evictFor :=
  (congrArg Context.evictFor (y.ctx_setProgress c r d x p) :)

@[simp] theorem Sys.part_setProgress (q : Nat) : (y.setProgress c r x p).part q = y.part q := rfl

theorem Sys.inSigma_setProgress (d : Nat) (k : Cmd) : (y.setProgress c r x p).inSigma d k = y.inSigma d k := by
  simp only [Sys.inSigma, Context.batch, Sys.part_ctx_setProgress, Sys.batches_ctx_setProgress, Sys.part_setProgress]

theorem Sys.specLocker_setProgress (d b : Nat) : (y.setProgress c r x p).specLocker d b = y.specLocker d b := by
  simp only [Sys.specLocker, Sys.part_ctx_setProgress, Sys.part_setProgress]

theorem Sys.savedBight_setProgress (d b : Nat) : (y.setProgress c r x p).savedBight d b = y.savedBight d b := rfl

theorem Sys.runHanks_setProgress (d : Nat) (k : Cmd) : (y.setProgress c r x p).runHanks d k = y.runHanks d k := by
  simp only [Sys.runHanks, Sys.part_ctx_setProgress, Sys.part_setProgress]

variable {y c r x}

theorem Sys.cmdAt_setProgress {j : Cmd} (hr : r < 4) (h : y.cmdAt c r x.lay = some j) :
    (y.setProgress c r x p).cmdAt c r x.lay = some { x with progress := p } :=
  Sys.cmdAt_setCmd (x := { x with progress := p }) hr h

end Progress

/-- A command that may begin and goes on until another ends it leaves the state in which its body left it. -/
theorem running_of_body {i : Instr} {s : State} {key : CmdKey} {k : Cmd} {op : Nat} (h : CmdReady i s key k op) {body : Nat → Nat → Cmd → Sys → Did}
    (hexec : exec i s = s.onSys (fun y => y.runOrdered i key (isOp op) body)) {z : Sys}
    (hbody : body (s.sys.ctx key.ctx.val).part key.ctx.val { k with progress := .begun } (s.sys.begun key k) = .running z) :
    exec i s = .next { s with sys := { z with replay := none } } := by
  obtain ⟨hcmd, hop, hwaiting, hring, hlay, hreplay, hheld, hcut, hsigma, hbegin, hfirst⟩ := h
  have hw : s.sys.waiting.any (fun g => g.cmd == i) = false := by simpa using hheld
  have hb : body (s.sys.ctx key.ctx.val).part key.ctx.val { k with progress := .begun } (s.sys.setProgress key.ctx.val k.ring k .begun) = .running z := hbody
  have htry : s.sys.tryCmd i key (isOp op) (fun e => s.sys.cmdExtra (s.sys.ctx key.ctx.val).part e) body = z := by
    unfold Sys.tryCmd
    rw [hcmd]
    dsimp only
    rw [if_neg (by simp [isOp, hop, Cmd.isFinished, hwaiting]), if_pos hwaiting, if_neg (by simp [hcut]), if_neg (by simp [hbegin]), hfirst]
    dsimp only
    rw [hb]
  have hrun : s.sys.runOrdered i key (isOp op) body = { z with replay := none } := by
    unfold Sys.runOrdered Sys.runCmd
    rw [if_neg (by simp [hcmd, Cmd.begunB, Cmd.resumes, hwaiting, hw]), htry]
  rw [hexec, ← hrun]
  rfl

/-! The Bight that a RUN starts on (R301) -/

/-- An opened context of a partition is among those of the partition. -/
theorem Sys.mem_ctxsOf {y : Sys} {c : Nat} (h : (y.ctx c).opened = true) : c ∈ y.ctxsOf (y.ctx c).part := by
  unfold Sys.ctx SMap.get at h ⊢
  split at h
  · next e he =>
    have hkey : e.1 = c := by simpa using List.find?_some he
    exact List.mem_filterMap.mpr ⟨e, List.mem_of_find?_eq_some he, by simp [h, hkey]⟩
  · cases h

/-- Where only one context wants a Bight, the round picks it. -/
theorem pick_only {l : List Nat} {c : Nat} (hc : c ∈ l) (h : ∀ d ∈ l, d = c) (q : Nat → Bool) :
    l.find? q = some c ∨ (l.find? q = none ∧ l.head? = some c) := by
  cases hfind : l.find? q with
  | some d => exact .inl (by rw [h d (List.mem_of_find?_eq_some hfind)])
  | none =>
    refine .inr ⟨rfl, ?_⟩
    cases l with
    | nil => cases hc
    | cons d t => rw [List.head?_cons, h d List.mem_cons_self]

/-- An idle Bight takes the RUN of the one context that waits for it. -/
theorem Sys.takeBight_of_ready {y : Sys} {b p c : Nat} {k : Cmd} {ready active : List Nat} {st : Word64} {causes : List Mark} {spec : Bool}
    (hidle : (y.bight b).run = none) (hstrand : y.fnReady (fnStrand (b / 8)) = true) (hholder : y.holder b = some p) (hopened : (y.ctx c).opened = true)
    (hpart : (y.ctx c).part = p) (hresident : (y.ctx c).resident = true) (hevict : (y.ctx c).evictFor = none) (hsaved : (y.savedBight c b).run = none)
    (hready : y.readyRun c b = some k) (hothers : ∀ d, d ≠ c → (y.savedBight d b).run = none ∧ y.readyRun d b = none)
    (hk : k.progress = .run ready active st causes spec) :
    y.takeBight b = (y.setProgress c k.ring k (.run (ready.filter (· != b)) (active ++ [b]) st causes spec)).startOn c b k spec := by
  have hwants : y.wantsBight c b = true := by simp [Sys.wantsBight, hresident, hevict, hready]
  have honly : ∀ d ∈ (y.ctxsOf p).filter (fun d => y.wantsBight d b), d = c := fun d hd => by
    by_contra hne
    obtain ⟨hs, hr⟩ := hothers d hne
    have := (List.mem_filter.mp hd).2
    simp [Sys.wantsBight, hs, hr] at this
  have hmem : c ∈ (y.ctxsOf p).filter (fun d => y.wantsBight d b) := List.mem_filter.mpr ⟨hpart ▸ Sys.mem_ctxsOf hopened, hwants⟩
  unfold Sys.takeBight
  dsimp only
  rw [if_neg (by simp [hidle, hstrand]), hholder]
  rcases pick_only hmem honly (fun d => decide ((y.bight b).turn < d)) with hfind | ⟨hfind, hhead⟩
  · simp only [hfind, hsaved, hready, hk, Option.isSome_none, Bool.false_eq_true, if_false]
  · simp only [hfind, hhead, hsaved, hready, hk, Option.isSome_none, Bool.false_eq_true, if_false]

end Sys2Proof.Machine

/-!
O34: the state in which a RUN starts (R83, R331), RUN_CANCEL (R321), and the obligation.
-/

namespace Sys2Proof.Machine

/-! The Bight at the start of a RUN (R83, R331) -/

/-- The scalar registers of a RUN without weight-set arguments, on one hank. -/
def runRegs (k : Cmd) : Vector Word64 32 :=
  Vector.ofFn (fun (i : Fin 32) => if 1 ≤ i.val ∧ i.val ≤ 7 then BitVec.ofNat 64 (k.field (0x20 + 8 * (i.val - 1)) 8)
    else if i.val = 8 then BitVec.ofNat 64 (k.field 0x58 8 / 2 ^ 32 * 2 ^ 32 + 65536) else 0#64)

/-- The state in which a RUN starts that takes up what its context kept. -/
def runStart (k : Cmd) (kept : BightArch) : BightArch :=
  { kept.kept with sregs := runRegs k, pregs := (Vector.replicate 16 0#512).set 0 (BitVec.allOnes 512), pc := BitVec.ofNat 64 (k.field 0x10 4) }

theorem runArg_plain {k : Cmd} (h : k.field 0x1E 1 = 0) (y : Sys) (c i : Nat) : y.runArg c k i = k.field (0x20 + 8 * i) 8 := by
  simp [Sys.runArg, h]

section Start

variable {y : Sys} {c b : Nat} {k : Cmd} (hargs : k.field 0x1E 1 = 0) (hhanks : y.runHanks c k = [b])
  (hbatch : ∀ g, (y.ctx c).batch k.batch = some g → g.hauled = false)
include hhanks

theorem rank_only : ((y.runHanks c k).findIdx? (· == b)).getD 0 = 0 := by
  simp [hhanks]

include hargs hbatch

theorem startArch_plain : y.startArch c b k false = runStart k (y.savedBight c b).arch := by
  have hnone : ((y.ctx c).batch k.batch).any (fun g => g.hauled) = false := by
    cases hg : (y.ctx c).batch k.batch with
    | none => rfl
    | some g => exact hbatch g hg
  unfold Sys.startArch
  dsimp only
  rw [hnone, rank_only hhanks, hhanks]
  simp only [runArg_plain hargs, List.length_singleton, Nat.one_mul, Nat.add_zero, cond_false, runStart, runRegs]

/-- A RUN outside every step region starts on its Bight. -/
theorem startOn_plain {q : Nat} {o : Obj} (hmem : y.memoryOf (y.ctx c).part k.refs (k.field 8 8) = some (q, o)) : y.startOn c b k false
    = (y.setBight b { Bight.idle with
        arch := runStart k (y.savedBight c b).arch
        run := some { ctx := c, ring := k.ring, lay := k.lay, part := (y.ctx c).part, rank := 0, prog := o.addr, size := o.bytes, spec := false, home := q }
        turn := c }).setSaved c b Bight.idle := by
  unfold Sys.startOn
  dsimp only
  rw [hmem]
  dsimp only
  rw [startArch_plain hargs hhanks hbatch, rank_only hhanks, if_neg Bool.false_ne_true]

end Start

/-- What a RUN starts with: its arguments, size and rank in s1 to s8, its entry in PC, what the context kept, and zero. -/
theorem runStart_spec (k : Cmd) (kept : BightArch) :
    (∀ i : Fin 7, (runStart k kept).s (BitVec.ofNat 5 (i.val + 1)) = BitVec.ofNat 64 (k.field (0x20 + 8 * i.val) 8))
    ∧ (runStart k kept).s 8#5 = BitVec.ofNat 64 (k.field 0x58 8 / 2 ^ 32 * 2 ^ 32 + 65536) ∧ (∀ r : BitVec 5, 9 ≤ r.toNat → (runStart k kept).s r = 0#64)
    ∧ { runStart k kept with sregs := BightArch.zero.sregs, pregs := BightArch.zero.pregs } = { BightArch.zero with
        pc := BitVec.ofNat 64 (k.field 0x10 4), locker := kept.locker, hitches := kept.hitches, hitchSets := kept.hitchSets.filter (fun w => w.seq.isNone) } := by
  refine ⟨fun i => ?_, ?_, fun r hr => ?_, ?_⟩
  · have hnum : (BitVec.ofNat 5 (i.val + 1)).toNat = i.val + 1 := by simp; omega
    have hne : BitVec.ofNat 5 (i.val + 1) ≠ 0 := fun h => by simp [h] at hnum
    rw [BightArch.s, if_neg hne]
    simp only [runStart, runRegs, hnum, Vector.getElem_ofFn]
    rw [if_pos (by omega)]
    rfl
  · rw [BightArch.s, if_neg (by decide)]
    simp [runStart, runRegs]
  · have hne : r ≠ 0 := fun h => by simp [h] at hr
    rw [BightArch.s, if_neg hne]
    simp only [runStart, runRegs, Vector.getElem_ofFn]
    rw [if_neg (by omega), if_neg (by omega)]
  · simp only [runStart, BightArch.kept]

end Sys2Proof.Machine

/-!
O34: the RUN that starts at once, RUN_CANCEL, and the obligation (R83, R301, R321, R331).
-/

namespace Sys2Proof.Machine

/-! The RUN that a Bight takes (R301) -/

/-- Where no RUN of a context waited for a Bight, the one that the context now has there is the one that it finds. -/
theorem Sys.readyRun_setProgress {y : Sys} {c b : Nat} {k j : Cmd} {p : Progress} (hring : k.ring < 4) (hcmd : y.cmdAt c k.ring k.lay = some j)
    (hnone : y.readyRun c b = none) (hnew : ({ k with progress := p } : Cmd).awaits b (y.specLocker c b) = true) :
    (y.setProgress c k.ring k p).readyRun c b = some { k with progress := p } := by
  have hmem := Sys.mem_cmds_of_cmdAt (Sys.cmdAt_setProgress p hring hcmd)
  rw [Sys.readyRun_eq] at hnone ⊢
  rw [Sys.specLocker_setProgress]
  cases hfind : ((y.setProgress c k.ring k p).ctx c).cmds.find? (fun e => e.awaits b (y.specLocker c b)) with
  | none => exact absurd hnew (List.find?_eq_none.mp hfind _ hmem)
  | some e =>
    rcases Sys.mem_cmds_setCmd (List.mem_of_find?_eq_some hfind) with hold | ⟨-, hk⟩
    · exact absurd (List.find?_some hfind) (List.find?_eq_none.mp hnone e hold)
    · rw [hk]

theorem Sys.readyRun_setProgress_other (y : Sys) {c d : Nat} (h : d ≠ c) (r b : Nat) (k : Cmd) (p : Progress) :
    (y.setProgress c r k p).readyRun d b = y.readyRun d b := by
  rw [Sys.readyRun_eq, Sys.readyRun_eq, Sys.ctx_setProgress_other _ _ _ _ _ h, Sys.specLocker_setProgress]

/-- What the admission of a program asks before it reads the program. -/
theorem admitProgram_eq (y : Sys) (p q c : Nat) (k : Cmd) (o : Obj) :
    ∃ digested : Obj → Option Sys, y.admitProgram p q c k o = (match (y.partFor p c k).objs.get? (handleIndex (k.field 8 8)) with
      | none => some y
      | some x => if fieldN (y.part p).policy 0xE 2 = 0 ∨ x.listed then some y else digested x) := ⟨_, rfl⟩

/-- A partition whose policy admits every program admits each. -/
theorem admitProgram_of_policy {y : Sys} {p : Nat} (h : fieldN (y.part p).policy 0xE 2 = 0) (q c : Nat) (k : Cmd) (o : Obj) :
    y.admitProgram p q c k o = some y := by
  obtain ⟨digested, heq⟩ := admitProgram_eq y p q c k o
  rw [heq]
  cases (y.partFor p c k).objs.get? (handleIndex (k.field 8 8)) with
  | none => rfl
  | some x => exact if_pos (.inl h)

theorem runSets_plain {k : Cmd} (h : k.field 0x1E 1 = 0) (y : Sys) (p : Nat) : y.runSets p k = [] := by
  simp [Sys.runSets, h]

/-- A RUN in order, without weight-set arguments, of a policy that admits every program, waits for its Bights and takes those that it can (R301). -/
theorem runBody_plain {y : Sys} {p c q : Nat} {k : Cmd} {o : Obj} (hk : k.progress = .begun) (hcheck : y.runCheck p c k = none)
    (hmem : y.memoryOf p k.refs (k.field 8 8) = some (q, o)) (hargs : k.field 0x1E 1 = 0) (hpolicy : fieldN (y.part p).policy 0xE 2 = 0) :
    runBody p c k y = .running ((y.runHanks c k).foldl (fun s b => s.takeBight b)
      (y.setProgress c k.ring k (.run (y.runHanks c k) [] 0#64 [] (y.inSigma c k)))) := by
  simp only [runBody, hk, hcheck, hmem, admitProgram_of_policy hpolicy, runSets_plain hargs, List.filterMap_nil, Sys.pinAll]

/-- What a RUN needs to start at once on one hank: its Bight is idle, its function serves, no other RUN wants it (R301). -/
structure Sys.RunsAlone (y : Sys) (c b p : Nat) (k : Cmd) : Prop where
  hanks : y.runHanks c k = [b]
  idle : (y.bight b).run = none
  strand : y.fnReady (fnStrand (b / 8)) = true
  holder : y.holder b = some p
  opened : (y.ctx c).opened = true
  part : (y.ctx c).part = p
  resident : (y.ctx c).resident = true
  stays : (y.ctx c).evictFor = none
  unwanted : y.Unwanted b
  locker : y.specLocker c b = false
  batch : ∀ g, (y.ctx c).batch k.batch = some g → g.hauled = false

/-- A Bight that runs its part of a RUN on one hank, started with what its context kept. -/
def runBight (c p q : Nat) (k : Cmd) (o : Obj) (kept : BightArch) : Bight :=
  { Bight.idle with
    arch := runStart k kept
    run := some { ctx := c, ring := k.ring, lay := k.lay, part := p, rank := 0, prog := o.addr, size := o.bytes, spec := false, home := q }
    turn := c }

/-- The RUN waits for its one Bight. -/
def Sys.runPosted (y : Sys) (c b : Nat) (k : Cmd) : Sys := y.setProgress c k.ring k (.run [b] [] 0#64 [] false)

/-- Its Bight has taken it. -/
def Sys.runTaken (y : Sys) (c b : Nat) (k : Cmd) : Sys := (y.runPosted c b k).setProgress c k.ring k (.run [] [b] 0#64 [] false)

theorem Sys.bight_runTaken (y : Sys) (c b d : Nat) (k : Cmd) : (y.runTaken c b k).bight d = y.bight d := rfl

/-- Such a RUN starts on its Bight in the state that R83 and R331 give. -/
theorem Sys.RunsAlone.takeBight {y : Sys} {c b p q : Nat} {k j : Cmd} {o : Obj} (h : y.RunsAlone c b p k) (hring : k.ring < 4)
    (hcmd : y.cmdAt c k.ring k.lay = some j) (hmem : y.memoryOf p k.refs (k.field 8 8) = some (q, o)) (hargs : k.field 0x1E 1 = 0) :
    (y.runPosted c b k).takeBight b = ((y.runTaken c b k).setBight b (runBight c p q k o (y.savedBight c b).arch)).setSaved c b Bight.idle := by
  obtain ⟨hhanks, hidle, hstrand, hholder, hopened, hpart, hresident, hstays, hunwanted, hlocker, hbatch⟩ := h
  have hready := Sys.readyRun_setProgress (p := .run [b] [] 0#64 [] false) hring hcmd (hunwanted c).1 (by simp [Cmd.awaits, hlocker])
  have htake := Sys.takeBight_of_ready (y := y.setProgress c k.ring k (.run [b] [] 0#64 [] false)) (b := b) (p := p) (c := c) hidle hstrand hholder
    (by simpa using hopened) (by simpa using hpart) (by simpa using hresident) (by simpa using hstays) (hunwanted c).2 hready
    (fun d hd => ⟨(hunwanted d).2, (y.readyRun_setProgress_other hd ..).trans (hunwanted d).1⟩) rfl
  have hleft : [b].filter (· != b) = [] := by simp
  rw [hleft] at htake
  have hstart := startOn_plain (y := (y.setProgress c k.ring k (.run [b] [] 0#64 [] false)).setProgress c k.ring k (.run [] [b] 0#64 [] false)) (c := c)
    (b := b) (k := k) (q := q) (o := o) hargs (by rw [Sys.runHanks_setProgress, Sys.runHanks_setProgress, hhanks])
    (fun g hg => hbatch g (by simpa [Context.batch] using hg)) (by rw [Sys.part_ctx_setProgress, Sys.part_ctx_setProgress, hpart]; exact hmem)
  rw [Sys.part_ctx_setProgress, Sys.part_ctx_setProgress, hpart] at hstart
  exact htake.trans hstart

/-- The state once Bight `b` has started with the state `x`, and a command has answered. -/
def Sys.started (y : Sys) (c b : Nat) (x : Bight) : Sys := { (y.setBight b x).setSaved c b Bight.idle with replay := none }

section Started

variable (y : Sys) (c : Nat) (b : Fin 80) (x : Bight)

theorem Sys.mem_started : (y.started c b x).mem = y.mem := rfl

theorem Sys.parts_started : (y.started c b x).parts = y.parts := rfl

theorem Sys.cmdOf_started (key : CmdKey) : (y.started c b x).cmdOf key = y.cmdOf key := rfl

theorem Sys.bights_started : (y.started c b x).bights = (y.setBight b x).bights := rfl

theorem Sys.bight_started : (y.started c b.val x).bight b.val = x := by
  rw [Sys.bight, Sys.bights_started]
  exact y.bight_setBight b x

theorem Sys.bight_started_other {d : Fin 80} (h : d ≠ b) : (y.started c b.val x).bight d.val = y.bight d.val := by
  rw [Sys.bight, Sys.bights_started]
  exact y.bight_setBight_other x (fun hd => h (Fin.ext hd))

end Started

/-- RUN starts at once (R83, R301, R331). -/
theorem run_row {key : CmdKey} {s : State} {k : Cmd} {b : Fin 80} {q : Nat} {o : Obj} (hready : CmdReady (.run key) s key k 0x30)
    (hcheck : (s.sys.begun key k).runCheck (s.sys.ctx key.ctx.val).part key.ctx.val k = none)
    (hmem : (s.sys.begun key k).memoryOf (s.sys.ctx key.ctx.val).part k.refs (k.field 8 8) = some (q, o)) (hargs : k.field 0x1E 1 = 0)
    (hpolicy : fieldN ((s.sys.begun key k).part (s.sys.ctx key.ctx.val).part).policy 0xE 2 = 0)
    (halone : (s.sys.begun key k).RunsAlone key.ctx.val b.val (s.sys.ctx key.ctx.val).part k) :
    ∃ z : Sys, exec (.run key) s = .next { s with sys := z } ∧ z.mem = s.sys.mem ∧ z.parts = s.sys.parts
      ∧ z.cmdOf key = some { k with progress := .run [] [b.val] 0#64 [] false }
      ∧ (z.bight b.val).arch = runStart k ((s.sys.begun key k).savedBight key.ctx.val b.val).arch
      ∧ (z.bight b.val).run = some { ctx := key.ctx.val, ring := k.ring, lay := k.lay, part := (s.sys.ctx key.ctx.val).part, rank := 0, prog := o.addr, size := o.bytes, spec := false, home := q }
      ∧ ∀ d : Fin 80, d ≠ b → z.bight d.val = s.sys.bight d.val := by
  have hready' := hready
  obtain ⟨hcmd, -, -, hkring, hklay, -, -, -, hsigma, -, -⟩ := hready'
  have hring : k.ring < 4 := by rw [hkring]; exact key.ring.isLt
  have hplace : s.sys.cmdAt key.ctx.val k.ring k.lay = some k := by rw [hkring, hklay]; exact hcmd
  have hbegun : (s.sys.begun key k).cmdAt key.ctx.val k.ring k.lay = some { k with progress := .begun } := Sys.cmdAt_setProgress .begun hring hplace
  have hrunning : (s.sys.begun key k).inSigma key.ctx.val { k with progress := .begun } = false := (Sys.inSigma_setProgress ..).trans hsigma
  have hhanks : (s.sys.begun key k).runHanks key.ctx.val { k with progress := .begun } = [b.val] := halone.hanks
  have hbody := runBody_plain (y := s.sys.begun key k) (k := { k with progress := .begun }) (c := key.ctx.val) (o := o) (q := q) rfl hcheck hmem hargs hpolicy
  rw [hhanks, hrunning, List.foldl_cons, List.foldl_nil] at hbody
  have htake := halone.takeBight hring hbegun hmem hargs
  have hlast : ((s.sys.begun key k).runTaken key.ctx.val b.val k).cmdOf key = some { k with progress := .run [] [b.val] 0#64 [] false } := by
    rw [Sys.cmdOf, ← hkring, ← hklay]
    exact Sys.cmdAt_setProgress _ hring (Sys.cmdAt_setProgress _ hring hbegun)
  have hexec : exec (.run key) s = .next { s with
      sys := ((s.sys.begun key k).runTaken key.ctx.val b.val k).started key.ctx.val b.val
        (runBight key.ctx.val (s.sys.ctx key.ctx.val).part q k o ((s.sys.begun key k).savedBight key.ctx.val b.val).arch) } :=
    running_of_body hready rfl (hbody.trans (congrArg Did.running htake))
  refine ⟨_, hexec, Sys.mem_started .., Sys.parts_started .., (Sys.cmdOf_started ..).trans hlast, ?_, ?_, fun d hd => ?_⟩
  · rw [Sys.bight_started, runBight]
  · rw [Sys.bight_started, runBight]
  · rw [Sys.bight_started_other _ _ _ _ hd, Sys.bight_runTaken]
    rfl

/-! RUN_CANCEL (R321) -/

section Cancel

variable {y : Sys} {p c : Nat} {k e : Cmd}

theorem runCancelBody_stranger (h : (y.ctx (k.field 8 2)).opened = false ∨ (y.ctx (k.field 8 2)).part ≠ p) : runCancelBody p c k y = .done y stBAD_CONTEXT [] :=
  if_pos (by simpa using h)

variable (hopened : (y.ctx (k.field 8 2)).opened = true) (hpart : (y.ctx (k.field 8 2)).part = p)
include hopened hpart

theorem runCancelBody_badRing (hring : 3 < k.field 0x0A 1) : runCancelBody p c k y = .done y stBAD_VALUE [] := by
  unfold runCancelBody
  dsimp only
  rw [if_neg (by simp [hopened, hpart]), if_pos hring]

variable (hring : k.field 0x0A 1 ≤ 3)
include hring

theorem runCancelBody_none (hnone : y.cmdAt (k.field 8 2) (k.field 0x0A 1) (k.field 0x10 8) = none) : runCancelBody p c k y = .done y stOK [] := by
  unfold runCancelBody
  dsimp only
  rw [if_neg (by simp [hopened, hpart]), if_neg (by omega), hnone]

/-- A command that has not begun, outside every step region, is completed with CANCELLED. -/
theorem runCancelBody_waiting (hcmd : y.cmdAt (k.field 8 2) (k.field 0x0A 1) (k.field 0x10 8) = some e) (hplace : e.ring = k.field 0x0A 1)
    (hwaiting : e.progress = .waiting) (hending : e.ending = none) (hsigma : y.inSigma (k.field 8 2) e = false) :
    runCancelBody p c k y = .done (y.finish (k.field 8 2) e stCANCELLED []) stOK [1#8] := by
  have hgone := (Sys.finish_outside (st := stCANCELLED) (res := []) hsigma hplace (Sys.lay_of_cmdAt hcmd) (by omega)).2.1
  have hend : y.endCmd (k.field 8 2) e stCANCELLED 1 false = y.finish (k.field 8 2) e stCANCELLED [] := by simp only [Sys.endCmd, hwaiting]
  unfold runCancelBody
  dsimp only
  rw [if_neg (by simp [hopened, hpart]), if_neg (by omega), hcmd]
  dsimp only
  rw [hend, hgone]
  simp [Cmd.isFinished, hwaiting, hending]

end Cancel

/-- No command of a partition without a step region stands in one. -/
theorem Sys.inSigma_of_none {y : Sys} {c p : Nat} (hpart : (y.ctx c).part = p) (h : (y.part p).sigma = none) (k : Cmd) : y.inSigma c k = false := by
  simp only [Sys.inSigma, hpart, h]

/-- Settles O34: a RUN in order is admitted with nothing to pin and takes the Bight that no other RUN wants; RUN_CANCEL by the checks of its body, whose end of a
command not begun is a completion. -/
theorem runCommands : Obligations.RunCommands := by
  unfold Obligations.RunCommands
  intro key s k c y p
  have hpartOf : ∀ d, (y.ctx d).part = (s.sys.ctx d).part := fun d => Sys.part_ctx_setProgress ..
  refine ⟨fun b q o hready hcheck hmem hargs hpolicy hhanks hidle hstrand hholder hopened hstays hunwanted hlocker hbatch => ?_, fun hready => ?_⟩
  · have hbegins := hready
    obtain ⟨-, -, -, -, -, -, -, -, -, hbegin, -⟩ := hbegins
    have hresident : (y.ctx c).resident = true := by
      refine (Sys.resident_ctx_setProgress ..).trans ?_
      simp only [Sys.mayBegin, Bool.and_eq_true] at hbegin
      exact hbegin.1.1.1.1.1
    have halone : y.RunsAlone c b.val p k := ⟨hhanks, hidle, hstrand, hholder, hopened, hpartOf c, hresident, hstays, fun d => (hunwanted d).symm, hlocker, hbatch⟩
    obtain ⟨z, hexec, hzmem, hzparts, hzcmd, hzarch, hzrun, hzother⟩ := run_row hready hcheck hmem hargs hpolicy halone
    obtain ⟨hregs, hs8, hzero, hrest⟩ := runStart_spec k (y.savedBight c b.val).arch
    have harch : ({ s with sys := z } : State).arch b = runStart k (y.savedBight c b.val).arch := hzarch
    refine ⟨_, hexec, rfl, rfl, hzmem, hzparts, hzcmd, hzrun, hzother, ?_⟩
    rw [harch]
    exact ⟨hregs, hs8, hzero, hrest⟩
  · have hready' := hready
    obtain ⟨-, -, -, -, -, -, -, -, hsigma, -, -⟩ := hready'
    have houtside : y.inSigma c k = false := (Sys.inSigma_setProgress ..).trans hsigma
    refine ⟨fun h => completes_of_body hready rfl (runCancelBody_stranger h) houtside rfl,
      fun hopened hpart hring => completes_of_body hready rfl (runCancelBody_badRing hopened hpart hring) houtside rfl,
      fun hopened hpart hring hnone => completes_of_body hready rfl (runCancelBody_none hopened hpart hring hnone) houtside rfl,
      fun e hopened hpart hring hcmd hplace hwaiting hending hnone => ?_⟩
    have htarget := Sys.inSigma_of_none hpart hnone e
    have hlay := Sys.lay_of_cmdAt hcmd
    obtain ⟨hkeeps, hgone, hout⟩ := Sys.finish_outside (st := stCANCELLED) (res := []) htarget hplace hlay (by omega)
    have hstill : (y.finish (k.field 8 2) e stCANCELLED []).inSigma c k = false :=
      Sys.inSigma_of_none ((hkeeps.part c).trans (hpartOf c)) ((hkeeps.sigma p).trans hnone) k
    have hrecord : doneRec e stCANCELLED [] = ⟨0, k.field 0x10 8, k.field 0x0A 1, stCANCELLED, List.replicate 20 0#8, e.irq, e.plain⟩ := by
      rw [doneRec, hlay, hplace]
      rfl
    exact completes_of_body hready rfl (runCancelBody_waiting hopened hpart hring hcmd hplace hwaiting hending htarget) hstill
      ⟨hgone, hout.trans (by rw [hrecord]), hkeeps.mem, hkeeps.bights⟩

end Sys2Proof.Machine

/-!
The update engines (R145 to R149): what the writes of a share leave, and an update instruction on its share.
-/

namespace Sys2Proof.Machine

/-! Marks -/

@[simp] theorem Mark.worse_clean (m : Mark) : m.worse .clean = m := by cases m <;> rfl

@[simp] theorem Mark.clean_worse (m : Mark) : Mark.worse .clean m = m := by cases m <;> rfl

/-! Registers of a share -/

section Registers

variable (x : Cleat) (d : Nat) (res : Nat → Lane)

theorem Cleat.setReg_frame : { x.setReg d res with regs := x.regs } = x := rfl

/-- Lane `l` of register `d`, of 256 lanes each. -/
theorem Cleat.setReg_same {l : Nat} (hl : l < 256) : (x.setReg d res).regs.get Lane.zero (256 * d + l) = res l :=
  SMap.get_setFn_in _ _ _ _ _ hl

theorem Cleat.setReg_other {r l : Nat} (hr : r ≠ d) (hl : l < 256) :
    (x.setReg d res).regs.get Lane.zero (256 * r + l) = x.regs.get Lane.zero (256 * r + l) :=
  SMap.get_setFn_out _ _ _ _ _ (by omega)

end Registers

/-! An instruction on its share -/

/-- The instruction word's fields, of operation `op`. -/
def updInstr (f : UpdF) (op : Nat) : UpdI := ⟨op, f.d.toNat, f.a.toNat, f.b.toNat, f.c.toNat, 0⟩

/-- The share that an instruction names. -/
def State.share (s : State) (f : UpdF) : Cleat := s.sys.cleat f.die.val f.part.val

/-- The instruction turns its share into `y`, and changes nothing else. -/
def Becomes (i : Instr) (f : UpdF) (s : State) (y : Cleat) : Prop := exec i s = .next { s with sys := s.sys.setCleat f.die.val f.part.val y }

/-- `y` is `x` with the lanes `res` in register `d`. -/
def HoldsReg (d : Nat) (res : Nat → Lane) (x y : Cleat) : Prop :=
  { y with regs := x.regs } = x ∧ (∀ l < 256, y.regs.get Lane.zero (256 * d + l) = res l)
    ∧ ∀ r l, r ≠ d → l < 256 → y.regs.get Lane.zero (256 * r + l) = x.regs.get Lane.zero (256 * r + l)

theorem holdsReg_setReg (x : Cleat) (d : Nat) (res : Nat → Lane) : HoldsReg d res x (x.setReg d res) :=
  ⟨x.setReg_frame d res, fun _ hl => x.setReg_same d res hl, fun _ _ hr hl => x.setReg_other d res hr hl⟩

theorem HoldsReg.congr {d : Nat} {res res' : Nat → Lane} {x y : Cleat} (h : HoldsReg d res x y) (he : ∀ l < 256, res l = res' l) : HoldsReg d res' x y :=
  ⟨h.1, fun l hl => (h.2.1 l hl).trans (he l hl), h.2.2⟩

theorem Sys.updStep_of_not_end {i : UpdI} (h : i.op ≠ 0x3F) (y : Sys) (die part : Nat) :
    y.updStep die part i = y.setCleat die part ((y.cleat die part).step i) := by
  simp [Sys.updStep, h]

theorem becomes_of_upd {i : Instr} {f : UpdF} {s : State} {op : Nat} (hexec : exec i s = s.upd f op) (hop : op ≠ 0x3F) :
    Becomes i f s ((s.share f).step (updInstr f op)) := by
  rw [Becomes, hexec, State.upd, State.onSys_next, Sys.updStep_of_not_end hop]
  rfl

/-- An instruction that R143 refuses, and one after END, leaves the share. -/
theorem Cleat.step_of_refused {x : Cleat} {i : UpdI} (h : updOk i = false ∨ x.ended = true) : x.step i = x := by
  rw [Cleat.step, if_pos (by simpa using h)]

theorem Cleat.step_arith {x : Cleat} {i : UpdI} {n : Nat} (hok : updOk i = true) (hended : x.ended = false) (harity : updArity i.op = some n) :
    x.step i = x.setReg i.d (fun l =>
      let a := x.operand i.a l
      let b := if n < 2 then Lane.zero else x.operand i.b l
      let c := if n < 3 then Lane.zero else x.operand i.c l
      ⟨updArith i.op a.val b.val c.val, updMark i.op a b c⟩) := by
  rw [Cleat.step, if_neg (by simp [hok, hended]), harity]

/-- What an instruction that is not arithmetic does to its share. -/
def Cleat.perform (x : Cleat) (i : UpdI) : Cleat :=
  match i.op with
  | 0x01 => x.setReg i.d (fun l => x.streams.get Lane.zero (256 * i.a + l))
  | 0x02 => { x with stores := x.stores.setFn Lane.zero (256 * i.d) 256 (fun l => x.operand i.a l), stored := x.stored.filter (· != i.d) ++ [i.d] }
  | 0x18 => { x with conv := true, outs := SMap.setFn Lane.zero [] 0 256 (fun l => x.operand i.a l) }
  | 0x19 => x.setReg i.d (fun _ => x.norm)
  | 0x1A => x.invroot i
  | 0x3F => { x with ended := true }
  | _ => x

theorem Cleat.step_other {x : Cleat} {i : UpdI} (hok : updOk i = true) (hended : x.ended = false) (harity : updArity i.op = none) : x.step i = x.perform i := by
  rw [Cleat.step, if_neg (by simp [hok, hended]), harity]
  rfl

end Sys2Proof.Machine

/-!
O28, arithmetic update instructions (R145, R147 to R149).
-/

namespace Sys2Proof.Machine

/-- What R143 asks of an arithmetic operation of `n` operands: the register that it writes and the operand codes that it reads. -/
theorem updOk_arith {i : UpdI} {n : Nat} (harity : updArity i.op = some n) :
    updOk i = true ↔ i.low = 0 ∧ i.d < 0x20 ∧ i.a < 0x3A ∧ (2 ≤ n → i.b < 0x3A) ∧ (3 ≤ n → i.c < 0x3A) := by
  simp [updOk, harity, imp_iff_not_or, and_assoc]

/-- The instruction computes every lane of r[D] as `res` says and leaves the rest of the share; one that R143 refuses, and one after END, leaves all of it. -/
def Computes (i : Instr) (f : UpdF) (s : State) (n : Nat) (res : Nat → Lane) : Prop :=
  let ok := f.d.toNat < 0x20 ∧ f.a.toNat < 0x3A ∧ (2 ≤ n → f.b.toNat < 0x3A) ∧ (3 ≤ n → f.c.toNat < 0x3A) ∧ (s.share f).ended = false
  (ok → ∃ y, Becomes i f s y ∧ HoldsReg f.d.toNat res (s.share f) y) ∧ (¬ ok → Becomes i f s (s.share f))

section Rows

variable {i : Instr} {f : UpdF} {s : State} {op : Nat} (hexec : exec i s = s.upd f op)
include hexec

theorem computes_of_arity {n : Nat} {res : Nat → Lane} (harity : updArity op = some n)
    (hres : ∀ l, (let a := (s.share f).operand f.a.toNat l
      let b := if n < 2 then Lane.zero else (s.share f).operand f.b.toNat l
      let c := if n < 3 then Lane.zero else (s.share f).operand f.c.toNat l
      (⟨updArith op a.val b.val c.val, updMark op a b c⟩ : Lane)) = res l) : Computes i f s n res := by
  have hop : op ≠ 0x3F := fun h => by rw [h] at harity; cases harity
  have hok := updOk_arith (i := updInstr f op) harity
  have hbecomes := becomes_of_upd hexec hop
  refine ⟨fun ⟨hd, ha, hb, hc, hended⟩ => ?_, fun hnot => ?_⟩
  · rw [Cleat.step_arith (hok.mpr ⟨rfl, hd, ha, hb, hc⟩) hended harity] at hbecomes
    exact ⟨_, hbecomes, (holdsReg_setReg ..).congr fun l _ => hres l⟩
  · rwa [Cleat.step_of_refused] at hbecomes
    by_contra hgood
    simp only [not_or, Bool.not_eq_false, Bool.not_eq_true] at hgood
    obtain ⟨-, hd, ha, hb, hc⟩ := hok.mp hgood.1
    exact hnot ⟨hd, ha, hb, hc, hgood.2⟩

/-- But for SEL the result depends on all operands that the operation reads. -/
theorem computes_one {g : Word32 → Word32} (harity : updArity op = some 1) (hsel : op ≠ 0x10) (hop : ∀ a b c, updArith op a b c = g a) :
    Computes i f s 1 (fun l => let a := (s.share f).operand f.a.toNat l; ⟨g a.val, a.mark⟩) :=
  computes_of_arity hexec harity fun l => by simp [hop, updMark, hsel, Lane.zero]

theorem computes_two {g : Word32 → Word32 → Word32} (harity : updArity op = some 2) (hsel : op ≠ 0x10) (hop : ∀ a b c, updArith op a b c = g a b) :
    Computes i f s 2 (fun l => let a := (s.share f).operand f.a.toNat l; let b := (s.share f).operand f.b.toNat l; ⟨g a.val b.val, a.mark.worse b.mark⟩) :=
  computes_of_arity hexec harity fun l => by simp [hop, updMark, hsel, Lane.zero]

theorem computes_three {g : Word32 → Word32 → Word32 → Word32} (harity : updArity op = some 3) (hsel : op ≠ 0x10) (hop : ∀ a b c, updArith op a b c = g a b c) :
    Computes i f s 3 (fun l => let a := (s.share f).operand f.a.toNat l; let b := (s.share f).operand f.b.toNat l; let c := (s.share f).operand f.c.toNat l
      ⟨g a.val b.val c.val, (a.mark.worse b.mark).worse c.mark⟩) :=
  computes_of_arity hexec harity fun l => by simp [hop, updMark, hsel]

end Rows

/-- SEL takes the value and the poison of the operand that it chooses (R149). -/
theorem computes_sel (f : UpdF) (s : State) : Computes (.sel f) f s 3 (fun l =>
    let a := (s.share f).operand f.a.toNat l
    let chosen := if fpPos a.val then (s.share f).operand f.b.toNat l else (s.share f).operand f.c.toNat l
    ⟨if fpIsNaN chosen.val then fpNaN else chosen.val, a.mark.worse chosen.mark⟩) :=
  computes_of_arity rfl rfl fun l => by
    by_cases hpos : fpPos ((s.share f).operand f.a.toNat l).val = true <;> simp [updArith, updMark, canon, hpos]

/-- Settles O28: each row by the number of operands that it reads and the function that it applies to their values. -/
theorem updateArithmetic : Obligations.UpdateArithmetic := by
  unfold Obligations.UpdateArithmetic
  intro f s
  refine ⟨?_, ?_, ?_, ?_, ?_, ?_, ?_, ?_, ?_, ?_, ?_, ?_, ?_, ?_⟩
  · exact computes_two (op := 0x04) (g := fpAdd) rfl rfl (by decide) fun _ _ _ => rfl
  · exact computes_two (op := 0x05) (g := fpSub) rfl rfl (by decide) fun _ _ _ => rfl
  · exact computes_two (op := 0x06) (g := fpMul) rfl rfl (by decide) fun _ _ _ => rfl
  · exact computes_three (op := 0x07) (g := fpFma) rfl rfl (by decide) fun _ _ _ => rfl
  · exact computes_two (op := 0x08) (g := fpDiv) rfl rfl (by decide) fun _ _ _ => rfl
  · exact computes_one (op := 0x09) (g := fpSqrt) rfl rfl (by decide) fun _ _ _ => rfl
  · exact computes_one (op := 0x0A) (g := fpRsqrt) rfl rfl (by decide) fun _ _ _ => rfl
  · exact computes_two (op := 0x0B) (g := fpMin) rfl rfl (by decide) fun _ _ _ => rfl
  · exact computes_two (op := 0x0C) (g := fpMax) rfl rfl (by decide) fun _ _ _ => rfl
  · exact computes_one (op := 0x0D) (g := fpAbs) rfl rfl (by decide) fun _ _ _ => rfl
  · exact computes_one (op := 0x0E) (g := updSign) rfl rfl (by decide) fun _ _ _ => rfl
  · exact computes_three (op := 0x0F) (g := fun a b c => fpMin (fpMax a b) c) rfl rfl (by decide) fun _ _ _ => rfl
  · exact computes_sel f s
  · exact computes_one (op := 0x11) (g := fun a => fpMul a a) rfl rfl (by decide) fun _ _ _ => rfl

end Sys2Proof.Machine

/-!
O29, the other update instructions (R145, R150, R151, R153, R155, R159): loads, stores, CONVERT, INVROOT, and the block that END lands.
-/

namespace Sys2Proof.Machine

/-! One instruction -/

/-- The share once its program has ended. -/
def Cleat.atEnd (x : Cleat) : Cleat := { x with ended := true }

theorem becomes_of_step {i : Instr} {f : UpdF} {s : State} {op : Nat} {y : Cleat} (hexec : exec i s = s.upd f op) (hop : op ≠ 0x3F)
    (hstep : (s.share f).step (updInstr f op) = y) : Becomes i f s y := hstep ▸ becomes_of_upd hexec hop

section Steps

variable {f : UpdF} {s : State} (hended : (s.share f).ended = false)
include hended

theorem becomes_updNop : Becomes (.updNop f) f s (s.share f) :=
  becomes_of_step rfl (by decide) (Cleat.step_other rfl hended rfl)

theorem becomes_lds (hd : f.d.toNat < 0x20) :
    Becomes (.lds f) f s ((s.share f).setReg f.d.toNat (fun l => (s.share f).streams.get Lane.zero (256 * f.a.toNat + l))) :=
  becomes_of_step rfl (by decide) (Cleat.step_other (by simp [updOk, updArity, updInstr, hd]) hended rfl)

theorem becomes_norm (hd : f.d.toNat < 0x20) : Becomes (.norm f) f s ((s.share f).setReg f.d.toNat (fun _ => (s.share f).norm)) :=
  becomes_of_step rfl (by decide) (Cleat.step_other (by simp [updOk, updArity, updInstr, hd]) hended rfl)

theorem becomes_sts (ha : f.a.toNat < 0x3A) : Becomes (.sts f) f s { s.share f with
    stores := (s.share f).stores.setFn Lane.zero (256 * f.d.toNat) 256 (fun l => (s.share f).operand f.a.toNat l)
    stored := (s.share f).stored.filter (· != f.d.toNat) ++ [f.d.toNat] } :=
  becomes_of_step rfl (by decide) (Cleat.step_other (by simp [updOk, updArity, updInstr, ha]) hended rfl)

theorem becomes_convert (ha : f.a.toNat < 0x3A) : Becomes (.convert f) f s { s.share f with
    conv := true, outs := SMap.setFn Lane.zero [] 0 256 (fun l => (s.share f).operand f.a.toNat l) } :=
  becomes_of_step rfl (by decide) (Cleat.step_other (by simp [updOk, updArity, updInstr, ha]) hended rfl)

theorem becomes_invroot (hd : f.d.toNat < 0x20) (ha : f.a.toNat < 0x3A) : Becomes (.invroot f) f s ((s.share f).invroot (updInstr f 0x1A)) :=
  becomes_of_step rfl (by decide) (Cleat.step_other (by simp [updOk, updArity, updInstr, hd, ha]) hended rfl)

theorem exec_updEnd : exec (.updEnd f) s
    = .next { s with sys := (s.sys.setCleat f.die.val f.part.val (s.share f).atEnd).landBlock f.die.val f.part.val } := by
  have hstep : (s.share f).step (updInstr f 0x3F) = (s.share f).atEnd := Cleat.step_other rfl hended rfl
  show s.upd f 0x3F = _
  rw [State.upd, State.onSys_next, Sys.updStep, if_pos ⟨rfl, by simpa [State.share] using hended⟩]
  exact congrArg (fun x => Host.Outcome.next { s with sys := (s.sys.setCleat f.die.val f.part.val x).landBlock f.die.val f.part.val }) hstep

end Steps

/-! INVROOT (R153) -/

/-- The matrix that INVROOT takes: the leading block of an operand, its lower triangle mirrored. -/
def Cleat.invrootIn (x : Cleat) (a : Nat) : Mat :=
  Mat.of (udInvN x.desc) (fun r c => (x.operand a (16 * max r c + min r c)).val)

/-- The result of INVROOT, and whether it is the identity of a fallback. -/
def Cleat.invrootOut (x : Cleat) (a : Nat) : Mat × Bool :=
  Machine.invroot (udInvN x.desc) (udInvP x.desc) (udEps x.desc) (udDelta x.desc) (x.invrootIn a)

/-- Of unpoisoned elements the result is unpoisoned, and a fallback is counted. -/
theorem Cleat.invroot_clean {x : Cleat} {i : UpdI} (h : ∀ r c, r < udInvN x.desc → c < udInvN x.desc → (x.operand i.a (16 * r + c)).mark = .clean) :
    x.invroot i = { x.setReg i.d (fun l => ⟨(x.invrootOut i.a).1.at_ (l / 16) (l % 16), .clean⟩) with
      fallback := x.fallback + (if (x.invrootOut i.a).2 then 1 else 0) } := by
  have hrow : ∀ r ∈ List.range (udInvN x.desc), (List.range (udInvN x.desc)).foldl (fun w c => w.worse (x.operand i.a (16 * r + c)).mark) Mark.clean = .clean :=
    fun r hr => foldl_worse_clean _ _ fun c hc => h r c (List.mem_range.mp hr) (List.mem_range.mp hc)
  have hmark : (List.range (udInvN x.desc)).foldl (fun w r =>
      (List.range (udInvN x.desc)).foldl (fun w c => w.worse (x.operand i.a (16 * r + c)).mark) w) Mark.clean = .clean :=
    foldl_fixed hrow
  unfold Cleat.invroot
  simp only [hmark]
  by_cases hfall : (x.invrootOut i.a).2 = true
  · rw [if_pos hfall, if_pos ⟨hfall, rfl⟩]
    rfl
  · rw [if_neg hfall, if_neg (fun hboth => hfall hboth.1)]
    rfl

/-! STS -/

/-- The lanes that STS takes. -/
theorem mem_filter_append_self {l : List Nat} {d i : Nat} : i ∈ l.filter (· != d) ++ [d] ↔ i = d ∨ i ∈ l := by
  by_cases h : i = d <;> simp [h]

/-! Landing a block without CONVERT's panel and without a second side (R145, R159) -/

/-- The share once it has landed such a block, some of whose writes `fails` names. -/
def Cleat.landed (x : Cleat) (fails : List Mark) : Cleat :=
  let ls := (List.range 256).filter (udPresent x.desc x.tile x.panel)
  let stores := fun l => x.stored.map (fun i => x.outLane x.stores (256 * i) l)
  let marks := ls.flatMap (fun l => (stores l).map (fun v => v.mark))
  { x with
    elements := x.elements + ls.length
    nanOut := x.nanOut + ls.countP (fun l => (stores l).any (fun v => !v.poison && fpIsNaN v.val))
    infOut := x.infOut + ls.countP (fun l => (stores l).any (fun v => !v.poison && fpIsInf v.val))
    poisoned := x.poisoned + ls.countP (fun l => (stores l).any (fun v => v.poison))
    causes := x.causes ++ (marks.filter (fun m => m.isBad)).eraseDups ++ fails
    wrote := x.wrote || (marks ++ fails).any (fun m => m.isBad) }

/-- What landing it writes. -/
def Cleat.storeBlobs (x : Cleat) : List (Nat × Blob) :=
  x.stored.map (fun i => (udBlock x.desc x.wbase i x.tile x.panel, lanesBlob (x.outLane x.stores (256 * i))))

theorem Cleat.storeBlobs_of_stored {x : Cleat} {is : List Nat} (h : x.stored = is) : x.storeBlobs
    = is.map (fun i => (udBlock x.desc x.wbase i x.tile x.panel, lanesBlob (x.outLane x.stores (256 * i)))) := by rw [Cleat.storeBlobs, h]

theorem Sys.landBlock_plain {y : Sys} {die part : Nat} {x : Cleat} (hx : y.cleat die part = x) (hconv : x.conv = false) (htwo : udTwoSided x.desc = false) :
    y.landBlock die part = (x.storeBlobs.foldl (fun s e => s.writePart part e.1 e.2) y).setCleat die part
      (x.landed (if x.storeBlobs.any (fun e => (y.writeMark part e.1 e.2.data.length).isBad) then [Mark.tagFail] else [])) := by
  unfold Sys.landBlock Cleat.lands Cleat.landed Cleat.storeBlobs
  simp [hx, hconv, htwo]

theorem Cleat.landed_nothing {x : Cleat} (h : x.stored = []) :
    x.landed [] = { x with elements := x.elements + (List.range 256).countP (udPresent x.desc x.tile x.panel) } := by
  have hmarks : ∀ ls : List Nat, ls.flatMap (fun _ => ([] : List Mark)) = [] := fun ls => by simp [List.flatMap_eq_nil_iff]
  simp [Cleat.landed, h, hmarks, List.countP_eq_length_filter]

theorem Cleat.landed_clean {x : Cleat} {i : Nat} (h : x.stored = [i])
    (hclean : ∀ l < 256, udPresent x.desc x.tile x.panel l = true → (x.stores.get Lane.zero (256 * i + l)).mark = .clean) :
    (x.landed []).elements = x.elements + (List.range 256).countP (udPresent x.desc x.tile x.panel)
      ∧ (x.landed []).poisoned = x.poisoned ∧ (x.landed []).wrote = x.wrote := by
  have hlane : ∀ l ∈ (List.range 256).filter (udPresent x.desc x.tile x.panel), (x.outLane x.stores (256 * i) l).mark.isBad = false := fun l hl => by
    obtain ⟨hlt, hon⟩ := List.mem_filter.mp hl
    rw [Cleat.outLane, if_pos hon, hclean l (List.mem_range.mp hlt) hon]
    rfl
  refine ⟨by simp [Cleat.landed, List.countP_eq_length_filter], ?_, ?_⟩
  · show x.poisoned + List.countP _ _ = x.poisoned
    rw [List.countP_eq_zero.mpr, Nat.add_zero]
    intro l hl
    simp [h, Lane.poison, hlane l hl]
  · show (x.wrote || List.any _ _) = x.wrote
    rw [List.any_eq_false.mpr, Bool.or_false]
    intro m hm
    simp only [h, List.map_cons, List.map_nil, List.append_nil, List.mem_flatMap, List.mem_singleton] at hm
    obtain ⟨l, hl, rfl⟩ := hm
    simp [hlane l hl]

/-! A memory whose checks all pass (R250) -/

/-- Every kind of place that is checked belongs to a region that `memSound` speaks of. -/
theorem Sys.memSound.runFails {y : Sys} (h : y.memSound) (k n : Nat) : y.runFails k n = false := by
  have hhank : keyHank k < 80 := Nat.mod_lt _ (by decide)
  unfold Sys.runFails
  dsimp only
  match hkind : keyKind k with
  | 0 => simp [h 0 (by decide) _ hhank]
  | 1 => simp [h 1 (by decide) _ hhank]
  | n + 2 => simp

theorem Sys.memSound.writeMark {y : Sys} (h : y.memSound) (p a n : Nat) : y.writeMark p a n = .clean := by
  unfold Sys.writeMark
  dsimp only
  split
  · rw [if_neg (by simp [h.runFails])]
  · rfl

/-! END (R145, R159) -/

section End

variable {f : UpdF} {s : State} (hended : (s.share f).ended = false) (hconv : (s.share f).conv = false) (htwo : udTwoSided (s.share f).desc = false)
include hended hconv htwo

/-- END lands its block: its stores where their checks pass, and its counts. -/
theorem updEnd_performed (hpass : (s.share f).atEnd.storeBlobs.any (fun e => (s.sys.writeMark f.part.val e.1 e.2.data.length).isBad) = false) :
    exec (.updEnd f) s = .next { s with sys := ((s.share f).atEnd.storeBlobs.foldl (fun y e => y.writePart f.part.val e.1 e.2)
      (s.sys.setCleat f.die.val f.part.val (s.share f).atEnd)).setCleat f.die.val f.part.val ((s.share f).atEnd.landed []) } := by
  have hpass' : (s.share f).atEnd.storeBlobs.any (fun e =>
      ((s.sys.setCleat f.die.val f.part.val (s.share f).atEnd).writeMark f.part.val e.1 e.2.data.length).isBad) = false := hpass
  rw [exec_updEnd hended, Sys.landBlock_plain (x := (s.share f).atEnd) (Sys.cleat_setCleat ..) hconv htwo, if_neg (by simp [hpass'])]

end End

/-- Settles O29: each instruction by the share that it leaves; END by what landing a block without CONVERT's panel writes and counts. -/
theorem updateBlock : Obligations.UpdateBlock := by
  unfold Obligations.UpdateBlock
  intro f s x here becomes writes hended
  have hwrites : ∀ (i : Instr) (res : Nat → Lane), Becomes i f s (x.setReg f.d.toNat res) → writes i res :=
    fun i res h => ⟨_, h, holdsReg_setReg ..⟩
  refine ⟨becomes_updNop hended, fun hd => ⟨hwrites _ _ (becomes_lds hended hd), hwrites _ _ (becomes_norm hended hd)⟩, fun ha => ?_, fun ha => ?_,
    fun hd ha _ hclean => ?_, fun hconv htwo => ⟨fun hstored => ?_, fun i hstored hsound hclean => ?_⟩⟩
  · exact ⟨_, becomes_sts hended ha, rfl, fun _ => mem_filter_append_self, fun l hl => SMap.get_setFn_in _ _ _ _ _ hl,
      fun r l hr hl => SMap.get_setFn_out _ _ _ _ _ (by omega)⟩
  · refine ⟨_, becomes_convert hended ha, rfl, rfl, fun l hl => ?_⟩
    have h := SMap.get_setFn_in Lane.zero [] 0 256 (fun l => x.operand f.a.toNat l) hl
    rwa [Nat.zero_add] at h
  · have h := becomes_invroot hended hd ha
    rw [Cleat.invroot_clean hclean] at h
    exact ⟨_, h, rfl, rfl, (holdsReg_setReg x f.d.toNat _).2⟩
  · have hblobs := Cleat.storeBlobs_of_stored (x := (s.share f).atEnd) hstored
    have h := updEnd_performed hended hconv htwo (congrArg (fun l : List (Nat × Blob) => l.any _) hblobs)
    rw [hblobs, Cleat.landed_nothing (x := (s.share f).atEnd) hstored] at h
    refine ⟨_, ?_, ?_, ?_, _, h, Sys.cleat_setCleat .., rfl, rfl, rfl⟩ <;> rfl
  · have hblobs := Cleat.storeBlobs_of_stored (x := (s.share f).atEnd) hstored
    have h := updEnd_performed hended hconv htwo (List.any_eq_false.mpr fun e _ => by simp [hsound.writeMark, Mark.isBad_clean])
    obtain ⟨helements, hpoisoned, hwrote⟩ := Cleat.landed_clean (x := (s.share f).atEnd) hstored hclean
    rw [hblobs] at h
    exact ⟨_, _, h, rfl, rfl, rfl, helements, hpoisoned, hwrote⟩

end Sys2Proof.Machine

/-!
O35, what the blocks of an update leave (R143, R145, R151): partitions, shares and commands, whatever memory they read and write.
-/

namespace Sys2Proof

variable {α : Type}

/-! A key written twice -/

theorem SMap.del_del (m : SMap α) (k : Nat) : (m.del k).del k = m.del k := by simp [SMap.del]

theorem SMap.del_ins (m : SMap α) (k : Nat) (v : α) : (m.ins k v).del k = m.del k := by
  induction m with
  | nil => simp [SMap.ins, SMap.del]
  | cons e t ih =>
    unfold SMap.ins
    split
    · simp [SMap.del]
    · simp only [SMap.del, List.filter_cons] at ih ⊢
      rw [ih]

/-- The second write of a key alone stays. -/
theorem SMap.set_set [DecidableEq α] (d : α) (m : SMap α) (k : Nat) (v w : α) : (m.set d k v).set d k w = m.set d k w := by
  have hdel : (m.set d k v).del k = m.del k := by
    unfold SMap.set
    split
    · exact SMap.del_del m k
    · exact (SMap.del_ins ..).trans (SMap.del_del m k)
  rw [SMap.set, hdel, SMap.set]

end Sys2Proof

namespace Sys2Proof.Machine

/-! Steps on memory -/

/-- What a step on memory leaves: the partitions, the shares, and of every context all but its records. -/
structure Sys.MemStep (y z : Sys) : Prop where
  parts : z.parts = y.parts
  cleats : z.cleats = y.cleats
  ctx : ∀ c, ∃ o, z.ctx c = { y.ctx c with outbox := o }

theorem Sys.MemStep.of_ctxs {y z : Sys} (hparts : z.parts = y.parts) (hcleats : z.cleats = y.cleats) (hctxs : z.ctxs = y.ctxs) : y.MemStep z :=
  ⟨hparts, hcleats, fun c => ⟨(y.ctx c).outbox, by rw [Sys.ctx, hctxs]; rfl⟩⟩

theorem Sys.MemStep.refl (y : Sys) : y.MemStep y := .of_ctxs rfl rfl rfl

theorem Sys.MemStep.trans {x y z : Sys} (h : x.MemStep y) (h' : y.MemStep z) : x.MemStep z := by
  refine ⟨h'.parts.trans h.parts, h'.cleats.trans h.cleats, fun c => ?_⟩
  obtain ⟨o, ho⟩ := h.ctx c
  obtain ⟨o', ho'⟩ := h'.ctx c
  exact ⟨o', by rw [ho', ho]⟩

theorem Sys.MemStep.foldl {α : Type} {g : Sys → α → Sys} (h : ∀ (y : Sys) (e : α), y.MemStep (g y e)) (l : List α) (y : Sys) : y.MemStep (l.foldl g y) := by
  induction l generalizing y with
  | nil => exact .refl y
  | cons e t ih => exact (h y e).trans (ih _)

section Writes

variable (y : Sys)

theorem Sys.noteFail_memStep (tier hank level index : Nat) : y.MemStep (y.noteFail tier hank level index) := by
  unfold Sys.noteFail
  split <;> exact .of_ctxs rfl rfl rfl

theorem Sys.noteSegment_memStep (tier hank seg : Nat) : y.MemStep (y.noteSegment tier hank seg) :=
  .foldl (fun y (e : Nat × Nat) => y.noteFail_memStep tier hank e.1 e.2) _ y

theorem Sys.poisonLine_memStep (tier hank line o n : Nat) (m : Mark) : y.MemStep (y.poisonLine tier hank line o n m) := by
  unfold Sys.poisonLine Sys.forMemory
  dsimp only
  split <;> exact .of_ctxs rfl rfl rfl

theorem Sys.event_memStep (p code : Nat) (args : Bytes) : y.MemStep (y.event p code args) := by
  unfold Sys.event
  dsimp only
  split
  · refine ⟨rfl, rfl, fun c => ?_⟩
    by_cases hc : c = (y.part p).base
    · subst hc
      exact ⟨_, Sys.ctx_setCtx ..⟩
    · exact ⟨(y.ctx c).outbox, Sys.ctx_setCtx_other _ _ hc⟩
  · exact .refl y

theorem Sys.exhaust_memStep (tier hank page : Nat) : y.MemStep (y.exhaust tier hank page) := by
  have hlog : y.MemStep ((y.logTier tier hank (4096 * page) 0x0301 hank page).bump errRotate 1) := .of_ctxs rfl rfl rfl
  unfold Sys.exhaust
  dsimp only
  split
  · exact hlog.trans (Sys.event_memStep ..)
  · exact hlog

theorem Sys.lineEffects_memStep (tier hank line : Nat) (o : LineOut) : y.MemStep (y.lineEffects tier hank line o) := by
  cases o with
  | exhausted => exact (y.poisonLine_memStep ..).trans (Sys.exhaust_memStep ..)
  | refused => exact y.poisonLine_memStep ..
  | done => exact .refl y
  | failed => exact .refl y
  | reencrypted => exact .of_ctxs rfl rfl rfl
  | discarded => exact .of_ctxs rfl rfl rfl

theorem Sys.setRegion_memStep (tier hank : Nat) (z : Seize) : y.MemStep (y.setRegion tier hank z) := .of_ctxs rfl rfl rfl

theorem Sys.fitThimble_memStep (fuel tier hank page : Nat) : y.MemStep (Sys.fitThimble fuel tier hank page y) := by
  induction fuel generalizing y with
  | zero => exact .refl y
  | succ fuel ih =>
    unfold Sys.fitThimble
    split
    · exact .refl y
    · split
      · exact (y.setRegion_memStep ..).trans (ih _)
      · exact .refl y

theorem Sys.writeLine_memStep (tier hank line : Nat) : y.MemStep (y.writeLine tier hank line).1 :=
  ((y.setRegion_memStep ..).trans (Sys.fitThimble_memStep ..)).trans (Sys.lineEffects_memStep ..)

theorem Sys.writeSlice_memStep (h l k n i : Nat) (whole : Bool) (arr : Array Byte) (mk : Nat → Mark) :
    y.MemStep (y.writeSlice h l k n i whole arr mk) := by
  unfold Sys.writeSlice
  dsimp only
  split
  · exact y.noteSegment_memStep ..
  · split <;> exact .of_ctxs rfl rfl rfl

theorem Sys.poke_memStep (k n i : Nat) (arr : Array Byte) (mk : Nat → Mark) : y.MemStep (y.poke k n i arr mk) := .of_ctxs rfl rfl rfl

theorem Sys.pokeRun_memStep (k n i : Nat) (arr : Array Byte) (mk : Nat → Mark) : y.MemStep (y.pokeRun k n i arr mk) := by
  unfold Sys.pokeRun
  dsimp only
  split
  · exact .foldl (fun y l => y.writeSlice_memStep ..) _ y
  · refine .foldl (fun y g => ?_) _ y
    split
    · exact y.noteSegment_memStep ..
    · refine .foldl (fun y l => ?_) _ y
      have hline := y.writeLine_memStep 1 (keyHank k) l
      split
      · next heq =>
        rw [heq] at hline
        exact hline.trans (Sys.noteFail_memStep ..)
      · next heq =>
        rw [heq] at hline
        split
        · exact hline.trans (Sys.poke_memStep ..)
        · exact hline
  · exact y.poke_memStep ..

theorem Sys.pokeRuns_memStep (runs : List (Nat × Nat)) (arr : Array Byte) (b : Blob) : y.MemStep (y.pokeRuns runs arr b) := by
  have hfold : ∀ (l : List (Nat × Nat)) (acc : Sys × Nat), acc.1.MemStep (l.foldl (fun (acc : Sys × Nat) r =>
      (acc.1.pokeRun r.1 r.2 acc.2 arr (fun c => b.markOver (r.1 - acc.2) c), acc.2 + r.2)) acc).1 := fun l => by
    induction l with
    | nil => exact fun acc => .refl acc.1
    | cons r t ih => exact fun acc => (acc.1.pokeRun_memStep r.1 r.2 acc.2 arr _).trans (ih (_, _))
  exact hfold runs (y, 0)

theorem Sys.writePart_memStep (p a : Nat) (b : Blob) : y.MemStep (y.writePart p a b) := by
  unfold Sys.writePart
  split
  · exact .of_ctxs rfl rfl rfl
  · exact y.pokeRuns_memStep ..

theorem Sys.logTier_memStep (tier hank off event arg0 arg1 : Nat) : y.MemStep (y.logTier tier hank off event arg0 arg1) := .of_ctxs rfl rfl rfl

theorem Sys.noteRead_memStep (p a n : Nat) : y.MemStep (y.noteRead p a n) :=
  (Sys.MemStep.foldl (fun y (e : Nat × Nat × Nat × Nat) => y.noteFail_memStep e.1 e.2.1 e.2.2.1 e.2.2.2) (y.failsIn p a n) y).trans
    (Sys.MemStep.foldl (fun z (e : Nat × Nat × Nat × Nat × Nat) =>
      z.logTier_memStep e.1 e.2.1 (64 * e.2.2.1) 0x0104 (tierUnit (keyKind e.2.2.2.1) (keyHank e.2.2.2.1)) e.2.2.2.2) _ _)

/-! Pass A (R151, R152) -/

theorem Sys.carryWrite_memStep (p a : Nat) (d : Bytes) (v : Word32 × Mark) : y.MemStep (y.carryWrite p a d v) := y.writePart_memStep ..

theorem Sys.udPassA_memStep (p : Nat) (d : Bytes) (stream : Nat) (sum : Option (Word32 × Mark)) : y.MemStep (y.udPassA p d stream sum).1 := by
  have hite : ∀ (z : Sys) (q : Prop) [Decidable q] (a : Nat) (v : Word32 × Mark), z.MemStep (if q then z else z.carryWrite p a d v)
      ∧ z.MemStep (if q then z.carryWrite p a d v else z) := fun z q _ a v => by
    by_cases hq : q
    · rw [if_pos hq, if_pos hq]
      exact ⟨.refl z, z.carryWrite_memStep ..⟩
    · rw [if_neg hq, if_neg hq]
      exact ⟨z.carryWrite_memStep .., .refl z⟩
  unfold Sys.udPassA
  split
  · exact .refl y
  · split
    · exact .refl y
    · exact (hite y ..).1.trans (hite _ ..).2

theorem Sys.udNormRun_memStep (p : Nat) (d : Bytes) (stream : Nat) (sum : Option (Word32 × Mark)) : y.MemStep (y.udNormRun p d stream sum).1 :=
  y.udPassA_memStep ..

end Writes

/-! Steps on a share -/

/-- The store of shares holds under a share's key what the share reads as. -/
def Sys.Settled (die p : Nat) (y : Sys) : Prop := y.cleats.set Cleat.blank (cleatKey die p) (y.cleat die p) = y.cleats

theorem Sys.Settled.setCleat {die p : Nat} {y : Sys} (h : y.Settled die p) : y.setCleat die p (y.cleat die p) = y := by
  unfold Sys.setCleat
  rw [h]

theorem Sys.settled_setCleat (y : Sys) (die p : Nat) (x : Cleat) : (y.setCleat die p x).Settled die p := by
  unfold Sys.Settled
  rw [Sys.cleat_setCleat]
  exact SMap.set_set ..

theorem Sys.Settled.of_cleats {die p : Nat} {y z : Sys} (h : y.Settled die p) (hz : z.cleats = y.cleats) : z.Settled die p := by
  unfold Sys.Settled Sys.cleat at h ⊢
  rw [hz, h]

/-- What a step of an update on a share leaves: the partitions, and of every context all but its records; it writes the shares under that key alone. -/
structure Sys.ShareStep (die p : Nat) (y z : Sys) : Prop where
  parts : z.parts = y.parts
  ctx : ∀ c, ∃ o, z.ctx c = { y.ctx c with outbox := o }
  settled : y.Settled die p → z.Settled die p

section Shares

variable {die p : Nat}

theorem Sys.MemStep.shareStep {y z : Sys} (h : y.MemStep z) : y.ShareStep die p z := ⟨h.parts, h.ctx, fun hy => hy.of_cleats h.cleats⟩

theorem Sys.ShareStep.refl (y : Sys) : y.ShareStep die p y := (Sys.MemStep.refl y).shareStep

theorem Sys.ShareStep.trans {x y z : Sys} (h : x.ShareStep die p y) (h' : y.ShareStep die p z) : x.ShareStep die p z := by
  refine ⟨h'.parts.trans h.parts, fun c => ?_, fun hx => h'.settled (h.settled hx)⟩
  obtain ⟨o, ho⟩ := h.ctx c
  obtain ⟨o', ho'⟩ := h'.ctx c
  exact ⟨o', by rw [ho', ho]⟩

theorem Sys.ShareStep.foldl {α : Type} {g : Sys → α → Sys} (h : ∀ (y : Sys) (e : α), y.ShareStep die p (g y e)) (l : List α) (y : Sys) : y.ShareStep die p (l.foldl g y) := by
  induction l generalizing y with
  | nil => exact .refl y
  | cons e t ih => exact (h y e).trans (ih _)

variable (y : Sys)

theorem Sys.setCleat_shareStep (x : Cleat) : y.ShareStep die p (y.setCleat die p x) :=
  ⟨rfl, fun c => ⟨(y.ctx c).outbox, rfl⟩, fun _ => y.settled_setCleat die p x⟩

theorem Sys.landBlock_shareStep : y.ShareStep die p (y.landBlock die p) :=
  (Sys.MemStep.foldl (fun y (e : Nat × Blob) => y.writePart_memStep p e.1 e.2) _ y).shareStep.trans (Sys.setCleat_shareStep ..)

theorem Sys.updStep_shareStep (i : UpdI) : y.ShareStep die p (y.updStep die p i) := by
  unfold Sys.updStep
  dsimp only
  split
  · exact (y.setCleat_shareStep _).trans (Sys.landBlock_shareStep _)
  · exact y.setCleat_shareStep _

theorem Sys.updBlock_shareStep (old : MemSys) (prog : List UpdI) (t n : Nat) : y.ShareStep die p (y.updBlock old die p prog t n) := by
  unfold Sys.updBlock
  extract_lets x d
  refine (Sys.MemStep.foldl (fun y i => y.noteRead_memStep p (udBlock d x.rbase i t n) 1024) (udReads d prog) y).shareStep.trans ?_
  split
  · exact (Sys.setCleat_shareStep _ _).trans (.foldl (fun y i => y.updStep_shareStep i) _ _)
  · exact (Sys.setCleat_shareStep _ _).trans (Sys.landBlock_shareStep _)

theorem Sys.udBlocks_shareStep (d : Bytes) (part : UdPart) (n : Nat) : y.ShareStep ((y.part p).udDie d) p (y.udBlocks p d part n) :=
  .foldl (fun y _ => y.updBlock_shareStep ..) _ y

theorem Sys.udLoad_shareStep (d : Bytes) (t : Word32 × Mark) : y.ShareStep ((y.part p).udDie d) p (y.udLoad p d t) := y.setCleat_shareStep _

end Shares

/-- A descriptor's blocks, from the state in which the share is loaded for them. -/
def Sys.udSegment (y : Sys) (p : Nat) (d : Bytes) (t : Word32 × Mark) : Sys := (y.udLoad p d t).udBlocks p d ⟨0, y.mem⟩ (64 * udCount d)

theorem Sys.udSegment_shareStep (y : Sys) (p : Nat) (d : Bytes) (t : Word32 × Mark) : y.ShareStep ((y.part p).udDie d) p (y.udSegment p d t) :=
  (y.udLoad_shareStep d t).trans ((y.udLoad p d t).udBlocks_shareStep d _ _)

theorem Sys.udSegment_settled (y : Sys) (p : Nat) (d : Bytes) (t : Word32 × Mark) : (y.udSegment p d t).Settled ((y.part p).udDie d) p :=
  (Sys.udBlocks_shareStep (y.udLoad p d t) d _ _).settled (Sys.settled_setCleat ..)

/-! Commands of a step region -/

/-- Whether a command stands in a step region is a matter of its partition's region, its context and its batches. -/
theorem Sys.inSigma_of_same {y z : Sys} {c : Nat} (k : Cmd) (hparts : z.parts = y.parts) (hctx : ∃ o, z.ctx c = { y.ctx c with outbox := o }) :
    z.inSigma c k = y.inSigma c k := by
  obtain ⟨o, ho⟩ := hctx
  simp only [Sys.inSigma, Sys.part, hparts, ho]
  rfl

theorem Sys.inSigma_setPart {y : Sys} {p : Nat} {x : Partition} (h : x.sigma = (y.part p).sigma) (c : Nat) (k : Cmd) : (y.setPart p x).inSigma c k = y.inSigma c k := by
  have hsigma : ((y.setPart p x).part (y.ctx c).part).sigma = (y.part (y.ctx c).part).sigma := by
    rw [Sys.part_setPart_oob]
    split
    · next hp => rw [h, hp.1]
    · rfl
  simp only [Sys.inSigma, Sys.ctx_setPart, hsigma]

/-- The context in which an update of descriptor `d` has come to its end (R176). -/
def Sys.sided (y : Sys) (c : Nat) (d : Bytes) : Sys := if udTwoSided d then y else y.setCtx c { y.ctx c with oneSided := true }

theorem Sys.inSigma_sided (y : Sys) (c : Nat) (d : Bytes) (k : Cmd) : (y.sided c d).inSigma c k = y.inSigma c k := by
  unfold Sys.sided
  split
  · rfl
  · simp only [Sys.inSigma, Sys.ctx_setCtx, Sys.part_setCtx]
    rfl

theorem Sys.mem_sided (y : Sys) (c : Nat) (d : Bytes) : (y.sided c d).mem = y.mem := by
  unfold Sys.sided
  split <;> rfl

theorem Sys.oneSided_sided (y : Sys) (c : Nat) {d : Bytes} (h : udTwoSided d = false) : ((y.sided c d).ctx c).oneSided = true := by
  rw [Sys.sided, if_neg (by simp [h]), Sys.ctx_setCtx]

/-! A step of the partition begins (R163) -/

theorem Partition.beginStep_frame (P : Partition) (n : Nat) :
    { P.beginStep n with stepBegun := P.stepBegun, reefCur := P.reefCur, reefPend := P.reefPend } = P := by
  unfold Partition.beginStep
  dsimp only
  split
  · split <;> rfl
  · rfl

/-- An update of step `n` begins in a partition. -/
def Sys.stepBegins (y : Sys) (p n : Nat) : Sys := y.setPart p ((y.part p).beginStep n)

theorem Sys.inSigma_stepBegins (y : Sys) (p n c : Nat) (k : Cmd) : (y.stepBegins p n).inSigma c k = y.inSigma c k :=
  Sys.inSigma_setPart (x := (y.part p).beginStep n) (congrArg Partition.sigma ((y.part p).beginStep_frame n) :) c k

/-- The die of a descriptor is a matter of the partition's hanks and settings. -/
theorem Sys.udDie_stepBegins (y : Sys) (p n : Nat) (d : Bytes) : ((y.stepBegins p n).part p).udDie d = (y.part p).udDie d := by
  have hdie : ((y.part p).beginStep n).udDie d = (y.part p).udDie d := (congrArg (fun P => Partition.udDie P d) ((y.part p).beginStep_frame n) :)
  unfold Sys.stepBegins
  rw [Sys.part_setPart_oob]
  split
  · exact hdie
  · rfl

end Sys2Proof.Machine

/-!
O35, UPDATE, REEF_SET and the poll of a carry record (R143 to R145, R151, R152, R158, R159, R163): a list of one descriptor by what its turn comes to.
-/

namespace Sys2Proof.Machine

/-! A descriptor's turn (R144, R158) -/

/-- The blocks of a descriptor from `part` on, its status record, and the rest of the list. -/
def Sys.udRun (y : Sys) (p c : Nat) (k : Cmd) (fuel budget die : Nat) (d : Bytes) (u : UdProg) (part : UdPart) : Did :=
  let n := min budget (64 * udCount d - part.blocks)
  let r := (y.udBlocks p d part n).udGather p c k d u
  if part.blocks + n < 64 * udCount d then r.1.udWait p c k { r.2 with part := some { part with blocks := part.blocks + n } } none
  else (r.1.writePart p (udStatus d) (statusBlob d (r.1.cleat die p) 0 (udWrite d))).udLoop p c k fuel (budget - n)
    (({ r.2 with failed := r.2.failed || r.1.udUnwritten p [(udStatus d, 64)] } : UdProg).onward d)

/-- The reads that pass A makes leave their traces once (R152). -/
def Sys.udNoted (y : Sys) (p : Nat) (d : Bytes) (u : UdProg) : Sys :=
  if u.sum.isSome then y else (udReadOnly d).foldl (fun s r => s.noteRead p r.1 r.2) y

theorem Sys.udNoted_memStep (y : Sys) (p : Nat) (d : Bytes) (u : UdProg) : y.MemStep (y.udNoted p d u) := by
  unfold Sys.udNoted
  split
  · exact .refl y
  · exact .foldl (fun y (r : Nat × Nat) => y.noteRead_memStep p r.1 r.2) _ y

/-- A descriptor that is not frozen and has its share, from the state in which its step has begun: pass A where it holds NORM, then its blocks. -/
def Sys.udPasses (y : Sys) (p c : Nat) (k : Cmd) (fuel budget die : Nat) (u : UdProg) (d : Bytes) : Did :=
  match udNorm d with
  | none => (y.udLoad p d (0#32, .clean)).udRun p c k fuel budget die d { u with begun := true } ⟨0, y.mem⟩
  | some stream =>
    let bad := u.sum.isNone && y.udUnwritten p (udPassWrites d)
    let r := (y.udNoted p d u).udNormRun p d stream u.sum
    let u := { u with begun := true, failed := u.failed || (bad && r.2.1.isSome) }
    match r.2.2 with
    | some t => (r.1.udLoad p d t).udRun p c k fuel budget die d u ⟨0, r.1.mem⟩
    | none => .running (r.1.setProgress c k.ring k (.update { u with sum := r.2.1 }))

/-- A descriptor that may begin, and whose memory takes requests. -/
def Sys.udStart (y : Sys) (p c : Nat) (k : Cmd) (fuel budget : Nat) (u : UdProg) (d : Bytes) : Did :=
  let s := y.stepBegins p (udStep d)
  if udFrozen d then
    (s.writePart p (udStatus d) (statusBlob d Cleat.blank 1 (udRead d))).udLoop p c k fuel budget
      (({ u with failed := u.failed || s.udUnwritten p [(udStatus d, 64)] } : UdProg).onward d)
  else if s.shareBusy ((y.part p).udDie d) p c k then s.udWait p c k u none
  else s.udPasses p c k fuel budget ((y.part p).udDie d) u d

/-- The descriptor at hand, and the rest of the list. -/
def Sys.udTurn (y : Sys) (p c : Nat) (k : Cmd) (fuel budget : Nat) (u : UdProg) : Did :=
  match y.udAt p u.next with
  | none => y.udDone c u stBAD_RANGE
  | some b => match y.udBlocked p b.data with
    | some r => y.udWait p c k u (some r)
    | none => match u.part with
      | some part =>
        if !y.cleatReaches ((y.part p).udDie b.data) then y.udWait p c k u none
        else y.udRun p c k fuel budget ((y.part p).udDie b.data) b.data u part
      | none => if !u.begun && !y.udReady p b.data then y.udWait p c k u none else y.udStart p c k fuel budget u b.data

theorem udLoop_succ (y : Sys) (p c : Nat) (k : Cmd) (fuel budget : Nat) (u : UdProg) : y.udLoop p c k (fuel + 1) budget u = y.udTurn p c k fuel budget u := by rfl

theorem udLoop_starts {y : Sys} {p c fuel budget : Nat} {k : Cmd} {u : UdProg} {b : Blob} (hat : y.udAt p u.next = some b) (hfree : y.udBlocked p b.data = none)
    (hpart : u.part = none) (hready : u.begun = true ∨ y.udReady p b.data = true) : y.udLoop p c k (fuel + 1) budget u = y.udStart p c k fuel budget u b.data := by
  have hgo : (!u.begun && !y.udReady p b.data) = false := by rcases hready with h | h <;> simp [h]
  rw [udLoop_succ]
  delta Sys.udTurn
  rw [hat]
  dsimp only
  rw [hfree, hpart]
  exact if_neg (Bool.eq_false_iff.mp hgo)

section Turn

variable {y : Sys} {p c fuel budget : Nat} {k : Cmd} {u : UdProg} {d : Bytes}

theorem udStart_frozen (hfrozen : udFrozen d = true) : y.udStart p c k fuel budget u d
    = ((y.stepBegins p (udStep d)).writePart p (udStatus d) (statusBlob d Cleat.blank 1 (udRead d))).udLoop p c k fuel budget
      (({ u with failed := u.failed || (y.stepBegins p (udStep d)).udUnwritten p [(udStatus d, 64)] } : UdProg).onward d) := if_pos hfrozen

theorem udStart_passes (hfrozen : udFrozen d = false) (hbusy : (y.stepBegins p (udStep d)).shareBusy ((y.part p).udDie d) p c k = false) :
    y.udStart p c k fuel budget u d = (y.stepBegins p (udStep d)).udPasses p c k fuel budget ((y.part p).udDie d) u d := by
  simp only [Sys.udStart, hfrozen, hbusy, Bool.false_eq_true, if_false]

theorem udPasses_plain {die : Nat} (hnorm : udNorm d = none) : y.udPasses p c k fuel budget die u d
    = (y.udLoad p d (0#32, .clean)).udRun p c k fuel budget die d { u with begun := true } ⟨0, y.mem⟩ := by
  simp only [Sys.udPasses, hnorm]

section Norm

variable {die stream : Nat} (hnorm : udNorm d = some stream) (hwritten : y.udUnwritten p (udPassWrites d) = false) {z : Sys} {v : Option (Word32 × Mark)}
include hnorm hwritten

/-- The record that it reads has yet to arrive. -/
theorem udPasses_waits (hrun : (y.udNoted p d u).udNormRun p d stream u.sum = (z, v, none)) :
    y.udPasses p c k fuel budget die u d = .running (z.setProgress c k.ring k (.update { u with begun := true, sum := v })) := by
  simp only [Sys.udPasses, hnorm, hwritten, hrun, Bool.and_false, Bool.false_and, Bool.or_false]

theorem udPasses_total {t : Word32 × Mark} (hrun : (y.udNoted p d u).udNormRun p d stream u.sum = (z, v, some t)) :
    y.udPasses p c k fuel budget die u d = (z.udLoad p d t).udRun p c k fuel budget die d { u with begun := true } ⟨0, z.mem⟩ := by
  simp only [Sys.udPasses, hnorm, hwritten, hrun, Bool.and_false, Bool.false_and, Bool.or_false]

end Norm

end Turn

/-! The end of a list (R159, R160) -/

theorem udGather_clean {y : Sys} {p c : Nat} {k : Cmd} {d : Bytes} {u : UdProg} (hcauses : (y.cleat ((y.part p).udDie d) p).causes = [])
    (hwrote : (y.cleat ((y.part p).udDie d) p).wrote = false) :
    y.udGather p c k d u = (y.setCleat ((y.part p).udDie d) p (y.cleat ((y.part p).udDie d) p), u) := by
  have hprog : ({ u with causes := u.causes ++ [], wrote := u.wrote || false } : UdProg) = u := by rw [List.append_nil, Bool.or_false]
  simp only [Sys.udGather, hcauses, hwrote, hprog]
  have hsame : ({ y.cleat ((y.part p).udDie d) p with causes := [], wrote := false } : Cleat) = y.cleat ((y.part p).udDie d) p := by
    rw [← hcauses, ← hwrote]
  rw [hsame]
  rfl

theorem Sys.udUnwritten_setCleat (y : Sys) (die p : Nat) (x : Cleat) (q : Nat) (rs : List (Nat × Nat)) :
    (y.setCleat die p x).udUnwritten q rs = y.udUnwritten q rs := rfl

/-- A descriptor of which the budget allows all blocks, and whose blocks met no poison, writes its status record and is finished. -/
theorem udRun_clean {y : Sys} {p c fuel budget die : Nat} {k : Cmd} {d : Bytes} {u : UdProg} {t : Word32 × Mark} (hdie : (y.part p).udDie d = die)
    (hbudget : 64 * udCount d ≤ budget) (hcauses : ((y.udSegment p d t).cleat die p).causes = []) (hwrote : ((y.udSegment p d t).cleat die p).wrote = false)
    (hwritten : (y.udSegment p d t).udUnwritten p [(udStatus d, 64)] = false) :
    (y.udLoad p d t).udRun p c k fuel budget die d u ⟨0, y.mem⟩
      = (((y.udSegment p d t).setCleat die p ((y.udSegment p d t).cleat die p)).writePart p (udStatus d)
          (statusBlob d ((y.udSegment p d t).cleat die p) 0 (udWrite d))).udLoop p c k fuel (budget - 64 * udCount d) (u.onward d) := by
  have hdie' : ((y.udSegment p d t).part p).udDie d = die := by
    rw [Sys.part, (y.udSegment_shareStep p d t).parts]
    exact hdie
  have hgather := udGather_clean (c := c) (k := k) (u := u) (hdie'.symm ▸ hcauses) (hdie'.symm ▸ hwrote)
  rw [hdie'] at hgather
  have hsegment : (y.udLoad p d t).udBlocks p d ⟨0, y.mem⟩ (64 * udCount d) = y.udSegment p d t := rfl
  have hprog : ({ u with failed := u.failed || false } : UdProg) = u := by rw [Bool.or_false]
  rw [Sys.udRun, Nat.sub_zero, Nat.min_eq_right hbudget, hsegment, hgather, if_neg (by simp), Sys.cleat_setCleat, Sys.udUnwritten_setCleat, hwritten, hprog]

section Ends

variable {y : Sys} {p c budget : Nat} {k : Cmd} {u : UdProg} (hwrote : u.wrote = false) (hfailed : u.failed = false) (hfinished : u.finished = 1)
include hwrote hfailed hfinished

/-- UPDATE of a list of one descriptor that has met no failure completes with OK. -/
theorem udLoop_ends : y.udLoop p c k 0 budget u = .done (if u.oneSided then y.setCtx c { y.ctx c with oneSided := true } else y) stOK [1, 0, 0, 0] := by
  have hmark : u.mark = .clean := by simp [UdProg.mark, hwrote, hfailed]
  show y.udDone c u (markStatus u.mark) = _
  rw [hmark, Sys.udDone, hfinished]
  rfl

theorem udLoop_ends_kept (hsides : u.oneSided = false) : y.udLoop p c k 0 budget u = .done y stOK [1, 0, 0, 0] := by
  rw [udLoop_ends hwrote hfailed hfinished, hsides]
  rfl

theorem udLoop_ends_sided {d : Bytes} (hsides : u.oneSided = !udTwoSided d) : y.udLoop p c k 0 budget u = .done (y.sided c d) stOK [1, 0, 0, 0] := by
  rw [udLoop_ends hwrote hfailed hfinished, hsides, Sys.sided]
  cases udTwoSided d <;> rfl

end Ends

/-- What is kept of a descriptor that is finished: one that is not frozen and has no second side is told to the context (R176). -/
theorem UdProg.onward_oneSided (u : UdProg) (d : Bytes) : (u.onward d).oneSided = (u.oneSided || (!udTwoSided d && !udFrozen d)) := rfl

/-! UPDATE (R143, R144) -/

/-- An UPDATE that has passed its checks. -/
def UdProg.first (addr pace : Nat) : UdProg := { finished := 0, next := addr, causes := [], wrote := false, oneSided := false, sum := none, part := none, pace := pace }

/-- The reads of a list's checks (R143). -/
theorem Sys.udNote_succ (y : Sys) (p n a : Nat) : y.udNote p (n + 1) a = match y.udAt p a with
    | none => y
    | some b => (y.noteRead p a (udChecked b)).udNote p n (a + udPlace b.data) := by rfl

theorem udNote_one {y : Sys} {p a : Nat} {b : Blob} (hat : y.udAt p a = some b) (hquiet : y.readsQuietly p a (udChecked b)) : y.udNote p 1 a = y := by
  rw [Sys.udNote_succ, hat]
  dsimp only
  rw [Sys.noteRead_quiet hquiet]
  rfl

theorem Sys.udUnlisted_succ (y : Sys) (p n a : Nat) : y.udUnlisted p (n + 1) a = match y.udAt p a with
    | none => false
    | some b => (y.part p).unlisted (sliceB b.data 0x80 (udSize b.data - 0x80)) || y.udUnlisted p n (a + udPlace b.data) := by rfl

/-- A policy that lists no program admits each (R352). -/
theorem Partition.unlisted_of_policy {P : Partition} (h : fieldN P.policy 0xE 2 = 0) (bs : Bytes) : P.unlisted bs = false := by
  simp [Partition.unlisted, h]

theorem udUnlisted_one {y : Sys} {p a : Nat} {b : Blob} (hat : y.udAt p a = some b) (hpolicy : fieldN (y.part p).policy 0xE 2 = 0) : y.udUnlisted p 1 a = false := by
  rw [Sys.udUnlisted_succ, hat]
  dsimp only
  rw [Partition.unlisted_of_policy hpolicy]
  rfl

section Update

variable {y : Sys} {count p c : Nat} {k : Cmd} (hprogress : k.progress = .begun)
include hprogress

theorem updateBody_badValue (h : k.field 8 8 % 64 ≠ 0 ∨ k.field 0x10 4 = 0 ∨ 65536 < k.field 0x10 4) :
    updateBody count p c k y = .done y stBAD_VALUE [0, 0, 0, 0] := by
  unfold updateBody
  rw [hprogress]
  exact if_pos h

/-- A list of one descriptor in order, of a policy that lists no program, is processed. -/
theorem updateBody_one {b : Blob} (haligned : k.field 8 8 % 64 = 0) (hone : k.field 0x10 4 = 1) (hlist : y.udListFail p 1 (k.field 8 8) = none)
    (hpolicy : fieldN (y.part p).policy 0xE 2 = 0) (hat : y.udAt p (k.field 8 8) = some b) (hquiet : y.readsQuietly p (k.field 8 8) (udChecked b)) :
    updateBody count p c k y = y.udLoop p c k 1 count (.first (k.field 8 8) count) := by
  have hnote := udNote_one hat hquiet
  have hlisted := udUnlisted_one hat hpolicy
  have hvalue : ¬ (k.field 8 8 % 64 ≠ 0 ∨ k.field 0x10 4 = 0 ∨ 65536 < k.field 0x10 4) := by omega
  unfold updateBody
  rw [hprogress]
  refine (if_neg hvalue).trans ?_
  rw [hone, hnote]
  dsimp only
  rw [hlist]
  exact if_neg (by simp [hlisted])

end Update

/-! Rows -/

section Rows

variable {s : State} {key : CmdKey} {k : Cmd}

theorem inSigma_begun {i : Instr} {op : Nat} (h : CmdReady i s key k op) : (s.sys.begun key k).inSigma key.ctx.val k = false := by
  obtain ⟨-, -, -, -, -, -, -, -, hsigma, -, -⟩ := h
  exact (Sys.inSigma_setProgress ..).trans hsigma

/-- UPDATE of one descriptor whose turn comes at once, by what its processing comes to. -/
theorem update_row {count : Nat} {b : Blob} (h : CmdReady (.update ⟨key, count⟩) s key k 0x38) (haligned : k.field 8 8 % 64 = 0) (hone : k.field 0x10 4 = 1)
    (hlist : (s.sys.begun key k).udListFail (s.sys.ctx key.ctx.val).part 1 (k.field 8 8) = none)
    (hpolicy : fieldN ((s.sys.begun key k).part (s.sys.ctx key.ctx.val).part).policy 0xE 2 = 0)
    (hat : (s.sys.begun key k).udAt (s.sys.ctx key.ctx.val).part (k.field 8 8) = some b)
    (hquiet : (s.sys.begun key k).readsQuietly (s.sys.ctx key.ctx.val).part (k.field 8 8) (udChecked b))
    {y : Sys} {res : Bytes} {eff : Sys → Prop}
    (hloop : (s.sys.begun key k).udLoop (s.sys.ctx key.ctx.val).part key.ctx.val { k with progress := .begun } 1 count (.first (k.field 8 8) count) = .done y stOK res)
    (hs : y.inSigma key.ctx.val k = false) (he : eff y) : Completes (.update ⟨key, count⟩) s key k stOK res eff :=
  completes_of_body h rfl ((updateBody_one (k := { k with progress := .begun }) rfl haligned hone hlist hpolicy hat hquiet).trans hloop) hs he

/-- The meaning of REEF_SET once it has begun. -/
def reefBody (p c : Nat) (k : Cmd) (y : Sys) : Did :=
  let P := y.part p
  let a := k.field 8 8
  if !P.owns a 784 then .done y stBAD_RANGE [] else
  let b := y.readPart p a 784
  let y := y.noteRead p a 784
  if b.worst.isBad then .done (y.cmdSaw c k true domBowline fnBowline) (markStatus b.worst) []
  else if reefBad b.data then .done y stBAD_SCHEDULE []
  else if P.stepBegun.any (fun n => decide (reefFrom b.data ≤ n)) then .done y stSTALE_VALUE []
  else .done (y.setPart p { P with reefPend := some b.data }) stOK []

theorem exec_reefSet (key : CmdKey) (s : State) : exec (.reefSet key) s = s.onSys (fun y => y.runOrdered (.reefSet key) key (isOp 0x39) reefBody) := rfl

theorem reefBody_outside {y : Sys} {p c : Nat} {k : Cmd} (h : (y.part p).owns (k.field 8 8) 784 = false) : reefBody p c k y = .done y stBAD_RANGE [] := by
  simp only [reefBody, h, Bool.not_false, if_true]

section Reef

variable {y : Sys} {p c : Nat} {k : Cmd} {b : Blob} (howns : (y.part p).owns (k.field 8 8) 784 = true)
  (hread : y.readPart p (k.field 8 8) 784 = b) (hclean : b.bad = []) (hquiet : y.readsQuietly p (k.field 8 8) 784)
include howns hread hclean hquiet

/-- A table that can be read is refused or taken by its fields and its first step (R163). -/
theorem reefBody_read : reefBody p c k y =
    if reefBad b.data then .done y stBAD_SCHEDULE []
    else if (y.part p).stepBegun.any (fun n => decide (reefFrom b.data ≤ n)) then .done y stSTALE_VALUE []
    else .done (y.setPart p { y.part p with reefPend := some b.data }) stOK [] := by
  have hworst : b.worst.isBad = false := by
    rw [Blob.worst_of_bad_nil hclean]
    rfl
  unfold reefBody
  dsimp only
  rw [howns, hread, Sys.noteRead_quiet hquiet, hworst]
  rfl

theorem reefBody_bad (hbad : reefBad b.data = true) : reefBody p c k y = .done y stBAD_SCHEDULE [] :=
  (reefBody_read howns hread hclean hquiet).trans (if_pos hbad)

variable (hgood : reefBad b.data = false)
include hgood

theorem reefBody_stale (hstale : ∃ n, (y.part p).stepBegun = some n ∧ reefFrom b.data ≤ n) : reefBody p c k y = .done y stSTALE_VALUE [] := by
  have hany : (y.part p).stepBegun.any (fun n => decide (reefFrom b.data ≤ n)) = true := by
    simpa only [Option.any_eq_true, decide_eq_true_eq] using hstale
  rw [reefBody_read howns hread hclean hquiet, if_neg (Bool.eq_false_iff.mp hgood), if_pos hany]

theorem reefBody_taken (hfresh : ∀ n, (y.part p).stepBegun = some n → n < reefFrom b.data) :
    reefBody p c k y = .done (y.setPart p { y.part p with reefPend := some b.data }) stOK [] := by
  have hany : (y.part p).stepBegun.any (fun n => decide (reefFrom b.data ≤ n)) = false := by
    simpa only [Option.any_eq_false, decide_eq_false_iff_not, Nat.not_le] using hfresh
  rw [reefBody_read howns hread hclean hquiet, if_neg (Bool.eq_false_iff.mp hgood), if_neg (Bool.eq_false_iff.mp hany)]

end Reef

/-- The poll of one UPDATE that waits, by what its processing comes to (R152). -/
theorem poll_row {die : Fin 5} {part : Fin 80} {c r l : Nat} {u : UdProg} (hwait : s.sys.waitingUpdates die.val part.val = [(c, r, l)])
    (hcmd : s.sys.cmdAt c r l = some k) (hprogress : k.progress = .update u) (hone : k.field 0x10 4 = 1) (hfinished : u.finished = 0) {y : Sys} :
    (s.sys.udLoop part.val c k 1 u.pace u = .running y → exec (.carryRecordPoll die part) s = .next { s with sys := y })
    ∧ ∀ st res, s.sys.udLoop part.val c k 1 u.pace u = .done y st res → exec (.carryRecordPoll die part) s = .next { s with sys := y.finish c k st res } := by
  have hbody : updateBody u.pace part.val c k s.sys = s.sys.udLoop part.val c k 1 u.pace u := by
    unfold updateBody
    rw [hprogress]
    show s.sys.udLoop part.val c k (k.field 0x10 4 - u.finished) u.pace u = _
    rw [hone, hfinished]
  refine ⟨fun hloop => ?_, fun st res hloop => ?_⟩
  all_goals
    show execCarryRecordPoll die part s = _
    rw [execCarryRecordPoll, State.onSys_next, hwait, List.foldl_cons, List.foldl_nil]
    simp only [hcmd, hprogress, hbody, hloop]

end Rows

/-- A status record is written where the memory's checks pass. -/
theorem Sys.memSound.udUnwritten {y : Sys} (h : y.memSound) (p : Nat) (rs : List (Nat × Nat)) : y.udUnwritten p rs = false := by
  simp [Sys.udUnwritten, h.writeMark, Mark.isBad_clean]

/-- A descriptor that needs no pass A, and meets no poison, is the last of its list: its blocks, its status record, and the end of the command. -/
theorem udLoop_one_clean {y : Sys} {p c count : Nat} {k : Cmd} {b : Blob} (hat : y.udAt p (k.field 8 8) = some b) (hfree : y.udBlocked p b.data = none)
    (hready : y.udReady p b.data = true) (hfrozen : udFrozen b.data = false) (hnorm : udNorm b.data = none)
    (hbusy : (y.stepBegins p (udStep b.data)).shareBusy ((y.part p).udDie b.data) p c k = false) (hbudget : 64 * udCount b.data ≤ count) :
    let die := (y.part p).udDie b.data
    let y2 := (y.stepBegins p (udStep b.data)).udSegment p b.data (0#32, .clean)
    let z := y2.writePart p (udStatus b.data) (statusBlob b.data (y2.cleat die p) 0 (udWrite b.data))
    (y2.cleat die p).causes = [] → (y2.cleat die p).wrote = false → y2.udUnwritten p [(udStatus b.data, 64)] = false →
    y.udLoop p c k 1 count (.first (k.field 8 8) count) = .done (z.sided c b.data) stOK [1, 0, 0, 0] := by
  intro die y2 z hcauses hwrote hwritten
  have hdie : ((y.stepBegins p (udStep b.data)).part p).udDie b.data = die := Sys.udDie_stepBegins ..
  have hsettled : y2.setCleat die p (y2.cleat die p) = y2 := (hdie ▸ Sys.udSegment_settled (y.stepBegins p (udStep b.data)) p b.data _).setCleat
  have hrun := udRun_clean (c := c) (k := k) (fuel := 0) (u := { UdProg.first (k.field 8 8) count with begun := true }) hdie hbudget hcauses hwrote hwritten
  rw [udLoop_starts (u := .first (k.field 8 8) count) hat hfree rfl (.inr hready), udStart_passes hfrozen hbusy, udPasses_plain hnorm]
  rw [hsettled] at hrun
  exact hrun.trans (udLoop_ends_sided rfl rfl rfl (by rw [UdProg.onward_oneSided, hfrozen, Bool.not_false, Bool.and_true]; rfl))

/-- Pass A leaves the die of its descriptor where it is. -/
theorem Sys.udDie_norm {y : Sys} {p stream : Nat} {u : UdProg} {z : Sys} {v t : Option (Word32 × Mark)} {d : Bytes} {n : Nat}
    (hrun : ((y.stepBegins p n).udNoted p d u).udNormRun p d stream u.sum = (z, v, t)) : (z.part p).udDie d = (y.part p).udDie d := by
  have hpass := ((y.stepBegins p n).udNoted p d u).udNormRun_memStep p d stream u.sum
  rw [hrun] at hpass
  rw [Sys.part, (((y.stepBegins p n).udNoted_memStep p d u).trans hpass).parts]
  exact Sys.udDie_stepBegins ..

section Norm

variable {y : Sys} {p c budget : Nat} {k : Cmd} {u : UdProg} {b : Blob} {stream : Nat} {z : Sys} {v : Option (Word32 × Mark)}
  (hat : y.udAt p u.next = some b) (hfree : y.udBlocked p b.data = none) (hpart : u.part = none) (hbegun : u.begun = true)
  (hfrozen : udFrozen b.data = false) (hbusy : (y.stepBegins p (udStep b.data)).shareBusy ((y.part p).udDie b.data) p c k = false)
  (hnorm : udNorm b.data = some stream) (hwritten : (y.stepBegins p (udStep b.data)).udUnwritten p (udPassWrites b.data) = false)
include hat hfree hpart hbegun hfrozen hbusy hnorm hwritten

/-- A descriptor with NORM that has begun keeps its sum while the record that it reads has not arrived. -/
theorem udLoop_norm_waits (hrun : ((y.stepBegins p (udStep b.data)).udNoted p b.data u).udNormRun p b.data stream u.sum = (z, v, none)) :
    y.udLoop p c k 1 budget u = .running (z.setProgress c k.ring k (.update { u with sum := v })) := by
  rw [udLoop_starts hat hfree hpart (.inl hbegun), udStart_passes hfrozen hbusy, udPasses_waits hnorm hwritten hrun]
  rw [show ({ u with begun := true, sum := v } : UdProg) = { u with sum := v } by rw [← hbegun]]

/-- One that has its total, and of which the budget allows all blocks, is finished when its blocks meet no poison. -/
theorem udLoop_norm_clean {t : Word32 × Mark} (hrun : ((y.stepBegins p (udStep b.data)).udNoted p b.data u).udNormRun p b.data stream u.sum = (z, v, some t))
    (hbudget : 64 * udCount b.data ≤ budget) (hcauses : ((z.udSegment p b.data t).cleat ((y.part p).udDie b.data) p).causes = [])
    (hwrote : ((z.udSegment p b.data t).cleat ((y.part p).udDie b.data) p).wrote = false) (huwrote : u.wrote = false) (hufailed : u.failed = false)
    (hufinished : u.finished = 0) (husided : u.oneSided = false) (htwo : udTwoSided b.data = true)
    (hrecord : (z.udSegment p b.data t).udUnwritten p [(udStatus b.data, 64)] = false) :
    y.udLoop p c k 1 budget u = .done (((z.udSegment p b.data t).setCleat ((y.part p).udDie b.data) p
      ((z.udSegment p b.data t).cleat ((y.part p).udDie b.data) p)).writePart p (udStatus b.data)
        (statusBlob b.data ((z.udSegment p b.data t).cleat ((y.part p).udDie b.data) p) 0 (udWrite b.data))) stOK [1, 0, 0, 0] := by
  rw [udLoop_starts hat hfree hpart (.inl hbegun), udStart_passes hfrozen hbusy, udPasses_total hnorm hwritten hrun,
    udRun_clean (Sys.udDie_norm hrun) hbudget hcauses hwrote hrecord]
  exact udLoop_ends_kept huwrote hufailed (congrArg (· + 1) hufinished) (by rw [UdProg.onward_oneSided, htwo, Bool.not_true, Bool.false_and, Bool.or_false]; exact husided)

end Norm

/-- Settles O35: UPDATE and the poll by the turn of their one descriptor, whose blocks leave partitions and commands; REEF_SET by the checks of its body. -/
theorem updates : Obligations.Updates := by
  unfold Obligations.Updates
  refine fun s => ⟨fun key count k b hready => ?_, fun key k hready => ?_, fun die part => ⟨fun hnone => ?_, ?_⟩⟩
  · intro c y p d die y1 i
    have houtside := inSigma_begun hready
    have hbegins : ∀ z : Sys, z.parts = y1.parts → (∃ o, z.ctx c = { y1.ctx c with outbox := o }) → z.inSigma c k = false := fun z hparts hctx =>
      (Sys.inSigma_of_same k hparts hctx).trans ((Sys.inSigma_stepBegins ..).trans houtside)
    refine ⟨fun h => completes_of_body hready rfl (updateBody_badValue (k := { k with progress := .begun }) rfl h) houtside rfl,
      fun haligned hone hlist hpolicy hat hquiet hfree hdie => ⟨fun hfrozen hsound => ?_, fun hfrozen hnorm hbusy hbudget hcauses hwrote hwritten => ?_⟩⟩
    · have hsound1 : y1.memSound := hsound
      have hloop := udLoop_starts (c := c) (k := { k with progress := .begun }) (fuel := 0) (budget := count) (u := .first (k.field 8 8) count) hat hfree rfl (.inr hdie)
      rw [udStart_frozen hfrozen, show (y.stepBegins p (udStep b.data)).udUnwritten p [(udStatus b.data, 64)] = false from hsound1.udUnwritten ..,
        udLoop_ends_kept rfl rfl rfl (by rw [UdProg.onward_oneSided, hfrozen, Bool.not_true, Bool.and_false]; rfl)] at hloop
      have hstep := y1.writePart_memStep p (udStatus d) (statusBlob d Cleat.blank 1 (udRead d))
      exact update_row hready haligned hone hlist hpolicy hat hquiet hloop (hbegins _ hstep.parts (hstep.ctx c)) rfl
    · let y2 := y1.udSegment p d (0#32, .clean)
      have hloop := udLoop_one_clean (c := c) (k := { k with progress := .begun }) hat hfree hdie hfrozen hnorm hbusy hbudget hcauses hwrote hwritten
      have hstep := (y1.udSegment_shareStep p d (0#32, .clean)).trans (y2.writePart_memStep p (udStatus d) (statusBlob d (y2.cleat die p) 0 (udWrite d))).shareStep
      have hlast := hbegins _ hstep.parts (hstep.ctx c)
      exact update_row hready haligned hone hlist hpolicy hat hquiet hloop ((Sys.inSigma_sided ..).trans hlast)
        ⟨Sys.mem_sided .., fun htwo => Sys.oneSided_sided _ _ htwo⟩
  · intro y p P b
    have hread : y.readPart p (k.field 8 8) 784 = b := rfl
    clear_value b
    have houtside := inSigma_begun hready
    have hrefused : ∀ st, reefBody p key.ctx.val { k with progress := .begun } y = .done y st [] → Completes (.reefSet key) s key k st [] (fun z => z = y) :=
      fun st hbody => completes_of_body hready (exec_reefSet key s) hbody houtside rfl
    refine ⟨fun howns => hrefused _ (reefBody_outside howns), fun howns hclean hquiet => ?_⟩
    refine ⟨fun hbad => hrefused _ (reefBody_bad howns hread hclean hquiet hbad),
      fun hgood hstale => hrefused _ (reefBody_stale howns hread hclean hquiet hgood hstale), fun hgood hfresh => ?_⟩
    refine completes_of_body hready (exec_reefSet key s) (reefBody_taken howns hread hclean hquiet hgood hfresh) ?_ rfl
    exact (Sys.inSigma_setPart (x := { P with reefPend := some b.data }) rfl _ _).trans houtside
  · show execCarryRecordPoll die part s = _
    rw [execCarryRecordPoll, State.onSys_next, hnone]
    rfl
  · intro c r l k u b stream z v hwait hcmd hring hprogress hbegun hpart hfinished hone hat d e s1 s2 hfree hfrozen hnorm hbusy hwritten
    have hrow := fun y => poll_row (y := y) hwait hcmd hprogress hone hfinished
    refine ⟨fun hrun => (hrow _).1 (udLoop_norm_waits hat hfree hpart hbegun hfrozen hbusy hnorm hwritten hrun),
      fun t hrun hbudget hcauses hwrote _ huwrote hufailed husided htwo hrecord => (hrow _).2 _ _ ?_⟩
    exact udLoop_norm_clean hat hfree hpart hbegun hfrozen hbusy hnorm hwritten hrun hbudget hcauses hwrote huwrote hufailed hfinished husided htwo hrecord

end Sys2Proof.Machine

/-!
O33, O36, O37, versions of weight sets and the pins of batches (R169, R173, R174): what a release keeps of each set, what a command's naming of sets
changes of its context, and what a command that may begin leaves by what its body answers.
-/

namespace Sys2Proof

variable {α : Type}

/-! The entries of a map -/

theorem SMap.mem_put {m : SMap α} {k : Nat} {v : α} {e : Nat × α} : e ∈ m.put k v ↔ e = (k, v) ∨ (e ∈ m ∧ e.1 ≠ k) := by
  simp [SMap.put, SMap.mem_ins, SMap.del]

theorem SMap.mem_of_mem_set [DecidableEq α] {d v : α} {m : SMap α} {k : Nat} {e : Nat × α} (h : e ∈ m.set d k v) : e = (k, v) ∨ (e ∈ m ∧ e.1 ≠ k) := by
  unfold SMap.set at h
  split at h
  · exact .inr (by simpa [SMap.del] using h)
  · exact SMap.mem_put.mp h

theorem SMap.mem_of_get? {m : SMap α} {k : Nat} {v : α} (h : m.get? k = some v) : (k, v) ∈ m := by
  obtain ⟨e, he, rfl⟩ := Option.map_eq_some_iff.mp h
  have hkey : e.1 = k := by simpa using List.find?_some he
  exact hkey ▸ List.mem_of_find?_eq_some he

theorem SMap.get?_eq_none_iff {m : SMap α} {k : Nat} : m.get? k = none ↔ ∀ e ∈ m, e.1 ≠ k := by
  simp [SMap.get?]

theorem SMap.get_eq_getD (d : α) (m : SMap α) (k : Nat) : m.get d k = (m.get? k).getD d := by
  unfold SMap.get SMap.get?
  cases m.find? (fun e => e.1 == k) <;> rfl

theorem SMap.get_put (d : α) (m : SMap α) (k j : Nat) (v : α) : (m.put k v).get d j = if j = k then v else m.get d j := by
  rw [SMap.get_eq_getD, SMap.get_eq_getD]
  split
  · next h => rw [h, SMap.get?_put_same, Option.getD_some]
  · next h => rw [SMap.get?_put_other _ _ h]

/-- A map of the entries that keeps keys, and the first entry of a key, keeps what stands at that key. -/
theorem SMap.get?_filterMap {f : Nat × α → Option (Nat × α)} (hkey : ∀ e x, f e = some x → x.1 = e.1) {m : SMap α} {k : Nat} {v u : α}
    (h : m.get? k = some v) (hf : f (k, v) = some (k, u)) : SMap.get? (m.filterMap f) k = some u := by
  induction m with
  | nil => cases h
  | cons e t ih =>
    by_cases he : e.1 = k
    · have hv : e.2 = v := by simpa [SMap.get?, he] using h
      have hfe : f e = some (k, u) := by rw [← hf, ← he, ← hv]
      simp [SMap.get?, hfe]
    · have ht : SMap.get? t k = some v := by simpa [SMap.get?, List.find?_cons, he] using h
      cases hfe : f e with
      | none => simpa [hfe] using ih ht
      | some x =>
        have hx : x.1 ≠ k := hkey e x hfe ▸ he
        simpa [SMap.get?, List.find?_cons, hfe, hx] using ih ht

end Sys2Proof

namespace Sys2Proof.Machine

theorem Sys.setWset_part (y : Sys) {p : Nat} (hp : p < 80) (i : Nat) (w : WSet) :
    (y.setWset p i w).part p = { y.part p with wsets := (y.part p).wsets.put i w } := by
  rw [Sys.setWset, Sys.part_setPart_oob, if_pos ⟨rfl, hp⟩]

/-! Release (R173, R174) -/

/-- Whether a release keeps a version of a set. -/
def Sys.keeps (y : Sys) (q i : Nat) (w : WSet) (v : Version) : Bool :=
  match v.state with
  | .superseded => y.pinned q i v.num
  | .current => !w.retiring || y.pinned q i v.num
  | .provisional => true

/-- A set as a release leaves it: none where it retires and keeps no version. -/
def Sys.keptSet (y : Sys) (q : Nat) (e : Nat × WSet) : Option (Nat × WSet) :=
  if e.2.source.isNone && e.2.retiring && (e.2.versions.filter (y.keeps q e.1 e.2)).isEmpty then none
  else some (e.1, { e.2 with versions := e.2.versions.filter (y.keeps q e.1 e.2) })

/-- The sets of a partition that a release removes. -/
def Sys.goneSets (y : Sys) (q : Nat) : List (Nat × WSet) :=
  (y.part q).wsets.filter (fun e => !(((y.part q).wsets.filterMap (y.keptSet q)).any (fun x => x.1 == e.1)))

theorem Sys.releaseVersions_eq (y : Sys) (q : Nat) : y.releaseVersions q = y.setPart q { y.part q with
    wsets := (y.part q).wsets.filterMap (y.keptSet q)
    wsetGens := (y.goneSets q).foldl (fun g e => g.put e.1 (e.2.gen + 1)) (y.part q).wsetGens } := by rfl

/-- What releases leave of a set that stays: versions go, and of a set that does not retire never the current one. -/
structure WSet.Narrows (w u : WSet) : Prop where
  frame : { u with versions := w.versions } = w
  versions : ∀ v ∈ u.versions, v ∈ w.versions
  current : w.retiring = false → ∀ v ∈ w.versions, v.state = .current → v ∈ u.versions

theorem WSet.Narrows.refl (w : WSet) : w.Narrows w := ⟨rfl, fun _ h => h, fun _ _ h _ => h⟩

theorem WSet.Narrows.retiring {w u : WSet} (h : w.Narrows u) : u.retiring = w.retiring := (congrArg WSet.retiring h.frame :)

theorem WSet.Narrows.trans {w u x : WSet} (h : w.Narrows u) (h' : u.Narrows x) : w.Narrows x := by
  refine ⟨?_, fun v hv => h.versions v (h'.versions v hv), fun hr v hv hc => h'.current (h.retiring.trans hr) v (h.current hr v hv hc) hc⟩
  have hframe := congrArg (fun u : WSet => { u with versions := w.versions }) h'.frame
  exact hframe.trans h.frame

theorem Sys.keptSet_eq_some {y : Sys} {q : Nat} {e x : Nat × WSet} (h : y.keptSet q e = some x) : x.1 = e.1 ∧ e.2.Narrows x.2 := by
  unfold Sys.keptSet at h
  split at h
  · cases h
  · cases h
    refine ⟨rfl, rfl, fun v hv => List.mem_of_mem_filter hv, fun hr v hv hc => List.mem_filter.mpr ⟨hv, ?_⟩⟩
    simp [Sys.keeps, hc, hr]

theorem Sys.keptSet_of_standing (y : Sys) (q i : Nat) {w : WSet} (hr : w.retiring = false) : ∃ u, y.keptSet q (i, w) = some (i, u) := by
  simp [Sys.keptSet, hr]

/-- A set that retires goes when no batch pins a version of it. -/
theorem Sys.keptSet_of_retired {y : Sys} {q : Nat} {e : Nat × WSet} (hs : e.2.source = none) (hr : e.2.retiring = true)
    (hp : ∀ v ∈ e.2.versions, v.state ≠ .provisional) (hpin : ∀ n, y.pinned q e.1 n = false) : y.keptSet q e = none := by
  have hempty : e.2.versions.filter (y.keeps q e.1 e.2) = [] := by
    refine List.filter_eq_nil_iff.mpr (fun v hv => ?_)
    have := hp v hv
    cases hv' : v.state <;> simp_all [Sys.keeps]
  simp [Sys.keptSet, hs, hr, hempty]

/-- A release leaves of every partition sets that stood in it. -/
theorem Sys.mem_wsets_releaseVersions {y : Sys} {q p : Nat} {e : Nat × WSet} (h : e ∈ ((y.releaseVersions q).part p).wsets) :
    ∃ w, (e.1, w) ∈ (y.part p).wsets ∧ w.Narrows e.2 := by
  rw [Sys.releaseVersions_eq, Sys.part_setPart_oob] at h
  split at h
  · next hq =>
    obtain ⟨x, hx, hk⟩ := List.mem_filterMap.mp h
    obtain ⟨hkey, hnarrow⟩ := Sys.keptSet_eq_some hk
    exact ⟨x.2, hq.1 ▸ hkey ▸ hx, hnarrow⟩
  · exact ⟨e.2, h, .refl _⟩

/-- A set that does not retire stays where it stands. -/
theorem Sys.get?_releaseVersions {y : Sys} {q p i : Nat} {w : WSet} (h : (y.part p).wsets.get? i = some w) (hr : w.retiring = false) :
    ∃ u, ((y.releaseVersions q).part p).wsets.get? i = some u ∧ w.Narrows u := by
  rw [Sys.releaseVersions_eq, Sys.part_setPart_oob]
  split
  · next hq =>
    obtain ⟨u, hu⟩ := y.keptSet_of_standing q i hr
    exact ⟨u, SMap.get?_filterMap (fun e x hx => (Sys.keptSet_eq_some hx).1) (hq.1 ▸ h) hu, (Sys.keptSet_eq_some hu).2⟩
  · exact ⟨w, h, .refl w⟩

theorem Sys.get?_releaseAll {p i : Nat} (qs : List Nat) {y : Sys} {w : WSet} (h : (y.part p).wsets.get? i = some w) (hr : w.retiring = false) :
    ∃ u, ((qs.foldl (fun s q => s.releaseVersions q) y).part p).wsets.get? i = some u ∧ w.Narrows u := by
  induction qs generalizing y w with
  | nil => exact ⟨w, h, .refl w⟩
  | cons q t ih =>
    obtain ⟨u, hu, hwu⟩ := Sys.get?_releaseVersions (q := q) h hr
    obtain ⟨x, hx, hux⟩ := ih hu (hwu.retiring.trans hr)
    exact ⟨x, hx, hwu.trans hux⟩

theorem Sys.mem_wsets_releaseAll {p : Nat} (qs : List Nat) {y : Sys} {e : Nat × WSet} (h : e ∈ ((qs.foldl (fun s q => s.releaseVersions q) y).part p).wsets) :
    ∃ w, (e.1, w) ∈ (y.part p).wsets ∧ w.Narrows e.2 := by
  induction qs generalizing y with
  | nil => exact ⟨e.2, h, .refl _⟩
  | cons q t ih =>
    obtain ⟨u, hu, hue⟩ := ih h
    obtain ⟨w, hw, hwu⟩ := Sys.mem_wsets_releaseVersions hu
    exact ⟨w, hw, hwu.trans hue⟩

/-! The batches that a completion drops (R169) -/

/-- Whether a batch goes on: it is open, or a command of it has not retired. -/
def Context.keepsBatch (x : Context) (b : Batch) : Bool := !b.closed || x.cmds.any (fun k => k.batch == b.id)

/-- The partitions in which the batches that end have pins. -/
def Context.unpins (x : Context) : List Nat := (x.batches.filter (fun b => !x.keepsBatch b)).flatMap (fun b => b.pins.map (fun n => n.part))

/-- The command of a ring and lay count has left. -/
def Context.without (x : Context) (r l : Nat) : Context :=
  x.setRing r { (x.rings[r]?).getD Ring.empty with cmds := ((x.rings[r]?).getD Ring.empty).cmds.filter (fun e => e.lay != l) }

theorem Sys.setCtx_setCtx (y : Sys) (c : Nat) (x z : Context) : (y.setCtx c x).setCtx c z = y.setCtx c z := by
  simp only [Sys.setCtx, SMap.set_set]

/-- A context stands with the batches that go on. -/
def Sys.endBatches (y : Sys) (c : Nat) (x : Context) : Sys := y.setCtx c { x with batches := x.batches.filter x.keepsBatch }

/-- The versions of the partitions in which its ended batches had pins are released. -/
def Sys.unpinned (y : Sys) (c : Nat) (x : Context) : Sys := x.unpins.foldl (fun s q => s.releaseVersions q) (y.endBatches c x)

theorem Sys.endBatches_part (y : Sys) (c : Nat) (x : Context) (p : Nat) : (y.endBatches c x).part p = y.part p := Sys.part_setCtx ..

theorem Sys.dropBatches_eq (y : Sys) (c : Nat) : y.dropBatches c = y.unpinned c (y.ctx c) := rfl

theorem Sys.retire_eq (y : Sys) (c r l : Nat) : y.retire c r l = y.unpinned c ((y.ctx c).without r l) := by
  have hret : y.retire c r l = (y.setCtx c ((y.ctx c).without r l)).dropBatches c := rfl
  rw [hret, Sys.dropBatches_eq, Sys.ctx_setCtx, Sys.unpinned, Sys.endBatches, Sys.setCtx_setCtx]
  rfl

/-- The context of a command whose record is made and which has left its ring. -/
def Sys.ctxWithout (y : Sys) (c : Nat) (k : Cmd) (st : Nat) (res : Bytes) : Context :=
  ({ y.ctx c with outbox := (y.ctx c).outbox ++ [doneRec k st res] } : Context).without k.ring k.lay

theorem Sys.parts_leave (y : Sys) (c : Nat) (k : Cmd) : (y.leave c k).parts = (y.retire c k.ring k.lay).parts := rfl

/-- A completion releases in the partitions that the ended batches had pins in. -/
theorem Sys.parts_finish {y : Sys} {c st : Nat} {k : Cmd} {res : Bytes} (hs : y.inSigma c k = false) :
    (y.finish c k st res).parts = (y.unpinned c (y.ctxWithout c k st res)).parts := by
  rw [Sys.finish_leave _ _ _ _ _ hs, Sys.parts_leave, Sys.retire_eq, Sys.ctx_setCtx, Sys.unpinned, Sys.endBatches, Sys.setCtx_setCtx]
  rfl

theorem Sys.part_finish {y : Sys} {c st : Nat} {k : Cmd} {res : Bytes} (hs : y.inSigma c k = false) (p : Nat) :
    (y.finish c k st res).part p = (y.unpinned c (y.ctxWithout c k st res)).part p := by
  rw [Sys.part, Sys.parts_finish hs, Sys.part]

theorem Sys.get?_unpinned {y : Sys} {c p i : Nat} {w : WSet} (x : Context) (h : (y.part p).wsets.get? i = some w) (hr : w.retiring = false) :
    ∃ u, ((y.unpinned c x).part p).wsets.get? i = some u ∧ w.Narrows u :=
  Sys.get?_releaseAll x.unpins (y := y.endBatches c x) h hr

theorem Sys.mem_wsets_unpinned {y : Sys} {c p : Nat} {x : Context} {e : Nat × WSet} (h : e ∈ ((y.unpinned c x).part p).wsets) :
    ∃ w, (e.1, w) ∈ (y.part p).wsets ∧ w.Narrows e.2 :=
  Sys.mem_wsets_releaseAll x.unpins (y := y.endBatches c x) h

/-- A set that does not retire stays through a completion. -/
theorem Sys.get?_finish {y : Sys} {c p i : Nat} {k : Cmd} {w : WSet} (hs : y.inSigma c k = false) (st : Nat) (res : Bytes)
    (h : (y.part p).wsets.get? i = some w) (hr : w.retiring = false) : ∃ u, ((y.finish c k st res).part p).wsets.get? i = some u ∧ w.Narrows u := by
  rw [Sys.part_finish hs]
  exact Sys.get?_unpinned _ h hr

theorem Sys.mem_wsets_finish {y : Sys} {c st p : Nat} {k : Cmd} {res : Bytes} {e : Nat × WSet} (hs : y.inSigma c k = false)
    (h : e ∈ ((y.finish c k st res).part p).wsets) : ∃ w, (e.1, w) ∈ (y.part p).wsets ∧ w.Narrows e.2 := by
  rw [Sys.part_finish hs] at h
  exact Sys.mem_wsets_unpinned h

/-! A command in the step region (R178) -/

/-- Whether a command stands in a step region is a matter of the partition's region and of whether its batch is the region's. -/
theorem Sys.inSigma_congr {y z : Sys} {c : Nat} {k : Cmd} (hpart : (z.ctx c).part = (y.ctx c).part)
    (hsigma : (z.part (y.ctx c).part).sigma = (y.part (y.ctx c).part).sigma)
    (hspec : ((z.ctx c).batch k.batch).any (fun b => b.spec) = ((y.ctx c).batch k.batch).any (fun b => b.spec)) : z.inSigma c k = y.inSigma c k := by
  simp only [Sys.inSigma, hpart, hsigma, hspec]

/-! Pins (R169) -/

theorem Context.batch_setBatch (x : Context) (b : Batch) (id : Nat) :
    (x.setBatch b).batch id = if id = b.id then (x.batch id).map (fun _ => b) else x.batch id := by
  have hid : ((fun e : Batch => e.id == id) ∘ fun e => if e.id == b.id then b else e) = fun e => e.id == id := by
    funext e
    by_cases he : e.id = b.id <;> simp [he]
  simp only [Context.batch, Context.setBatch, List.find?_map, hid]
  cases hfind : x.batches.find? (fun e => e.id == id) with
  | none => simp
  | some e =>
    have he : e.id = id := by simpa using List.find?_some hfind
    split <;> simp_all

/-- A step on the pins of a context's batches. -/
structure Sys.PinStep (c : Nat) (y z : Sys) : Prop where
  rest : { z with ctxs := y.ctxs } = y
  others : ∀ d, d ≠ c → z.ctx d = y.ctx d
  ctx : { z.ctx c with batches := (y.ctx c).batches } = y.ctx c
  spec : ∀ id, ((z.ctx c).batch id).any (fun b => b.spec) = ((y.ctx c).batch id).any (fun b => b.spec)

theorem Sys.PinStep.refl (c : Nat) (y : Sys) : y.PinStep c y := ⟨rfl, fun _ _ => rfl, rfl, fun _ => rfl⟩

theorem Sys.PinStep.trans {c : Nat} {x y z : Sys} (h : x.PinStep c y) (h' : y.PinStep c z) : x.PinStep c z where
  rest := (congrArg (fun y : Sys => { y with ctxs := x.ctxs }) h'.rest).trans h.rest
  others d hd := (h'.others d hd).trans (h.others d hd)
  ctx := (congrArg (fun e : Context => { e with batches := (x.ctx c).batches }) h'.ctx).trans h.ctx
  spec id := (h'.spec id).trans (h.spec id)

section PinStep

variable {c : Nat} {y z : Sys} (h : y.PinStep c z)
include h

theorem Sys.PinStep.parts : z.parts = y.parts := (congrArg Sys.parts h.rest :)

theorem Sys.PinStep.part (p : Nat) : z.part p = y.part p := by rw [Sys.part, h.parts]; rfl

theorem Sys.PinStep.mem : z.mem = y.mem := (congrArg Sys.mem h.rest :)

theorem Sys.PinStep.inSigma (k : Cmd) : z.inSigma c k = y.inSigma c k :=
  Sys.inSigma_congr (congrArg Context.part h.ctx :) (congrArg Partition.sigma (h.part _)) (h.spec _)

end PinStep

/-- A pin is added to the batch of the command. -/
theorem Sys.pin_pinStep {y z : Sys} {c batch q i : Nat} {w : WSet} {v : Version} (h : y.pin c batch q i w = some (v, z)) : y.PinStep c z := by
  unfold Sys.pin at h
  dsimp only at h
  split at h
  · cases h
  · next b hb =>
    split at h
    · obtain ⟨_, -, heq⟩ := Option.map_eq_some_iff.mp h
      cases heq
      exact .refl c y
    · obtain ⟨_, -, heq⟩ := Option.map_eq_some_iff.mp h
      cases heq
      refine ⟨rfl, fun d hd => Sys.ctx_setCtx_other _ _ hd, by rw [Sys.ctx_setCtx]; rfl, fun id => ?_⟩
      have hid : b.id = batch := by simpa using List.find?_some hb
      rw [Sys.ctx_setCtx, Context.batch_setBatch]
      split
      · next he => rw [he, hid, hb]; rfl
      · rfl

theorem Sys.pinNamed_pinStep (y : Sys) (c : Nat) (k : Cmd) : y.PinStep c (y.pinNamed c k) := by
  unfold Sys.pinNamed
  induction k.handles generalizing y with
  | nil => exact .refl c y
  | cons h t ih =>
    rw [List.foldl_cons]
    refine .trans ?_ (ih _)
    split
    · next q i w _ =>
      split
      · exact .refl c y
      · cases hpin : y.pin c k.batch q i w with
        | none => exact .refl c y
        | some x => exact Sys.pin_pinStep hpin
    · exact .refl c y

/-! A command that may begin -/

/-- What a command leaves by what its body answers. -/
def Did.answered (d : Did) (i : Instr) (c : Nat) (k : Cmd) : Sys :=
  match d with
  | .done y st res => y.finish c k st res
  | .more y => y.hold i
  | .asks y at_ => y.holdAt i at_
  | .running y => y

/-- A command of a row that takes its opcode only in one mode, and that is in this mode, runs as one of a row that takes the opcode. -/
theorem Sys.runOrdered_accepts {y : Sys} {key : CmdKey} {k : Cmd} (hcmd : y.cmdOf key = some k) {accepts accepts' : Cmd → Bool} (h : accepts k = accepts' k)
    (i : Instr) (body : Nat → Nat → Cmd → Sys → Did) : y.runOrdered i key accepts body = y.runOrdered i key accepts' body := by
  unfold Sys.runOrdered Sys.runCmd Sys.tryCmd
  simp only [hcmd, h]

/-- A command that may begin leaves what its body answers, from the state in which it stands begun. -/
theorem exec_of_body {i : Instr} {s : State} {key : CmdKey} {k : Cmd} {op : Nat} (h : CmdReady i s key k op) {body : Nat → Nat → Cmd → Sys → Did}
    (hexec : exec i s = s.onSys (fun y => y.runOrdered i key (isOp op) body)) {d : Did}
    (hbody : body (s.sys.ctx key.ctx.val).part key.ctx.val { k with progress := .begun } (s.sys.begun key k) = d) :
    exec i s = .next { s with sys := { d.answered i key.ctx.val k with replay := none } } := by
  obtain ⟨hcmd, hop, hwaiting, -, -, -, hheld, hcut, -, hbegin, hfirst⟩ := h
  have hw : s.sys.waiting.any (fun g => g.cmd == i) = false := by simpa using hheld
  have hb : body (s.sys.ctx key.ctx.val).part key.ctx.val { k with progress := .begun } (s.sys.setProgress key.ctx.val k.ring k .begun) = d := hbody
  have htry : s.sys.tryCmd i key (isOp op) (fun e => s.sys.cmdExtra (s.sys.ctx key.ctx.val).part e) body = d.answered i key.ctx.val k := by
    unfold Sys.tryCmd
    rw [hcmd]
    dsimp only
    rw [if_neg (by simp [isOp, hop, Cmd.isFinished, hwaiting]), if_pos hwaiting, if_neg (by simp [hcut]), if_neg (by simp [hbegin]), hfirst]
    dsimp only
    rw [hb]
    cases d <;> rfl
  have hrun : s.sys.runOrdered i key (isOp op) body = { d.answered i key.ctx.val k with replay := none } := by
    unfold Sys.runOrdered Sys.runCmd
    rw [if_neg (by simp [hcmd, Cmd.begunB, Cmd.resumes, hwaiting, hw]), htry]
  rw [hexec, ← hrun]
  rfl

end Sys2Proof.Machine

/-!
O33, O36, O37, what the check of a directory leaves (R167, R250), and what a kept outcome resolves to (R179, R180).
-/

namespace Sys2Proof.Machine

/-! A directory that is read -/

section Note

variable (y : Sys) (p a n : Nat)

theorem Sys.noteRead_bights : (y.noteRead p a n).bights = y.bights :=
  (foldl_bights (fun y _ => by rfl) _ _).trans (foldl_bights (fun y (e : Nat × Nat × Nat × Nat) => y.noteFail_bights e.1 e.2.1 e.2.2.1 e.2.2.2) _ y)

theorem Sys.noteFail_ctxs (tier hank level index : Nat) : (y.noteFail tier hank level index).ctxs = y.ctxs := by
  unfold Sys.noteFail
  split <;> rfl

/-- Reading leaves alarms and records of the Logline, and nothing with the contexts. -/
theorem Sys.noteRead_ctxs : (y.noteRead p a n).ctxs = y.ctxs := by
  have hfails : ∀ (l : List (Nat × Nat × Nat × Nat)) (y : Sys), (l.foldl (fun s e => s.noteFail e.1 e.2.1 e.2.2.1 e.2.2.2) y).ctxs = y.ctxs := fun l => by
    induction l with
    | nil => exact fun _ => rfl
    | cons e t ih => exact fun y => (ih _).trans (Sys.noteFail_ctxs ..)
  have hserved : ∀ (l : List (Nat × Nat × Nat × Nat × Nat)) (y : Sys), (l.foldl (fun s e =>
      s.logTier e.1 e.2.1 (64 * e.2.2.1) 0x0104 (tierUnit (keyKind e.2.2.2.1) (keyHank e.2.2.2.1)) e.2.2.2.2) y).ctxs = y.ctxs := fun l => by
    induction l with
    | nil => exact fun _ => rfl
    | cons e t ih => exact fun y => (ih _).trans rfl
  exact (hserved _ _).trans (hfails _ y)

variable {y}

theorem Sys.memSound.failsIn (h : y.memSound) : y.failsIn p a n = [] := by
  have hnone : ∀ r : Nat × Nat, 2 ≤ keyKind r.1 ∨ (y.region (keyKind r.1) (keyHank r.1)).failed.isEmpty = true := fun r => by
    by_cases hr : 2 ≤ keyKind r.1
    · exact .inl hr
    · have hhank : keyHank r.1 < 80 := Nat.mod_lt _ (by decide)
      exact .inr (by rw [h _ (by omega) _ hhank]; rfl)
  have hruns : ∀ (f : Nat × Nat → List (Nat × Nat × Nat × Nat)), (y.runsOf p a n).flatMap (fun r =>
      if 2 ≤ keyKind r.1 ∨ (y.region (keyKind r.1) (keyHank r.1)).failed.isEmpty = true then [] else f r) = [] := fun f =>
    List.flatMap_eq_nil_iff.mpr (fun r _ => if_pos (hnone r))
  unfold Sys.failsIn
  rw [hruns]
  rfl

/-- Where every check passes, reading leaves the memory. -/
theorem Sys.memSound.noteRead_mem (h : y.memSound) : (y.noteRead p a n).mem = y.mem := by
  have hserved : ∀ (l : List (Nat × Nat × Nat × Nat × Nat)) (y : Sys), (l.foldl (fun s e =>
      s.logTier e.1 e.2.1 (64 * e.2.2.1) 0x0104 (tierUnit (keyKind e.2.2.2.1) (keyHank e.2.2.2.1)) e.2.2.2.2) y).mem = y.mem := fun l => by
    induction l with
    | nil => exact fun _ => rfl
    | cons e t ih => exact fun y => (ih _).trans rfl
  unfold Sys.noteRead
  rw [h.failsIn p a n]
  exact hserved _ y

variable (y)

/-- The check of a directory reads at most it. -/
theorem Sys.noteDir_cases : y.noteDir p a = y ∨ ∃ n, y.noteDir p a = y.noteRead p a n := by
  unfold Sys.noteDir
  split
  · exact .inl rfl
  · dsimp only
    split
    · exact .inr ⟨_, rfl⟩
    · exact .inr ⟨_, rfl⟩

theorem Sys.noteDir_memStep : y.MemStep (y.noteDir p a) := by
  rcases y.noteDir_cases p a with h | ⟨n, h⟩ <;> rw [h]
  · exact .refl y
  · exact y.noteRead_memStep p a n

theorem Sys.noteDir_bights : (y.noteDir p a).bights = y.bights := by
  rcases y.noteDir_cases p a with h | ⟨n, h⟩ <;> rw [h]
  exact y.noteRead_bights p a n

theorem Sys.noteDir_ctx (c : Nat) : (y.noteDir p a).ctx c = y.ctx c := by
  rcases y.noteDir_cases p a with h | ⟨n, h⟩ <;> rw [h]
  rw [Sys.ctx, y.noteRead_ctxs p a n]
  rfl

theorem Sys.noteDir_part (q : Nat) : (y.noteDir p a).part q = y.part q := by
  rw [Sys.part, (y.noteDir_memStep p a).parts]
  rfl

variable {y}

theorem Sys.memSound.noteDir_mem (h : y.memSound) : (y.noteDir p a).mem = y.mem := by
  rcases y.noteDir_cases p a with h' | ⟨n, h'⟩ <;> rw [h']
  exact h.noteRead_mem p a n

theorem Sys.memSound.of_mem {z : Sys} (h : y.memSound) (hmem : z.mem = y.mem) : z.memSound := fun t ht q hq => by
  rw [Sys.region, hmem]
  exact h t ht q hq

end Note

/-- The check of a directory is a matter of the partition and what it reads. -/
theorem Sys.checkDir_congr {y z : Sys} {p : Nat} (hpart : z.part p = y.part p) (hread : ∀ a n, z.readPart p a n = y.readPart p a n) (a : Nat)
    (cur : List DirEntry) : z.checkDir p a cur = y.checkDir p a cur := by
  unfold Sys.checkDir
  simp only [hpart, hread]

theorem Sys.readPart_ctxs (y : Sys) (x : SMap Context) (p a n : Nat) : ({ y with ctxs := x } : Sys).readPart p a n = y.readPart p a n := rfl

theorem Sys.PinStep.readPart {c : Nat} {y z : Sys} (h : y.PinStep c z) (p a n : Nat) : z.readPart p a n = y.readPart p a n := by
  rw [← z.readPart_ctxs y.ctxs, h.rest]

theorem Sys.PinStep.checkDir {c : Nat} {y z : Sys} (h : y.PinStep c z) (p a : Nat) (cur : List DirEntry) : z.checkDir p a cur = y.checkDir p a cur :=
  Sys.checkDir_congr (h.part p) (h.readPart p) a cur

/-! A kept outcome -/

section Verdict

variable {o : Outcome}

theorem Outcome.verdict_lost (h : o.status = stPEER_LOST) : o.verdict = (false, stPEER_LOST, if o.flags.testBit 3 then 8#8 else 0#8, 0xFF) := by
  simp [Outcome.verdict, h]

variable (hstatus : o.status ≠ stPEER_LOST)
include hstatus

theorem Outcome.verdict_cut (h : o.ended = true ∨ o.value ≠ 1 ∨ o.flags.testBit 3 = true) :
    o.verdict = (false, stCUT, if o.flags.testBit 3 then 8#8 else 0#8, if o.ended then 0xFF else o.value % 256) := by
  unfold Outcome.verdict
  dsimp only
  rw [if_neg hstatus, if_neg]
  rintro ⟨hvalue, hpoison, hbit⟩
  rcases h with h | h | h
  · simp [h] at hbit
  · exact h hvalue
  · simp [h] at hpoison

theorem Outcome.verdict_hauled (hended : o.ended = false) (hvalue : o.value = 1) (hpoison : o.flags.testBit 3 = false) : o.verdict = (true, stHAULED, 0#8, 1) := by
  simp [Outcome.verdict, hstatus, hended, hvalue, hpoison]

end Verdict

/-! The end of a step (R398) -/

/-- A step's commit is noted with its partition, and in the dictionary. -/
theorem Sys.stepCompleted_eq (y : Sys) (p n : Nat) : ∃ d, y.stepCompleted p n = { y.setPart p { y.part p with stepDone := some n } with dict := d } := by
  unfold Sys.stepCompleted
  dsimp only
  split
  · split
    · exact ⟨_, rfl⟩
    · exact ⟨_, rfl⟩
  · exact ⟨_, rfl⟩

section StepCompleted

variable (y : Sys) (p n : Nat)

@[simp] theorem Sys.stepCompleted_mem : (y.stepCompleted p n).mem = y.mem := by
  obtain ⟨d, h⟩ := y.stepCompleted_eq p n
  rw [h]
  rfl

@[simp] theorem Sys.stepCompleted_bights : (y.stepCompleted p n).bights = y.bights := by
  obtain ⟨d, h⟩ := y.stepCompleted_eq p n
  rw [h]
  rfl

@[simp] theorem Sys.stepCompleted_ctxs : (y.stepCompleted p n).ctxs = y.ctxs := by
  obtain ⟨d, h⟩ := y.stepCompleted_eq p n
  rw [h]
  rfl

@[simp] theorem Sys.stepCompleted_ctx (c : Nat) : (y.stepCompleted p n).ctx c = y.ctx c := by
  rw [Sys.ctx, Sys.stepCompleted_ctxs]
  rfl

theorem Sys.stepCompleted_part (q : Nat) : (y.stepCompleted p n).part q = if q = p ∧ p < 80 then { y.part p with stepDone := some n } else y.part q := by
  obtain ⟨d, h⟩ := y.stepCompleted_eq p n
  rw [h]
  exact y.part_setPart_oob p _ q

theorem Sys.stepCompleted_sigma (q : Nat) : ((y.stepCompleted p n).part q).sigma = (y.part q).sigma := by
  rw [Sys.stepCompleted_part]
  split
  · next h => rw [h.1]
  · rfl

theorem Sys.inSigma_stepCompleted (c : Nat) (k : Cmd) : (y.stepCompleted p n).inSigma c k = y.inSigma c k :=
  Sys.inSigma_congr (by rw [Sys.stepCompleted_ctx]) (Sys.stepCompleted_sigma ..) (by rw [Sys.stepCompleted_ctx])

end StepCompleted

end Sys2Proof.Machine

/-!
O36, STEP_COMMIT without a selector (R175, R177, R332, R434).
-/

namespace Sys2Proof.Machine

/-! The state in which a mode acts -/

/-- A STEP_COMMIT in order has named its set and cleared POISON_SEEN. -/
def Sys.committing (y : Sys) (c : Nat) (k : Cmd) : Sys := (y.pinNamed c k).commitStart c

/-- A STEP_COMMIT whose arguments pass, by its mode. -/
def Sys.commitMode (y : Sys) (p c : Nat) (k : Cmd) : Did :=
  if k.mode = 0 then .done ((y.committing c k).stepCompleted p k.step) stOK (commitResult 0 0xFF)
  else if ((y.pinNamed c k).ctx c).poisonSeen then
    .done (if k.mode = 2 then (y.committing c k).cutBatchNumber c k.specBatch else y.committing c k) stPOISONED (commitResult 0 0xFF)
  else if k.mode = 1 then ((y.committing c k).setProgress c k.ring k (.commit 0)).commitWait p c k
  else (y.committing c k).commitOpen p c k

section Committing

variable (y : Sys) (c : Nat) (k : Cmd)

theorem Sys.committing_part (q : Nat) : (y.committing c k).part q = y.part q := (y.pinNamed_pinStep c k).part q

theorem Sys.committing_parts : (y.committing c k).parts = y.parts := (y.pinNamed_pinStep c k).parts

theorem Sys.committing_mem : (y.committing c k).mem = y.mem := (y.pinNamed_pinStep c k).mem

theorem Sys.committing_bights : (y.committing c k).bights = y.bights := (congrArg Sys.bights (y.pinNamed_pinStep c k).rest :)

theorem Sys.committing_ctx : (y.committing c k).ctx c = { (y.pinNamed c k).ctx c with poisonSeen := false, oneSided := false } := Sys.ctx_setCtx ..

theorem Sys.poisonSeen_pinNamed : ((y.pinNamed c k).ctx c).poisonSeen = (y.ctx c).poisonSeen := (congrArg Context.poisonSeen (y.pinNamed_pinStep c k).ctx :)

theorem Sys.committing_rings : ((y.committing c k).ctx c).rings = (y.ctx c).rings := by
  rw [Sys.committing_ctx]
  exact (congrArg Context.rings (y.pinNamed_pinStep c k).ctx :)

theorem Sys.committing_cmds : ((y.committing c k).ctx c).cmds = (y.ctx c).cmds := by
  rw [Context.cmds, Sys.committing_rings, Context.cmds]

theorem Sys.committing_inSigma : (y.committing c k).inSigma c k = y.inSigma c k := by
  have hpins : (y.committing c k).inSigma c k = (y.pinNamed c k).inSigma c k :=
    Sys.inSigma_congr (by rw [Sys.committing_ctx]) rfl (by rw [Sys.committing_ctx]; rfl)
  exact hpins.trans ((y.pinNamed_pinStep c k).inSigma k)

theorem Sys.committing_checkDir (p a : Nat) (cur : List DirEntry) : (y.committing c k).checkDir p a cur = y.checkDir p a cur :=
  Sys.checkDir_congr (y.committing_part c k p) ((y.pinNamed_pinStep c k).readPart p) a cur

end Committing

theorem Sys.mem_setProgress (y : Sys) (c r : Nat) (x : Cmd) (p : Progress) : (y.setProgress c r x p).mem = y.mem := rfl

theorem Sys.cmdAt_of_rings {y z : Sys} {c : Nat} (h : (z.ctx c).rings = (y.ctx c).rings) (r l : Nat) : z.cmdAt c r l = y.cmdAt c r l := by
  simp only [Sys.cmdAt, Sys.ring, h]

/-! What the body answers, by mode -/

section Body

variable {y : Sys} {p c : Nat} {k : Cmd} (hk : k.progress = .begun) (hsel : k.selector = 0)
include hk hsel

/-- Without a selector a STEP_COMMIT checks its arguments, and then acts by its mode. -/
theorem commitBody_begun (hmode : k.mode ≤ 2) : commitBody p c k y = match y.commitArgs p c k with
    | some st => .done y st (commitResult 0 0xFF)
    | none => y.commitMode p c k := by
  unfold commitBody
  rw [hk]
  dsimp only
  rw [if_neg (by omega), if_pos hsel, if_pos hsel]
  dsimp only
  rw [if_pos hsel]
  rfl

theorem commitBody_refused {st : Nat} (hmode : k.mode ≤ 2) (hargs : y.commitArgs p c k = some st) : commitBody p c k y = .done y st (commitResult 0 0xFF) := by
  rw [commitBody_begun hk hsel hmode, hargs]

theorem commitBody_acts (hmode : k.mode ≤ 2) (hargs : y.commitArgs p c k = none) : commitBody p c k y = y.commitMode p c k := by
  rw [commitBody_begun hk hsel hmode, hargs]

/-- NONE asks for no directory and no weight set. -/
theorem commitBody_mode0 (hmode : k.mode = 0) : commitBody p c k y = .done ((y.committing c k).stepCompleted p k.step) stOK (commitResult 0 0xFF) := by
  have hargs : y.commitArgs p c k = none := by
    unfold Sys.commitArgs
    rw [if_neg (by simp [hmode]), if_neg (by simp [hmode])]
  rw [commitBody_acts hk hsel (by omega) hargs, Sys.commitMode, if_pos hmode]

section Wait

variable (hmode : k.mode = 1) (hdir : k.dirArg = 0)
include hmode hdir

/-- WAIT without a directory, by whether the context has seen poison. -/
theorem commitBody_mode1 : commitBody p c k y = if (y.ctx c).poisonSeen then .done (y.committing c k) stPOISONED (commitResult 0 0xFF)
    else ((y.committing c k).setProgress c k.ring k (.commit 0)).commitWait p c k := by
  have hargs : y.commitArgs p c k = none := by
    unfold Sys.commitArgs
    rw [if_neg (by simp [hdir]), if_neg (by simp [hmode])]
  rw [commitBody_acts hk hsel (by omega) hargs, Sys.commitMode, Sys.poisonSeen_pinNamed]
  simp only [hmode, Nat.one_ne_zero, if_false, if_true, OfNat.one_ne_ofNat]

variable (hcalm : (y.ctx c).poisonSeen = false)
include hcalm

/-- It waits while no outcome of its collective is kept. -/
theorem commitBody_waits (hnone : (y.part p).outcome k.collId = none) :
    commitBody p c k y = .more ((y.committing c k).setProgress c k.ring k (.commit 0)) := by
  rw [commitBody_mode1 hk hsel hmode hdir, if_neg (by simp [hcalm]), Sys.commitWait, Sys.part_setProgress, Sys.committing_part, hnone]

/-- It completes by the outcome: HAULED by one that is finite, else as that resolves. -/
theorem commitBody_hauled {o : Outcome} (ho : (y.part p).outcome k.collId = some o) {st n : Nat} {f : Byte} (hv : o.verdict = (true, st, f, n)) :
    commitBody p c k y = .done (((y.committing c k).setProgress c k.ring k (.commit 0)).stepCompleted p k.step) stHAULED (commitResult 0 1) := by
  rw [commitBody_mode1 hk hsel hmode hdir, if_neg (by simp [hcalm]), Sys.commitWait, Sys.part_setProgress, Sys.committing_part, ho]
  dsimp only
  rw [hv, if_neg (by simp), if_pos hdir]

theorem commitBody_cut {o : Outcome} (ho : (y.part p).outcome k.collId = some o) {st n : Nat} {f : Byte} (hv : o.verdict = (false, st, f, n)) :
    commitBody p c k y = .done ((y.committing c k).setProgress c k.ring k (.commit 0)) st (commitResult 0 n) := by
  rw [commitBody_mode1 hk hsel hmode hdir, if_neg (by simp [hcalm]), Sys.commitWait, Sys.part_setProgress, Sys.committing_part, ho]
  dsimp only
  rw [hv, if_pos (by simp)]

end Wait

section Speculate

variable (hmode : k.mode = 2)
include hmode

/-- A directory of a weight set that the partition does not have. -/
theorem commitBody_badHandle (hdir : k.dirArg ≠ 0) (hset : k.wsetArg ≠ 0) (hown : (y.part p).ownWset k.wsetArg = none) :
    commitBody p c k y = .done y stBAD_HANDLE (commitResult 0 0xFF) := by
  refine commitBody_refused hk hsel (by omega) ?_
  unfold Sys.commitArgs
  rw [if_pos (by simp [hmode, hdir, hset, hown])]

/-- The cases of R176. -/
theorem commitBody_notReady (hset : k.dirArg = 0 ∨ k.wsetArg = 0 ∨ ((y.part p).ownWset k.wsetArg).isSome = true)
    (h : k.dirArg = 0 ∨ k.specBatch = 0 ∨ k.wsetArg = 0 ∨ (y.part p).sigma.isSome = true ∨ (y.ctx c).oneSided = true) :
    commitBody p c k y = .done y stNOT_READY (commitResult 0 0xFF) := by
  refine commitBody_refused hk hsel (by omega) ?_
  unfold Sys.commitArgs
  rw [if_neg, if_pos ⟨hmode, h⟩]
  rintro ⟨-, hdir, hnamed, hnone⟩
  rcases hset with h | h | h
  · exact hdir h
  · simp [hmode, h] at hnamed
  · simp [Option.isNone_iff_eq_none.mp hnone] at h

/-- Where nothing refuses it, the region opens. -/
theorem commitBody_mode2 (hdir : k.dirArg ≠ 0) (hbatch : k.specBatch ≠ 0) (hset : k.wsetArg ≠ 0) (hsigma : (y.part p).sigma = none)
    (hsides : (y.ctx c).oneSided = false) (hcalm : (y.ctx c).poisonSeen = false) (hown : ((y.part p).ownWset k.wsetArg).isSome = true) :
    commitBody p c k y = (y.committing c k).commitOpen p c k := by
  have hargs : y.commitArgs p c k = none := by
    have hhas : ((y.part p).ownWset k.wsetArg).isNone = false := by simpa using hown
    unfold Sys.commitArgs
    rw [if_neg (by simp [hhas]), if_neg (by simp [hdir, hbatch, hset, hsigma, hsides])]
  rw [commitBody_acts hk hsel (by omega) hargs, Sys.commitMode, Sys.poisonSeen_pinNamed]
  simp [hmode, hcalm]

end Speculate

end Body

/-! The region that opens (R177) -/

/-- A batch of a number stands in its context after it has been named, with the context's commands as they were. -/
theorem Context.withBatch_spec (x : Context) (n : Nat) : { (x.withBatch n).1 with batches := x.batches, batchNext := x.batchNext } = x
    ∧ ∃ b ∈ (x.withBatch n).1.batches, b.id = (x.withBatch n).2 ∧ b.number = n := by
  unfold Context.withBatch
  split
  · next b hb =>
    exact ⟨rfl, b, List.mem_reverse.mp (List.mem_of_find?_eq_some hb), rfl, by simpa using List.find?_some hb⟩
  · exact ⟨rfl, _, List.mem_append_right _ (List.mem_singleton.mpr rfl), rfl, rfl⟩

/-- The context whose batch of a number is the speculative one. -/
def Context.speculating (x : Context) (n : Nat) : Context :=
  { (x.withBatch n).1 with batches := (x.withBatch n).1.batches.map (fun b => if b.id = (x.withBatch n).2 then { b with spec := true } else b) }

theorem Context.speculating_rings (x : Context) (n : Nat) : (x.speculating n).rings = x.rings := (congrArg Context.rings (x.withBatch_spec n).1 :)

theorem Context.speculating_batch (x : Context) (n : Nat) : ∃ b ∈ (x.speculating n).batches, b.id = (x.withBatch n).2 ∧ b.spec = true ∧ b.number = n := by
  obtain ⟨-, b, hb, hid, hnum⟩ := x.withBatch_spec n
  exact ⟨{ b with spec := true }, List.mem_map.mpr ⟨b, hb, if_pos hid⟩, hid, rfl, hnum⟩

/-- A set with the version that a STEP_COMMIT proposes. -/
def WSet.proposing (w : WSet) (k : Cmd) (es : List DirEntry) : WSet :=
  { w with versions := w.versions ++ [{ num := w.nextNumber, dir := k.dirArg, entries := es, state := .provisional }] }

/-- The region that a STEP_COMMIT opens for a batch. -/
def Cmd.region (k : Cmd) (c batch version : Nat) : Machine.Sigma :=
  { ctx := c, ring := k.ring, lay := k.lay, step := k.step, batch := batch, wset := handleIndex k.wsetArg, version := version, coll := k.collId, items := []
    deferred := [], poison := false, lockers := [], hostIn := 0 }

/-- The proposed version stands, and the batch is the speculative one. -/
def Sys.proposed (y : Sys) (p c : Nat) (k : Cmd) (w : WSet) (es : List DirEntry) : Sys :=
  ((y.noteDir p k.dirArg).setWset p (handleIndex k.wsetArg) (w.proposing k es)).setCtx c ((y.ctx c).speculating k.specBatch)

/-- The region stands with its partition. -/
def Sys.regionOpen (y : Sys) (p c : Nat) (k : Cmd) (w : WSet) (es : List DirEntry) : Sys :=
  (y.proposed p c k w es).setPart p { (y.proposed p c k w es).part p with sigma := some (k.region c ((y.ctx c).withBatch k.specBatch).2 w.nextNumber) }

/-- The STEP_COMMIT waits for its outcome. -/
def Sys.opening (y : Sys) (p c : Nat) (k : Cmd) (w : WSet) (es : List DirEntry) : Sys := (y.regionOpen p c k w es).setProgress c k.ring k (.commit w.nextNumber)

/-- The batch's RUNs join a region that opens, and an outcome that is there resolves it at once. -/
def Sys.regionBegins (y : Sys) (p c : Nat) (k : Cmd) (batch version : Nat) : Did :=
  let z := (y.joinRuns p c batch).setProgress c k.ring k (.commit version)
  match (z.part p).outcome k.collId with
  | some o => .running (z.resolveSigma p o)
  | none => .running z

/-- Where no RUN of a context has begun, none joins the region that opens. -/
theorem Sys.joinRuns_of_no_run {y : Sys} {c : Nat} (h : ∀ e ∈ (y.ctx c).cmds, ∀ rd on st ca sp, e.progress ≠ .run rd on st ca sp) (p batch : Nat) :
    y.joinRuns p c batch = y := by
  have hfold : ∀ (g : Cmd → Sys → Sys) (l : List Cmd), (∀ e ∈ l, ∀ z, g e z = z) → l.foldl (fun z e => g e z) y = y := fun g l => by
    induction l with
    | nil => exact fun _ => rfl
    | cons e t ih => exact fun hg => by rw [List.foldl_cons, hg e List.mem_cons_self]; exact ih (fun d hd => hg d (List.mem_cons_of_mem _ hd))
  refine hfold (fun k s => match k.progress with
    | .run ready active st causes _ => active.foldl (fun s b => s.joinBight p c k b) (s.setProgress c k.ring k (.run ready active st causes true))
    | _ => s) _ (fun e he z => ?_)
  split
  · next hp => exact absurd hp (h e (List.mem_of_mem_filter he) _ _ _ _ _)
  · rfl

section Opening

variable {y : Sys} {p c : Nat} {k : Cmd} {w : WSet} {es : List DirEntry}

theorem Sys.proposed_part (hp : p < 80) : (y.proposed p c k w es).part p
    = { y.part p with wsets := (y.part p).wsets.put (handleIndex k.wsetArg) (w.proposing k es) } := by
  rw [Sys.proposed, Sys.part_setCtx, Sys.setWset, Sys.part_setPart_oob, if_pos ⟨rfl, hp⟩, Sys.noteDir_part]

theorem Sys.proposed_ctx : (y.proposed p c k w es).ctx c = (y.ctx c).speculating k.specBatch := Sys.ctx_setCtx ..

/-- SPECULATE in order, with no outcome yet and no RUN of the batch begun, opens the region. -/
theorem commitOpen_opens (hp : p < 80) (hset : (y.part p).wsets.get? (handleIndex k.wsetArg) = some w) (hretiring : w.retiring = false)
    (hnumber : w.nextNumber ≠ versionEnd) (hdir : y.checkDir p k.dirArg w.curEntries = .ok es)
    (hruns : ∀ e ∈ (y.ctx c).cmds, ∀ rd on st ca sp, e.progress ≠ .run rd on st ca sp) (hnone : (y.part p).outcome k.collId = none) :
    y.commitOpen p c k = .running (y.opening p c k w es) := by
  have hctx : ((y.noteDir p k.dirArg).setWset p (handleIndex k.wsetArg) (w.proposing k es)).ctx c = y.ctx c := by
    rw [Sys.setWset, Sys.ctx_setPart, Sys.noteDir_ctx]
  have hcmds : ((y.regionOpen p c k w es).ctx c).cmds = (y.ctx c).cmds := by
    rw [Sys.regionOpen, Sys.ctx_setPart, Sys.proposed_ctx, Context.cmds, Context.speculating_rings, Context.cmds]
  have hjoin : (y.regionOpen p c k w es).joinRuns p c ((y.ctx c).withBatch k.specBatch).2 = y.regionOpen p c k w es := Sys.joinRuns_of_no_run (by rwa [hcmds]) ..
  have hkept : ((y.opening p c k w es).part p).outcome k.collId = none := by
    rw [Sys.opening, Sys.part_setProgress, Sys.regionOpen, Sys.part_setPart_oob, if_pos ⟨rfl, hp⟩, Sys.proposed_part hp]
    exact hnone
  have hbegins : y.commitOpen p c k = (y.regionOpen p c k w es).regionBegins p c k ((y.ctx c).withBatch k.specBatch).2 w.nextNumber := by
    unfold Sys.commitOpen Sys.wset?
    dsimp only
    rw [hset]
    dsimp only
    rw [if_neg (by simp [hretiring]), if_neg hnumber, hdir]
    dsimp only
    unfold WSet.proposing at hctx
    rw [hctx]
    rfl
  rw [hbegins, Sys.regionBegins, hjoin, ← Sys.opening, hkept]

theorem Sys.opening_part (hp : p < 80) : (y.opening p c k w es).part p = { y.part p with
    wsets := (y.part p).wsets.put (handleIndex k.wsetArg) (w.proposing k es)
    sigma := some (k.region c ((y.ctx c).withBatch k.specBatch).2 w.nextNumber) } := by
  rw [Sys.opening, Sys.part_setProgress, Sys.regionOpen, Sys.part_setPart_oob, if_pos ⟨rfl, hp⟩, Sys.proposed_part hp]

theorem Sys.opening_mem (hsound : y.memSound) : (y.opening p c k w es).mem = y.mem := by
  rw [Sys.opening, Sys.mem_setProgress, Sys.regionOpen, Sys.setPart_mem, Sys.proposed, Sys.setCtx_mem, Sys.setWset, Sys.setPart_mem, hsound.noteDir_mem]

theorem Sys.opening_cmdAt {j : Cmd} (hring : k.ring < 4) (hcmd : y.cmdAt c k.ring k.lay = some j) :
    (y.opening p c k w es).cmdAt c k.ring k.lay = some { k with progress := .commit w.nextNumber } := by
  have hrings : ((y.regionOpen p c k w es).ctx c).rings = (y.ctx c).rings := by
    rw [Sys.regionOpen, Sys.ctx_setPart, Sys.proposed_ctx, Context.speculating_rings]
  exact Sys.cmdAt_setProgress _ hring ((Sys.cmdAt_of_rings hrings ..).trans hcmd)

theorem Sys.opening_batch : ∃ b ∈ ((y.opening p c k w es).ctx c).batches, b.id = ((y.ctx c).withBatch k.specBatch).2 ∧ b.spec = true ∧ b.number = k.specBatch := by
  rw [Sys.opening, Sys.batches_ctx_setProgress, Sys.regionOpen, Sys.ctx_setPart, Sys.proposed_ctx]
  exact Context.speculating_batch ..

end Opening

/-! Rows -/

section Rows

variable {i : Instr} {s : State} {key : CmdKey} {k : Cmd}

theorem CmdReady.place {op : Nat} (h : CmdReady i s key k op) : k.ring < 4 ∧ k.ring = key.ring.val ∧ k.lay = key.lay
    ∧ (s.sys.begun key k).cmdAt key.ctx.val k.ring k.lay = some { k with progress := .begun } := by
  obtain ⟨hcmd, -, -, hring, hlay, -⟩ := h
  have hlt : k.ring < 4 := by rw [hring]; exact key.ring.isLt
  have hat : s.sys.cmdAt key.ctx.val k.ring k.lay = some k := by rw [hring, hlay]; exact hcmd
  exact ⟨hlt, hring, hlay, Sys.cmdAt_setProgress .begun hlt hat⟩

/-- A command that may begin and must wait is held, with its context and its partition as its body leaves them. -/
theorem waits_of_body {op : Nat} (h : CmdReady i s key k op) {body : Nat → Nat → Cmd → Sys → Did}
    (hexec : exec i s = s.onSys (fun y => y.runOrdered i key (isOp op) body)) {z : Sys}
    (hbody : body (s.sys.ctx key.ctx.val).part key.ctx.val { k with progress := .begun } (s.sys.begun key k) = .more z) :
    ∃ t, exec i s = .next t ∧ (∃ g ∈ t.sys.waiting, g.cmd = i) ∧ t.sys.ctxs = z.ctxs ∧ t.sys.parts = z.parts :=
  ⟨_, exec_of_body h hexec hbody, ⟨_, mem_insHeld .., rfl⟩, rfl, rfl⟩

/-- A command that may begin and goes on leaves what its body leaves. -/
theorem goes_of_body {op : Nat} (h : CmdReady i s key k op) {body : Nat → Nat → Cmd → Sys → Did}
    (hexec : exec i s = s.onSys (fun y => y.runOrdered i key (isOp op) body)) {z : Sys}
    (hbody : body (s.sys.ctx key.ctx.val).part key.ctx.val { k with progress := .begun } (s.sys.begun key k) = .running z) :
    ∃ t, exec i s = .next t ∧ t.pending = s.pending ∧ t.fuses = s.fuses ∧ t.sys.bights = z.bights ∧ t.sys.ctxs = z.ctxs ∧ t.sys.parts = z.parts ∧ t.sys.mem = z.mem :=
  ⟨_, running_of_body h hexec hbody, rfl, rfl, rfl, rfl, rfl, rfl⟩

/-- The row of its mode takes a STEP_COMMIT. -/
theorem exec_commit {m : Nat} (h : CmdReady i s key k 0x3A) (hrow : exec i s = s.onSys (fun y => y.runOrdered i key (isCommit m) commitBody)) (hmode : k.mode = m) :
    exec i s = s.onSys (fun y => y.runOrdered i key (isOp 0x3A) commitBody) := by
  obtain ⟨hcmd, hop, -⟩ := h
  rw [hrow, State.onSys_next, State.onSys_next, Sys.runOrdered_accepts hcmd (accepts' := isOp 0x3A)]
  simp [isCommit, isOp, hop, hmode]

/-- A command as it stands begun. -/
abbrev Cmd.begunNow (k : Cmd) : Cmd := { k with progress := .begun }

section Commit

variable {m : Nat} (h : CmdReady i s key k 0x3A) (hrow : exec i s = s.onSys (fun y => y.runOrdered i key (isCommit m) commitBody)) (hmode : k.mode = m)
include h hrow hmode

/-- A STEP_COMMIT completes as its body does, in a state in which it belongs to a step region as little as when it began. -/
theorem completes_of_commit {z : Sys} {st : Nat} {res : Bytes} {eff : Sys → Prop}
    (hbody : commitBody (s.sys.ctx key.ctx.val).part key.ctx.val k.begunNow (s.sys.begun key k) = .done z st res)
    (hs : z.inSigma key.ctx.val k = (s.sys.begun key k).inSigma key.ctx.val k) (he : eff z) : Completes i s key k st res eff :=
  completes_of_body h (exec_commit h hrow hmode) hbody (hs.trans (inSigma_begun h)) he

end Commit

section Modes

variable (hsel : k.selector = 0)
include hsel

/-- NONE. -/
theorem stepCommitNone_row (h : CmdReady (.stepCommitNone key) s key k 0x3A) (hmode : k.mode = 0) (hp : (s.sys.ctx key.ctx.val).part < 80) :
    let c := key.ctx.val
    let y := s.sys.begun key k
    let p := (s.sys.ctx c).part
    Completes (.stepCommitNone key) s key k stOK (commitResult 0 0xFF) (fun z => z.part p = { y.part p with stepDone := some k.step }
      ∧ z.ctx c = (y.committing c k.begunNow).ctx c ∧ z.mem = y.mem ∧ z.bights = y.bights) := by
  intro c y p
  refine completes_of_commit h rfl hmode (commitBody_mode0 rfl hsel hmode) ((Sys.inSigma_stepCompleted ..).trans (y.committing_inSigma c k)) ?_
  refine ⟨?_, Sys.stepCompleted_ctx .., (Sys.stepCompleted_mem ..).trans (Sys.committing_mem ..), (Sys.stepCompleted_bights ..).trans (Sys.committing_bights ..)⟩
  rw [Sys.stepCompleted_part, if_pos ⟨rfl, hp⟩, Sys.committing_part]
  rfl

section Wait

variable (h : CmdReady (.stepCommitWait key) s key k 0x3A) (hmode : k.mode = 1) (hdir : k.dirArg = 0)
include h hmode hdir

/-- WAIT while no outcome is kept. -/
theorem stepCommitWait_waits (hcalm : ((s.sys.begun key k).ctx key.ctx.val).poisonSeen = false)
    (hnone : ((s.sys.begun key k).part (s.sys.ctx key.ctx.val).part).outcome k.collId = none) : ∃ t, exec (.stepCommitWait key) s = .next t
      ∧ (∃ g ∈ t.sys.waiting, g.cmd = .stepCommitWait key) ∧ t.sys.cmdOf key = some { k with progress := .commit 0 } ∧ t.sys.parts = s.sys.parts := by
  obtain ⟨hring, hkring, hklay, hat⟩ := h.place
  obtain ⟨t, hexec, hheld, hctxs, hparts⟩ := waits_of_body h (exec_commit h rfl hmode) (commitBody_waits (k := k.begunNow) rfl hsel hmode hdir hcalm hnone)
  have hcmd := Sys.cmdAt_setProgress (x := k.begunNow) (.commit 0) hring ((Sys.cmdAt_of_rings (Sys.committing_rings _ _ k.begunNow) ..).trans hat)
  refine ⟨t, hexec, hheld, ?_, hparts.trans (Sys.committing_parts ..)⟩
  rw [Sys.cmdOf, ← hkring, ← hklay, ← hcmd]
  exact Sys.cmdAt_of_rings (by rw [Sys.ctx, hctxs]; rfl) ..

variable {o : Outcome} {st n : Nat} {f : Byte} (hcalm : ((s.sys.begun key k).ctx key.ctx.val).poisonSeen = false)
  (ho : ((s.sys.begun key k).part (s.sys.ctx key.ctx.val).part).outcome k.collId = some o)
include hcalm ho

/-- WAIT by an outcome that cuts. -/
theorem stepCommitWait_cut (hv : o.verdict = (false, st, f, n)) : Completes (.stepCommitWait key) s key k st (commitResult 0 n)
    (fun z => z.parts = (s.sys.begun key k).parts ∧ z.mem = (s.sys.begun key k).mem) :=
  completes_of_commit h rfl hmode (commitBody_cut (k := k.begunNow) rfl hsel hmode hdir hcalm ho hv) ((Sys.inSigma_setProgress ..).trans (Sys.committing_inSigma _ _ k))
    ⟨Sys.committing_parts .., Sys.committing_mem ..⟩

/-- WAIT by an outcome that hauls. -/
theorem stepCommitWait_hauled (hv : o.verdict = (true, st, f, n)) (hp : (s.sys.ctx key.ctx.val).part < 80) :
    let y := s.sys.begun key k
    let p := (s.sys.ctx key.ctx.val).part
    Completes (.stepCommitWait key) s key k stHAULED (commitResult 0 1) (fun z => z.part p = { y.part p with stepDone := some k.step } ∧ z.mem = y.mem) := by
  intro y p
  refine completes_of_commit h rfl hmode (commitBody_hauled (k := k.begunNow) rfl hsel hmode hdir hcalm ho hv)
    ((Sys.inSigma_stepCompleted ..).trans ((Sys.inSigma_setProgress ..).trans (y.committing_inSigma _ k)))
    ⟨?_, (Sys.stepCompleted_mem ..).trans (Sys.committing_mem ..)⟩
  rw [Sys.stepCompleted_part, if_pos ⟨rfl, hp⟩, Sys.part_setProgress, Sys.committing_part]
  rfl

end Wait

/-- SPECULATE in order opens the region in the state in which its set is named and POISON_SEEN is clear. -/
theorem stepCommitSpeculate_opens (h : CmdReady (.stepCommitSpeculate key) s key k 0x3A) (hmode : k.mode = 2) {w : WSet} {es : List DirEntry} :
    let c := key.ctx.val
    let y := s.sys.begun key k
    let p := (s.sys.ctx c).part
    let z := (y.committing c k.begunNow).opening p c k.begunNow w es
    p < 80 → k.dirArg ≠ 0 → k.specBatch ≠ 0 → k.wsetArg ≠ 0 → (y.part p).sigma = none → (y.ctx c).oneSided = false → (y.ctx c).poisonSeen = false →
    ((y.part p).ownWset k.wsetArg).isSome = true → (y.part p).wsets.get? (handleIndex k.wsetArg) = some w → w.retiring = false → w.nextNumber ≠ versionEnd →
    y.checkDir p k.dirArg w.curEntries = .ok es → (∀ e ∈ (y.ctx c).cmds, ∀ rd on st ca sp, e.progress ≠ .run rd on st ca sp) →
    (y.part p).outcome k.collId = none →
    ∃ t, exec (.stepCommitSpeculate key) s = .next t ∧ t.fuses = s.fuses ∧ t.sys.ctxs = z.ctxs ∧ t.sys.parts = z.parts ∧ t.sys.mem = z.mem := by
  intro c y p z hp hdir hbatch hset hsigma hsides hcalm hown hw hretiring hnumber hcheck hruns hnone
  have hpart : (y.committing c k.begunNow).part p = y.part p := Sys.committing_part ..
  have hopens : (y.committing c k.begunNow).commitOpen p c k.begunNow = .running z :=
    commitOpen_opens hp (hpart ▸ hw) hretiring hnumber ((y.committing_checkDir c k.begunNow p k.dirArg w.curEntries).trans hcheck)
      (y.committing_cmds c k.begunNow ▸ hruns) (hpart ▸ hnone)
  have hbody := commitBody_mode2 (k := k.begunNow) rfl hsel hmode hdir hbatch hset hsigma hsides hcalm hown
  obtain ⟨t, hexec, -, hfuses, -, hctxs, hparts, hmem⟩ := goes_of_body h (exec_commit h rfl hmode) (hbody.trans hopens)
  exact ⟨t, hexec, hfuses, hctxs, hparts, hmem⟩

end Modes

end Rows

/-- A handle of a weight set of the partition's own names its index. -/
theorem Partition.ownWset_index {P : Partition} {h i : Nat} (hown : P.ownWset h = some i) : handleIndex h = i := by
  obtain ⟨w, -, hw⟩ := Option.bind_eq_some_iff.mp hown
  split at hw
  · exact Option.some.inj hw
  · cases hw

/-- Settles O36: the body by its mode; naming the set and clearing POISON_SEEN leave partitions and memory, so that each mode acts on them as they were; the region
opens with no RUN that joins it and no outcome that resolves it. -/
theorem stepCommits : Obligations.StepCommits := by
  unfold Obligations.StepCommits
  intro key s k hsel c y p P coll u calm
  have hdone : ∀ Q : Partition, Q = { P with stepDone := some k.step } → Q.stepDone = some (k.field 8 8) ∧ { Q with stepDone := P.stepDone } = P := by
    rintro Q rfl
    exact ⟨rfl, rfl⟩
  have hcalmed : (y.committing c k.begunNow).ctx c = calm := Sys.committing_ctx ..
  refine ⟨fun h hmode hp => ?_, fun h hmode hdir hp => ⟨fun hseen => ?_, stepCommitWait_waits hsel h hmode hdir,
      fun o hcalm ho => ⟨fun hlost => ?_, fun hstatus hcut => ?_, fun hstatus hended hvalue hpoison => ?_⟩⟩,
    fun h hmode => ⟨fun hdir hset hown => ?_, fun hset hcase => ?_, ?_⟩⟩
  · obtain ⟨z, t, hexec, hpending, hfuses, ⟨hpart, hctx, hmem, hbights⟩, hretired⟩ := stepCommitNone_row hsel h hmode hp
    obtain ⟨hstep, hframe⟩ := hdone _ hpart
    exact ⟨z, t, hexec, hpending, hfuses, ⟨hstep, hframe, hctx.trans hcalmed, hmem, hbights⟩, hretired⟩
  · have hbody := (commitBody_mode1 (p := p) (k := k.begunNow) rfl hsel hmode hdir).trans (if_pos hseen)
    exact completes_of_commit h rfl hmode hbody (y.committing_inSigma c k) ⟨hcalmed, Sys.committing_parts .., Sys.committing_mem ..⟩
  · exact stepCommitWait_cut hsel h hmode hdir hcalm ho (Outcome.verdict_lost hlost)
  · exact stepCommitWait_cut hsel h hmode hdir hcalm ho (Outcome.verdict_cut hstatus hcut)
  · obtain ⟨z, t, hexec, hpending, hfuses, ⟨hpart, hmem⟩, hretired⟩ :=
      stepCommitWait_hauled hsel h hmode hdir hcalm ho (Outcome.verdict_hauled hstatus hended hvalue hpoison) hp
    obtain ⟨hstep, hframe⟩ := hdone _ hpart
    exact ⟨z, t, hexec, hpending, hfuses, ⟨hstep, hframe, hmem⟩, hretired⟩
  · exact completes_of_commit h rfl hmode (commitBody_badHandle rfl hsel hmode hdir hset hown) rfl rfl
  · exact completes_of_commit h rfl hmode (commitBody_notReady rfl hsel hmode hset hcase) rfl rfl
  · intro i w es hp hdir hbatch hset hsigma hsides hcalm hown hw hretiring hnumber hcheck hsound hruns hnone
    have hindex : handleIndex k.wsetArg = i := Partition.ownWset_index hown
    let x := y.committing c k.begunNow
    have hxmem : x.mem = y.mem := Sys.committing_mem ..
    obtain ⟨hring, hkring, hklay, hat⟩ := h.place
    obtain ⟨t, hexec, hfuses, hctxs, hparts, hmem⟩ := stepCommitSpeculate_opens hsel h hmode hp hdir hbatch hset hsigma hsides hcalm
      (Option.isSome_of_mem hown) (hindex ▸ hw) hretiring hnumber hcheck hruns hnone
    have hpart : t.sys.part p = _ := (by rw [Sys.part, hparts]; rfl : t.sys.part p = (x.opening p c k.begunNow w es).part p).trans (Sys.opening_part hp)
    have hctx : t.sys.ctx c = (x.opening p c k.begunNow w es).ctx c := by rw [Sys.ctx, hctxs]; rfl
    refine ⟨t, _, hexec, hfuses, hmem.trans ((Sys.opening_mem (hsound.of_mem hxmem)).trans hxmem), congrArg Partition.sigma hpart,
      rfl, rfl, rfl, rfl, hindex, rfl, rfl, rfl, rfl, rfl, ?_, ?_, ?_⟩
    · rw [Sys.cmdOf, ← hkring, ← hklay, Sys.cmdAt_of_rings (congrArg Context.rings hctx)]
      exact Sys.opening_cmdAt hring ((Sys.cmdAt_of_rings (Sys.committing_rings ..) ..).trans hat)
    · rw [congrArg Partition.wsets hpart, ← hindex]
      exact SMap.get?_put_same ..
    · rw [congrArg Context.batches hctx]
      exact Sys.opening_batch

end Sys2Proof.Machine

/-!
O37, what the resolution of a step region writes (R187, R303): a write of memory sends events to contexts, and nothing else.
-/

namespace Sys2Proof.Machine

/-- From `y` to `z` no record but events has joined the records of a context (R303). -/
structure Sys.SendsEvents (y z : Sys) : Prop where
  outbox : ∀ c, ∃ evs : List CompRec, (∀ e ∈ evs, e.kind = 1) ∧ (z.ctx c).outbox = (y.ctx c).outbox ++ evs

theorem Sys.SendsEvents.of_ctxs {y z : Sys} (h : z.ctxs = y.ctxs) : y.SendsEvents z := ⟨fun c => ⟨[], by simp, by rw [Sys.ctx, h, List.append_nil]; rfl⟩⟩

theorem Sys.SendsEvents.refl (y : Sys) : y.SendsEvents y := .of_ctxs rfl

theorem Sys.SendsEvents.trans {x y z : Sys} (h : x.SendsEvents y) (h' : y.SendsEvents z) : x.SendsEvents z := by
  refine ⟨fun c => ?_⟩
  obtain ⟨es, hes, ho⟩ := h.outbox c
  obtain ⟨fs, hfs, ho'⟩ := h'.outbox c
  exact ⟨es ++ fs, fun e he => (List.mem_append.mp he).elim (hes e) (hfs e), by rw [ho', ho, List.append_assoc]⟩

theorem Sys.SendsEvents.foldl {α : Type} {g : Sys → α → Sys} (h : ∀ (y : Sys) (e : α), y.SendsEvents (g y e)) (l : List α) (y : Sys) :
    y.SendsEvents (l.foldl g y) := by
  induction l generalizing y with
  | nil => exact .refl y
  | cons e t ih => exact (h y e).trans (ih _)

section Writes

variable (y : Sys)

theorem Sys.event_sendsEvents (p code : Nat) (args : Bytes) : y.SendsEvents (y.event p code args) := by
  unfold Sys.event
  dsimp only
  split
  · refine ⟨fun c => ?_⟩
    by_cases hc : c = (y.part p).base
    · subst hc
      exact ⟨[eventRec code args], fun e he => by rw [List.mem_singleton.mp he]; rfl, by rw [Sys.ctx_setCtx]⟩
    · exact ⟨[], by simp, by rw [Sys.ctx_setCtx_other _ _ hc, List.append_nil]⟩
  · exact .refl y

theorem Sys.noteFail_sendsEvents (tier hank level index : Nat) : y.SendsEvents (y.noteFail tier hank level index) := .of_ctxs (y.noteFail_ctxs ..)

theorem Sys.noteSegment_sendsEvents (tier hank seg : Nat) : y.SendsEvents (y.noteSegment tier hank seg) :=
  .foldl (fun y (e : Nat × Nat) => y.noteFail_sendsEvents tier hank e.1 e.2) _ y

theorem Sys.poisonLine_sendsEvents (tier hank line o n : Nat) (m : Mark) : y.SendsEvents (y.poisonLine tier hank line o n m) := by
  unfold Sys.poisonLine Sys.forMemory
  dsimp only
  split <;> exact .of_ctxs rfl

theorem Sys.exhaust_sendsEvents (tier hank page : Nat) : y.SendsEvents (y.exhaust tier hank page) := by
  have hlog : y.SendsEvents ((y.logTier tier hank (4096 * page) 0x0301 hank page).bump errRotate 1) := .of_ctxs rfl
  unfold Sys.exhaust
  dsimp only
  split
  · exact hlog.trans (Sys.event_sendsEvents ..)
  · exact hlog

theorem Sys.lineEffects_sendsEvents (tier hank line : Nat) (o : LineOut) : y.SendsEvents (y.lineEffects tier hank line o) := by
  cases o with
  | exhausted => exact (y.poisonLine_sendsEvents ..).trans (Sys.exhaust_sendsEvents ..)
  | refused => exact y.poisonLine_sendsEvents ..
  | done => exact .refl y
  | failed => exact .refl y
  | reencrypted => exact .of_ctxs rfl
  | discarded => exact .of_ctxs rfl

theorem Sys.fitThimble_sendsEvents (fuel tier hank page : Nat) : y.SendsEvents (Sys.fitThimble fuel tier hank page y) := by
  induction fuel generalizing y with
  | zero => exact .refl y
  | succ fuel ih =>
    unfold Sys.fitThimble
    split
    · exact .refl y
    · split
      · next h k _ => exact .trans (y := y.setRegion tier h ((y.region tier h).evict k)) (.of_ctxs rfl) (ih _)
      · exact .refl y

theorem Sys.writeLine_sendsEvents (tier hank line : Nat) : y.SendsEvents (y.writeLine tier hank line).1 :=
  .trans (.trans (.of_ctxs (Sys.setRegion_ctxs ..)) (Sys.fitThimble_sendsEvents ..)) (Sys.lineEffects_sendsEvents ..)

theorem Sys.writeSlice_sendsEvents (h l k n i : Nat) (whole : Bool) (arr : Array Byte) (mk : Nat → Mark) :
    y.SendsEvents (y.writeSlice h l k n i whole arr mk) := by
  unfold Sys.writeSlice
  dsimp only
  split
  · exact y.noteSegment_sendsEvents ..
  · split <;> exact .of_ctxs rfl

theorem Sys.poke_sendsEvents (k n i : Nat) (arr : Array Byte) (mk : Nat → Mark) : y.SendsEvents (y.poke k n i arr mk) := .of_ctxs rfl

theorem Sys.pokeRun_sendsEvents (k n i : Nat) (arr : Array Byte) (mk : Nat → Mark) : y.SendsEvents (y.pokeRun k n i arr mk) := by
  unfold Sys.pokeRun
  dsimp only
  split
  · exact .foldl (fun y l => y.writeSlice_sendsEvents ..) _ y
  · refine .foldl (fun y g => ?_) _ y
    split
    · exact y.noteSegment_sendsEvents ..
    · refine .foldl (fun y l => ?_) _ y
      have hline := y.writeLine_sendsEvents 1 (keyHank k) l
      split
      · next heq =>
        rw [heq] at hline
        exact hline.trans (Sys.noteFail_sendsEvents ..)
      · next heq =>
        rw [heq] at hline
        split
        · exact hline.trans (Sys.poke_sendsEvents ..)
        · exact hline
  · exact y.poke_sendsEvents ..

theorem Sys.writePart_sendsEvents (p a : Nat) (b : Blob) : y.SendsEvents (y.writePart p a b) := by
  have hruns : ∀ (arr : Array Byte) (l : List (Nat × Nat)) (acc : Sys × Nat), acc.1.SendsEvents (l.foldl (fun (acc : Sys × Nat) r =>
      (acc.1.pokeRun r.1 r.2 acc.2 arr (fun c => b.markOver (r.1 - acc.2) c), acc.2 + r.2)) acc).1 := fun arr l => by
    induction l with
    | nil => exact fun acc => .refl acc.1
    | cons r t ih => exact fun acc => (acc.1.pokeRun_sendsEvents r.1 r.2 acc.2 arr _).trans (ih (_, _))
  unfold Sys.writePart
  split
  · exact .of_ctxs rfl
  · exact hruns _ _ (y, 0)

end Writes

end Sys2Proof.Machine

/-!
O37, the haul and the cut of a step region without held effects (R179, R180, R187, R188).
-/

namespace Sys2Proof.Machine

/-! The record that resolves the region -/

/-- The completion of a STEP_COMMIT that names its version and a bit. -/
theorem doneRec_commit (k : Cmd) (st version bit : Nat) :
    doneRec k st (commitResult version bit) = ⟨0, k.lay, k.ring, st, leBytes 8 version ++ leBytes 1 bit ++ List.replicate 11 0, k.irq, k.plain⟩ := rfl

/-- A Bight that runs takes no other RUN. -/
theorem Sys.takeBight_of_run {y : Sys} {b : Nat} (h : (y.bight b).run.isSome = true) : y.takeBight b = y := by
  unfold Sys.takeBight
  dsimp only
  rw [if_pos (by simp [h])]

theorem Sys.takeAll_of_run {y : Sys} (ls : List Kept) (h : ∀ l ∈ ls, (y.bight l.hank).run.isSome = true) : ls.foldl (fun s l => s.takeBight l.hank) y = y := by
  induction ls with
  | nil => rfl
  | cons l t ih => rw [List.foldl_cons, Sys.takeBight_of_run (h l List.mem_cons_self), ih (fun m hm => h m (List.mem_cons_of_mem _ hm))]

theorem Sys.resolveRegion_of_no_region {y : Sys} {b : Nat} (h : (y.bight b).region = none) : y.resolveRegion b = y := by
  simp only [Sys.resolveRegion, Bight.boundEntry, h]

/-! The Bights of the region (R180) -/

/-- A Bight whose RUN of context `c` has been of the step region, once that is hauled. -/
def Bight.settled (x : Bight) (c : Nat) : Bight :=
  if x.run.any (fun r => r.ctx == c && r.spec) then { x.fillStep 1#64 0#8 with run := x.run.map (fun r => { r with spec := false, step := false }) } else x

theorem Bight.settled_run (x : Bight) (c : Nat) : (x.settled c).run.isSome = x.run.isSome := by
  unfold Bight.settled
  split
  · simp
  · rfl

theorem Bight.fillStep_region {x : Bight} (h : x.region = none) (v : Word64) (f : Byte) : (x.fillStep v f).region = none := by
  unfold Bight.fillStep
  split
  · simp [Bight.outside, h]
  · exact h

theorem Bight.settled_region {x : Bight} (h : x.region = none) (c : Nat) : (x.settled c).region = none := by
  unfold Bight.settled
  split
  · exact Bight.fillStep_region h ..
  · exact h

/-- Entry 0 of its RUN is filled, where that is the step record's. -/
theorem Bight.settled_arch {x : Bight} {c : Nat} {r : RunRef} (hrun : x.run = some r) (hctx : r.ctx = c) (hspec : r.spec = true) :
    (x.settled c).arch = if r.step then
      { x.arch with fifo := x.arch.fifo.map (fun e => if e.id = 0 then { e with filled := true, value := 1#64, flags := 0#8 } else e) } else x.arch := by
  have hmine : x.run.any (fun r => r.ctx == c && r.spec) = true := by simp [hrun, hctx, hspec]
  have hfill : x.arch.fill 0 1#64 0#8
      = { x.arch with fifo := x.arch.fifo.map (fun e => if e.id = 0 then { e with filled := true, value := 1#64, flags := 0#8 } else e) } := by
    simp only [BightArch.fill, SumEntry.fill, beq_iff_eq]
  rw [Bight.settled, if_pos hmine, Bight.fillStep]
  cases hstep : r.step <;> simp [hrun, hstep, Bight.outside, hfill]

/-- The Bights and saved Bights of a context whose region is hauled. -/
def Sys.settledRuns (y : Sys) (c : Nat) : Sys :=
  { y with bights := y.bights.map (fun x => x.settled c), saved := y.saved.map (fun e => (e.1, e.2.settled c)) }

theorem Sys.bight_settledRuns (y : Sys) (c b : Nat) : (y.settledRuns c).bight b = (y.bight b).settled c := by
  have hmap : (y.settledRuns c).bights[b]? = (y.bights[b]?).map (fun x => x.settled c) := Vector.getElem?_map ..
  rw [Sys.bight, hmap, Sys.bight]
  cases y.bights[b]? <;> rfl

theorem Sys.haulBights_fst (y : Sys) (c : Nat) : (y.haulBights c).1 = (y.specBights c).foldl (fun s b => s.resolveRegion b) (y.settledRuns c) := rfl

/-- Where the Bights of the region stand in no region of their own, a haul settles their RUNs. -/
theorem Sys.haulBights_settled {y : Sys} {c : Nat} (h : ∀ b : Fin 80, (y.bight b.val).specRun = true → (y.bight b.val).region = none) :
    (y.haulBights c).1 = y.settledRuns c := by
  have hall : ∀ (l : List Nat), (∀ b ∈ l, (y.bight b).region = none) → l.foldl (fun s b => s.resolveRegion b) (y.settledRuns c) = y.settledRuns c := fun l => by
    induction l with
    | nil => exact fun _ => rfl
    | cons b t ih =>
      intro hl
      rw [List.foldl_cons, Sys.resolveRegion_of_no_region (by rw [Sys.bight_settledRuns]; exact Bight.settled_region (hl b List.mem_cons_self) c)]
      exact ih (fun d hd => hl d (List.mem_cons_of_mem _ hd))
  refine (Sys.haulBights_fst y c).trans (hall _ (fun b hb => ?_))
  obtain ⟨hlt, hrun⟩ := List.mem_filter.mp hb
  refine h ⟨b, List.mem_range.mp hlt⟩ ?_
  simp only [Bight.specRun, Option.any_eq_true, Bool.and_eq_true] at hrun ⊢
  obtain ⟨r, hr, -, hspec⟩ := hrun
  exact ⟨r, hr, hspec⟩

/-! The version that becomes current (R173) -/

theorem WSet.promote_current {w : WSet} {v : Version} (hv : v ∈ w.versions) : { v with state := .current } ∈ (w.promote v.num).versions :=
  List.mem_map.mpr ⟨v, hv, if_pos rfl⟩

theorem WSet.promote_others {w : WSet} {num : Nat} {x : Version} (hx : x ∈ (w.promote num).versions) (hnum : x.num ≠ num) : x.state ≠ .current := by
  obtain ⟨v, -, rfl⟩ := List.mem_map.mp hx
  split
  · next h => simp [h] at hnum
  · split
    · simp
    · assumption

/-- A version that becomes current leaves of the rest that the Bights stay, contexts receive events, and partitions keep all but their sets. -/
structure Sys.Promotes (p i : Nat) (w : WSet) (num : Nat) (y z : Sys) : Prop where
  bights : z.bights = y.bights
  events : y.SendsEvents z
  ctx : ∀ c, ∃ o, z.ctx c = { y.ctx c with outbox := o }
  part : ∀ q, { z.part q with wsets := (y.part q).wsets, wsetGens := (y.part q).wsetGens } = y.part q
  set : ∃ u, (z.part p).wsets.get? i = some u ∧ (w.promote num).Narrows u

theorem Sys.makeCurrent_promotes {y : Sys} {p i : Nat} {w : WSet} (hp : p < 80) (hw : (y.part p).wsets.get? i = some w) (hr : w.retiring = false) (num : Nat) :
    y.Promotes p i w num (y.makeCurrent p i num) := by
  obtain ⟨x, hx, hbights, hevents, hstep⟩ : ∃ x : Sys, y.makeCurrent p i num = (x.setWset p i (w.promote num)).releaseVersions p
      ∧ x.bights = y.bights ∧ y.SendsEvents x ∧ y.MemStep x := by
    unfold Sys.makeCurrent Sys.wset?
    rw [hw]
    dsimp only
    split
    · exact ⟨_, rfl, Sys.writePart_bights .., Sys.writePart_sendsEvents .., Sys.writePart_memStep ..⟩
    · exact ⟨_, rfl, rfl, .refl y, .refl y⟩
  have honly := (x.setWset p i (w.promote num)).releaseVersions_only p
  have hpart : ∀ q, x.part q = y.part q := fun q => by rw [Sys.part, hstep.parts]; rfl
  have hset : ((x.setWset p i (w.promote num)).part p).wsets.get? i = some (w.promote num) := by
    rw [Sys.setWset_part _ hp]
    exact SMap.get?_put_same ..
  rw [hx]
  refine ⟨(congrArg Sys.bights honly.1 :).trans hbights, hevents.trans (.of_ctxs honly.ctxs), fun c => ?_, fun q => ?_, Sys.get?_releaseVersions hset hr⟩
  · obtain ⟨o, ho⟩ := hstep.ctx c
    exact ⟨o, (honly.ctx c).trans ho⟩
  · have hq := congrArg (fun Q : Partition => { Q with wsets := (y.part q).wsets, wsetGens := (y.part q).wsetGens }) (honly.2 q)
    refine hq.trans ?_
    rw [Sys.setWset, Sys.part_setPart_oob]
    split
    · next h => rw [hpart, h.1]
    · rw [hpart]

/-! The haul (R187) -/

/-- A RUN of a batch that is speculative no more. -/
def Cmd.settled (k : Cmd) (batch : Nat) : Cmd :=
  match k.progress with
  | .run rd a st ca _ => if k.batch = batch then { k with progress := .run rd a st ca false } else k
  | _ => k

theorem Cmd.settled_lay (k : Cmd) (batch : Nat) : (k.settled batch).lay = k.lay := by
  unfold Cmd.settled
  split
  · split <;> rfl
  · rfl

theorem Cmd.settled_of_commit {k : Cmd} {version : Nat} (h : k.progress = .commit version) (batch : Nat) : k.settled batch = k := by
  simp only [Cmd.settled, h]

/-- A ring whose RUNs of a batch are speculative no more. -/
def Ring.hauled (g : Ring) (batch : Nat) : Ring := { g with cmds := g.cmds.map (fun k => k.settled batch) }

/-- The context of a region that is hauled. -/
def Context.hauled (x : Context) (z : Machine.Sigma) : Context :=
  { x with
    batches := x.batches.map (fun b => if b.id = z.batch then { b with spec := false, hauled := true } else b)
    poisonSeen := x.poisonSeen || z.poison
    usage := { x.usage with hostIn := x.usage.hostIn + z.hostIn }
    rings := x.rings.map (fun g => g.hauled z.batch) }

/-- The region is hauled but for the completion of its STEP_COMMIT: the version is current, the RUNs and the context are settled. -/
def Sys.hauling (y : Sys) (p : Nat) (z : Machine.Sigma) : Sys :=
  let m := ((y.setPart p { (y.part p).inside with sigma := none }).makeCurrent p z.wset z.version).haulBights z.ctx
  m.1.setCtx z.ctx ((m.1.ctx z.ctx).hauled z)

/-- A haul of a region that holds no items and no completions. -/
theorem Sys.haulSigma_eq {y : Sys} {p : Nat} {z : Machine.Sigma} (hz : (y.part p).sigma = some z) (hitems : z.items = []) (hdeferred : z.deferred = []) {k : Cmd}
    (hk : (y.hauling p z).cmdAt z.ctx z.ring z.lay = some k) : y.haulSigma p =
      z.lockers.foldl (fun s l => s.takeBight l.hank) (((y.hauling p z).finish z.ctx k stHAULED (commitResult z.version 1)).stepCompleted p z.step) := by
  have heq : y.haulSigma p = z.lockers.foldl (fun s l => s.takeBight l.hank) ((match (y.hauling p z).cmdAt z.ctx z.ring z.lay with
      | some k => (y.hauling p z).finish z.ctx k stHAULED (commitResult z.version 1)
      | none => y.hauling p z).stepCompleted p z.step) := by
    unfold Sys.haulSigma
    rw [hz]
    dsimp only
    rw [hitems, hdeferred]
    rfl
  rw [heq, hk]

/-- Its STEP_COMMIT stands in the ring as before. -/
theorem Ring.find_hauled {g : Ring} {l version : Nat} {k : Cmd} (h : g.cmds.find? (fun e => e.lay == l) = some k) (hk : k.progress = .commit version) (batch : Nat) :
    (g.hauled batch).cmds.find? (fun e => e.lay == l) = some k := by
  have hlay : ((fun e : Cmd => e.lay == l) ∘ fun e : Cmd => e.settled batch) = fun e => e.lay == l := by
    funext e
    rw [Function.comp_apply, Cmd.settled_lay]
  rw [Ring.hauled, List.find?_map, hlay, h, Option.map_some, Cmd.settled_of_commit hk]

theorem Context.hauled_ring (x : Context) (z : Machine.Sigma) (r : Nat) :
    (((x.hauled z).rings[r]?).getD Ring.empty) = ((x.rings[r]?).getD Ring.empty).hauled z.batch := by
  have hmap : (x.hauled z).rings[r]? = (x.rings[r]?).map (fun g => g.hauled z.batch) := Vector.getElem?_map ..
  rw [hmap]
  cases x.rings[r]? <;> rfl

theorem Partition.inside_frame (P : Partition) : { P.inside with objs := P.objs } = P := by
  unfold Partition.inside
  split
  · split <;> rfl
  · rfl

/-- What a haul has done when its STEP_COMMIT completes. -/
structure Sys.Hauled (p : Nat) (z : Machine.Sigma) (w : WSet) (y t : Sys) : Prop where
  bight : ∀ b, t.bight b = (y.bight b).settled z.ctx
  outbox : ∃ evs : List CompRec, (∀ e ∈ evs, e.kind = 1) ∧ (t.ctx z.ctx).outbox = (y.ctx z.ctx).outbox ++ evs
  ctxPart : (t.ctx z.ctx).part = (y.ctx z.ctx).part
  sigma : (t.part p).sigma = none
  set : ∃ u, (t.part p).wsets.get? z.wset = some u ∧ (w.promote z.version).Narrows u
  cmdAt : ∀ {k : Cmd} {version : Nat}, y.cmdAt z.ctx z.ring z.lay = some k → k.progress = .commit version → t.cmdAt z.ctx z.ring z.lay = some k

theorem Sys.hauling_hauled {y : Sys} {p : Nat} {z : Machine.Sigma} {w : WSet} (hp : p < 80) (hw : (y.part p).wsets.get? z.wset = some w)
    (hr : w.retiring = false) (hregions : ∀ b : Fin 80, (y.bight b.val).specRun = true → (y.bight b.val).region = none) :
    y.Hauled p z w (y.hauling p z) := by
  let x := y.setPart p { (y.part p).inside with sigma := none }
  have hxpart : x.part p = { (y.part p).inside with sigma := none } := by rw [Sys.part_setPart_oob, if_pos ⟨rfl, hp⟩]
  have hxset : (x.part p).wsets.get? z.wset = some w := by
    rw [hxpart]
    exact (congrArg (fun P : Partition => P.wsets.get? z.wset) (y.part p).inside_frame).trans hw
  obtain ⟨hbights, hevents, hctx, hpart, hset⟩ := Sys.makeCurrent_promotes hp hxset hr z.version
  let m := x.makeCurrent p z.wset z.version
  have hmbight : ∀ b, m.bight b = y.bight b := fun b => by rw [Sys.bight, hbights]; rfl
  have hsettled : (m.haulBights z.ctx).1 = m.settledRuns z.ctx := Sys.haulBights_settled (fun b hb => by rw [hmbight] at hb ⊢; exact hregions b hb)
  have hhauling : y.hauling p z = (m.settledRuns z.ctx).setCtx z.ctx ((m.ctx z.ctx).hauled z) := by
    unfold Sys.hauling
    dsimp only
    rw [hsettled]
    rfl
  obtain ⟨o, ho⟩ := hctx z.ctx
  have hctx' : (y.hauling p z).ctx z.ctx = (m.ctx z.ctx).hauled z := by rw [hhauling, Sys.ctx_setCtx]
  rw [hhauling] at hctx' ⊢
  refine ⟨fun b => ?_, ?_, ?_, ?_, hset, fun {k version} hk hprogress => ?_⟩
  · rw [Sys.bight_setCtx, Sys.bight_settledRuns, hmbight]
  · rw [hctx']
    exact hevents.outbox z.ctx
  · rw [hctx']
    exact (congrArg Context.part ho :)
  · have hsigma : (m.part p).sigma = (x.part p).sigma := (congrArg Partition.sigma (hpart p) :)
    exact hsigma.trans (congrArg Partition.sigma hxpart)
  · have hring : m.ring z.ctx z.ring = y.ring z.ctx z.ring := by
      have hrings : (m.ctx z.ctx).rings = (y.ctx z.ctx).rings := (congrArg Context.rings ho :)
      rw [Sys.ring, hrings, Sys.ring]
    have hk' : (m.ring z.ctx z.ring).cmds.find? (fun e => e.lay == z.lay) = some k := by rw [hring]; exact hk
    rw [Sys.cmdAt, Sys.ring, hctx', Context.hauled_ring]
    exact Ring.find_hauled hk' hprogress z.batch

/-- What the statement says of a region that is hauled. -/
theorem Sys.haulSigma_spec {y : Sys} {p : Nat} {z : Machine.Sigma} {k : Cmd} {w : WSet} {v : Version} (hp : p < 80) (hz : (y.part p).sigma = some z)
    (hitems : z.items = []) (hdeferred : z.deferred = []) (hring : z.ring < 4) (hpart : (y.ctx z.ctx).part = p)
    (hk : y.cmdAt z.ctx z.ring z.lay = some k) (hkring : k.ring = z.ring) (hprogress : k.progress = .commit z.version)
    (hw : (y.part p).wsets.get? z.wset = some w) (hretiring : w.retiring = false) (hv : v ∈ w.versions) (hnum : v.num = z.version)
    (hlockers : ∀ l ∈ z.lockers, (y.bight l.hank).run.isSome = true)
    (hregions : ∀ b : Fin 80, (y.bight b.val).specRun = true → (y.bight b.val).region = none) :
    let t := y.haulSigma p
    (t.part p).sigma = none ∧ (t.part p).stepDone = some z.step
      ∧ (∃ u, (t.part p).wsets.get? z.wset = some u ∧ { v with state := .current } ∈ u.versions ∧ ∀ x ∈ u.versions, x.num ≠ z.version → x.state ≠ .current)
      ∧ t.cmdAt z.ctx z.ring z.lay = none
      ∧ (∃ evs : List CompRec, (∀ e ∈ evs, e.kind = 1)
          ∧ (t.ctx z.ctx).outbox = (y.ctx z.ctx).outbox ++ evs ++ [doneRec k stHAULED (commitResult z.version 1)])
      ∧ ∀ b, t.bight b = (y.bight b).settled z.ctx := by
  intro t
  obtain ⟨hbight, ⟨evs, hevs, hout⟩, hctxPart, hsigma, ⟨u, hu, hnarrow⟩, hcmd⟩ := Sys.hauling_hauled (z := z) hp hw hretiring hregions
  have hk' := hcmd hk hprogress
  have hs : (y.hauling p z).inSigma z.ctx k = false := Sys.inSigma_of_none (hctxPart.trans hpart) hsigma k
  obtain ⟨hkept, hnone, hrecord⟩ := Sys.finish_outside (st := stHAULED) (res := commitResult z.version 1) hs hkring (Sys.lay_of_cmdAt hk) hring
  let f := (y.hauling p z).finish z.ctx k stHAULED (commitResult z.version 1)
  have hfbight : ∀ b, (f.stepCompleted p z.step).bight b = (y.bight b).settled z.ctx := fun b => by
    rw [← hbight b, Sys.bight, Sys.stepCompleted_bights, hkept.bights]
    rfl
  have ht : t = f.stepCompleted p z.step := by
    refine (Sys.haulSigma_eq hz hitems hdeferred hk').trans (Sys.takeAll_of_run _ (fun l hl => ?_))
    rw [hfbight, Bight.settled_run]
    exact hlockers l hl
  have htpart : t.part p = { f.part p with stepDone := some z.step } := by rw [ht, Sys.stepCompleted_part, if_pos ⟨rfl, hp⟩]
  have htctx : t.ctx z.ctx = f.ctx z.ctx := by rw [ht, Sys.stepCompleted_ctx]
  obtain ⟨x, hx, hux⟩ := Sys.get?_finish (p := p) hs stHAULED (commitResult z.version 1) hu (hnarrow.retiring.trans hretiring)
  have hwx := hnarrow.trans hux
  refine ⟨?_, ?_, ⟨x, ?_, ?_, fun e he hne => WSet.promote_others (hwx.versions e he) hne⟩, ?_, ⟨evs, hevs, ?_⟩, fun b => ?_⟩
  · rw [htpart]
    exact (hkept.sigma p).trans hsigma
  · rw [htpart]
  · rw [htpart]
    exact hx
  · exact hwx.current hretiring _ (hnum ▸ WSet.promote_current hv) rfl
  · rw [Sys.cmdAt_of_rings (congrArg Context.rings htctx)]
    exact hnone
  · rw [htctx, hrecord, hout]
  · rw [ht]
    exact hfbight b

/-! The cut (R188) -/

/-- From `y` to `t` a cut of a region of context `c` has, of a partition whose region is closed, removed the provisional version of set `i`. -/
structure Sys.Cuts (p c i : Nat) (y t : Sys) : Prop where
  mem : t.mem = y.mem
  ctx : { t.ctx c with batches := (y.ctx c).batches } = y.ctx c
  sigma : (t.part p).sigma = none
  set : ∀ e ∈ (t.part p).wsets, e.1 = i → ∀ v ∈ e.2.versions, v.state ≠ .provisional

section Cuts

variable {p c i : Nat} {y t : Sys} (h : y.Cuts p c i t)
include h

theorem Sys.Cuts.setBights (f : Sys → Nat → Bight) (bs : List Nat) : y.Cuts p c i (bs.foldl (fun s b => s.setBight b (f s b)) t) := by
  induction bs generalizing t with
  | nil => exact h
  | cons b r ih => exact ih ⟨h.mem, h.ctx, h.sigma, h.set⟩

/-- Only its batches change of the context. -/
theorem Sys.Cuts.setBatches (bs : List Batch) : y.Cuts p c i (t.setCtx c { t.ctx c with batches := bs }) := by
  refine ⟨h.mem, ?_, h.sigma, h.set⟩
  rw [Sys.ctx_setCtx]
  exact h.ctx

theorem Sys.Cuts.setOutcomes (os : List Outcome) : y.Cuts p c i (t.setPart p { t.part p with outcomes := os }) := by
  refine ⟨h.mem, h.ctx, ?_, ?_⟩ <;> rw [Sys.part_setPart_oob] <;> split
  · exact h.sigma
  · exact h.sigma
  · exact h.set
  · exact h.set

theorem Sys.Cuts.releaseVersions : y.Cuts p c i (t.releaseVersions p) := by
  have honly := t.releaseVersions_only p
  refine ⟨(congrArg Sys.mem honly.1 :).trans h.mem, ?_, (congrArg Partition.sigma (honly.2 p) :).trans h.sigma, fun e he hi v hv => ?_⟩
  · rw [honly.ctx]
    exact h.ctx
  · obtain ⟨w, hw, hnarrow⟩ := Sys.mem_wsets_releaseVersions he
    exact h.set _ hw hi v (hnarrow.versions v hv)

theorem Sys.Cuts.ctxPart : (t.ctx c).part = (y.ctx c).part := (congrArg Context.part h.ctx :)

theorem Sys.Cuts.outbox : (t.ctx c).outbox = (y.ctx c).outbox := (congrArg Context.outbox h.ctx :)

theorem Sys.Cuts.cmds : (t.ctx c).cmds = (y.ctx c).cmds := (congrArg Context.cmds h.ctx :)

theorem Sys.Cuts.cmdAt (r l : Nat) : t.cmdAt c r l = y.cmdAt c r l := Sys.cmdAt_of_rings (congrArg Context.rings h.ctx :) r l

end Cuts

/-- The region is closed, and the set has no provisional version. -/
def Sys.withoutProvisional (y : Sys) (p i : Nat) : Sys :=
  let s := y.setPart p { y.part p with sigma := none }
  match s.wset? p i with
  | some w => s.setWset p i { w with versions := w.versions.filter (fun (v : Version) => v.state != VState.provisional) }
  | none => s

theorem Sys.withoutProvisional_cuts (y : Sys) {p : Nat} (hp : p < 80) (c i : Nat) : y.Cuts p c i (y.withoutProvisional p i) := by
  let s := y.setPart p { y.part p with sigma := none }
  have hpart : s.part p = { y.part p with sigma := none } := by rw [Sys.part_setPart_oob, if_pos ⟨rfl, hp⟩]
  have hsigma : (s.part p).sigma = none := by rw [hpart]
  unfold Sys.withoutProvisional
  dsimp only
  split
  · next w hw =>
    have hset := fun u => s.setWset_part hp i u
    refine ⟨rfl, rfl, ?_, fun e he hi v hv => ?_⟩
    · rw [hset]
      exact hsigma
    · rw [hset] at he
      rcases SMap.mem_put.mp he with rfl | ⟨-, hne⟩
      · simpa using (List.mem_filter.mp hv).2
      · exact absurd hi hne
  · next hw => exact ⟨rfl, rfl, hsigma, fun e he hi => absurd hi (SMap.get?_eq_none_iff.mp hw e he)⟩

/-- The version's pins go with it. -/
theorem Sys.dropProvisional_eq (y : Sys) (p c : Nat) (z : Machine.Sigma) : ∃ bs,
    (y.setPart p { y.part p with sigma := none }).dropProvisional p c z =
      ((y.withoutProvisional p z.wset).setCtx c { (y.withoutProvisional p z.wset).ctx c with batches := bs }).releaseVersions p := ⟨_, rfl⟩

/-- Where none of its commands is ended, a cut ends no collective. -/
theorem Sys.cutColls_none (y : Sys) (p c : Nat) : ∃ os, y.cutColls p c (fun _ _ => false) = y.setPart p { y.part p with outcomes := os } := by
  have hnone : y.fab.colls.filter (fun x => x.ctx == c && !x.started && false) = [] := by simp
  unfold Sys.cutColls
  rw [hnone]
  exact ⟨_, rfl⟩

/-- The provisional version is gone and entry 0 of the region's RUNs is filled. -/
def Sys.cutFilled (y : Sys) (p : Nat) (z : Machine.Sigma) (flags : Byte) : Sys :=
  let s := (y.setPart p { y.part p with sigma := none }).dropProvisional p z.ctx z
  (s.specBights z.ctx).foldl (fun s b => s.setBight b ((s.bight b).fillStep 0#64 flags)) s

theorem Sys.cutFilled_cuts (y : Sys) {p : Nat} (hp : p < 80) (z : Machine.Sigma) (flags : Byte) : y.Cuts p z.ctx z.wset (y.cutFilled p z flags) := by
  obtain ⟨bs, hbs⟩ := y.dropProvisional_eq p z.ctx z
  have hdrop := ((y.withoutProvisional_cuts hp z.ctx z.wset).setBatches bs).releaseVersions
  rw [← hbs] at hdrop
  exact hdrop.setBights (fun s b => (s.bight b).fillStep 0#64 flags) _

/-- A region without lockers and live commands is cut but for the completion of its STEP_COMMIT. -/
def Sys.cutting (y : Sys) (p : Nat) (z : Machine.Sigma) (flags : Byte) : Sys :=
  let s := (y.cutFilled p z flags).cutColls p z.ctx (fun _ _ => false)
  match (s.ctx z.ctx).batch z.batch with
  | some b => s.setCtx z.ctx ((s.ctx z.ctx).setBatch { b with cut := true, spec := false })
  | none => s

theorem Sys.cutting_cuts (y : Sys) {p : Nat} (hp : p < 80) (z : Machine.Sigma) (flags : Byte) : y.Cuts p z.ctx z.wset (y.cutting p z flags) := by
  obtain ⟨os, hcolls⟩ := (y.cutFilled p z flags).cutColls_none p z.ctx
  have hcut := (y.cutFilled_cuts hp z flags).setOutcomes os
  rw [← hcolls] at hcut
  unfold Sys.cutting
  dsimp only
  split
  · exact hcut.setBatches _
  · exact hcut

/-- A cut of such a region. -/
theorem Sys.cutSigma_eq {y : Sys} {p : Nat} {z : Machine.Sigma} {flags : Byte} (hp : p < 80) (hz : (y.part p).sigma = some z) (hlockers : z.lockers = [])
    (hlive : ∀ e ∈ (y.ctx z.ctx).cmds, e.batch ≠ z.batch) {k : Cmd} (hk : y.cmdAt z.ctx z.ring z.lay = some k) (status bit : Nat) :
    y.cutSigma p status flags bit = (y.cutting p z flags).finish z.ctx k status (commitResult z.version bit) := by
  have hnone : ((y.cutFilled p z flags).ctx z.ctx).cmds.filter (fun k => k.batch == z.batch) = [] := by
    rw [(y.cutFilled_cuts hp z flags).cmds]
    exact List.filter_eq_nil_iff.mpr (fun e he => by simpa using hlive e he)
  have hat := (y.cutting_cuts hp z flags).cmdAt z.ring z.lay
  have heq : y.cutSigma p status flags bit = match (y.cutting p z flags).cmdAt z.ctx z.ring z.lay with
      | some k => (y.cutting p z flags).finish z.ctx k status (commitResult z.version bit)
      | none => y.cutting p z flags := by
    unfold Sys.cutSigma
    rw [hz]
    dsimp only
    rw [Sys.cutFilled] at hnone
    rw [hlockers, hnone]
    rfl
  rw [heq, hat, hk]

/-- What the statement says of a region that is cut. -/
theorem Sys.cutSigma_spec {y : Sys} {p : Nat} {z : Machine.Sigma} {k : Cmd} (hp : p < 80) (hz : (y.part p).sigma = some z) (hlockers : z.lockers = [])
    (hlive : ∀ e ∈ (y.ctx z.ctx).cmds, e.batch ≠ z.batch) (hring : z.ring < 4) (hpart : (y.ctx z.ctx).part = p)
    (hk : y.cmdAt z.ctx z.ring z.lay = some k) (hkring : k.ring = z.ring) {t : Sys} {status bit : Nat} {flags : Byte}
    (ht : t = y.cutSigma p status flags bit) :
    (t.part p).sigma = none ∧ t.mem = y.mem ∧ (∀ w, (t.part p).wsets.get? z.wset = some w → ∀ v ∈ w.versions, v.state ≠ .provisional)
      ∧ t.cmdAt z.ctx z.ring z.lay = none ∧ (t.ctx z.ctx).outbox = (y.ctx z.ctx).outbox ++ [doneRec k status (commitResult z.version bit)] := by
  have hcuts := y.cutting_cuts hp z flags
  rw [Sys.cutSigma_eq hp hz hlockers hlive hk status bit] at ht
  have hs : (y.cutting p z flags).inSigma z.ctx k = false := Sys.inSigma_of_none (hcuts.ctxPart.trans hpart) hcuts.sigma k
  obtain ⟨hkept, hnone, hrecord⟩ := Sys.finish_outside (st := status) (res := commitResult z.version bit) hs hkring (Sys.lay_of_cmdAt hk) hring
  subst ht
  refine ⟨(hkept.sigma p).trans hcuts.sigma, hkept.mem.trans hcuts.mem, fun w hw v hv => ?_, hnone, by rw [hrecord, hcuts.outbox]⟩
  obtain ⟨x, hx, hnarrow⟩ := Sys.mem_wsets_finish hs (SMap.mem_of_get? hw)
  exact hcuts.set _ hx rfl v (hnarrow.versions v hv)

/-! The statement -/

/-- A step region whose collective has left an outcome is hauled by a finite one. -/
theorem exec_stepRegionHaul {part : Fin 80} {s : State} {z : Machine.Sigma} {o : Outcome} (hz : (s.sys.part part.val).sigma = some z)
    (ho : (s.sys.part part.val).outcomes.find? (fun o => o.coll == z.coll) = some o) (hfinite : o.verdict.1 = true) :
    exec (.stepRegionHaul part) s = .next { s with sys := s.sys.haulSigma part.val } := by
  have hexec : exec (.stepRegionHaul part) s = s.onSys (fun y => match (y.part part.val).sigma.bind (fun z => (y.part part.val).outcome z.coll) with
      | some o => if o.verdict.1 then y.haulSigma part.val else y
      | none => y) := rfl
  rw [hexec, State.onSys, hz]
  simp only [Option.bind_some, Partition.outcome, ho, hfinite, if_true]

theorem exec_stepRegionCut {part : Fin 80} {s : State} {z : Machine.Sigma} {o : Outcome} (hz : (s.sys.part part.val).sigma = some z)
    (ho : (s.sys.part part.val).outcomes.find? (fun o => o.coll == z.coll) = some o) {status bit : Nat} {flags : Byte}
    (hverdict : o.verdict = (false, status, flags, bit)) :
    exec (.stepRegionCut part) s = .next { s with sys := s.sys.cutSigma part.val status flags bit } := by
  have hexec : exec (.stepRegionCut part) s = s.onSys (fun y => match (y.part part.val).sigma.bind (fun z => (y.part part.val).outcome z.coll) with
      | some o => if o.verdict.1 then y else y.cutSigma part.val o.verdict.2.1 o.verdict.2.2.1 o.verdict.2.2.2
      | none => y) := rfl
  rw [hexec, State.onSys, hz]
  simp only [Option.bind_some, Partition.outcome, ho, hverdict, Bool.false_eq_true, if_false]

/-- Settles O37: of a region without held effects, the haul settles the RUNs before the version becomes current, and its STEP_COMMIT, which is no
longer in a region, completes at once; the cut removes the provisional version and completes the STEP_COMMIT likewise. -/
theorem stepRegions : Obligations.StepRegions := by
  unfold Obligations.StepRegions
  intro part s z o k hz hitems hdeferred ho hstatus hring hpart hk hkring hprogress
  have hlay : k.lay = z.lay := Sys.lay_of_cmdAt hk
  refine ⟨fun hended hvalue hpoison w v hw hretiring hv hnum hlockers hregions => ?_, fun hcut hlockers hlive => ?_⟩
  · have hfinite : o.verdict.1 = true := by rw [Outcome.verdict_hauled hstatus hended hvalue hpoison]
    obtain ⟨hsigma, hstep, hset, hnone, ⟨evs, hevs, hout⟩, hbights⟩ :=
      Sys.haulSigma_spec part.isLt hz hitems hdeferred hring hpart hk hkring hprogress hw hretiring hv hnum hlockers hregions
    refine ⟨_, exec_stepRegionHaul hz ho hfinite, rfl, hsigma, hstep, hset, hnone, ⟨evs, hevs, ?_⟩, fun b r hrun hctx hspec => ?_⟩
    · rw [doneRec_commit, hlay, hkring] at hout
      exact hout
    · have harch : ((s.sys.haulSigma part.val).bight b.val).arch = ((s.sys.bight b.val).settled z.ctx).arch := by rw [hbights]
      exact harch.trans (Bight.settled_arch hrun hctx hspec)
  · obtain ⟨hsigma, hmem, hset, hnone, hout⟩ := Sys.cutSigma_spec part.isLt hz hlockers hlive hring hpart hk hkring
      (status := stCUT) (bit := if o.ended then 0xFF else o.value % 256) (flags := if o.flags.testBit 3 then 8#8 else 0#8) rfl
    refine ⟨_, exec_stepRegionCut hz ho (Outcome.verdict_cut hstatus hcut), rfl, hsigma, hmem, hset, hnone, ?_⟩
    rw [doneRec_commit, hlay, hkring] at hout
    exact hout

end Sys2Proof.Machine

/-!
O33, WSET_LOAD and WSET_PUBLISH (R165 to R167, R169, R173, R328, R330).
-/

namespace Sys2Proof.Machine

/-! Weight sets of a partition -/

theorem Sys.setWset_only (y : Sys) (p i : Nat) (w : WSet) : OnlySets y (y.setWset p i w) := by
  refine ⟨rfl, fun q => ?_⟩
  rw [Sys.setWset, Sys.part_setPart_oob]
  split
  · next h => rw [h.1]
  · rfl

theorem OnlySets.mem {y z : Sys} (h : OnlySets y z) : z.mem = y.mem := (congrArg Sys.mem h.1 :)

theorem OnlySets.inSigma {y z : Sys} (h : OnlySets y z) (c : Nat) (k : Cmd) : z.inSigma c k = y.inSigma c k :=
  Sys.inSigma_congr (by rw [h.ctx]) (congrArg Partition.sigma (h.2 _) :) (by rw [h.ctx])

theorem Sys.MemStep.inSigma {y z : Sys} (h : y.MemStep z) (c : Nat) (k : Cmd) : z.inSigma c k = y.inSigma c k := Sys.inSigma_of_same k h.parts (h.ctx c)

theorem WSet.provisional_eq_none {w : WSet} (h : ∀ v ∈ w.versions, v.state ≠ .provisional) : w.provisional = none :=
  List.find?_eq_none.mpr (fun v hv => by simpa using h v hv)

/-- A handle of a set of the partition's own reaches it. -/
theorem Partition.wsetOf_of_own {P : Partition} {h i : Nat} {w : WSet} (hown : P.ownWset h = some i) (hw : P.wsets.get? i = some w) :
    P.wsetOf h = some w ∧ w.source = none := by
  have hindex := Partition.ownWset_index hown
  obtain ⟨u, hu, hsource⟩ := Option.bind_eq_some_iff.mp hown
  have huw : u = w := by
    unfold Partition.wsetOf at hu
    rw [hindex, hw] at hu
    dsimp only at hu
    split at hu
    · split at hu
      · exact (Option.some.inj hu).symm
      · cases hu
    · cases hu
  subst huw
  refine ⟨hu, ?_⟩
  split at hsource
  · next hs => exact Option.isNone_iff_eq_none.mp hs
  · cases hsource

/-! WSET_LOAD (R328) -/

/-- The load that a WSET_LOAD opens. -/
def Cmd.load (k : Cmd) (c : Nat) (es : List DirEntry) : Load :=
  { id := k.field 8 8, ctx := c, ring := k.ring, lay := k.lay, dir := k.field 0x10 8, entries := es, bitmap := 0, shards := k.field 0x20 4
    retries := k.field 0x24 1, fails := [] }

/-- The directory is read and the bitmap cleared. -/
def Sys.cleared (y : Sys) (p : Nat) (k : Cmd) : Sys :=
  (y.noteDir p (k.field 0x10 8)).writePart p (k.field 0x18 8) (Blob.ofBytes (List.replicate ((k.field 0x20 4 + 7) / 8) 0#8))

/-- The load stands with its partition. -/
def Sys.loading (y : Sys) (p c : Nat) (k : Cmd) (es : List DirEntry) : Sys :=
  (y.cleared p k).setPart p { (y.cleared p k).part p with loads := ((y.cleared p k).part p).loads ++ [k.load c es] }

section Load

variable {y : Sys} {p c : Nat} {k : Cmd} {es : List DirEntry}

theorem Sys.cleared_memStep : y.MemStep (y.cleared p k) := (y.noteDir_memStep p _).trans (Sys.writePart_memStep ..)

theorem Sys.cleared_part (q : Nat) : (y.cleared p k).part q = y.part q := by
  rw [Sys.part, Sys.cleared_memStep.parts]
  rfl

theorem Sys.loading_part (hp : p < 80) : (y.loading p c k es).part p = { y.part p with loads := (y.part p).loads ++ [k.load c es] } := by
  rw [Sys.loading, Sys.part_setPart_oob, if_pos ⟨rfl, hp⟩, Sys.cleared_part]

theorem Sys.loading_mem : (y.loading p c k es).mem = (y.cleared p k).mem := by rw [Sys.loading, Sys.setPart_mem]

theorem Sys.loading_bights : (y.loading p c k es).bights = y.bights := (Sys.writePart_bights ..).trans (y.noteDir_bights ..)

theorem Sys.loading_ctx (d : Nat) : { (y.loading p c k es).ctx d with outbox := (y.ctx d).outbox } = y.ctx d := by
  obtain ⟨o, ho⟩ := (Sys.cleared_memStep (y := y) (p := p) (k := k)).ctx d
  rw [Sys.loading, Sys.ctx_setPart, ho]

variable (hk : k.progress = .begun) (hdir : y.checkDir p (k.field 0x10 8) [] = .ok es)
include hk hdir

theorem wsetLoadBody_badValue (hn : k.field 0x20 4 = 0 ∨ 65536 < k.field 0x20 4) : wsetLoadBody p c k y = .done y stBAD_VALUE [] := by
  unfold wsetLoadBody
  rw [hk]
  dsimp only
  rw [hdir]
  exact if_pos hn

theorem wsetLoadBody_opens (hn : ¬(k.field 0x20 4 = 0 ∨ 65536 < k.field 0x20 4)) (hmap : (y.part p).mayWrite (k.field 0x18 8) ((k.field 0x20 4 + 7) / 8) = true)
    (hid : ∀ l ∈ (y.part p).loads, l.id ≠ k.field 8 8) (hsets : (y.part p).wsets.countP (fun e => e.2.source.isNone) < 256) (hquota : (y.part p).atQuota = false) :
    wsetLoadBody p c k y = .running (y.loading p c k es) := by
  unfold wsetLoadBody
  rw [hk]
  dsimp only
  rw [hdir]
  dsimp only
  rw [if_neg hn, if_neg (by simp [hmap]), if_neg (by simpa using hid), if_neg (by omega), if_neg (by simp [hquota])]
  rfl

end Load

/-! WSET_PUBLISH (R165, R167, R173) -/

/-- The version that a set's next publish makes. -/
def WSet.nextVersion (w : WSet) (a : Nat) (es : List DirEntry) : Version := { num := w.nextNumber, dir := a, entries := es, state := .current }

/-- The set once that version is published. -/
def WSet.published (w : WSet) (a : Nat) (es : List DirEntry) : WSet :=
  { w with versions := w.versions.map (fun x => if x.state = .current then { x with state := .superseded } else x) ++ [w.nextVersion a es] }

/-- Its other versions are not current. -/
theorem WSet.published_others {w : WSet} {a : Nat} {es : List DirEntry} {x : Version} (hx : x ∈ (w.published a es).versions) (hne : x ≠ w.nextVersion a es) :
    x.state ≠ .current := by
  rcases List.mem_append.mp hx with h | h
  · obtain ⟨v, -, rfl⟩ := List.mem_map.mp h
    split
    · simp
    · assumption
  · exact absurd (List.mem_singleton.mp h) hne

/-- The published set stands and its number is in its directory. -/
def Sys.publishing (y : Sys) (p i a : Nat) (w : WSet) (es : List DirEntry) : Sys :=
  (y.setWset p i (w.published a es)).writePart p a (Blob.ofBytes (leBytes 8 w.nextNumber))

section Publish

variable {y : Sys} {p i a : Nat} {w : WSet} {es : List DirEntry} (hw : (y.part p).wsets.get? i = some w)
include hw

theorem Sys.publish_retiring (hr : w.retiring = true) : y.publish p i a = .bad stDRAINING := by
  unfold Sys.publish Sys.wset?
  rw [hw]
  exact if_pos hr

theorem Sys.publish_in_order (hr : w.retiring = false) (hprov : w.provisional = none) (hnum : w.nextNumber ≠ versionEnd)
    (hdir : y.checkDir p a w.curEntries = .ok es) :
    y.publish p i a = .done ((y.publishing p i a w es).releaseVersions p) w.nextNumber (y.writeMark p a 8) := by
  unfold Sys.publish Sys.wset?
  rw [hw]
  dsimp only
  rw [if_neg (by simp [hr]), if_neg (by simp [hprov]), if_neg hnum, hdir]
  rfl

omit hw

/-- The new version is the current one of the set. -/
theorem Sys.publishing_set (hp : p < 80) (hr : w.retiring = false) : ∃ u, (((y.publishing p i a w es).releaseVersions p).part p).wsets.get? i = some u
    ∧ w.nextVersion a es ∈ u.versions ∧ ∀ x ∈ u.versions, x ≠ w.nextVersion a es → x.state ≠ .current := by
  have hset : ((y.publishing p i a w es).part p).wsets.get? i = some (w.published a es) := by
    rw [Sys.publishing, Sys.part, (Sys.writePart_memStep ..).parts]
    exact (congrArg (fun P : Partition => P.wsets.get? i) (y.setWset_part hp i (w.published a es))).trans (SMap.get?_put_same ..)
  obtain ⟨u, hu, hnarrow⟩ := Sys.get?_releaseVersions (q := p) hset hr
  exact ⟨u, hu, hnarrow.current hr _ (List.mem_append_right _ (List.mem_singleton.mpr rfl)) rfl,
    fun x hx hne => WSet.published_others (hnarrow.versions x hx) hne⟩

theorem Sys.publishing_inSigma (c : Nat) (k : Cmd) : ((y.publishing p i a w es).releaseVersions p).inSigma c k = y.inSigma c k :=
  ((Sys.releaseVersions_only ..).inSigma c k).trans (((Sys.writePart_memStep ..).inSigma c k).trans ((y.setWset_only ..).inSigma c k))

end Publish

/-- The state in which a WSET_PUBLISH checks its directory: read, and the set named. -/
def Sys.checking (y : Sys) (p c : Nat) (k : Cmd) : Sys := (y.noteDir p (k.field 0x10 8)).pinNamed c k

section PublishBody

variable {y : Sys} {p c i : Nat} {k : Cmd}

theorem Sys.checking_part (q : Nat) : (y.checking p c k).part q = y.part q := by
  rw [Sys.checking, (Sys.pinNamed_pinStep ..).part, Sys.noteDir_part]

theorem Sys.checking_inSigma : (y.checking p c k).inSigma c k = y.inSigma c k :=
  ((Sys.pinNamed_pinStep ..).inSigma k).trans ((y.noteDir_memStep ..).inSigma c k)

theorem Sys.memSound.checking_mem (h : y.memSound) : (y.checking p c k).mem = y.mem := (Sys.pinNamed_pinStep ..).mem.trans (h.noteDir_mem ..)

variable {w : WSet} (hown : (y.part p).ownWset (k.field 8 8) = some i) (hw : (y.part p).wsets.get? i = some w)
include hown hw

theorem publishBody_retiring (hr : w.retiring = true) : publishBody p c k y = .done y stDRAINING [] := by
  have hpublish : (y.checking p c k).publish p i (k.field 0x10 8) = .bad stDRAINING := Sys.publish_retiring (by rw [Sys.checking_part, hw]) hr
  unfold publishBody
  rw [hown]
  dsimp only
  rw [← Sys.checking, hpublish]

theorem publishBody_in_order {es : List DirEntry} (hr : w.retiring = false) (hprov : w.provisional = none) (hnum : w.nextNumber ≠ versionEnd) (hsound : y.memSound)
    (hdir : (y.checking p c k).checkDir p (k.field 0x10 8) w.curEntries = .ok es) :
    publishBody p c k y = .done (((y.checking p c k).publishing p i (k.field 0x10 8) w es).releaseVersions p) stOK (leBytes 8 w.nextNumber) := by
  have hset : ((y.checking p c k).part p).wsets.get? i = some w := by rw [Sys.checking_part, hw]
  have hmark : (y.checking p c k).writeMark p (k.field 0x10 8) 8 = .clean := (hsound.of_mem hsound.checking_mem).writeMark ..
  unfold publishBody
  rw [hown]
  dsimp only
  rw [← Sys.checking, Sys.publish_in_order hset hr hprov hnum hdir, hmark]
  rfl

end PublishBody

end Sys2Proof.Machine

/-!
O33, WSET_RETIRE (R169, R174, R330), and the statement.
-/

namespace Sys2Proof.Machine

/-! A set that no batch pins -/

/-- No batch pins a version of a set. -/
def Sys.Unpinned (y : Sys) (q i : Nat) : Prop := ∀ e ∈ y.ctxs, ∀ b ∈ e.2.batches, ∀ n ∈ b.pins, ¬(n.part = q ∧ n.wset = i)

theorem Sys.unpinned_iff {y : Sys} {q i : Nat} : y.Unpinned q i ↔ ∀ v, y.pinned q i v = false := by
  simp only [Sys.Unpinned, Sys.pinned, List.any_eq_false, Bool.not_eq_true, Bool.and_eq_false_iff, beq_eq_false_iff_ne, not_and]
  constructor
  · rintro h v e he b hb n hn
    by_cases hq : n.part = q
    · exact .inl (.inr (h e he b hb n hn hq))
    · exact .inl (.inl hq)
  · intro h e he b hb n hn hq hi
    rcases h n.version e he b hb n hn with (h | h) | h
    · exact h hq
    · exact h hi
    · exact h rfl

theorem Sys.Unpinned.of_ctxs {y z : Sys} {q i : Nat} (h : y.Unpinned q i) (hctxs : z.ctxs = y.ctxs) : z.Unpinned q i := by
  unfold Sys.Unpinned
  rw [hctxs]
  exact h

/-- The batches of a context that stands are those of its entry. -/
theorem Sys.Unpinned.batch {y : Sys} {q i c : Nat} (h : y.Unpinned q i) : ∀ b ∈ (y.ctx c).batches, ∀ n ∈ b.pins, ¬(n.part = q ∧ n.wset = i) := by
  intro b hb
  rw [Sys.ctx, SMap.get_eq_getD] at hb
  cases hx : y.ctxs.get? c with
  | none => simp [hx, Context.closed] at hb
  | some x =>
    rw [hx] at hb
    exact h _ (SMap.mem_of_get? hx) b hb

/-- What holds of the rest of the contexts and of the new batches holds once the context is set. -/
theorem Sys.Unpinned.setCtx {y : Sys} {q i c : Nat} {x : Context} (hothers : ∀ e ∈ y.ctxs, e.1 ≠ c → ∀ b ∈ e.2.batches, ∀ n ∈ b.pins, ¬(n.part = q ∧ n.wset = i))
    (hx : ∀ b ∈ x.batches, ∀ n ∈ b.pins, ¬(n.part = q ∧ n.wset = i)) : (y.setCtx c x).Unpinned q i := by
  intro e he
  rcases SMap.mem_of_mem_set he with rfl | ⟨he, hne⟩
  · exact hx
  · exact hothers e he hne

/-! A set that is being removed (R173, R174) -/

/-- Of a partition, what stands of set `i` retires with no provisional version, and once it is gone its next generation is noted. -/
structure Partition.Leaving (i gen : Nat) (P : Partition) : Prop where
  sets : ∀ e ∈ P.wsets, e.1 = i → e.2.source = none ∧ e.2.retiring = true ∧ e.2.gen = gen ∧ ∀ v ∈ e.2.versions, v.state ≠ .provisional
  gone : (∀ e ∈ P.wsets, e.1 ≠ i) → P.wsetGens.get 0 i = gen + 1

theorem get_nextGens {i gen : Nat} (l : List (Nat × WSet)) {m : SMap Nat} (hl : ∀ e ∈ l, e.1 = i → e.2.gen = gen)
    (h : m.get 0 i = gen + 1 ∨ ∃ e ∈ l, e.1 = i) : (l.foldl (fun g e => g.put e.1 (e.2.gen + 1)) m).get 0 i = gen + 1 := by
  induction l generalizing m with
  | nil => simpa using h
  | cons e t ih =>
    refine ih (fun d hd => hl d (List.mem_cons_of_mem _ hd)) ?_
    rw [SMap.get_put]
    by_cases he : e.1 = i
    · exact .inl (by rw [if_pos he.symm, hl e List.mem_cons_self he])
    · rw [if_neg (fun h => he h.symm)]
      rcases h with h | ⟨d, hd, hi⟩
      · exact .inl h
      · rcases List.mem_cons.mp hd with rfl | hd
        · exact absurd hi he
        · exact .inr ⟨d, hd, hi⟩

theorem Sys.mem_goneSets {y : Sys} {q : Nat} {e : Nat × WSet} (he : e ∈ (y.part q).wsets)
    (h : ∀ x ∈ (y.part q).wsets.filterMap (y.keptSet q), x.1 ≠ e.1) : e ∈ y.goneSets q := by
  refine List.mem_filter.mpr ⟨he, ?_⟩
  rw [Bool.not_eq_true', List.any_eq_false]
  exact fun x hx => by simpa using h x hx

section Leaving

variable {y : Sys} {p i gen : Nat} (h : (y.part p).Leaving i gen)
include h

theorem Partition.Leaving.releaseVersions (q : Nat) : ((y.releaseVersions q).part p).Leaving i gen := by
  refine ⟨fun e he hi => ?_, fun hnone => ?_⟩
  · obtain ⟨w, hw, hnarrow⟩ := Sys.mem_wsets_releaseVersions he
    obtain ⟨hsource, hretiring, hgen, hversions⟩ := h.sets _ hw hi
    exact ⟨(congrArg WSet.source hnarrow.frame :).trans hsource, hnarrow.retiring.trans hretiring, (congrArg WSet.gen hnarrow.frame :).trans hgen,
      fun v hv => hversions v (hnarrow.versions v hv)⟩
  · rw [Sys.releaseVersions_eq, Sys.part_setPart_oob] at hnone ⊢
    split at hnone
    · next hq =>
      rw [if_pos hq]
      obtain ⟨rfl, -⟩ := hq
      refine get_nextGens _ (fun e he hi => (h.sets e (List.mem_of_mem_filter he) hi).2.2.1) ?_
      by_cases hold : ∀ e ∈ (y.part p).wsets, e.1 ≠ i
      · exact .inl (h.gone hold)
      · push Not at hold
        obtain ⟨e, he, hi⟩ := hold
        exact .inr ⟨e, Sys.mem_goneSets he (fun x hx => hi ▸ hnone x hx), hi⟩
    · next hq =>
      rw [if_neg hq]
      exact h.gone hnone

/-- Where nothing pins it, a release of its partition removes it. -/
theorem Partition.Leaving.removed (hp : p < 80) (hpins : y.Unpinned p i) : ∀ e ∈ ((y.releaseVersions p).part p).wsets, e.1 ≠ i := by
  intro e he hi
  rw [Sys.releaseVersions_eq, Sys.part_setPart_oob, if_pos ⟨rfl, hp⟩] at he
  obtain ⟨x, hx, hkept⟩ := List.mem_filterMap.mp he
  have hkey : x.1 = i := (Sys.keptSet_eq_some hkept).1 ▸ hi
  obtain ⟨hsource, hretiring, -, hversions⟩ := h.sets x hx hkey
  have hnone := Sys.keptSet_of_retired (q := p) hsource hretiring hversions (fun n => hkey ▸ Sys.unpinned_iff.mp hpins n)
  rw [hnone] at hkept
  cases hkept

theorem Partition.Leaving.releaseAll (qs : List Nat) : ((qs.foldl (fun s q => s.releaseVersions q) y).part p).Leaving i gen := by
  induction qs generalizing y with
  | nil => exact h
  | cons q t ih => exact ih (h.releaseVersions q)

theorem Partition.Leaving.unpinned (c : Nat) (x : Context) : ((y.unpinned c x).part p).Leaving i gen :=
  Partition.Leaving.releaseAll (y := y.endBatches c x) (y.endBatches_part c x p ▸ h) x.unpins

/-- So it is where its partition is among those that are released. -/
theorem Partition.Leaving.releaseAll_removed (hp : p < 80) (hpins : y.Unpinned p i) {qs : List Nat} (hqs : p ∈ qs) :
    ∀ e ∈ ((qs.foldl (fun s q => s.releaseVersions q) y).part p).wsets, e.1 ≠ i := by
  induction qs generalizing y with
  | nil => cases hqs
  | cons q t ih =>
    by_cases ht : p ∈ t
    · exact ih (h.releaseVersions q) (hpins.of_ctxs (Sys.releaseVersions_only ..).ctxs) ht
    · rcases List.mem_cons.mp hqs with rfl | hp'
      · intro e he
        obtain ⟨w, hw, -⟩ := Sys.mem_wsets_releaseAll t he
        exact h.removed hp hpins (e.1, w) hw
      · exact absurd hp' ht

end Leaving

/-! WSET_RETIRE (R174) -/

/-- The set is named and marked. -/
def Sys.marked (y : Sys) (p c i : Nat) (k : Cmd) (w : WSet) : Sys := (y.pinNamed c k).setWset p i { w with retiring := true }

/-- The set retires. -/
def Sys.retiring (y : Sys) (p c i : Nat) (k : Cmd) (w : WSet) : Sys := (y.marked p c i k w).releaseVersions p

section Retiring

variable (y : Sys) (p c i : Nat) (k : Cmd) (w : WSet)

theorem Sys.marked_ctxs : (y.marked p c i k w).ctxs = (y.pinNamed c k).ctxs := (Sys.setWset_only ..).ctxs

theorem Sys.retiring_only : OnlySets (y.pinNamed c k) (y.retiring p c i k w) := (Sys.setWset_only ..).trans (Sys.releaseVersions_only ..)

theorem Sys.retiring_mem : (y.retiring p c i k w).mem = y.mem := (y.retiring_only ..).mem.trans (y.pinNamed_pinStep c k).mem

theorem Sys.retiring_ctxs : (y.retiring p c i k w).ctxs = (y.pinNamed c k).ctxs := (y.retiring_only ..).ctxs

theorem Sys.retiring_inSigma : (y.retiring p c i k w).inSigma c k = y.inSigma c k := ((y.retiring_only ..).inSigma c k).trans ((y.pinNamed_pinStep c k).inSigma k)

variable {p w}

theorem Sys.marked_leaving (hp : p < 80) (hsource : w.source = none) (hprov : ∀ v ∈ w.versions, v.state ≠ .provisional) :
    ((y.marked p c i k w).part p).Leaving i w.gen := by
  rw [Sys.marked, Sys.setWset_part _ hp]
  refine ⟨fun e he hi => ?_, fun hnone => absurd rfl (hnone _ (SMap.mem_put.mpr (.inl rfl)))⟩
  rcases SMap.mem_put.mp he with rfl | ⟨-, hne⟩
  · exact ⟨hsource, rfl, rfl, hprov⟩
  · exact absurd hi hne

end Retiring

section RetireBody

variable {y : Sys} {p c i : Nat} {k : Cmd} {w : WSet} (hown : (y.part p).ownWset (k.field 8 8) = some i) (hw : (y.part p).wsets.get? i = some w)
include hown hw

theorem retireBody_retiring (hr : w.retiring = true) : retireBody p c k y = .done y stDRAINING [] := by
  obtain ⟨hset, hsource⟩ := Partition.wsetOf_of_own hown hw
  unfold retireBody
  rw [hset]
  dsimp only
  rw [if_neg (by simp [hsource]), if_pos hr]

theorem retireBody_in_order (hr : w.retiring = false) (hprov : w.provisional = none) : retireBody p c k y = .done (y.retiring p c i k w) stOK [] := by
  obtain ⟨hset, hsource⟩ := Partition.wsetOf_of_own hown hw
  unfold retireBody
  rw [hset]
  dsimp only
  rw [if_neg (by simp [hsource]), if_neg (by simp [hr]), if_neg (by simp [hprov]), Partition.ownWset_index hown]
  rfl

/-- Its batch at most pins a version of the set, of which it has pinned none (R169). -/
theorem pinNamed_retire (hop : k.opcode = 0x2A) (hpart : (y.ctx c).part = p) (hr : w.retiring = false) (hpins : y.Unpinned p i) {g : Batch}
    (hg : (y.ctx c).batch k.batch = some g) :
    y.pinNamed c k = y ∨ ∃ n, y.pinNamed c k = y.setCtx c ((y.ctx c).setBatch { g with pins := g.pins ++ [⟨p, i, n⟩] }) := by
  obtain ⟨hset, hsource⟩ := Partition.wsetOf_of_own hown hw
  have hholder : y.setHolder p (k.field 8 8) = some (p, i, w) := by
    unfold Sys.setHolder
    rw [hset]
    dsimp only
    rw [hsource, Partition.ownWset_index hown]
  have hnone : g.pins.find? (fun n => n.part == p && n.wset == i) = none :=
    List.find?_eq_none.mpr (fun n hn => by simpa using hpins.batch g (List.mem_of_find?_eq_some hg) n hn)
  have hnamed : y.pinNamed c k = ((y.pin c k.batch p i w).map (fun x => x.2)).getD y := by
    unfold Sys.pinNamed Cmd.handles
    simp only [hop, List.foldl_cons, List.foldl_nil, hpart, hholder, hr, Bool.false_eq_true, if_false]
  rw [hnamed]
  unfold Sys.pin
  dsimp only
  rw [hg]
  dsimp only
  rw [hnone]
  dsimp only
  cases pinTarget (p == (y.ctx c).part) g w with
  | none => exact .inl rfl
  | some v => exact .inr ⟨v.num, rfl⟩

end RetireBody

/-! The batch that ends (R169) -/

/-- A command that stays stood in its ring, and is not the one that leaves. -/
theorem Context.mem_cmds_without {x : Context} {r l : Nat} {e : Cmd} (h : e ∈ (x.without r l).cmds) :
    ∃ n < 4, e ∈ ((x.rings[n]?).getD Ring.empty).cmds ∧ ¬(n = r ∧ e.lay = l) := by
  simp only [Context.cmds, Context.without, Context.setRing, List.mem_flatMap, Vector.mem_toList_iff] at h
  obtain ⟨g, hg, he⟩ := h
  obtain ⟨n, hn, rfl⟩ := Vector.getElem_of_mem hg
  rw [Vector.getElem_setIfInBounds] at he
  split at he
  · next hr =>
    subst hr
    obtain ⟨hmem, hlay⟩ := List.mem_filter.mp he
    exact ⟨r, hn, hmem, fun h => by simp [h.2] at hlay⟩
  · next hr => exact ⟨n, hn, by simpa [hn] using he, fun h => hr h.1.symm⟩

/-- A closed batch that no command is of does not go on. -/
theorem Context.keepsBatch_of_closed {x : Context} {b : Batch} (hclosed : b.closed = true) (h : ∀ e ∈ x.cmds, e.batch ≠ b.id) : x.keepsBatch b = false := by
  simpa [Context.keepsBatch, hclosed] using h

theorem Context.mem_unpins {x : Context} {b : Batch} (hb : b ∈ x.batches) (hends : x.keepsBatch b = false) {n : Pin} (hn : n ∈ b.pins) : n.part ∈ x.unpins :=
  List.mem_flatMap.mpr ⟨b, List.mem_filter.mpr ⟨hb, by simp [hends]⟩, List.mem_map.mpr ⟨n, hn, rfl⟩⟩

theorem Context.mem_setBatch {x : Context} {b g : Batch} (h : b ∈ (x.setBatch g).batches) : b = g ∨ b ∈ x.batches := by
  obtain ⟨d, hd, rfl⟩ := List.mem_map.mp h
  split
  · exact .inl rfl
  · exact .inr hd

theorem Context.setBatch_mem {x : Context} {b g : Batch} (hb : b ∈ x.batches) (hid : b.id = g.id) : g ∈ (x.setBatch g).batches :=
  List.mem_map.mpr ⟨b, hb, if_pos (by simp [hid])⟩

section Removal

variable {y : Sys} {p c i : Nat} {k : Cmd} {w : WSet} {g : Batch} (hpins : y.Unpinned p i) (hg : (y.ctx c).batch k.batch = some g)
  (hclosed : g.closed = true) (hlast : ∀ r < 4, ∀ e ∈ (y.ring c r).cmds, e.batch = k.batch → r = k.ring ∧ e.lay = k.lay)
include hpins hg hclosed hlast

/-- The batch's own pin goes with it, as it has closed and its last command leaves. -/
theorem ctxWithout_ends {z : Sys} {n : Nat} (hctxs : z.ctxs = (y.setCtx c ((y.ctx c).setBatch { g with pins := g.pins ++ [⟨p, i, n⟩] })).ctxs) (st : Nat) (res : Bytes) :
    p ∈ (z.ctxWithout c k st res).unpins ∧ (z.endBatches c (z.ctxWithout c k st res)).Unpinned p i := by
  let x := z.ctxWithout c k st res
  let g' : Batch := { g with pins := g.pins ++ [⟨p, i, n⟩] }
  have hid : g.id = k.batch := by simpa using List.find?_some hg
  have hctx : z.ctx c = (y.ctx c).setBatch g' := by
    rw [Sys.ctx, hctxs]
    exact Sys.ctx_setCtx ..
  have hbatches : x.batches = ((y.ctx c).setBatch g').batches := (congrArg Context.batches hctx :)
  have hcmds : ∀ e ∈ x.cmds, e.batch ≠ g'.id := by
    intro e he hbatch
    obtain ⟨r, hr, hmem, hleft⟩ := Context.mem_cmds_without he
    have hrings : (z.ctx c).rings = (y.ctx c).rings := (congrArg Context.rings hctx :)
    have hmem' : e ∈ (((z.ctx c).rings[r]?).getD Ring.empty).cmds := hmem
    rw [hrings] at hmem'
    exact hleft (hlast r hr e hmem' (hbatch.trans hid))
  have hends : x.keepsBatch g' = false := Context.keepsBatch_of_closed hclosed hcmds
  have hmem : g' ∈ x.batches := hbatches ▸ Context.setBatch_mem (List.mem_of_find?_eq_some hg) rfl
  refine ⟨Context.mem_unpins hmem hends (n := ⟨p, i, n⟩) (List.mem_append_right _ (List.mem_singleton.mpr rfl)), .setCtx (fun e he hne => ?_) (fun b hb => ?_)⟩
  · rw [hctxs] at he
    rcases SMap.mem_of_mem_set he with rfl | ⟨he, -⟩
    · exact absurd rfl hne
    · exact hpins e he
  · obtain ⟨hold, hkeeps⟩ := List.mem_filter.mp hb
    rcases Context.mem_setBatch (hbatches ▸ hold) with rfl | hold
    · exact absurd (hends.symm.trans hkeeps) (by decide)
    · exact hpins.batch b hold

variable (hp : p < 80) (hown : (y.part p).ownWset (k.field 8 8) = some i) (hw : (y.part p).wsets.get? i = some w) (hop : k.opcode = 0x2A)
  (hpart : (y.ctx c).part = p) (hr : w.retiring = false) (hprov : ∀ v ∈ w.versions, v.state ≠ .provisional)
include hp hown hw hop hpart hr hprov

/-- The set goes as it is marked where its batch pins nothing, else with the batch. -/
theorem retiring_gone (st : Nat) (res : Bytes) :
    let z := y.retiring p c i k w
    ∀ e ∈ ((z.unpinned c (z.ctxWithout c k st res)).part p).wsets, e.1 ≠ i := by
  intro z
  have hmarked := y.marked_leaving c i k hp (Partition.wsetOf_of_own hown hw).2 hprov
  have hleaving : (z.part p).Leaving i w.gen := hmarked.releaseVersions p
  rcases pinNamed_retire hown hw hop hpart hr hpins hg with hsame | ⟨n, hpin⟩
  · have hfree : (y.marked p c i k w).Unpinned p i := hpins.of_ctxs ((y.marked_ctxs ..).trans (congrArg Sys.ctxs hsame))
    intro e he
    obtain ⟨u, hu, -⟩ := Sys.mem_wsets_unpinned he
    exact hmarked.removed hp hfree (e.1, u) hu
  · obtain ⟨hunpins, hfree⟩ := ctxWithout_ends hpins hg hclosed hlast ((y.retiring_ctxs p c i k w).trans (congrArg Sys.ctxs hpin)) st res
    have hdropped : ((z.endBatches c (z.ctxWithout c k st res)).part p).Leaving i w.gen := by
      rw [Sys.endBatches_part]
      exact hleaving
    exact hdropped.releaseAll_removed hp hfree hunpins

/-- A retirement whose command leaves as the last of its batch removes the set. -/
theorem retire_removes (hs : y.inSigma c k = false) (st : Nat) (res : Bytes) :
    let Q := ((y.retiring p c i k w).finish c k st res).part p
    Q.wsets.get? i = none ∧ Q.wsetGens.get 0 i = w.gen + 1 := by
  have hgone := retiring_gone hpins hg hclosed hlast hp hown hw hop hpart hr hprov st res
  have hleaving := ((y.marked_leaving c i k hp (Partition.wsetOf_of_own hown hw).2 hprov).releaseVersions p).unpinned c ((y.retiring p c i k w).ctxWithout c k st res)
  rw [Sys.part_finish ((y.retiring_inSigma ..).trans hs) p]
  exact ⟨SMap.get?_eq_none_iff.mpr hgone, hleaving.gone hgone⟩

end Removal

/-! Rows -/

section Rows

variable {key : CmdKey} {s : State} {k : Cmd}

theorem CmdReady.opcode {i : Instr} {op : Nat} (h : CmdReady i s key k op) : k.opcode = op := by
  obtain ⟨-, hop, -⟩ := h
  exact hop

/-- A WSET_LOAD in order. -/
theorem wsetLoad_opens (h : CmdReady (.wsetLoad key) s key k 0x28) {es : List DirEntry} :
    let c := key.ctx.val
    let y := s.sys.begun key k
    let p := (s.sys.ctx c).part
    let P := y.part p
    p < 80 → wsetLoadBody p c k.begunNow y = .running (y.loading p c k.begunNow es) →
    ∃ t, exec (.wsetLoad key) s = .next t ∧ t.pending = s.pending ∧ t.fuses = s.fuses ∧ t.sys.bights = y.bights
      ∧ (∀ d, { t.sys.ctx d with outbox := (y.ctx d).outbox } = y.ctx d) ∧ t.sys.part p = { P with loads := P.loads ++ [k.begunNow.load c es] }
      ∧ t.sys.mem = (y.cleared p k.begunNow).mem := by
  intro c y p P hp hbody
  obtain ⟨t, hexec, hpending, hfuses, hbights, hctxs, hparts, hmem⟩ := goes_of_body h rfl hbody
  have hctx : ∀ d, t.sys.ctx d = (y.loading p c k.begunNow es).ctx d := fun d => by rw [Sys.ctx, hctxs]; rfl
  have hpart : t.sys.part p = (y.loading p c k.begunNow es).part p := by rw [Sys.part, hparts]; rfl
  refine ⟨t, hexec, hpending, hfuses, hbights.trans Sys.loading_bights, fun d => ?_, hpart.trans (Sys.loading_part hp), hmem.trans Sys.loading_mem⟩
  rw [hctx]
  exact Sys.loading_ctx d

variable {i : Nat} {w : WSet} (hown : ((s.sys.begun key k).part (s.sys.ctx key.ctx.val).part).ownWset (k.field 8 8) = some i)
  (hw : ((s.sys.begun key k).part (s.sys.ctx key.ctx.val).part).wsets.get? i = some w)
include hown hw

/-- A WSET_PUBLISH in order. -/
theorem wsetPublish_publishes (h : CmdReady (.wsetPublish key) s key k 0x29) {es : List DirEntry} :
    let y := s.sys.begun key k
    let p := (s.sys.ctx key.ctx.val).part
    let x := y.checking p key.ctx.val k.begunNow
    p < 80 → w.retiring = false → (∀ v ∈ w.versions, v.state ≠ .provisional) → w.nextNumber ≠ versionEnd → y.memSound →
    x.checkDir p (k.field 0x10 8) w.curEntries = .ok es →
    Completes (.wsetPublish key) s key k stOK (leBytes 8 w.nextNumber) (fun z =>
      (∃ u, (z.part p).wsets.get? i = some u ∧ w.nextVersion (k.field 0x10 8) es ∈ u.versions
        ∧ ∀ e ∈ u.versions, e ≠ w.nextVersion (k.field 0x10 8) es → e.state ≠ .current)
      ∧ ∃ u : WSet, { u with versions := w.versions } = w
        ∧ z.mem = ((x.setWset p i u).writePart p (k.field 0x10 8) (Blob.ofBytes (leBytes 8 w.nextNumber))).mem) := by
  intro y p x hp hr hprov hnum hsound hdir
  have hs : ((x.publishing p i (k.field 0x10 8) w es).releaseVersions p).inSigma key.ctx.val k = y.inSigma key.ctx.val k :=
    (Sys.publishing_inSigma ..).trans (Sys.checking_inSigma (k := k.begunNow))
  exact completes_of_body h rfl (publishBody_in_order (k := k.begunNow) hown hw hr (WSet.provisional_eq_none hprov) hnum hsound hdir) (hs.trans (inSigma_begun h))
    ⟨Sys.publishing_set hp hr, w.published (k.field 0x10 8) es, rfl, (Sys.releaseVersions_only ..).mem⟩

/-- A WSET_RETIRE in order removes the set where nothing else pins it and its batch ends with it. -/
theorem wsetRetire_removes (h : CmdReady (.wsetRetire key) s key k 0x2A) {g : Batch} :
    let c := key.ctx.val
    let y := s.sys.begun key k
    let p := (s.sys.ctx c).part
    p < 80 → w.retiring = false → (∀ v ∈ w.versions, v.state ≠ .provisional) → y.Unpinned p i → (y.ctx c).batch k.batch = some g → g.closed = true →
    (∀ r < 4, ∀ e ∈ (y.ring c r).cmds, e.batch = k.batch → r = k.ring ∧ e.lay = k.lay) →
    ∃ t, exec (.wsetRetire key) s = .next t ∧ (t.sys.part p).wsets.get? i = none ∧ (t.sys.part p).wsetGens.get 0 i = w.gen + 1 := by
  intro c y p hp hr hprov hpins hg hclosed hlast
  have hpart : (y.ctx c).part = p := Sys.part_ctx_setProgress ..
  exact ⟨_, exec_of_body h rfl (retireBody_in_order (k := k.begunNow) hown hw hr (WSet.provisional_eq_none hprov)),
    retire_removes (k := k) hpins hg hclosed hlast hp hown hw h.opcode hpart hr hprov (inSigma_begun h) stOK []⟩

end Rows

/-- Settles O33: each body by its checks; a published set keeps its new version through the release; a set that retires with no pin but those of its WSET_RETIRE's batch
goes with that batch. -/
theorem weightSets : Obligations.WeightSets := by
  unfold Obligations.WeightSets
  intro key s k c y p P hp
  constructor
  · intro es h hdir n bits
    refine ⟨fun hn => completes_of_body h rfl (wsetLoadBody_badValue (k := k.begunNow) rfl hdir hn) (inSigma_begun h) rfl, fun hn hmax hmap hid hsets hquota => ?_⟩
    have hopens := wsetLoadBody_opens (c := c) (k := k.begunNow) rfl hdir (not_or.mpr ⟨hn, Nat.not_lt.mpr hmax⟩) hmap hid hsets hquota
    obtain ⟨t, hexec, hpending, hfuses, hbights, hctx, hpart, hmem⟩ := wsetLoad_opens h hp hopens
    obtain ⟨-, hring, hlay, -⟩ := h.place
    refine ⟨t, hexec, hpending, hfuses, hbights, hctx, ?_, ?_, hmem⟩
    · rw [hpart, ← hring, ← hlay]
      rfl
    · rw [hpart]
  · intro i w hown hw y1
    constructor
    · exact fun h => ⟨fun hr => completes_of_body h rfl (publishBody_retiring (k := k.begunNow) hown hw hr) (inSigma_begun h) rfl,
        fun es hr hprov hnum hsound => wsetPublish_publishes hown hw h hp hr hprov hnum hsound⟩
    · intro h
      refine ⟨fun hr => completes_of_body h rfl (retireBody_retiring (k := k.begunNow) hown hw hr) (inSigma_begun h) rfl, fun hr hprov => ⟨?_, fun g hpins => ?_⟩⟩
      · exact completes_of_body h rfl (retireBody_in_order (k := k.begunNow) hown hw hr (WSet.provisional_eq_none hprov))
          ((y.retiring_inSigma ..).trans (inSigma_begun h)) ⟨y.retiring_mem .., y.retiring_ctxs ..⟩
      · exact wsetRetire_removes hown hw h hp hr hprov (Sys.unpinned_iff.mpr hpins)

end Sys2Proof.Machine

/-!
O27, one atomic record that answers (R211 to R214): the numbers that bytes spell, a range within one window, the operation, the answer in the locker.
-/

namespace Sys2Proof

/-! Digits of the number that bytes spell (R3) -/

theorem leNat_lt (l : Bytes) : leNat l < 256 ^ l.length := by
  induction l with
  | nil => simp [leNat]
  | cons b t ih =>
    have hb := b.isLt
    rw [leNat, List.length_cons, Nat.pow_succ']
    omega

/-- Each byte is a digit. -/
theorem byte_of_leNat (l : Bytes) {j : Nat} (h : j < l.length) : BitVec.ofNat 8 (leNat l / 256 ^ j) = l[j] := by
  induction l generalizing j with
  | nil => simp at h
  | cons b t ih =>
    have hb := b.isLt
    cases j with
    | zero =>
      apply BitVec.eq_of_toNat_eq
      simpa [leNat] using hb
    | succ j =>
      have hdiv : (b.toNat + 256 * leNat t) / 256 ^ (j + 1) = leNat t / 256 ^ j := by
        rw [Nat.pow_succ', ← Nat.div_div_eq_div_mul]
        congr 1
        omega
      rw [leNat, hdiv, ih (by simpa using h)]
      rfl

/-- The signed value of a number of `w` bits. -/
theorem toInt_ofNat_of_lt {w v : Nat} (hw : 0 < w) (h : v < 2 ^ w) :
    (BitVec.ofNat w v).toInt = if v < 2 ^ (w - 1) then (v : Int) else (v : Int) - 2 ^ w := by
  have htwice : 2 ^ w = 2 * 2 ^ (w - 1) := by rw [← Nat.pow_succ', Nat.succ_eq_add_one, Nat.sub_add_cancel hw]
  rw [BitVec.toInt_eq_toNat_cond, BitVec.toNat_ofNat, Nat.mod_eq_of_lt h]
  by_cases hv : v < 2 ^ (w - 1)
  · rw [if_pos hv, if_pos (by omega)]
  · rw [if_neg hv, if_neg (by omega)]
    norm_cast

end Sys2Proof

namespace Sys2Proof.Machine

/-! Ranges within one window (R191, R206) -/

theorem two_le_keyKind {k : Nat} : 2 ≤ keyKind k ↔ 160 * 2 ^ 34 ≤ k := by
  unfold keyKind
  omega

/-- A place in space 0x2 lies in a slice. -/
theorem Partition.place_window {P : Partition} {a k : Nat} (hs : addrSpace a = 2) (h : P.place a = some k) : 2 ≤ keyKind k := by
  unfold Partition.place at h
  simp only [hs] at h
  split at h
  · obtain ⟨hank, -, rfl⟩ := Option.map_eq_some_iff.mp h
    rw [two_le_keyKind, physKey]
    omega
  · cases h

/-- A range within one hank's part of a space is one run. -/
theorem placeRuns_one {P : Partition} {a n k : Nat} (h : P.place a = some k) (hn : n ≠ 0) (hroom : n ≤ chunkRoom P a) (fuel : Nat) :
    placeRuns P (fuel + 1) a n = some [(k, n)] := by
  have hrest : placeRuns P fuel (a + n) 0 = some [] := by cases fuel <;> rfl
  rw [placeRuns, if_neg hn, h]
  simp only [Nat.min_eq_left hroom, Nat.sub_self, hrest, Option.map_some]

/-- What a slice holds reads with the marks that stand in it. -/
theorem Sys.readMark_slice (y : Sys) {c : Nat} (h : 2 ≤ keyKind (16 * c)) : y.readMark c = (y.mem.data.mark c).asRead := by
  obtain ⟨n, hn⟩ := Nat.exists_eq_add_of_le' h
  unfold Sys.readMark
  simp only [hn]

theorem le_of_mem_cwRange {a n c : Nat} (h : c ∈ cwRange a n) : a / 16 ≤ c := by
  unfold cwRange at h
  split at h
  · cases h
  · obtain ⟨i, -, rfl⟩ := List.mem_map.mp h
    exact Nat.le_add_right ..

/-- A read of unpoisoned bytes in one run of a slice. -/
theorem Sys.readPart_slice {y : Sys} {p a n k : Nat} (hruns : placeRuns (y.part p) ((y.part p).hanks.length + 1) a n = some [(k, n)]) (hk : 2 ≤ keyKind k)
    (hclean : ∀ e ∈ y.mem.data.marks, e.2 = .clean) : y.readPart p a n = ⟨y.mem.data.read k n, [], a % 16⟩ := by
  have hmarks : chunkMarks y.readMark k n = [] := List.filterMap_eq_nil_iff.mpr fun c hc => by
    have hkind : 2 ≤ keyKind (16 * c) := by
      have := le_of_mem_cwRange hc
      rw [two_le_keyKind] at hk ⊢
      omega
    rw [y.readMark_slice hkind, Mem.mark_clean hclean]
    rfl
  have hraw : y.readRaw p a n = ⟨y.mem.data.read k n, [], a % 16⟩ := by
    unfold Sys.readRaw
    simp only [hruns, List.foldl_cons, List.foldl_nil, hmarks, List.map_nil, List.append_nil, List.nil_append]
  unfold Sys.readPart
  rw [hraw]
  rfl

/-- A write of one run of a slice that need not wait is performed on its bytes. -/
theorem Sys.writePart_slice {y : Sys} {p a k : Nat} {b : Blob} (hwait : y.memWaits p a b.data.length = false)
    (hruns : placeRuns (y.part p) ((y.part p).hanks.length + 1) a b.data.length = some [(k, b.data.length)]) (hk : 2 ≤ keyKind k) :
    y.writePart p a b = y.poke k b.data.length 0 b.data.toArray (fun c => b.markOver (k - 0) c) := by
  obtain ⟨n, hn⟩ := Nat.exists_eq_add_of_le' hk
  rw [Sys.writePart, hwait, Sys.writeNow, Sys.runsOf, hruns]
  simp only [Bool.false_eq_true, if_false, Option.getD_some, Sys.pokeRuns, List.foldl_cons, List.foldl_nil, Sys.pokeRun, hn]

/-! A record in order (R210 to R214) -/

/-- A record of a batch that returns responses, in order, on a location at `k` of a window of partition `p`, with no poison. -/
structure AtomicInOrder (f : AtomicF) (s : State) (p k : Nat) : Prop where
  runs : s.sys.runs f.b.val = true
  region : (s.sys.bight f.b.val).region = none
  sigma : s.sys.sigmaOf f.b.val = none
  part : s.sys.runPart f.b.val = some p
  respond : f.respond = true
  size : f.size = 4 ∨ f.size = 8
  aligned : f.target.toNat % f.size = 0
  space : addrSpace f.target.toNat = 2
  located : (s.sys.part p).place f.target.toNat = some k
  room : f.size ≤ chunkRoom (s.sys.part p) f.target.toNat
  writable : (s.sys.part p).touchesReadOnly f.target.toNat f.size = false
  served : s.sys.rangesWait f.b.val [(f.target.toNat, f.size)] = false
  record : f.place.toNat % 32 = 0
  lockerClean : ∀ e ∈ (s.arch f.b).locker.marks, e.2 = .clean
  memClean : ∀ e ∈ s.sys.mem.data.marks, e.2 = .clean

/-- The value of a location. -/
def atomicValue (f : AtomicF) (s : State) (k : Nat) : Nat := (List.range f.size).foldr (fun i v => (s.sys.mem.data.byte (k + i)).toNat + 256 * v) 0

section Record

variable {f : AtomicF} {s : State} {p k : Nat}

theorem atomicValue_eq : atomicValue f s k = leNat (s.sys.mem.data.read k f.size) := by
  rw [atomicValue, Mem.read_eq_map_byte, leNat_map]

theorem atomicValue_byte {j : Nat} (hj : j < f.size) : BitVec.ofNat 8 (atomicValue f s k / 256 ^ j) = s.sys.mem.data.byte (k + j) := by
  rw [atomicValue_eq, byte_of_leNat _ (by rw [Mem.length_read]; exact hj)]
  exact (List.getElem_eq_iff ..).mpr (Mem.getElem?_read _ _ hj)

theorem atomicValue_lt : atomicValue f s k < 2 ^ (8 * f.size) := by
  have hlt := leNat_lt (s.sys.mem.data.read k f.size)
  rw [Mem.length_read, ← atomicValue_eq] at hlt
  rw [Nat.pow_mul]
  exact hlt

variable (h : AtomicInOrder f s p k)
include h

theorem AtomicInOrder.placeRuns : placeRuns (s.sys.part p) ((s.sys.part p).hanks.length + 1) f.target.toNat f.size = some [(k, f.size)] :=
  placeRuns_one h.located (by have := h.size; omega) h.room _

theorem AtomicInOrder.read : s.sys.readPart p f.target.toNat f.size = ⟨s.sys.mem.data.read k f.size, [], f.target.toNat % 16⟩ :=
  Sys.readPart_slice h.placeRuns (Partition.place_window h.space h.located) h.memClean

theorem AtomicInOrder.memServes : s.sys.memWaits p f.target.toNat f.size = false := by
  have hserved := h.served
  rw [Sys.rangesWait, h.part] at hserved
  simpa using hserved

theorem AtomicInOrder.write (v : Nat) : ∃ mk, s.sys.writePart p f.target.toNat (Blob.ofBytes (leBytes f.size v))
    = s.sys.poke k f.size 0 (leBytes f.size v).toArray mk := by
  have hlen : (Blob.ofBytes (leBytes f.size v)).data.length = f.size := length_leBytes ..
  have hwrite := Sys.writePart_slice (y := s.sys) (p := p) (a := f.target.toNat) (k := k) (b := Blob.ofBytes (leBytes f.size v)) (by rw [hlen]; exact h.memServes)
    (by rw [hlen]; exact h.placeRuns) (Partition.place_window h.space h.located)
  rw [hlen] at hwrite
  exact ⟨_, hwrite⟩

/-- The request of the record, with the operation `op`. -/
def atomicRequest (f : AtomicF) (s : State) (op : Nat) : AtomicReq :=
  { op := op, size := f.size, target := f.target.toNat, operand := f.operand.toNat, compare := f.compare.toNat
    reserved := false, mark := (s.arch f.b).locker.worst (f.place.toNat / 32 * 32) 32 }

theorem AtomicInOrder.exec_atomic {i : Instr} {op : Nat} (hexec : exec i s = s.atomic i f op) : exec i s
    = .next { s with sys := { s.sys.atomicRecord f.b.val (s.sys.bight f.b.val).nextSeq f.place.toNat (atomicRequest f s op) true with replay := none } } := by
  have hholds : s.sys.holds f.b.val (s.sys.bight f.b.val).nextSeq = false := by simp [Sys.holds, Bight.inRegion, h.region, h.sigma]
  have hplace : f.place.toNat / 32 * 32 = f.place.toNat := by have := h.record; omega
  rw [hexec, State.atomic, State.onSys_next]
  simp only [h.runs, hholds, h.served, h.respond, hplace, atomicRequest, State.arch, Bool.not_true, Bool.false_and, Bool.not_false, Bool.true_and, Bool.false_eq_true, if_false]

theorem AtomicInOrder.notBad {op : Nat} (hop : op ≤ 10) : (s.sys.insideOf f.b.val).atomicBad p (atomicRequest f s op) = none := by
  have hinside : s.sys.insideOf f.b.val = s.sys := by rw [Sys.insideOf, h.sigma]
  have hmark : (atomicRequest f s op).mark = .clean := Mem.worst_clean h.lockerClean ..
  have hsize : ¬ (f.size ≠ 4 ∧ f.size ≠ 8) := by have := h.size; omega
  rw [hinside, Sys.atomicBad, hmark]
  simp [atomicRequest, Mark.isBad_clean, h.aligned, h.space, h.located, h.writable, hsize, Nat.not_lt.mpr hop]

/-- The record answers with what its operation comes to. -/
theorem AtomicInOrder.exec_answers {i : Instr} {op st old : Nat} {z : Sys} (hexec : exec i s = s.atomic i f op) (hop : op ≤ 10)
    (hat : s.sys.atomicAt p f.target.toNat f.size op f.operand.toNat f.compare.toNat = (z, st, old)) : exec i s
      = .next { s with sys := { z.onArch f.b.val (s.sys.bight f.b.val).nextSeq (atomicRespond f.place.toNat st old) with replay := none } } := by
  rw [h.exec_atomic hexec]
  have hworst : (s.sys.readPart p f.target.toNat f.size).worst = .clean := Blob.worst_of_bad_nil (by rw [h.read])
  unfold Sys.atomicRecord
  simp only [h.part, Option.getD_some, h.notBad hop]
  simp only [atomicRequest, hworst, Mark.isBad_clean, hat, if_true, Bool.false_eq_true, if_false]

/-- What the operation leaves: NONE leaves the location, any other writes its result. -/
theorem AtomicInOrder.atomicAt_eq {op new : Nat}
    (hnew : atomicOp op (8 * f.size) (atomicValue f s k) (f.operand.toNat % 2 ^ (8 * f.size)) (f.compare.toNat % 2 ^ (8 * f.size)) = some new) :
    s.sys.atomicAt p f.target.toNat f.size op f.operand.toNat f.compare.toNat
      = if op = 0 then (s.sys, 1, atomicValue f s k) else
        (s.sys.writePart p f.target.toNat (Blob.ofBytes (leBytes f.size new)),
          if op = 10 ∧ atomicValue f s k ≠ f.compare.toNat % 2 ^ (8 * f.size) then 5 else 0, atomicValue f s k) := by
  have hvalue : s.sys.window p f.target.toNat f.size = atomicValue f s k := by rw [Sys.window, h.read, atomicValue_eq]
  unfold Sys.atomicAt
  simp only [hvalue, hnew]

end Record

/-! What a record leaves -/

/-- The location takes `new`, the record `st` and `old`, and nothing else of memory, the locker, the Bight, the partitions and the contexts differs. -/
def AtomicDone (f : AtomicF) (s t : State) (k new st old : Nat) : Prop :=
  (∀ j < f.size, t.sys.mem.data.byte (k + j) = BitVec.ofNat 8 (new / 256 ^ j))
    ∧ (∀ q, (q < k ∨ k + f.size ≤ q) → t.sys.mem.data.byte q = s.sys.mem.data.byte q)
    ∧ (t.arch f.b).locker.byte (f.place.toNat + 2) = BitVec.ofNat 8 st
    ∧ (∀ j < 8, (t.arch f.b).locker.byte (f.place.toNat + 0x18 + j) = BitVec.ofNat 8 (old / 256 ^ j))
    ∧ (∀ q, q ≠ f.place.toNat + 2 → (q < f.place.toNat + 0x18 ∨ f.place.toNat + 0x20 ≤ q) → (t.arch f.b).locker.byte q = (s.arch f.b).locker.byte q)
    ∧ { t.arch f.b with locker := (s.arch f.b).locker } = s.arch f.b ∧ t.fuses = s.fuses ∧ t.sys.parts = s.sys.parts ∧ t.sys.ctxs = s.sys.ctxs

/-- An answer in the locker, after a step that has left the Bights. -/
theorem atomicDone_of_answer {f : AtomicF} {s : State} {k new st old : Nat} (z : Sys) (hr : (s.sys.bight f.b.val).region = none) (hb : z.bights = s.sys.bights)
    (hparts : z.parts = s.sys.parts) (hctxs : z.ctxs = s.sys.ctxs) (hin : ∀ j < f.size, z.mem.data.byte (k + j) = BitVec.ofNat 8 (new / 256 ^ j))
    (hout : ∀ q, (q < k ∨ k + f.size ≤ q) → z.mem.data.byte q = s.sys.mem.data.byte q) (seq : Nat) :
    AtomicDone f s { s with sys := { z.onArch f.b.val seq (atomicRespond f.place.toNat st old) with replay := none } } k new st old := by
  have hbight : z.bight f.b.val = s.sys.bight f.b.val := by rw [Sys.bight, hb]; rfl
  have harch : State.arch { s with sys := { z.onArch f.b.val seq (atomicRespond f.place.toNat st old) with replay := none } } f.b
      = atomicRespond f.place.toNat st old (s.arch f.b) := by
    rw [Sys.onArch_none (by rw [hbight, hr]), hbight]
    exact congrArg Bight.arch (Sys.bight_setBight ..)
  unfold AtomicDone
  rw [harch]
  refine ⟨hin, hout, ?_, fun j hj => ?_, fun q hq hq' => ?_, rfl, rfl, hparts, hctxs⟩
  · simp [atomicRespond, Mem.byte_put, leBytes, natByte]
  · rw [atomicRespond, Mem.byte_put, if_pos (by rw [length_leBytes]; omega), Nat.add_sub_cancel_left, getD_leBytes _ _ hj]
  · rw [atomicRespond, Mem.byte_put, if_neg (by rw [length_leBytes]; omega), Mem.byte_put, if_neg (by rw [length_leBytes]; omega)]

/-- The status of a CAS, by whether it matched. -/
theorem casStatus_eq (old c : Nat) : (if 10 = 10 ∧ old ≠ c then 5 else 0) = if old = c then 0 else 5 := by
  by_cases hc : old = c <;> simp [hc]

/-- An operation with its result and its status. -/
theorem AtomicInOrder.done {f : AtomicF} {s : State} {p k op new st : Nat} {i : Instr} (h : AtomicInOrder f s p k) (hexec : exec i s = s.atomic i f op)
    (hop : op ≤ 10)
    (hnew : atomicOp op (8 * f.size) (atomicValue f s k) (f.operand.toNat % 2 ^ (8 * f.size)) (f.compare.toNat % 2 ^ (8 * f.size)) = some new)
    (hst : (if op = 0 then 1 else if op = 10 ∧ atomicValue f s k ≠ f.compare.toNat % 2 ^ (8 * f.size) then 5 else 0) = st) :
    ∃ t, exec i s = .next t ∧ AtomicDone f s t k new st (atomicValue f s k) := by
  have hat := h.atomicAt_eq hnew
  by_cases h0 : op = 0
  · obtain rfl : atomicValue f s k = new := by subst h0; exact Option.some.inj hnew
    rw [if_pos h0] at hat hst
    subst hst
    exact ⟨_, h.exec_answers hexec hop hat, atomicDone_of_answer _ h.region rfl rfl rfl (fun j hj => (atomicValue_byte hj).symm) (fun _ _ => rfl) _⟩
  · rw [if_neg h0] at hat hst
    rw [hst] at hat
    obtain ⟨mk, hwrite⟩ := h.write new
    rw [hwrite] at hat
    refine ⟨_, h.exec_answers hexec hop hat, 
      atomicDone_of_answer (s.sys.poke k f.size 0 (leBytes f.size new).toArray mk) h.region rfl rfl rfl (fun j hj => ?_) (fun q hq => ?_) _⟩
    · rw [Sys.poke, Mem.byte_write_in _ _ _ _ _ _ hj, Nat.zero_add, List.getElem?_toArray, ← List.getD_eq_getElem?_getD]
      exact getD_leBytes _ _ hj
    · exact Mem.byte_write_out _ _ _ _ _ _ hq

/-- Settles O27: a record in order answers with the result of its operation, whose signed comparisons are those of the numbers. -/
theorem atomics : Obligations.Atomics := by
  unfold Obligations.Atomics
  intro f s p k hruns hregion hsigma hpart hrespond hsize haligned hspace hlocated hroom hwritable hserved hrecord hlocker hmem
  have h : AtomicInOrder f s p k :=
    ⟨hruns, hregion, hsigma, hpart, hrespond, hsize, haligned, hspace, hlocated, hroom, hwritable, hserved, hrecord, hlocker, hmem⟩
  intro n w old x c sg done
  have hw : 0 < w := by omega
  have hsigned : ∀ v, v < 2 ^ w → (BitVec.ofNat w v).toInt = sg v := fun v hv => toInt_ofNat_of_lt hw hv
  have hold : old < 2 ^ w := atomicValue_lt
  have hx : x < 2 ^ w := Nat.mod_lt _ (Nat.two_pow_pos w)
  refine ⟨h.done (op := 0) rfl (by decide) rfl rfl, h.done (op := 1) rfl (by decide) rfl rfl, h.done (op := 2) rfl (by decide) ?_ rfl,
    h.done (op := 3) rfl (by decide) ?_ rfl, h.done (op := 4) rfl (by decide) rfl rfl, h.done (op := 5) rfl (by decide) rfl rfl,
    h.done (op := 6) rfl (by decide) rfl rfl, h.done (op := 7) rfl (by decide) rfl rfl, h.done (op := 8) rfl (by decide) rfl rfl,
    h.done (op := 9) rfl (by decide) rfl rfl, h.done (op := 10) rfl (by decide) rfl ?_⟩
  · rw [← hsigned x hx, ← hsigned old hold]
    rfl
  · rw [← hsigned x hx, ← hsigned old hold]
    rfl
  · exact casStatus_eq old c

end Sys2Proof.Machine

/-!
O52, temperature and margining (R215 to R222, R279, R426): what notices leave of the platform, the readings and windows of a controller, the records of
a margining run, and its requests.
-/

namespace Sys2Proof

/-! Fields of byte strings -/

/-- The number that the bytes of a number spell is what of it fits in them. -/
theorem leNat_leBytes (n x : Nat) : leNat (leBytes n x) = x % 256 ^ n := by
  induction n generalizing x with
  | zero => simp [leBytes, leNat, Nat.mod_one]
  | succ n ih =>
    have hbytes : leBytes (n + 1) x = natByte x 0 :: leBytes n (x / 256) := by
      simp [leBytes, List.range_succ_eq_map, natByte, Nat.pow_succ', Nat.div_div_eq_div_mul, Function.comp_def]
    rw [hbytes, leNat, ih, Nat.pow_succ', Nat.mod_mul]
    simp [natByte]

@[simp] theorem length_sliceB (b : Bytes) (o n : Nat) : (sliceB b o n).length = n := by simp [sliceB]

/-- A slice within a piece of a string. -/
theorem sliceB_take_drop (b : Bytes) {a m o n : Nat} (h : o + n ≤ m) : sliceB ((b.drop a).take m) o n = sliceB b (a + o) n := by
  unfold sliceB
  refine List.map_congr_left fun i hi => ?_
  have hin : o + i < m := by have := List.mem_range.mp hi; omega
  rw [List.getD_eq_getElem?_getD, List.getD_eq_getElem?_getD, List.getElem?_take_of_lt hin, List.getElem?_drop, Nat.add_assoc]

end Sys2Proof

namespace Sys2Proof.Machine

/-! The platform under notices and records (R279) -/

/-- Steps that each leave the platform leave it one after the other. -/
theorem foldl_plat {α : Type} {g : Sys → α → Sys} (h : ∀ y e, (g y e).plat = y.plat) (l : List α) (y : Sys) : (l.foldl g y).plat = y.plat := by
  induction l generalizing y with
  | nil => rfl
  | cons e t ih => rw [List.foldl_cons, ih, h]

section Plat

variable (y : Sys)

theorem Sys.event_plat (p code : Nat) (args : Bytes) : (y.event p code args).plat = y.plat := by
  unfold Sys.event
  dsimp only
  split <;> rfl

theorem Sys.useFabric_plat (c tx rx : Nat) : (y.useFabric c tx rx).plat = y.plat := by
  unfold Sys.useFabric
  dsimp only
  split <;> rfl

theorem Sys.txLoop_plat (fuel f : Nat) : (y.txLoop fuel f).plat = y.plat := by
  induction fuel generalizing y with
  | zero => rfl
  | succ fuel ih =>
    unfold Sys.txLoop
    dsimp only
    split
    · rfl
    · split
      · exact (ih _).trans (Sys.useFabric_plat ..)
      · rfl

theorem Sys.enqueue_plat (f : Nat) (frs : List Frame) : (y.enqueue f frs).plat = y.plat := Sys.txLoop_plat ..

theorem Sys.message_plat (fn v : Nat) : (y.message fn v).plat = y.plat := by
  unfold Sys.message
  dsimp only
  split
  · rfl
  · split <;> rfl

theorem Sys.writeOpEvent_plat : y.writeOpEvent.plat = y.plat := by
  unfold Sys.writeOpEvent
  split
  · rfl
  · dsimp only
    split
    · rfl
    · split
      · rfl
      · exact Sys.message_plat ..

theorem Sys.opEvent_plat (code : Nat) (args : Bytes) : (y.opEvent code args).plat = y.plat :=
  foldl_plat (fun y _ => y.writeOpEvent_plat) _ _

theorem Sys.eventAll_plat (code : Nat) (args : Bytes) : (y.eventAll code args).plat = y.plat :=
  (Sys.opEvent_plat ..).trans (foldl_plat (fun y p => y.event_plat p code args) _ y)

theorem Sys.notice_plat : y.notice.plat = y.plat := by
  have hslow : ∀ (level : Nat), (y.fab.colls.foldl (fun s c =>
      (s.openSends c.part [c.plan.upTx, c.plan.downTx]).foldl (fun s f => s.enqueue f [slowNotice s.node level c]) s) y).plat = y.plat := fun level =>
    foldl_plat (fun _ _ => foldl_plat (fun y f => y.enqueue_plat f _) _ _) _ y
  unfold Sys.notice
  dsimp only
  split
  · exact (Sys.eventAll_plat ..).trans (hslow _)
  · exact (Sys.eventAll_plat ..).trans (hslow _)

/-- Notices follow a change and leave the platform as the change did. -/
theorem Sys.withNotice_plat (g : Sys → Sys) : (y.withNotice g).plat = (g y).plat := by
  unfold Sys.withNotice
  dsimp only
  split
  · rfl
  · exact Sys.notice_plat _

theorem Sys.refresh_plat (t : Nat) : (y.refresh t).plat = y.plat :=
  foldl_plat (g := fun s h => s.clearRegion (targetTier t) h none) (fun _ _ => rfl) _ y

/-- The end of a run by `status` changes of the platform the record of the run alone. -/
theorem Sys.endRun_plat (status : Nat) : (y.endRun status).plat
    = { y.plat with margin := { y.plat.margin with
        status := status
        buffer := marginBuffer 0 (min y.plat.margin.records ((Config.runRecords y.free).length / 16)) (Config.runRecords y.free) } } :=
  Sys.refresh_plat ..

end Plat

/-! Levels (R215, R216, R222) -/

/-- From `y` to `z` controller `u` alone has another temperature record, `x`. -/
def Sys.Measured (y z : Sys) (u : Nat) (x : Therm) : Prop := z.thermOf u = x ∧ ∀ v, v ≠ u → z.thermOf v = y.thermOf v

theorem Sys.measured_of_therm {y z w : Sys} {u : Nat} {x : Therm} (h : y.Measured z u x) (hplat : w.plat.therm = z.plat.therm) : y.Measured w u x := by
  have hread : ∀ v, w.thermOf v = z.thermOf v := fun v => by rw [Sys.thermOf, hplat]; rfl
  exact ⟨(hread u).trans h.1, fun v hv => (hread v).trans (h.2 v hv)⟩

theorem Sys.measured_setTherm (y : Sys) (u : Nat) (x : Therm) : y.Measured (y.setTherm u x) u x :=
  ⟨y.thermOf_setTherm u x, fun _ hv => y.thermOf_setTherm_other x hv⟩

/-- A new level, whatever it ends. -/
theorem Sys.setLevel_therm (y : Sys) (u level : Nat) : (y.setLevel u level).plat.therm = (y.setTherm u { y.thermOf u with level := level }).plat.therm := by
  unfold Sys.setLevel
  dsimp only
  generalize hz : Sys.logRec _ _ = z
  have htherm : z.plat.therm = (y.setTherm u { y.thermOf u with level := level }).plat.therm := by rw [← hz]; rfl
  split
  · rw [Sys.endRun_plat]
    exact htherm
  · exact htherm

/-- A controller takes up a record, then a level. -/
theorem Sys.measured_setLevel (y : Sys) (u : Nat) (x : Therm) (level : Nat) : y.Measured ((y.setTherm u x).setLevel u level) u { x with level := level } := by
  have hread : (y.setTherm u x).thermOf u = x := y.thermOf_setTherm u x
  refine Sys.measured_of_therm (z := (y.setTherm u x).setTherm u { x with level := level }) ⟨Sys.thermOf_setTherm .., fun v hv => ?_⟩ ?_
  · rw [Sys.thermOf_setTherm_other _ _ hv, Sys.thermOf_setTherm_other _ _ hv]
  · rw [Sys.setLevel_therm, hread]

/-- A row of a controller that changes levels with their notices. -/
theorem measured_of_withNotice {i : Instr} {s : State} {g : Sys → Sys} {u : Nat} {x : Therm} (hexec : exec i s = s.onSys (fun y => y.withNotice g))
    (h : s.sys.Measured (g s.sys) u x) : ∃ t, exec i s = .next t ∧ t.fuses = s.fuses ∧ s.sys.Measured t.sys u x :=
  ⟨_, hexec, rfl, Sys.measured_of_therm h (by rw [Sys.withNotice_plat])⟩

/-- The same of a row that finds nothing to do. -/
theorem idle_of_withNotice {i : Instr} {s : State} {g : Sys → Sys} (hexec : exec i s = s.onSys (fun y => y.withNotice g)) (h : g s.sys = s.sys) :
    exec i s = .next s := by
  rw [hexec, State.onSys_next, Sys.withNotice, h]
  simp

/-- What a reading adds to the window. -/
def Therm.taking (x : Therm) (raw : Int) : Therm := { x with sum := x.sum + raw, count := x.count + 1 }

/-- A window ends and the next begins. -/
def Therm.turned (x : Therm) : Therm := { x with sum := 0, count := 0, lastSum := x.sum, lastCount := x.count }

theorem Sys.measures_iff (y : Sys) (u : Nat) : y.measures u = true ↔ (y.fn (unitFn u)).state = .ready ∨ (y.fn (unitFn u)).state = .draining := by
  simp [Sys.measures]

section Reading

variable {y : Sys} {u : Nat} (hm : y.measures u = true) {raw : Int}
include hm

theorem Sys.reading_eq : y.reading u raw
    = if (y.thermOf u).level ≠ 4 ∧ y.critC u ≤ raw then (y.setTherm u ((y.thermOf u).taking raw)).setLevel u 4
      else if (y.thermOf u).level = 4 ∧ raw < y.critC u - 3 then (y.setTherm u ((y.thermOf u).taking raw)).setLevel u 3
      else y.setTherm u ((y.thermOf u).taking raw) := by
  unfold Sys.reading
  rw [hm]
  rfl

theorem Sys.reading_critical (h : y.critC u ≤ raw) : y.Measured (y.reading u raw) u { (y.thermOf u).taking raw with level := 4 } := by
  rw [Sys.reading_eq hm]
  by_cases hlevel : (y.thermOf u).level = 4
  · rw [if_neg (by simp [hlevel]), if_neg (by omega)]
    have hsame : { (y.thermOf u).taking raw with level := 4 } = (y.thermOf u).taking raw := by rw [← hlevel]; rfl
    rw [hsame]
    exact y.measured_setTherm ..
  · rw [if_pos ⟨hlevel, h⟩]
    exact y.measured_setLevel ..

theorem Sys.reading_cooling (hlevel : (y.thermOf u).level = 4) :
    y.Measured (y.reading u raw) u (if raw < y.critC u - 3 then { (y.thermOf u).taking raw with level := 3 } else (y.thermOf u).taking raw) := by
  rw [Sys.reading_eq hm, if_neg (by simp [hlevel])]
  split
  · next hcool =>
    rw [if_pos hcool.2]
    exact y.measured_setLevel ..
  · next hwarm =>
    rw [if_neg (fun hcool => hwarm ⟨hlevel, hcool⟩)]
    exact y.measured_setTherm ..

theorem Sys.reading_calm (h : raw < y.critC u) (hlevel : (y.thermOf u).level ≠ 4) : y.Measured (y.reading u raw) u ((y.thermOf u).taking raw) := by
  rw [Sys.reading_eq hm, if_neg (by omega), if_neg (by omega)]
  exact y.measured_setTherm ..

/-! The end of a window -/

theorem Sys.thermalWindow_eq : y.thermalWindow u
    = if (y.thermOf u).count = 0 then y.setTherm u (y.thermOf u).turned
      else if (y.thermOf u).level ≤ 2 ∧ y.warnC u * (y.thermOf u).count ≤ (y.thermOf u).sum then
        (y.setTherm u (y.thermOf u).turned).setLevel u ((y.thermOf u).level + 1)
      else if 1 ≤ (y.thermOf u).level ∧ (y.thermOf u).level ≤ 3 ∧ (y.thermOf u).sum < (y.warnC u - 3) * (y.thermOf u).count then
        (y.setTherm u (y.thermOf u).turned).setLevel u ((y.thermOf u).level - 1)
      else y.setTherm u (y.thermOf u).turned := by
  unfold Sys.thermalWindow
  rw [hm]
  rfl

theorem Sys.thermalWindow_empty (h : (y.thermOf u).count = 0) : y.Measured (y.thermalWindow u) u (y.thermOf u).turned := by
  rw [Sys.thermalWindow_eq hm, if_pos h]
  exact y.measured_setTherm ..

variable (hc : (y.thermOf u).count ≠ 0)
include hc

theorem Sys.thermalWindow_up (hlevel : (y.thermOf u).level ≤ 2) (h : y.warnC u * (y.thermOf u).count ≤ (y.thermOf u).sum) :
    y.Measured (y.thermalWindow u) u { (y.thermOf u).turned with level := (y.thermOf u).level + 1 } := by
  rw [Sys.thermalWindow_eq hm, if_neg hc, if_pos ⟨hlevel, h⟩]
  exact y.measured_setLevel ..

theorem Sys.thermalWindow_down (hl : 1 ≤ (y.thermOf u).level) (hl' : (y.thermOf u).level ≤ 3)
    (h : (y.thermOf u).sum < (y.warnC u - 3) * (y.thermOf u).count) :
    y.Measured (y.thermalWindow u) u { (y.thermOf u).turned with level := (y.thermOf u).level - 1 } := by
  have hbelow : ¬ y.warnC u * (y.thermOf u).count ≤ (y.thermOf u).sum := by
    rw [Int.sub_mul] at h
    omega
  rw [Sys.thermalWindow_eq hm, if_neg hc, if_neg (fun hup => hbelow hup.2), if_pos ⟨hl, hl', h⟩]
  exact y.measured_setLevel ..

theorem Sys.thermalWindow_level (h : (y.thermOf u).level = 4 ∨ ((y.warnC u - 3) * (y.thermOf u).count ≤ (y.thermOf u).sum
    ∧ (y.thermOf u).sum < y.warnC u * (y.thermOf u).count)) : y.Measured (y.thermalWindow u) u (y.thermOf u).turned := by
  rw [Sys.thermalWindow_eq hm, if_neg hc, if_neg (by omega), if_neg (by omega)]
  exact y.measured_setTherm ..

end Reading

/-! The records of a run (R220 to R222) -/

@[simp] theorem length_marginRecord (i : Nat) (b : Bytes) : (marginRecord i b).length = 16 := by simp [marginRecord]

@[simp] theorem length_marginBuffer (i n : Nat) (b : Bytes) : (marginBuffer i n b).length = 16 * n := by
  induction n generalizing i b with
  | zero => rfl
  | succ n ih => rw [marginBuffer, List.length_append, ih, length_marginRecord]; omega

/-- Each record stands in its place. -/
theorem marginBuffer_record (i n : Nat) (b : Bytes) {j : Nat} (h : j < n) :
    ((marginBuffer i n b).drop (16 * j)).take 16 = marginRecord (i + j) ((b.drop (16 * j)).take 16) := by
  induction n generalizing i b j with
  | zero => omega
  | succ n ih =>
    cases j with
    | zero => rw [marginBuffer, Nat.mul_zero, List.drop_zero, List.drop_zero, List.take_left' (length_marginRecord ..)]; rfl
    | succ j =>
      have hplace : 16 * (j + 1) = (marginRecord i (b.take 16)).length + 16 * j := by rw [length_marginRecord]; omega
      rw [marginBuffer, hplace, List.drop_length_add_append, ih _ _ (by omega), List.drop_drop, length_marginRecord]
      congr 1
      omega

/-- A field of a record in its buffer. -/
theorem fieldN_marginBuffer (n : Nat) (b : Bytes) {j o m : Nat} (h : j < n) (hm : o + m ≤ 16) :
    fieldN (marginBuffer 0 n b) (16 * j + o) m = fieldN (marginRecord j ((b.drop (16 * j)).take 16)) o m := by
  have hrec := marginBuffer_record 0 n b h
  rw [Nat.zero_add] at hrec
  rw [fieldN, fieldN, ← hrec, sliceB_take_drop _ hm]

theorem fieldN_marginRecord_line (i : Nat) (b : Bytes) (h : i < 65536) : fieldN (marginRecord i b) 0 2 = i := by
  have hslice : sliceB (marginRecord i b) 0 2 = leBytes 2 i := by
    simp [marginRecord, sliceB, leBytes, List.range_succ]
  rw [fieldN, hslice, leNat_leBytes]
  omega

theorem fieldN_marginRecord_reserved (i : Nat) (b : Bytes) : fieldN (marginRecord i b) 6 2 = 0 := by
  have hslice : sliceB (marginRecord i b) 6 2 = [0, 0] := by
    simp [marginRecord, sliceB, leBytes, List.range_succ]
  rw [fieldN, hslice]
  rfl

/-- A record as the measured bytes that it is made of. -/
theorem marginRecord_piece (i : Nat) (b : Bytes) (a : Nat) :
    marginRecord i ((b.drop a).take 16) = leBytes 2 i ++ sliceB b (a + 2) 4 ++ [0, 0] ++ sliceB b (a + 8) 8 := by
  rw [marginRecord, sliceB_take_drop _ (by decide), sliceB_take_drop _ (by decide)]

theorem Margin.records_le (m : Margin) : m.records ≤ 2304 := by
  unfold Margin.records
  split
  · decide
  · split <;> decide

/-! Requests (R219, R426) -/

/-- Taking a request leaves the platform, the partitions and the values of the dictionary. -/
theorem State.takenReq_plat (s : State) (r : ReqF) (index sub : Nat) : (s.takenReq r index sub).sys.plat = s.sys.plat :=
  (congrArg Sys.plat (Sys.submitted_frame s.sys r.path _) :)

theorem State.takenReq_holder (s : State) (r : ReqF) (index sub h : Nat) : (s.takenReq r index sub).sys.holder h = s.sys.holder h := by
  have hparts : (s.takenReq r index sub).sys.parts = s.sys.parts := (congrArg Sys.parts (Sys.submitted_frame s.sys r.path _) :)
  unfold Sys.holder Sys.part
  rw [hparts]

theorem State.takenReq_dv (s : State) (r : ReqF) (index sub i j : Nat) : (s.takenReq r index sub).sys.dv i j = s.sys.dv i j := by
  unfold State.takenReq Sys.submitted
  cases r.path <;> rfl

/-- The function of a margining target. -/
def targetFn (t : Nat) : Nat := if t < 20 then 0x20 + t else 0x60 + (t - 0x40)

theorem Sys.startRun_eq (y : Sys) (supply : Bool) : y.startRun supply
    = if y.fnReady (targetFn (y.dv 0x9000 2)) = false then (y, 0x02010002)
      else if (targetHanks (y.dv 0x9000 2)).any (fun h => (y.holder h).isSome) = true then (y, 0x03010001)
      else if y.plat.margin.running = true then (y, 0x03010004)
      else ({ y with plat := { y.plat with margin := { status := 1, supply := supply, target := y.dv 0x9000 2, buffer := [] } } }, 0) := by
  unfold Sys.startRun
  simp only [Bool.not_eq_true']
  rfl

section Request

variable {s : State} {r : ReqF} {w : Who} (h : s.serves r.path r.submit r.role r.transfer 0x9000 w) (hw : w = .operator ∨ w = .vendor)
include h hw

/-- A margining request as the answer of its operation. -/
theorem grants_margin {i : Instr} {op : Sys → Sys × Nat} (hexec : exec i s = .next (s.request r 0x9000 1 Who.opOrVendor (fun _ t => t.onCode op)))
    {z : Sys} {code : Nat} (hop : op (s.takenReq r 0x9000 1).sys = (z, code)) (hcode : code ≠ noAnswer) :
    Grants i s r 0x9000 1 code { s.takenReq r 0x9000 1 with sys := z } := by
  have hmay : Who.opOrVendor w = true := by rcases hw with rfl | rfl <;> rfl
  have hgrants := grants_of_serves h hexec hmay rfl (by rw [State.onCode, hop]; exact hcode)
  rw [State.onCode, hop] at hgrants
  exact hgrants

/-- A start of either kind is refused alike. -/
theorem grants_refused {code : Nat} (hcode : code ≠ noAnswer)
    (hop : ∀ supply, (s.takenReq r 0x9000 1).sys.startRun supply = ((s.takenReq r 0x9000 1).sys, code)) :
    Grants (.timingScan r) s r 0x9000 1 code (s.takenReq r 0x9000 1) ∧ Grants (.supplyScan r) s r 0x9000 1 code (s.takenReq r 0x9000 1) :=
  ⟨grants_margin h hw rfl (hop false) hcode, grants_margin h hw rfl (hop true) hcode⟩

end Request

/-! A start by its checks, in their order -/

section Start

variable {y : Sys} {supply : Bool}

theorem Sys.startRun_not_ready (hf : y.fnReady (targetFn (y.dv 0x9000 2)) = false) : y.startRun supply = (y, 0x02010002) := by
  rw [Sys.startRun_eq, if_pos hf]

variable (hf : y.fnReady (targetFn (y.dv 0x9000 2)) = true)
include hf

theorem Sys.startRun_held (hh : ∃ h ∈ targetHanks (y.dv 0x9000 2), (y.holder h).isSome = true) : y.startRun supply = (y, 0x03010001) := by
  rw [Sys.startRun_eq, if_neg (by simp [hf]), if_pos (List.any_eq_true.mpr hh)]

variable (hh : ∀ h ∈ targetHanks (y.dv 0x9000 2), y.holder h = none)
include hh

theorem Sys.startRun_free : y.startRun supply = if y.plat.margin.running = true then (y, 0x03010004)
    else ({ y with plat := { y.plat with margin := { status := 1, supply := supply, target := y.dv 0x9000 2, buffer := [] } } }, 0) := by
  rw [Sys.startRun_eq, if_neg (by simp [hf]), if_neg (Bool.not_eq_true _ ▸ List.any_eq_false.mpr fun h hmem => by simp [hh h hmem])]

end Start

theorem Sys.abortRun_idle {y : Sys} (h : y.plat.margin.running = false) : y.abortRun = (y, 0x02010002) := by
  rw [Sys.abortRun, h]
  rfl

theorem Sys.abortRun_running {y : Sys} (h : y.plat.margin.running = true) : y.abortRun = (y.endRun 3, 0) := by
  rw [Sys.abortRun, if_pos h]

/-- An abort and the end of a run leave the platform but for the record of the run. -/
theorem Sys.endRun_margin (y : Sys) (status : Nat) : ∃ n ≤ y.plat.margin.records, ∃ kept,
    (y.endRun status).plat = { y.plat with margin := { y.plat.margin with status := status, buffer := marginBuffer 0 n kept } } :=
  ⟨_, Nat.min_le_left .., _, y.endRun_plat status⟩

/-- The end of a run that was not cut short. -/
theorem Sys.runComplete_plat {y : Sys} (h : y.plat.margin.running = true) (buffer : Bytes) : (y.runComplete buffer).plat
    = { y.plat with margin := { y.plat.margin with status := 2, buffer := marginBuffer 0 y.plat.margin.records buffer } } := by
  unfold Sys.runComplete
  simp only [h, Bool.not_true, Bool.false_eq_true, if_false]
  exact Sys.refresh_plat ..

/-- Settles O52: a reading and the end of a window as the record that they leave, kept through level changes and notices; a margining request by the checks
of a start; an abort and an end by the records of the buffer. -/
theorem temperatureMargining : Obligations.TemperatureMargining := by
  unfold Obligations.TemperatureMargining
  intro s
  refine ⟨fun u raw => ?_, fun r w hserves hw => ?_, fun buffer => ?_⟩
  · intro x limit crit warn f becomes read ended
    have hreading : ∀ {y : Therm}, s.sys.Measured (s.sys.reading u.val raw) u.val y → becomes (.thermalReading u raw) y := fun h =>
      measured_of_withNotice (g := fun y => y.reading u.val raw) rfl h
    have hwindow : ∀ {y : Therm}, s.sys.Measured (s.sys.thermalWindow u.val) u.val y → becomes (.thermalWindowEnd u) y := fun h =>
      measured_of_withNotice (g := fun y => y.thermalWindow u.val) rfl h
    refine ⟨fun hready hdraining => ?_, fun hstate => ?_⟩
    · have hm : s.sys.measures u.val = false := Bool.eq_false_iff.mpr fun hm => ((s.sys.measures_iff u.val).mp hm).elim hready hdraining
      exact ⟨idle_of_withNotice (g := fun y => y.reading u.val raw) rfl (by simp [Sys.reading, hm]),
        idle_of_withNotice (g := fun y => y.thermalWindow u.val) rfl (by simp [Sys.thermalWindow, hm])⟩
    · have hm : s.sys.measures u.val = true := (s.sys.measures_iff u.val).mpr hstate
      exact ⟨fun h => hreading (Sys.reading_critical hm h), fun _ hl => hreading (Sys.reading_cooling hm hl), fun h hl => hreading (Sys.reading_calm hm h hl),
        fun h => hwindow (Sys.thermalWindow_empty hm h), fun hc hl h => hwindow (Sys.thermalWindow_up hm hc hl h),
        fun hc hl hl' h => hwindow (Sys.thermalWindow_down hm hc hl hl' h), fun hc h => hwindow (Sys.thermalWindow_level hm hc h)⟩
  · intro u target f m all
    have hplat : u.sys.plat = s.sys.plat := s.takenReq_plat r 0x9000 1
    have htarget : u.sys.dv 0x9000 2 = target := s.takenReq_dv r 0x9000 1 0x9000 2
    have hready : u.sys.fnReady (targetFn (u.sys.dv 0x9000 2)) = ((s.sys.fn f).state == .ready) := by
      rw [htarget, Sys.fnReady, Sys.fn, hplat]
      rfl
    have hholder : ∀ h, u.sys.holder h = s.sys.holder h := s.takenReq_holder r 0x9000 1
    refine ⟨fun hf => ?_, fun hf hh => ?_, fun hf hh => ?_, fun hm => ?_, fun hm => ?_⟩
    · exact grants_refused hserves hw (by decide) fun supply => Sys.startRun_not_ready (by rw [hready]; simpa using hf)
    · exact grants_refused hserves hw (by decide) fun supply => Sys.startRun_held (by rw [hready]; simpa using hf) (by
        obtain ⟨h, hmem, hheld⟩ := hh
        exact ⟨h, by rw [htarget]; exact hmem, by rw [hholder]; exact hheld⟩)
    · have hstart : ∀ supply, u.sys.startRun supply = if m.running = true then (u.sys, 0x03010004)
          else ({ u.sys with plat := { s.sys.plat with margin := { status := 1, supply := supply, target := target, buffer := [] } } }, 0) := fun supply => by
        rw [Sys.startRun_free (by rw [hready]; simpa using hf) (by
          rw [htarget]
          exact fun h hmem => (hholder h).trans (hh h hmem)), hplat, htarget]
      refine ⟨fun hm => ?_, fun hm => ?_⟩
      · exact grants_refused hserves hw (by decide) fun supply => (hstart supply).trans (if_pos hm)
      · have hidle : ¬ m.running = true := by simp [hm]
        exact ⟨grants_margin hserves hw rfl ((hstart false).trans (if_neg hidle)) (by decide), grants_margin hserves hw rfl ((hstart true).trans (if_neg hidle)) (by decide)⟩
    · exact grants_margin hserves hw rfl (Sys.abortRun_idle (by rw [hplat]; exact hm)) (by decide)
    · obtain ⟨n, hn, kept, hend⟩ := u.sys.endRun_margin 3
      rw [hplat] at hn hend
      refine ⟨{ u with sys := u.sys.endRun 3 }, n, grants_margin hserves hw rfl (Sys.abortRun_running (by rw [hplat]; exact hm)) (by decide), ?_⟩
      dsimp only
      rw [hend]
      refine ⟨rfl, rfl, length_marginBuffer .., hn, rfl, fun i hi => ⟨?_, ?_⟩⟩
      · exact (fieldN_marginBuffer n kept hi (o := 0) (by decide)).trans (fieldN_marginRecord_line _ _ (by have := s.sys.plat.margin.records_le; omega))
      · exact (fieldN_marginBuffer n kept hi (by decide)).trans (fieldN_marginRecord_reserved ..)
  · refine ⟨fun hm => ?_, fun hm => ⟨_, rfl, rfl, ?_⟩⟩
    · show State.onSys s (fun y => y.runComplete buffer) = _
      rw [State.onSys_next, Sys.runComplete, hm]
      rfl
    · dsimp only
      rw [Sys.runComplete_plat hm buffer]
      refine ⟨rfl, rfl, length_marginBuffer .., fun i hi => ?_⟩
      exact (marginBuffer_record 0 s.sys.plat.margin.records buffer hi).trans (by rw [Nat.zero_add]; exact marginRecord_piece ..)

end Sys2Proof.Machine

/-!
O56, the scrub read of a codeword that cannot be corrected (R203, R204): where the position of the scrub lies beyond the last hank of the module,
the copy that a stack keeps of a line apart lies among the bytes that `SameBytes` speaks of.
-/

namespace Sys2Proof.Machine

/-- The scrub of stack 0 stands at the first codeword of a hank numbered 80, whose slice holds the line of that codeword; its first byte is 1. No step
leaves the scrub there. -/
def farScrubState : State :=
  { State.reset with
    sys := { Sys.cold with
      mem := { MemSys.empty with
        data := Mem.empty.put (physKey 0 80 0) [1#8]
        cache := [(cacheKey 80 0, ⟨true, false, false⟩)]
        scrubAt := [(0, 80 * regionWords)] } } }

/-- A scrub read of stack 0 that finds two wrong symbols. -/
def badScrub : ScrubF := ⟨0, flipSymbol (flipSymbol 0#144 0 1#4) 1 1#4⟩

theorem badScrub_uncorrectable : classify (syndrome badScrub.flip) = .bad := by decide +kernel

theorem farScrubState_scrubs : farScrubState.sys.limitOf 0 1 ≠ 0 := by decide +kernel

theorem farScrubState_pos : farScrubState.sys.mem.scrubAt.get 0 0 = 80 * 999892124 := by decide +kernel

/-- The codeword that the scrub reads is clean. -/
theorem farScrubState_clean : farScrubState.sys.mem.data.mark (farScrubState.sys.memKey 0 80 0 / 16) = .clean := by decide +kernel

/-- As the line is set apart, its first byte is copied to the place that the stack of hank 80 would have for it. -/
theorem farScrub_byte {u : State} (h : exec (.scrubRead badScrub) farScrubState = .next u) : u.sys.mem.data.byte (physKey 3 80 0) = 1#8 := by
  have hrun : (match exec (.scrubRead badScrub) farScrubState with
      | .next u => u.sys.mem.data.byte (physKey 3 80 0)
      | _ => 0#8) = 1#8 := by decide +kernel
  rw [h] at hrun
  exact hrun

/-- Refutes O56: a scrub read at a position beyond the hanks of its stack, of a codeword that it cannot correct, changes a byte that any reader of that
place meets. -/
theorem not_scrubAndCache : ¬ Obligations.ScrubAndCache := by
  intro h
  obtain ⟨-, hon⟩ := (h farScrubState).1 badScrub
  obtain ⟨-, hdata⟩ := hon farScrubState_scrubs
  obtain ⟨-, hbad⟩ := hdata (by decide +kernel) (by decide +kernel)
  obtain ⟨u, hexec, -, -, -, hbytes, -⟩ := hbad badScrub_uncorrectable
  have hsame : u.sys.mem.data.byte (physKey 3 80 0) = farScrubState.sys.mem.data.byte (physKey 3 80 0) := hbytes (physKey 3 80 0) (by decide)
  rw [farScrub_byte hexec] at hsame
  exact absurd hsame (by decide +kernel)

end Sys2Proof.Machine

/-!
O55, the symbol code (R199, R200): the syndrome of one wrong symbol, and what a codeword is read as under the errors of the statement.
-/

namespace Sys2Proof.Machine

/-! One wrong symbol -/

@[simp] theorem Synd.add_zero (a : Synd) : a.add Synd.zero = a := by simp [Synd.add, Synd.zero]

@[simp] theorem Synd.zero_add (a : Synd) : Synd.zero.add a = a := by simp [Synd.add, Synd.zero]

@[simp] theorem gfMul_one (a : BitVec 4) : gfMul a 1#4 = a := by revert a; decide

@[simp] theorem zero_gfMul (b : BitVec 4) : gfMul 0#4 b = 0#4 := by revert b; decide

/-- A nonzero factor can be cancelled. -/
theorem gfMul_left_cancel : ∀ k : BitVec 4, k ≠ 0#4 → ∀ a b : BitVec 4, gfMul k a = gfMul k b → a = b := by decide +kernel

@[simp] theorem Synd.scale_zero (a : Synd) : a.scale 0#4 = Synd.zero := by simp [Synd.scale, Synd.zero]

theorem Synd.scale_left_cancel {k : BitVec 4} (hk : k ≠ 0#4) {a b : Synd} (h : a.scale k = b.scale k) : a = b := by
  obtain ⟨h0, h1, h2, h3⟩ := Synd.mk.inj h
  obtain ⟨a0, a1, a2, a3⟩ := a
  obtain ⟨b0, b1, b2, b3⟩ := b
  simp only [Synd.mk.injEq]
  exact ⟨gfMul_left_cancel k hk _ _ h0, gfMul_left_cancel k hk _ _ h1, gfMul_left_cancel k hk _ _ h2, gfMul_left_cancel k hk _ _ h3⟩

/-- No two symbols have the same column. -/
theorem column_injective : ∀ i j : Fin 36, column i.val = column j.val → i = j := by decide +kernel

/-- A word that is 0 but for one symbol, by its symbols. -/
theorem symbolOf_flipSymbol {i j : Nat} (hi : i < 36) (v : BitVec 4) : symbolOf (flipSymbol 0#144 j v) i = if i = j then v else 0#4 := by
  apply BitVec.eq_of_getLsbD_eq
  intro b hb
  have hin : 4 * i + b < 144 := by omega
  simp only [symbolOf, flipSymbol, BitVec.zero_xor, BitVec.getLsbD_extractLsb', BitVec.getLsbD_shiftLeft, BitVec.getLsbD_setWidth]
  by_cases hij : i = j
  · subst hij
    have hpos : ¬ 4 * i + b < 4 * i := by omega
    have hplace : 4 * i + b - 4 * i = b := by omega
    simp [hb, hin, hpos, hplace, show b < 144 by omega]
  · rw [if_neg hij]
    by_cases hlt : i < j
    · simp [show 4 * i + b < 4 * j by omega]
    · have hhigh : v.getLsbD (4 * i + b - 4 * j) = false := BitVec.getLsbD_of_ge _ _ (by omega)
      simp [hhigh]

/-- A sum with one term. -/
theorem foldl_add_one (j : Nat) (x : Synd) (n : Nat) :
    (List.range n).foldl (fun s i => s.add (if i = j then x else Synd.zero)) Synd.zero = if j < n then x else Synd.zero := by
  induction n with
  | zero => simp
  | succ n ih =>
    rw [List.range_succ, List.foldl_append, ih]
    by_cases hj : j = n
    · simp [hj]
    · have hne : ¬ n = j := fun h => hj h.symm
      by_cases hlt : j < n
      · simp [hne, hlt, Nat.lt_succ_of_lt hlt]
      · simp [hne, hlt, show ¬ j < n + 1 by omega]

theorem syndrome_flipSymbol {j : Nat} (hj : j < 36) (v : BitVec 4) : syndrome (flipSymbol 0#144 j v) = (column j).scale v := by
  have hterm : ∀ i ∈ List.range 36, ∀ s : Synd, s.add ((column i).scale (symbolOf (flipSymbol 0#144 j v) i))
      = s.add (if i = j then (column j).scale v else Synd.zero) := fun i hi s => by
    rw [symbolOf_flipSymbol (List.mem_range.mp hi)]
    by_cases hij : i = j
    · simp [hij]
    · simp [hij]
  unfold syndrome foldFn
  rw [List.foldl_ext _ _ _ fun s i hi => hterm i hi s, foldl_add_one, if_pos hj]

/-- The symbol of a scaled column is the column's. -/
theorem symbolAt_scale {j : Nat} (hj : j < 36) {v : BitVec 4} (hv : v ≠ 0#4) : symbolAt ((column j).scale v) = some j := by
  have hs0 : ((column j).scale v).s0 = v := gfMul_one v
  unfold symbolAt
  rw [hs0, if_neg hv]
  refine List.find?_range_eq_some.mpr ⟨beq_self_eq_true _, List.mem_range.mpr hj, fun i hi => ?_⟩
  have hne : (column i).scale v ≠ (column j).scale v := fun h =>
    absurd (congrArg Fin.val (column_injective ⟨i, by omega⟩ ⟨j, hj⟩ (Synd.scale_left_cancel hv h))) (Nat.ne_of_lt hi)
  simpa using hne

/-! Codewords as they are read -/

theorem flipSymbol_twice (w : BitVec 144) (j : Nat) (v : BitVec 4) : flipSymbol (flipSymbol w j v) j v = w := by
  simp [flipSymbol]

/-- One wrong symbol is corrected, and no error is left. -/
theorem readWord_flipSymbol {j : Nat} (hj : j < 36) {v : BitVec 4} (hv : v ≠ 0#4) : readWord false (flipSymbol 0#144 j v) = (.corrected j, 0#128) := by
  have hs0 : ((column j).scale v).s0 = v := gfMul_one v
  have hclass : classify ((column j).scale v) = .corrected j := by
    have hne : (column j).scale v ≠ Synd.zero := fun h => hv (hs0.symm.trans (congrArg Synd.s0 h))
    rw [classify, if_neg hne, symbolAt_scale hj hv]
  simp only [readWord, syndrome_flipSymbol hj, Bool.false_eq_true, if_false, Synd.add_zero, hclass, hs0, flipSymbol_twice]
  rfl

/-- A word with two wrong symbols that no syndrome names is lost. -/
theorem readWord_bad {e : BitVec 144} (h : classify (syndrome e) = .bad) : readWord false e = (.bad, e.setWidth 128) := by
  simp [readWord, h]

/-- An error that is itself a word of the code is not seen. -/
theorem readWord_codeword {e : BitVec 144} (h : syndrome e = Synd.zero) : readWord false e = (.clean, e.setWidth 128) := by
  have hclass : classify Synd.zero = .clean := rfl
  simp [readWord, h, hclass]

/-- Without an error a codeword reads as it was written. -/
theorem readWord_zero (marked : Bool) : readWord marked 0#144 = (if marked then .poison else .clean, 0#128) := by
  cases marked <;> decide +kernel

end Sys2Proof.Machine

/-!
O55, the Thimble cache (R236 to R239): what taking in and giving up items leaves of a region, and the path of a page once it has been read.
-/

namespace Sys2Proof.Machine

/-! Items of a region's cache (R237, R238) -/

/-- Whether the counter block of a page and its ancestors are on die. -/
def Seize.HoldsPath (z : Seize) (page : Nat) : Prop := ∀ l < 8, z.holds l (page / 8 ^ l) = true

/-- What a cache changes of a region: the items that it holds. -/
def Seize.SameButHeld (z w : Seize) : Prop := { w with held := z.held } = z

theorem Seize.SameButHeld.refl (z : Seize) : z.SameButHeld z := rfl

theorem Seize.SameButHeld.trans {x z w : Seize} (h : x.SameButHeld z) (g : z.SameButHeld w) : x.SameButHeld w := by
  unfold Seize.SameButHeld at h g ⊢
  exact (congrArg (fun q : Seize => ({ q with held := x.held } : Seize)) g).trans h

/-- A region is another with other items, field by field. -/
theorem Seize.SameButHeld.eq {z w : Seize} (h : z.SameButHeld w) : w = { z with held := w.held } := by
  rw [← h]

theorem Seize.hold_same (z : Seize) (level index : Nat) (dirty : Bool) : z.SameButHeld (z.hold level index dirty) := rfl

theorem Seize.get?_hold (z : Seize) (level index : Nat) (dirty : Bool) (k : Nat) : (z.hold level index dirty).held.get? k
    = if k = thimbleKey level index then some (dirty || (z.held.get? k).getD false) else z.held.get? k := by
  split
  · next h =>
    subst h
    exact SMap.get?_put_same ..
  · next h => exact SMap.get?_put_other _ _ h

theorem Seize.holds_hold_of_holds {z : Seize} {l i : Nat} (h : z.holds l i = true) (level index : Nat) (dirty : Bool) :
    (z.hold level index dirty).holds l i = true := by
  simp only [Seize.holds, Bool.or_eq_true, decide_eq_true_eq] at h ⊢
  refine h.imp_right fun hheld => ?_
  rw [Seize.get?_hold]
  split
  · rfl
  · exact hheld

theorem Seize.holds_hold_same (z : Seize) (level index : Nat) (dirty : Bool) : (z.hold level index dirty).holds level index = true := by
  simp [Seize.holds, Seize.get?_hold]

/-- Items are taken in one after the other. -/
def Seize.holdAll (z : Seize) (es : List (Nat × Nat)) : Seize := es.foldl (fun z e => z.hold e.1 e.2 false) z

theorem Seize.holdAll_same (es : List (Nat × Nat)) (z : Seize) : z.SameButHeld (z.holdAll es) := by
  induction es generalizing z with
  | nil => exact .refl z
  | cons e t ih => exact (z.hold_same e.1 e.2 false).trans (ih _)

theorem Seize.holds_holdAll_of_holds (es : List (Nat × Nat)) {z : Seize} {l i : Nat} (h : z.holds l i = true) : (z.holdAll es).holds l i = true := by
  induction es generalizing z with
  | nil => exact h
  | cons e t ih => exact ih (Seize.holds_hold_of_holds h ..)

theorem Seize.holds_holdAll_of_mem {es : List (Nat × Nat)} {e : Nat × Nat} (he : e ∈ es) (z : Seize) : (z.holdAll es).holds e.1 e.2 = true := by
  induction es generalizing z with
  | nil => cases he
  | cons d t ih =>
    rcases List.mem_cons.mp he with rfl | he
    · exact Seize.holds_holdAll_of_holds t (z.holds_hold_same ..)
    · exact ih he _

/-- Once what is missing of a page's path has been taken in, all of it is there. -/
theorem Seize.holdsPath_holdAll (z : Seize) (page : Nat) : (z.holdAll (z.missing page)).HoldsPath page := by
  intro l hl
  by_cases hpinned : 5 ≤ l
  · simp [Seize.holds, hpinned]
  · by_cases hheld : z.holds l (page / 8 ^ l) = true
    · exact Seize.holds_holdAll_of_holds _ hheld
    · refine Seize.holds_holdAll_of_mem (e := (l, page / 8 ^ l)) (List.mem_filter.mpr ⟨List.mem_map.mpr ⟨l, ?_, rfl⟩, by simpa using hheld⟩) z
      have hlevel : l < 5 := by omega
      interval_cases l <;> simp

theorem Seize.holdPath_eq (z : Seize) (page : Nat) : z.holdPath page true = (z.holdAll (z.missing page)).hold 0 page true := rfl

theorem Seize.holdPath_same (z : Seize) (page : Nat) : z.SameButHeld (z.holdPath page true) := (z.holdAll_same (z.missing page)).trans (Seize.hold_same ..)

theorem Seize.holdsPath_holdPath (z : Seize) (page : Nat) : (z.holdPath page true).HoldsPath page := fun l hl =>
  Seize.holds_hold_of_holds (z.holdsPath_holdAll page l hl) ..

/-- The counter block of a page that was written is dirty. -/
theorem Seize.holdPath_dirty (z : Seize) (page : Nat) : (z.holdPath page true).held.get? (thimbleKey 0 page) = some true := by
  rw [Seize.holdPath_eq, Seize.get?_hold, if_pos rfl]
  rfl

/-! Evictions (R238) -/

theorem Seize.evict_same (z : Seize) (k : Nat) : z.SameButHeld (z.evict k) := by
  unfold Seize.evict
  dsimp only
  split <;> rfl

/-- An eviction gives up its item alone, and marks at most a parent dirty. -/
theorem Seize.get?_evict (z : Seize) {j k : Nat} (h : j ≠ k) : (z.evict k).held.get? j = z.held.get? j ∨ (z.evict k).held.get? j = some true := by
  have hdel : (z.held.del k).get? j = z.held.get? j := by simp [SMap.get?, SMap.find_del_other _ h]
  unfold Seize.evict
  dsimp only
  split
  · by_cases hj : j = thimbleKey (thimbleLevel k + 1) (thimbleIndex k / 8)
    · right
      rw [hj]
      exact SMap.get?_put_same ..
    · left
      exact (SMap.get?_put_other _ _ hj).trans hdel
  · exact .inl hdel

/-- The key of an item of levels 0 to 4 gives the item back. -/
theorem thimbleKey_split {l i : Nat} (hl : l ≤ 4) (hi : i < 2 ^ 32) : thimbleLevel (thimbleKey l i) = l ∧ thimbleIndex (thimbleKey l i) = i := by
  unfold thimbleLevel thimbleIndex thimbleKey
  omega

/-- What is evicted is not on the path of the page that is accessed. -/
theorem Seize.victim_ne {z : Seize} {page k : Nat} (h : z.victim (some page) = some k) {l : Nat} (hl : l ≤ 4) (hp : page < 2 ^ 32) :
    thimbleKey l (page / 8 ^ l) ≠ k := by
  rintro rfl
  obtain ⟨e, he, hk⟩ := Option.map_eq_some_iff.mp h
  have hfree := List.find?_some he
  obtain ⟨hlevel, hindex⟩ := thimbleKey_split hl (Nat.lt_of_le_of_lt (Nat.div_le_self page (8 ^ l)) hp)
  rw [hk, Option.any_some, hlevel, hindex] at hfree
  simp at hfree

/-- A property of a region that outlasts the evictions that an access to a page may cause. -/
def OutlastsEvictions (page : Nat) (P : Seize → Prop) : Prop := ∀ z k, z.victim (some page) = some k → P z → P (z.evict k)

theorem holdsPath_outlasts {page : Nat} (hp : page < 2 ^ 32) : OutlastsEvictions page (fun z => z.HoldsPath page) := by
  intro z k hk h l hl
  have hheld := h l hl
  simp only [Seize.holds, Bool.or_eq_true, decide_eq_true_eq] at hheld ⊢
  by_cases hpinned : 5 ≤ l
  · exact .inl hpinned
  · right
    rcases z.get?_evict (Seize.victim_ne hk (show l ≤ 4 by omega) hp) with heq | heq <;> rw [heq]
    · exact hheld.resolve_left hpinned
    · rfl

theorem dirty_outlasts {page : Nat} (hp : page < 2 ^ 32) : OutlastsEvictions page (fun z => z.held.get? (thimbleKey 0 page) = some true) := by
  intro z k hk h
  have hne : thimbleKey 0 page ≠ k := by simpa using Seize.victim_ne hk (Nat.zero_le 4) hp
  exact (z.get?_evict hne).elim (fun heq => heq.trans h) id

/-! Steps of a controller's cache -/

/-- From `y` to `z` nothing changes but regions. -/
def Sys.OnlyRegions (y z : Sys) : Prop := { z with mem := { z.mem with regions := y.mem.regions } } = y

theorem Sys.OnlyRegions.trans {x y z : Sys} (h : x.OnlyRegions y) (g : y.OnlyRegions z) : x.OnlyRegions z :=
  (congrArg (fun t : Sys => ({ t with mem := { t.mem with regions := x.mem.regions } } : Sys)) g).trans h

theorem Sys.onlyRegions_setRegion (y : Sys) (t h : Nat) (w : Seize) : y.OnlyRegions (y.setRegion t h w) := rfl

section OnlyRegions

variable {y z : Sys} (h : y.OnlyRegions z)
include h

/-- The units, but for the regions. -/
theorem Sys.OnlyRegions.eq : z = { y with mem := { y.mem with regions := z.mem.regions } } := by
  rw [← h]

theorem Sys.OnlyRegions.mem : z.mem = { y.mem with regions := z.mem.regions } := congrArg Sys.mem h.eq

theorem Sys.OnlyRegions.parts : z.parts = y.parts := (congrArg Sys.parts h.eq).trans rfl

theorem Sys.OnlyRegions.log : z.log = y.log := (congrArg Sys.log h.eq).trans rfl

theorem Sys.OnlyRegions.data : z.mem.data = y.mem.data := (congrArg MemSys.data h.mem).trans rfl

theorem Sys.OnlyRegions.cache : z.mem.cache = y.mem.cache := (congrArg MemSys.cache h.mem).trans rfl

end OnlyRegions

/-- From `y` to `z` nothing changes but what the caches of controllers hold of their regions. -/
def Sys.CacheStep (y z : Sys) : Prop := y.OnlyRegions z ∧ SameRegions y z

theorem Sys.CacheStep.refl (y : Sys) : y.CacheStep y := ⟨rfl, fun _ _ => rfl⟩

theorem Sys.CacheStep.trans {x y z : Sys} (h : x.CacheStep y) (g : y.CacheStep z) : x.CacheStep z :=
  ⟨h.1.trans g.1, fun u k => Seize.SameButHeld.trans (h.2 u k) (g.2 u k)⟩

theorem Sys.CacheStep.failed {y z : Sys} (h : y.CacheStep z) (t hank : Nat) : (z.region t hank).failed = (y.region t hank).failed :=
  (congrArg Seize.failed (h.2 t hank) :)

theorem Sys.CacheStep.keysAt {y z : Sys} (h : y.CacheStep z) (t hank page : Nat) : (z.region t hank).keysAt page = (y.region t hank).keysAt page :=
  (congrArg (fun q : Seize => q.keysAt page) (h.2 t hank) :)

theorem Sys.cacheStep_setRegion {y : Sys} {t h : Nat} {w : Seize} (hw : (y.region t h).SameButHeld w) : y.CacheStep (y.setRegion t h w) := by
  refine ⟨rfl, fun u k => ?_⟩
  by_cases hkey : regionKey u k = regionKey t h
  · have hread : (y.setRegion t h w).region u k = w ∧ y.region u k = y.region t h := by simp [Sys.region, Sys.setRegion, hkey]
    rw [hread.1, hread.2]
    exact hw
  · rw [Sys.region_setRegion_other _ _ hkey]

/-- A controller's cache comes within its size: the region of the access keeps what outlasts evictions. -/
theorem Sys.fitThimble_step (fuel t h page : Nat) (y : Sys) : y.CacheStep (Sys.fitThimble fuel t h page y)
    ∧ ∀ P, OutlastsEvictions page P → P (y.region t h) → P ((Sys.fitThimble fuel t h page y).region t h) := by
  induction fuel generalizing y with
  | zero => exact ⟨.refl y, fun _ _ hP => hP⟩
  | succ fuel ih =>
    unfold Sys.fitThimble
    split
    · exact ⟨.refl y, fun _ _ hP => hP⟩
    · split
      · next g k hfound =>
        obtain ⟨hstep, hkeeps⟩ := ih (y.setRegion t g ((y.region t g).evict k))
        refine ⟨(Sys.cacheStep_setRegion (Seize.evict_same ..)).trans hstep, fun P hout hP => hkeeps P hout ?_⟩
        obtain ⟨g', -, hg'⟩ := List.exists_of_findSome?_eq_some hfound
        obtain ⟨k', hvictim, heq⟩ := Option.map_eq_some_iff.mp hg'
        obtain ⟨rfl, rfl⟩ := Prod.mk.inj heq
        by_cases hgh : g' = h
        · subst hgh
          rw [if_pos rfl] at hvictim
          rw [Sys.region_setRegion]
          exact hout _ _ hvictim hP
        · have hkey : regionKey t h ≠ regionKey t g' := by unfold regionKey; omega
          rw [Sys.region_setRegion_other _ _ hkey]
          exact hP
      · exact ⟨.refl y, fun _ _ hP => hP⟩

/-! Reading the path of a page (R236, R239) -/

/-- Items of a region enter the cache one after the other. -/
def Sys.takeItems (y : Sys) (t h : Nat) (es : List (Nat × Nat)) : Sys := es.foldl (fun s e => s.setRegion t h ((s.region t h).hold e.1 e.2 false)) y

theorem Sys.takeItems_step (t h : Nat) (es : List (Nat × Nat)) (y : Sys) : y.CacheStep (y.takeItems t h es) := by
  induction es generalizing y with
  | nil => exact .refl y
  | cons e rest ih => exact (Sys.cacheStep_setRegion (Seize.hold_same ..)).trans (ih _)

theorem Sys.takeItems_region (t h : Nat) (es : List (Nat × Nat)) (y : Sys) : (y.takeItems t h es).region t h = (y.region t h).holdAll es := by
  induction es generalizing y with
  | nil => rfl
  | cons e rest ih =>
    have hstep := ih (y.setRegion t h ((y.region t h).hold e.1 e.2 false))
    rw [Sys.region_setRegion] at hstep
    exact hstep

/-- Checks that each let an access go on let it go on one after the other. -/
theorem foldl_ok {α : Type} {g : Prot → α → Prot} {k : Sys → α → Sys} (h : ∀ y e, g (.ok y) e = .ok (k y e)) (es : List α) (y : Sys) :
    es.foldl g (.ok y) = .ok (es.foldl k y) := by
  induction es generalizing y with
  | nil => rfl
  | cons e rest ih => rw [List.foldl_cons, h, ih, List.foldl_cons]

/-- Four codewords without an error. -/
theorem readWords_nil : readWords [] = List.replicate 4 (.clean, 0#128) := by decide +kernel

theorem Sys.readPinned_nil (y : Sys) (t h level index : Nat) : y.readPinned t h level index [] = .ok y := by
  unfold Sys.readPinned
  rw [readWords_nil]
  rfl

theorem Sys.readItem_nil (y : Sys) (t h level index : Nat) : y.readItem t h level index [] = .ok (y.setRegion t h ((y.region t h).hold level index false)) := by
  unfold Sys.readItem
  rw [readWords_nil]
  rfl

theorem tierFlips_nil {f : TierF} (hc : f.ctrFlips = []) (hn : f.nodeFlips = []) (level : Nat) : tierFlips f level = [] := by
  unfold tierFlips
  rw [hc, hn]
  split <;> rfl

/-- A path whose items are sound, and read without errors, enters the cache. -/
theorem Sys.readPath_ok {y : Sys} {f : TierF} (hlisted : (y.region f.tier.val f.hank.val).listed (f.line / 64) = false)
    (hfailed : (y.region f.tier.val f.hank.val).failed = []) (hc : f.ctrFlips = []) (hn : f.nodeFlips = []) :
    y.readPath f = .ok (y.takeItems f.tier.val f.hank.val ((y.region f.tier.val f.hank.val).missing (f.line / 64))) := by
  have hpath : (y.region f.tier.val f.hank.val).pathFails f.line = none := by rw [Seize.pathFails, hfailed]; rfl
  unfold Sys.readPath
  simp only [hlisted, hpath, Bool.false_eq_true, if_false]
  rw [foldl_ok (k := fun s _ => s) (fun s l => by rw [tierFlips_nil hc hn]; exact s.readPinned_nil ..),
    foldl_ok (fun s e => by rw [tierFlips_nil hc hn]; exact s.readItem_nil ..)]
  rfl

theorem Sys.takeItems_holdsPath (y : Sys) (t h page : Nat) : ((y.takeItems t h ((y.region t h).missing page)).region t h).HoldsPath page := by
  rw [Sys.takeItems_region]
  exact (y.region t h).holdsPath_holdAll page

end Sys2Proof.Machine

/-!
O55, what a memory holds of a 64-byte line (R203, R207, R249): a line that its home slice holds is set apart before its memory's value changes, and readers
meet what they met before; codewords of it are poisoned.
-/

namespace Sys2Proof.Machine

/-! Marks of a store -/

theorem Mem.byte_poisonRange (m : Mem) (a n : Nat) (k : Mark) (p : Nat) : (m.poisonRange a n k).byte p = m.byte p := by
  unfold Mem.poisonRange
  induction cwRange a n generalizing m with
  | nil => rfl
  | cons c t ih => rw [List.foldl_cons, ih]; rfl

theorem Mem.mark_poisonRange (m : Mem) (a n : Nat) (k : Mark) (c : Nat) : (m.poisonRange a n k).mark c = if c ∈ cwRange a n then k else m.mark c := by
  unfold Mem.poisonRange
  induction cwRange a n generalizing m with
  | nil => simp
  | cons d t ih =>
    rw [List.foldl_cons, ih]
    by_cases hmem : c ∈ t
    · simp [hmem]
    · have hset : ({ m with marks := m.marks.set .clean d k } : Mem).mark c = if c = d then k else m.mark c := SMap.get_set ..
      rw [if_neg hmem, hset]
      simp [hmem]

/-- The codewords of a range of whole codewords. -/
theorem mem_cwRange {a n c : Nat} (ha : a % 16 = 0) (hn : n % 16 = 0) : c ∈ cwRange a n ↔ a / 16 ≤ c ∧ c < a / 16 + n / 16 := by
  unfold cwRange
  split
  · simp; omega
  · simp only [List.mem_map, List.mem_range]
    constructor
    · rintro ⟨i, hi, rfl⟩
      omega
    · intro hc
      exact ⟨c - a / 16, by omega, by omega⟩

theorem Mem.mark_copyRange (m : Mem) (a b n c : Nat) :
    (m.copyRange a b n).mark c = if b / 16 ≤ c ∧ c < b / 16 + n / 16 then m.mark (a / 16 + (c - b / 16)) else m.mark c := by
  unfold Mem.copyRange Mem.mark
  split
  · next h =>
    have hin := SMap.get_copyRange_in Mark.clean m.marks (a / 16) (b / 16) (n / 16) (i := c - b / 16) (by omega)
    rwa [Nat.add_sub_cancel' h.1] at hin
  · next h => exact SMap.get_copyRange_out Mark.clean m.marks (a / 16) (b / 16) (n / 16) (by omega)

/-! Places (R191, R227) -/

/-- The kind of every place of a region or slice. -/
theorem keyKind_of_mem {q h a : Nat} (hh : h < 80) (ha : physKey q h 0 ≤ a) (ha' : a < physKey q h 0 + 2 ^ 34) : keyKind a = q := by
  unfold keyKind
  unfold physKey at ha ha'
  omega

theorem MemSys.line_setLine (m : MemSys) (h l : Nat) (c : CacheLine) : (m.setLine h l c).line h l = c := by
  unfold MemSys.line MemSys.setLine
  exact SMap.get_set_same ..

/-- Where a memory holds a line: apart, or where its readers meet it. -/
theorem Sys.memKey_cases (y : Sys) (t h line : Nat) : y.memKey t h line = physKey t h (64 * line)
    ∨ (y.memKey t h line = physKey 3 h (64 * line) ∧ t = 0 ∧ (y.mem.line h (line / 4)).apart = true) := by
  unfold Sys.memKey
  by_cases hq : (decide (t = 0) && (y.mem.line h (line / 4)).apart) = true
  · rw [if_pos hq]
    simp only [Bool.and_eq_true, decide_eq_true_eq] at hq
    exact .inr ⟨rfl, hq⟩
  · rw [if_neg hq]
    exact .inl rfl

theorem Sys.memKey_mod (y : Sys) (t h line : Nat) : y.memKey t h line % 16 = 0 := by
  rcases y.memKey_cases t h line with hk | ⟨hk, -⟩ <;> rw [hk, physKey] <;> omega

/-! A line set apart -/

/-- Whether a change of a memory's value of a line sets the line apart from its home slice. -/
def Sys.SetsApart (y : Sys) (t h line : Nat) : Prop := t = 0 ∧ (y.mem.line h (line / 4)).present = true ∧ (y.mem.line h (line / 4)).apart = false

/-- The memory once a line is apart: the stack keeps what both held. -/
def MemSys.apartAt (m : MemSys) (h l : Nat) : MemSys :=
  { m.setLine h l { m.line h l with present := true, apart := true } with
    data := m.data.copyRange (physKey 0 h (256 * l)) (physKey 3 h (256 * l)) 256 }

theorem MemSys.line_apartAt (m : MemSys) (h l : Nat) : (m.apartAt h l).line h l = { m.line h l with present := true, apart := true } :=
  m.line_setLine h l { m.line h l with present := true, apart := true }

theorem Sys.forMemory_apart {y : Sys} {t h line : Nat} (hs : y.SetsApart t h line) : y.forMemory t h line = { y with mem := y.mem.apartAt h (line / 4) } := by
  obtain ⟨ht, hp, ha⟩ := hs
  simp [Sys.forMemory, MemSys.split, ht, hp, ha, MemSys.apartAt]

theorem Sys.forMemory_kept {y : Sys} {t h line : Nat} (hs : ¬ y.SetsApart t h line) : y.forMemory t h line = y := by
  unfold Sys.forMemory
  split
  · next hp =>
    simp only [Bool.and_eq_true, decide_eq_true_eq] at hp
    have ha : (y.mem.line h (line / 4)).apart = true := by
      by_contra ha
      exact hs ⟨hp.1, hp.2, by simpa using ha⟩
    rw [MemSys.split]
    simp [ha]
  · rfl

/-- From `y` to `z` a memory's value of one line may have been set apart: nothing else changes, and readers meet what they met. -/
structure Sys.LineKept (y z : Sys) (t h line : Nat) : Prop where
  rest : { z with mem := y.mem } = y
  mem : { z.mem with data := y.mem.data, cache := y.mem.cache } = y.mem
  bytes : SameBytes y z
  line : ∀ j < 64, z.mem.data.byte (z.memKey t h line + j) = y.mem.data.byte (y.memKey t h line + j)

section Line

variable {y : Sys} {t h line : Nat} (hh : h < 80) (hl : line < 218726400)
include hh hl

theorem Sys.forMemory_lineKept : y.LineKept (y.forMemory t h line) t h line := by
  by_cases hs : y.SetsApart t h line
  · rw [Sys.forMemory_apart hs]
    have hcopy : ∀ p, ({ y with mem := y.mem.apartAt h (line / 4) } : Sys).mem.data.byte p
        = if physKey 3 h (256 * (line / 4)) ≤ p ∧ p < physKey 3 h (256 * (line / 4)) + 256 then y.mem.data.byte (physKey 0 h (256 * (line / 4)) + (p - physKey 3 h (256 * (line / 4))))
          else y.mem.data.byte p := Mem.byte_copyRange _ _ _ _
    refine ⟨rfl, rfl, fun a ha => ?_, fun j hj => ?_⟩
    · rw [hcopy, if_neg fun hin => ha (keyKind_of_mem hh ?_ ?_)]
      · unfold physKey at hin ⊢
        omega
      · unfold physKey at hin ⊢
        omega
    · have hbefore : y.memKey t h line = physKey 0 h (64 * line) := by
        obtain ⟨ht, -, ha⟩ := hs
        rcases y.memKey_cases t h line with hk | ⟨-, -, ha'⟩
        · rw [hk, ht]
        · rw [ha] at ha'
          cases ha'
      have hafter : ({ y with mem := y.mem.apartAt h (line / 4) } : Sys).memKey t h line = physKey 3 h (64 * line) := by
        simp [Sys.memKey, MemSys.line_apartAt, hs.1]
      rw [hcopy, hbefore, hafter, if_pos (by unfold physKey; omega)]
      exact congrArg y.mem.data.byte (by unfold physKey; omega)
  · rw [Sys.forMemory_kept hs]
    exact ⟨rfl, rfl, fun _ _ => rfl, fun _ _ => rfl⟩

/-- The marks that readers meet stay too. -/
theorem Sys.forMemory_mark {c : Nat} (hc : keyKind (16 * c) ≠ 3) : (y.forMemory t h line).mem.data.mark c = y.mem.data.mark c := by
  by_cases hs : y.SetsApart t h line
  · rw [Sys.forMemory_apart hs]
    refine (Mem.mark_copyRange ..).trans (if_neg fun hin => hc (keyKind_of_mem hh ?_ ?_))
    · unfold physKey at hin ⊢
      omega
    · unfold physKey at hin ⊢
      omega
  · rw [Sys.forMemory_kept hs]

/-! Codewords of a line poisoned in its memory -/

theorem Sys.poisonLine_lineKept (o n : Nat) (m : Mark) : y.LineKept (y.poisonLine t h line o n m) t h line := by
  have hkept : y.LineKept (y.forMemory t h line) t h line := Sys.forMemory_lineKept hh hl
  exact ⟨hkept.rest, hkept.mem, fun a ha => (Mem.byte_poisonRange ..).trans (hkept.bytes a ha), fun j hj => (Mem.byte_poisonRange ..).trans (hkept.line j hj)⟩

omit hh hl in
/-- The codewords that are poisoned, at the place where the memory then holds the line. -/
theorem Sys.poisonLine_poisoned {o n : Nat} (ho : o % 16 = 0) (hn : n % 16 = 0) (m : Mark) {i : Nat} (hi : o / 16 ≤ i ∧ i < o / 16 + n / 16) :
    (y.poisonLine t h line o n m).mem.data.mark ((y.poisonLine t h line o n m).memKey t h line / 16 + i) = m := by
  have hmod := (y.forMemory t h line).memKey_mod t h line
  refine (Mem.mark_poisonRange ..).trans (if_pos ?_)
  rw [mem_cwRange (by omega) hn]
  show _ ≤ (y.forMemory t h line).memKey t h line / 16 + i ∧ (y.forMemory t h line).memKey t h line / 16 + i < _
  omega

/-- Every other codeword keeps its mark. -/
theorem Sys.poisonLine_mark {o n : Nat} (ho : o % 16 = 0) (hn : n % 16 = 0) (m : Mark) {c : Nat} (hc : keyKind (16 * c) ≠ 3)
    (hout : ∀ i, o / 16 ≤ i → i < o / 16 + n / 16 → c ≠ (y.poisonLine t h line o n m).memKey t h line / 16 + i) :
    (y.poisonLine t h line o n m).mem.data.mark c = y.mem.data.mark c := by
  have hmod := (y.forMemory t h line).memKey_mod t h line
  refine (Mem.mark_poisonRange ..).trans ((if_neg ?_).trans (Sys.forMemory_mark hh hl hc))
  rw [mem_cwRange (by omega) hn]
  intro hin
  have hne : c ≠ (y.forMemory t h line).memKey t h line / 16 + (c - (y.forMemory t h line).memKey t h line / 16) := hout _ (by omega) (by omega)
  omega

end Line

end Sys2Proof.Machine

/-!
O55, a line as it is decoded and checked (R200, R201, R203, R233, R249, R250), and the records, counts and events that an access leaves beside it.
-/

namespace Sys2Proof.Machine

/-! What records and events leave (R303, R428, R442, R443) -/

/-- From `y` to `z` nothing changes of memory, of the partitions or of the error counters. -/
structure Sys.Reports (y z : Sys) : Prop where
  mem : z.mem = y.mem
  parts : z.parts = y.parts
  counters : z.log.counters = y.log.counters

theorem Sys.Reports.refl (y : Sys) : y.Reports y := ⟨rfl, rfl, rfl⟩

theorem Sys.Reports.trans {x y z : Sys} (h : x.Reports y) (g : y.Reports z) : x.Reports z :=
  ⟨g.mem.trans h.mem, g.parts.trans h.parts, g.counters.trans h.counters⟩

theorem Sys.Reports.foldl {α : Type} {g : Sys → α → Sys} (h : ∀ y e, Sys.Reports y (g y e)) (l : List α) (y : Sys) : y.Reports (l.foldl g y) := by
  induction l generalizing y with
  | nil => exact .refl y
  | cons e t ih => exact (h y e).trans (ih _)

section Reports

variable (y : Sys)

theorem Sys.logAt_reports (i : LogItem) (stamp : BitVec 48) : y.Reports (y.logAt i stamp) := by
  refine ⟨rfl, rfl, ?_⟩
  unfold Sys.logAt Log.push
  dsimp only
  split <;> rfl

theorem Sys.logRec_reports (i : LogItem) : y.Reports (y.logRec i) :=
  Sys.Reports.trans (y := y.readCount i.domain) ⟨rfl, rfl, rfl⟩ (Sys.logAt_reports ..)

theorem Sys.logTier_reports (tier hank off event arg0 arg1 : Nat) : y.Reports (y.logTier tier hank off event arg0 arg1) := y.logRec_reports _

theorem Sys.event_reports (p code : Nat) (args : Bytes) : y.Reports (y.event p code args) := by
  unfold Sys.event
  dsimp only
  split
  · exact ⟨rfl, rfl, rfl⟩
  · exact .refl y

theorem Sys.sharedPoison_reports (q a : Nat) (b : Blob) : y.Reports (y.sharedPoison q a b) := by
  unfold Sys.sharedPoison
  split
  · exact .refl y
  · dsimp only
    split
    · exact .refl y
    · refine Sys.Reports.foldl (fun y g => ?_) _ y
      have hread : y.Reports (y.readCount domBowline) := ⟨rfl, rfl, rfl⟩
      refine hread.trans ?_
      split
      · exact .refl _
      · refine Sys.Reports.trans ?_ (Sys.logRec_reports ..)
        refine Sys.Reports.trans ?_ (Sys.event_reports ..)
        exact ⟨rfl, rfl, rfl⟩

theorem Sys.sharedLine_reports (t h line : Nat) : y.Reports (y.sharedLine t h line) := by
  unfold Sys.sharedLine
  split
  · exact .refl y
  · exact Sys.sharedPoison_reports ..

/-- A corrected codeword is counted. -/
theorem Sys.correctedAt_reports (t h off : Nat) : (y.bump errCorrected 1).Reports (y.correctedAt t h off) := by
  have hread : (y.bump errCorrected 1).Reports ((y.bump errCorrected 1).readCount (tierDomain t h)) := ⟨rfl, rfl, rfl⟩
  unfold Sys.correctedAt Sys.corrected
  dsimp only
  refine hread.trans ?_
  split
  · exact ⟨rfl, rfl, rfl⟩
  · exact Sys.Reports.trans (Sys.logAt_reports ..) ⟨rfl, rfl, rfl⟩

end Reports

/-- An error counter after something was added to one. -/
theorem Sys.counter_bump (y : Sys) (key n k : Nat) :
    (y.bump key n).log.counters.get 0 k = if k = key then y.log.counters.get 0 key + n else y.log.counters.get 0 k := SMap.get_set ..

/-- A step without effect on the partitions leaves who holds a hank. -/
theorem Sys.holder_congr {y z : Sys} (h : z.parts = y.parts) (hank : Nat) : z.holder hank = y.holder hank := by
  unfold Sys.holder Sys.part
  rw [h]

theorem Sys.part_congr {y z : Sys} (h : z.parts = y.parts) (p : Nat) : z.part p = y.part p := by rw [Sys.part, h]; rfl

theorem Sys.memKey_congr {y z : Sys} (h : z.mem.cache = y.mem.cache) (t hank line : Nat) : z.memKey t hank line = y.memKey t hank line := by
  unfold Sys.memKey MemSys.line
  rw [h]

/-! A line as its four codewords are read -/

/-- The four codewords of a line under their errors. -/
def Sys.lineWords (y : Sys) (t h line : Nat) (flips : List (BitVec 144)) : List (CodeOut × BitVec 128) :=
  (List.range 4).map (fun i => readWord (y.mem.data.mark (y.memKey t h line / 16 + i)).isBad (flips.getD i 0#144))

/-- The corrections of a line's codewords, noted. -/
def Sys.noteWords (y : Sys) (t h line : Nat) (ws : List (CodeOut × BitVec 128)) : Sys :=
  ws.zipIdx.foldl (fun s w => if w.1.1.fixed then s.correctedAt t h (64 * line + 16 * w.2) else s) y

/-- The places of the codewords that are lost. -/
def badWords (ws : List (CodeOut × BitVec 128)) : List Nat := (ws.zipIdx.filter (fun w => w.1.1 == CodeOut.bad)).map (fun w => w.2)

/-- Whether a line's tag holds for what was read of the line and of the tag. -/
def Seize.tagHolds (z : Seize) (t h line : Nat) (bytes : Bytes) (ws : List (CodeOut × BitVec 128)) (tagErr : BitVec 64) : Bool :=
  !z.failed.contains (0xFF, line) && (match z.keysAt (line / 64) with
    | none => true
    | some ks => (ws.all (fun w => w.2 == 0#128) && tagErr == 0#64) ||
        z.tag ks t h line (List.zipWith (· ^^^ ·) (z.cipher ks t h line bytes) (ws.map (fun w => w.2))) == z.tag ks t h line (z.cipher ks t h line bytes) ^^^ tagErr)

/-- The check of a line whose tag codeword reads without correction. -/
theorem Sys.checkLine_eq {y : Sys} {t h line : Nat} {flips : List (BitVec 144)} {tagFlip : BitVec 144} {err : BitVec 128}
    (htag : readWord false tagFlip = (.clean, err)) :
    let ws := y.lineWords t h line flips
    let z := y.noteWords t h line ws
    y.checkLine t h line flips tagFlip = if (badWords ws).isEmpty then
        (if (z.region t h).tagHolds t h line (z.mem.data.read (y.memKey t h line) 64) ws (err.extractLsb' (64 * (line % 2)) 64) then .ok z ws
         else .tagFail (z.setRegion t h ((z.region t h).fail 0xFF line)))
      else .lost z (badWords ws) ws := by
  intro ws z
  have hlost : CodeOut.clean.lost = false := rfl
  have hfixed : CodeOut.clean.fixed = false := rfl
  unfold Sys.checkLine
  simp only [htag, hlost, hfixed, Bool.false_eq_true, if_false]
  cases hbad : (badWords ws).isEmpty with
  | true => exact if_neg (Bool.not_eq_true _ ▸ congrArg (! ·) hbad)
  | false => exact if_pos (congrArg (! ·) hbad)

/-- Without errors in line and tag the tag holds. -/
theorem Seize.tagHolds_of_zero {z : Seize} (hf : z.failed = []) {ws : List (CodeOut × BitVec 128)} (hws : ∀ w ∈ ws, w.2 = 0#128) (t h line : Nat) (bytes : Bytes) :
    z.tagHolds t h line bytes ws 0#64 = true := by
  have hall : ws.all (fun w => w.2 == 0#128) = true := List.all_eq_true.mpr fun w hw => by simp [hws w hw]
  unfold Seize.tagHolds
  rw [hf]
  split <;> simp [hall]

/-- Blocks with no error. -/
theorem zipWith_xor_zero {c : List (BitVec 128)} {es : List (BitVec 128)} (hlen : es.length = c.length) (hes : ∀ e ∈ es, e = 0#128) :
    List.zipWith (· ^^^ ·) c es = c := by
  induction c generalizing es with
  | nil => simp
  | cons b t ih =>
    cases es with
    | nil => cases hlen
    | cons e es =>
      rw [List.zipWith_cons_cons, ih (by simpa using hlen) (fun x hx => hes x (List.mem_cons_of_mem _ hx)), hes e List.mem_cons_self, BitVec.xor_zero]

/-- A tag in error does not hold for a line without errors. -/
theorem Seize.tagHolds_of_tagErr {z : Seize} {ks : KeySet} {line : Nat} (hk : z.keysAt (line / 64) = some ks) {ws : List (CodeOut × BitVec 128)} (hlen : ws.length = 4)
    (hws : ∀ w ∈ ws, w.2 = 0#128) {tagErr : BitVec 64} (herr : tagErr ≠ 0#64) (t h : Nat) (bytes : Bytes) : z.tagHolds t h line bytes ws tagErr = false := by
  have hcipher : (z.cipher ks t h line bytes).length = 4 := by simp [Seize.cipher, blocksOf]
  have hsame : List.zipWith (· ^^^ ·) (z.cipher ks t h line bytes) (ws.map (fun w => w.2)) = z.cipher ks t h line bytes :=
    zipWith_xor_zero (by rw [hcipher, List.length_map, hlen]) fun e he => by
      obtain ⟨w, hw, rfl⟩ := List.mem_map.mp he
      exact hws w hw
  have hne : ∀ x : BitVec 64, x ≠ x ^^^ tagErr := fun x h => herr (by simpa using (congrArg (fun v => x ^^^ v) h).symm)
  unfold Seize.tagHolds
  rw [hk]
  simp [hsame, herr, hne]

/-! The lines of the statement -/

section Check

variable {y : Sys} {t h line : Nat}

/-- Without errors every codeword reads with the mark that it carries. -/
theorem Sys.lineWords_nil : y.lineWords t h line [] = (List.range 4).map (fun i =>
    (if (y.mem.data.mark (y.memKey t h line / 16 + i)).isBad then .poison else .clean, 0#128)) :=
  List.map_congr_left fun _ _ => readWord_zero _

/-- Of unpoisoned codewords the first alone is in error. -/
theorem Sys.lineWords_first (hclean : ∀ i < 4, y.mem.data.mark (y.memKey t h line / 16 + i) = .clean) (e : BitVec 144) :
    y.lineWords t h line [e] = readWord false e :: List.replicate 3 (.clean, 0#128) := by
  have hzero : readWord false 0#144 = (.clean, 0#128) := readWord_zero false
  have h0 := hclean 0 (by decide)
  rw [Nat.add_zero] at h0
  simp [Sys.lineWords, List.range_succ, h0, hclean 1 (by decide), hclean 2 (by decide), hclean 3 (by decide), Mark.isBad_clean, hzero]

theorem Sys.lineWords_clean (hclean : ∀ i < 4, y.mem.data.mark (y.memKey t h line / 16 + i) = .clean) :
    y.lineWords t h line [] = List.replicate 4 (.clean, 0#128) := by
  rw [show y.lineWords t h line [] = y.lineWords t h line [0#144] from by simp [Sys.lineWords, List.range_succ], Sys.lineWords_first hclean, readWord_zero]
  rfl

/-- Codewords of which none is corrected are noted without effect. -/
theorem Sys.noteWords_none {ws : List (CodeOut × BitVec 128)} (hws : ∀ w ∈ ws, w.1.fixed = false) : y.noteWords t h line ws = y := by
  have hfold : ∀ (l : List ((CodeOut × BitVec 128) × Nat)), (∀ w ∈ l, w.1.1.fixed = false) →
      l.foldl (fun s w => if w.1.1.fixed then s.correctedAt t h (64 * line + 16 * w.2) else s) y = y := fun l => by
    induction l with
    | nil => exact fun _ => rfl
    | cons w rest ih =>
      intro hl
      rw [List.foldl_cons, hl w List.mem_cons_self]
      exact ih fun v hv => hl v (List.mem_cons_of_mem _ hv)
  exact hfold _ fun w hw => hws w.1 (List.fst_mem_of_mem_zipIdx hw)

theorem badWords_none {ws : List (CodeOut × BitVec 128)} (hws : ∀ w ∈ ws, w.1 ≠ .bad) : badWords ws = [] := by
  unfold badWords
  rw [List.filter_eq_nil_iff.mpr fun w hw => by simpa using hws w.1 (List.fst_mem_of_mem_zipIdx hw)]
  rfl

/-- A line read without an error, whatever poison it carries. -/
theorem Sys.checkLine_sound (hf : (y.region t h).failed = []) : y.checkLine t h line [] 0#144 = .ok y (y.lineWords t h line []) := by
  have hword : ∀ w ∈ y.lineWords t h line [], (w.1 = .poison ∨ w.1 = .clean) ∧ w.2 = 0#128 := fun w hw => by
    rw [Sys.lineWords_nil] at hw
    obtain ⟨i, -, rfl⟩ := List.mem_map.mp hw
    refine ⟨?_, rfl⟩
    dsimp only
    split
    · exact .inl rfl
    · exact .inr rfl
  have hnote : y.noteWords t h line (y.lineWords t h line []) = y :=
    Sys.noteWords_none fun w hw => by rcases (hword w hw).1 with h | h <;> rw [h] <;> rfl
  have hbad : badWords (y.lineWords t h line []) = [] :=
    badWords_none fun w hw => by rcases (hword w hw).1 with h | h <;> rw [h] <;> decide
  rw [Sys.checkLine_eq (readWord_zero false), hnote, hbad]
  have herr : (0#128).extractLsb' (64 * (line % 2)) 64 = 0#64 := by simp
  rw [herr, Seize.tagHolds_of_zero hf fun w hw => (hword w hw).2]
  rfl

variable (hclean : ∀ i < 4, y.mem.data.mark (y.memKey t h line / 16 + i) = .clean)
include hclean

/-- One wrong symbol of the first codeword is corrected and counted. -/
theorem Sys.checkLine_corrected (hf : (y.region t h).failed = []) {j : Nat} (hj : j < 36) {v : BitVec 4} (hv : v ≠ 0#4) :
    y.checkLine t h line [flipSymbol 0#144 j v] 0#144
      = .ok (y.correctedAt t h (64 * line)) ((.corrected j, 0#128) :: List.replicate 3 (.clean, 0#128)) := by
  have hws := Sys.lineWords_first hclean (flipSymbol 0#144 j v)
  rw [readWord_flipSymbol hj hv] at hws
  have hnote : y.noteWords t h line ((.corrected j, 0#128) :: List.replicate 3 (.clean, 0#128)) = y.correctedAt t h (64 * line) := rfl
  have hbad : badWords ((.corrected j, 0#128) :: List.replicate 3 (.clean, 0#128)) = [] := rfl
  have hmem : (y.correctedAt t h (64 * line)).mem = y.mem := (y.correctedAt_reports t h (64 * line)).mem
  have hregion : (y.correctedAt t h (64 * line)).region t h = y.region t h := by rw [Sys.region, hmem]; rfl
  have herr : (0#128).extractLsb' (64 * (line % 2)) 64 = 0#64 := by simp
  rw [Sys.checkLine_eq (readWord_zero false), hws, hnote, hbad, hregion, herr, Seize.tagHolds_of_zero hf (by simp)]
  rfl

/-- A codeword that cannot be corrected is lost. -/
theorem Sys.checkLine_lost {e : BitVec 144} (he : classify (syndrome e) = .bad) :
    y.checkLine t h line [e] 0#144 = .lost y [0] ((.bad, e.setWidth 128) :: List.replicate 3 (.clean, 0#128)) := by
  have hws := Sys.lineWords_first hclean e
  rw [readWord_bad he] at hws
  rw [Sys.checkLine_eq (readWord_zero false), hws]
  rfl

/-- A tag in error fails. -/
theorem Sys.checkLine_tagFail {ks : KeySet} (hk : (y.region t h).keysAt (line / 64) = some ks) {tagFlip : BitVec 144} (htag : syndrome tagFlip = Synd.zero)
    (herr : (tagFlip.setWidth 128).extractLsb' (64 * (line % 2)) 64 ≠ 0#64) :
    y.checkLine t h line [] tagFlip = .tagFail (y.setRegion t h ((y.region t h).fail 0xFF line)) := by
  have hnote : y.noteWords t h line (List.replicate 4 (.clean, 0#128)) = y := rfl
  rw [Sys.checkLine_eq (readWord_codeword htag), Sys.lineWords_clean hclean, hnote,
    Seize.tagHolds_of_tagErr hk (by simp) (fun w hw => by rw [List.eq_of_mem_replicate hw]) herr]
  rfl

end Check

/-! What is delivered (R201) -/

theorem leBytes_zero (n : Nat) : leBytes n 0 = List.replicate n 0#8 := by
  refine List.eq_replicate_iff.mpr ⟨by simp [leBytes], fun b hb => ?_⟩
  obtain ⟨i, -, rfl⟩ := List.mem_map.mp hb
  simp [natByte]

/-- Bytes with no error. -/
theorem zipWith_xor_leBytes_zero (b : Bytes) : List.zipWith (· ^^^ ·) b (leBytes b.length 0) = b := by
  induction b with
  | nil => rfl
  | cons x t ih => rw [leBytes_zero] at ih ⊢; rw [List.length_cons, List.replicate_succ, List.zipWith_cons_cons, BitVec.xor_zero, ih]

section Decoded

variable {y : Sys} {t h line : Nat}

/-- A codeword that is read without an error in its data. -/
theorem decoded_word {o : CodeOut} (ho : o.marked = false ∧ o ≠ .bad) (m : Mem) (a : Nat) :
    (if (o.marked || o == CodeOut.bad) = true then (Mark.poisoned, []) else (.clean, List.zipWith (· ^^^ ·) (m.read a 16) (leBytes 16 (0#128).toNat)))
      = (Mark.clean, m.read a 16) := by
  have hbad : (o == CodeOut.bad) = false := by simpa using ho.2
  rw [ho.1, hbad]
  have hsound := zipWith_xor_leBytes_zero (m.read a 16)
  rw [Mem.length_read] at hsound
  exact congrArg (Prod.mk Mark.clean) hsound

/-- The words of a line in memory. -/
def Sys.lineData (y : Sys) (t h line : Nat) : List (Mark × Bytes) := (List.range 4).map (fun i => (Mark.clean, y.mem.data.read (y.memKey t h line + 16 * i) 16))

/-- A line whose first codeword is corrected, or clean. -/
theorem Sys.decoded_first {o : CodeOut} (ho : o.marked = false ∧ o ≠ .bad) :
    y.decoded t h line ((o, 0#128) :: List.replicate 3 (.clean, 0#128)) = y.lineData t h line := by
  have hclean : CodeOut.clean.marked = false ∧ CodeOut.clean ≠ .bad := by decide
  simp only [Sys.decoded, List.replicate, List.mapIdx_cons, List.mapIdx_nil, decoded_word ho, decoded_word hclean]
  rfl

/-- A line whose first codeword is lost. -/
theorem Sys.decoded_lost (e : BitVec 128) :
    y.decoded t h line ((.bad, e) :: List.replicate 3 (.clean, 0#128)) = (.poisoned, []) :: (y.lineData t h line).tail := by
  have hclean : CodeOut.clean.marked = false ∧ CodeOut.clean ≠ .bad := by decide
  simp only [Sys.decoded, List.replicate, List.mapIdx_cons, List.mapIdx_nil, decoded_word hclean]
  rfl

end Decoded

end Sys2Proof.Machine

/-!
O55, reads: a request at its controller (R197, R217), the mirror of a listed page (R248, R437), and what a read delivers (R201, R239, R249, R250).
-/

namespace Sys2Proof.Machine

/-! A request at its controller -/

section Serve

variable {y : Sys} {f : TierF} (i : Instr) (g : Sys → Sys)

theorem Sys.tierServe_held (h : y.tierWaits f.tier.val f.hank.val = true ∨ y.behind f.tier.val f.hank.val = true) :
    (∃ w ∈ (y.tierServe i f g).waiting, w.cmd = i) ∧ (y.tierServe i f g).mem = y.mem := by
  unfold Sys.tierServe
  rw [if_pos (Bool.or_eq_true _ _ ▸ h)]
  exact ⟨⟨_, mem_insHeld .., rfl⟩, rfl⟩

theorem Sys.tierServe_served (h : ¬ (y.tierWaits f.tier.val f.hank.val = true ∨ y.behind f.tier.val f.hank.val = true)) :
    y.tierServe i f g = { g y with replay := none } := by
  unfold Sys.tierServe
  rw [if_neg (Bool.or_eq_true _ _ ▸ h)]

end Serve

section Exec

variable {f : TierF} {s : State}

theorem exec_tier_fault (hl : 218726400 ≤ f.line) : exec (.tierRead f) s = .fault .noSuchAddress ∧ exec (.tierWrite f) s = .fault .noSuchAddress :=
  have hcount : lineCount ≤ f.line := by unfold lineCount; omega
  ⟨if_pos hcount, if_pos hcount⟩

variable (hl : f.line < 218726400)
include hl

theorem exec_tierRead : exec (.tierRead f) s = s.onSys (fun y => y.tierServe (.tierRead f) f (fun y => y.tierRead f)) :=
  if_neg (by unfold lineCount; omega)

theorem exec_tierWrite : exec (.tierWrite f) s = s.onSys (fun y => y.tierServe (.tierWrite f) f (fun y => y.tierWrite f)) :=
  if_neg (by unfold lineCount; omega)

/-- A request that is held back changes no memory. -/
theorem exec_tier_held (hheld : s.sys.tierWaits f.tier.val f.hank.val = true ∨ s.sys.behind f.tier.val f.hank.val = true) :
    ∀ i ∈ [Instr.tierRead f, .tierWrite f], ∃ u, exec i s = .next u ∧ (∃ g ∈ u.sys.waiting, g.cmd = i) ∧ u.sys.mem = s.sys.mem := by
  intro i hi
  simp only [List.mem_cons, List.not_mem_nil, or_false] at hi
  rcases hi with rfl | rfl
  · exact ⟨_, exec_tierRead hl, Sys.tierServe_held _ _ hheld⟩
  · exact ⟨_, exec_tierWrite hl, Sys.tierServe_held _ _ hheld⟩

variable (hserved : ¬ (s.sys.tierWaits f.tier.val f.hank.val = true ∨ s.sys.behind f.tier.val f.hank.val = true))
include hserved

theorem exec_tierRead_served : ∃ u, exec (.tierRead f) s = .next u ∧ u.fuses = s.fuses ∧ u.sys.mem = (s.sys.tierRead f).mem ∧ u.sys.parts = (s.sys.tierRead f).parts
    ∧ u.sys.log = (s.sys.tierRead f).log := by
  rw [exec_tierRead hl, State.onSys_next, Sys.tierServe_served _ _ hserved]
  exact ⟨_, rfl, rfl, rfl, rfl, rfl⟩

theorem exec_tierWrite_served : ∃ u, exec (.tierWrite f) s = .next u ∧ u.fuses = s.fuses ∧ u.sys.mem = (s.sys.tierWrite f).mem ∧ u.sys.log = (s.sys.tierWrite f).log := by
  rw [exec_tierWrite hl, State.onSys_next, Sys.tierServe_served _ _ hserved]
  exact ⟨_, rfl, rfl, rfl, rfl⟩

end Exec

/-! Pages that are not read (R226, R241, R248) -/

section Unread

variable {y : Sys} {f : TierF}

theorem Sys.tierRead_unusable (h : (y.region f.tier.val f.hank.val).usable (f.line / 64) = false) : y.tierRead f = { y with mem := { y.mem with delivered := none } } := by
  unfold Sys.tierRead
  simp only [h, Bool.not_false, if_true]

theorem Sys.tierWrite_unusable (h : (y.region f.tier.val f.hank.val).usable (f.line / 64) = false) : y.tierWrite f = y := by
  unfold Sys.tierWrite
  simp only [h, Bool.not_false, if_true]

theorem Sys.readPath_listed (h : (y.region f.tier.val f.hank.val).listed (f.line / 64) = true) : y.readPath f = .unknown y := if_pos h

variable (husable : (y.region f.tier.val f.hank.val).usable (f.line / 64) = true) (hlisted : (y.region f.tier.val f.hank.val).listed (f.line / 64) = true)
include husable hlisted

theorem Sys.tierRead_listed : y.tierRead f = y.unknownLine f.tier.val f.hank.val f.line := by
  unfold Sys.tierRead
  simp only [husable, Sys.readPath_listed hlisted, Bool.not_true, Bool.false_eq_true, if_false]

theorem Sys.tierWrite_listed : y.tierWrite f = y.lineEffects f.tier.val f.hank.val f.line .discarded := by
  unfold Sys.tierWrite
  simp only [husable, Sys.readPath_listed hlisted, Bool.not_true, Bool.false_eq_true, if_false]

end Unread

/-- What is handed over stands in the memory system as it was. -/
theorem Sys.Reports.handOver {y z : Sys} (h : y.Reports z) (kind hank off : Nat) (w : List (Mark × Bytes)) : (y.handOver kind hank off w).Reports (z.handOver kind hank off w) :=
  ⟨congrArg (fun m : MemSys => ({ m with delivered := some { kind := kind, hank := hank, offset := off, words := w } } : MemSys)) h.mem, h.parts, h.counters⟩

/-- A listed line without a mirror. -/
theorem Sys.unknownLine_none {y : Sys} {t h line : Nat} (hm : y.mirrorLine t h line = none) :
    (y.unknownLine t h line).mem = { y.mem with delivered := some { kind := t, hank := h, offset := 64 * line, words := List.replicate 4 (.unknown, []) } } := by
  unfold Sys.unknownLine
  rw [hm]
  exact ((y.sharedLine_reports t h line).handOver ..).mem

/-- A listed line that its mirror serves. -/
theorem Sys.unknownLine_some {y : Sys} {t h line : Nat} {m : Bytes × Nat × Obj × Nat} (hm : y.mirrorLine t h line = some m) :
    (y.unknownLine t h line).mem = { y.mem with delivered := some { kind := t, hank := h, offset := 64 * line, words := (Blob.ofBytes m.1).words } } := by
  unfold Sys.unknownLine
  rw [hm]
  exact (Sys.Reports.handOver (Sys.logTier_reports ..) ..).mem

/-- The words of a line's unpoisoned bytes. -/
theorem words_ofBytes {b : Bytes} (h : b.length = 64) : (Blob.ofBytes b).words = (List.range 4).map (fun i => (Mark.clean, (b.drop (16 * i)).take 16)) := by
  have hlen : (Blob.ofBytes b).data.length / 16 = 4 := by rw [show (Blob.ofBytes b).data = b from rfl, h]
  unfold Blob.words
  rw [hlen]
  rfl

/-- A line of a holder without objects has no mirror. -/
theorem Sys.mirrorLine_none {y : Sys} {t h line : Nat} (hobjs : ∀ p, y.holder h = some p → (y.part p).objs = []) : y.mirrorLine t h line = none := by
  unfold Sys.mirrorLine
  cases hp : y.holder h with
  | none => rfl
  | some p =>
    have hfrom : ∀ a, y.fromMirror p a 64 = none := fun a => by
      have hat : ∀ space g, (y.part p).objAt space g = none := fun space g => by
        unfold Partition.objAt
        rw [hobjs p hp]
        rfl
      simp only [Sys.fromMirror, Partition.mirrorAddr, hat]
    simp only [Option.bind_some, hfrom, Option.bind_none]

/-! A line whose path is read (R236, R239) -/

/-- The units once the path of a line's page is on die. -/
def Sys.onPath (y : Sys) (f : TierF) : Sys :=
  (y.takeItems f.tier.val f.hank.val ((y.region f.tier.val f.hank.val).missing (f.line / 64))).fitThimble 8 f.tier.val f.hank.val (f.line / 64)

/-- An access, without errors in counter blocks and nodes, to a line whose region is sound. -/
structure TierReady (y : Sys) (f : TierF) : Prop where
  line : f.line < 218726400
  usable : (y.region f.tier.val f.hank.val).usable (f.line / 64) = true
  listed : (y.region f.tier.val f.hank.val).listed (f.line / 64) = false
  failed : (y.region f.tier.val f.hank.val).failed = []
  ctrFlips : f.ctrFlips = []
  nodeFlips : f.nodeFlips = []

theorem Sys.onPath_step (y : Sys) (f : TierF) : y.CacheStep (y.onPath f) := (Sys.takeItems_step ..).trans (Sys.fitThimble_step ..).1

section Read

variable {y : Sys} {f : TierF}

theorem TierReady.page_lt (h : TierReady y f) : f.line / 64 < 2 ^ 32 := by
  have hline := h.line
  omega

theorem TierReady.onPath_holdsPath (h : TierReady y f) : ((y.onPath f).region f.tier.val f.hank.val).HoldsPath (f.line / 64) :=
  (Sys.fitThimble_step ..).2 _ (holdsPath_outlasts h.page_lt) (Sys.takeItems_holdsPath y f.tier.val f.hank.val (f.line / 64))

theorem TierReady.tierRead_eq (h : TierReady y f) : y.tierRead f = (y.onPath f).readData f := by
  unfold Sys.tierRead
  simp only [h.usable, Sys.readPath_ok h.listed h.failed h.ctrFlips h.nodeFlips, Bool.not_true, Bool.false_eq_true, if_false]
  rfl

/-- A line whose check passes is handed over. -/
theorem Sys.readData_ok {x z : Sys} {ws : List (CodeOut × BitVec 128)} (hcheck : x.checkLine f.tier.val f.hank.val f.line f.flips f.tagFlip = .ok z ws) :
    (z.handOver f.tier.val f.hank.val (64 * f.line) (z.decoded f.tier.val f.hank.val f.line ws)).Reports (x.readData f) := by
  unfold Sys.readData
  dsimp only
  rw [hcheck]
  exact (Sys.sharedLine_reports ..).handOver ..

/-- A line of which codewords are lost, and which no mirror serves. -/
theorem Sys.readData_lost {x z : Sys} {bad : List Nat} {ws : List (CodeOut × BitVec 128)} (hcheck : x.checkLine f.tier.val f.hank.val f.line f.flips f.tagFlip = .lost z bad ws)
    (hm : z.mirrorLine f.tier.val f.hank.val f.line = none) :
    ((z.lineLost f.tier.val f.hank.val f.line bad).handOver f.tier.val f.hank.val (64 * f.line) (z.decoded f.tier.val f.hank.val f.line ws)).Reports (x.readData f) := by
  unfold Sys.readData
  dsimp only
  rw [hcheck]
  simp only [hm]
  exact (Sys.sharedLine_reports ..).handOver ..

/-- A line whose tag fails. -/
theorem Sys.readData_tagFail {x z : Sys} (hcheck : x.checkLine f.tier.val f.hank.val f.line f.flips f.tagFlip = .tagFail z) :
    x.readData f = (z.memAlarm f.tier.val f.hank.val 0xFF f.line).deliverBad f.tier.val f.hank.val f.line .tagFail := by
  unfold Sys.readData
  dsimp only
  rw [hcheck]

/-- One lost codeword of a line is poisoned in its memory and counted. -/
theorem Sys.lineLost_reports (y : Sys) (t h line : Nat) : ((y.poisonLine t h line 0 16 .poisoned).bump errPoisoned 1).Reports (y.lineLost t h line [0]) := Sys.logTier_reports ..

/-- What a read leaves that hands something over, and changes nothing else of memory. -/
theorem TierReady.served (h : TierReady y f) {u : Sys} {d : Option Delivery} (hmem : u.mem = { (y.onPath f).mem with delivered := d }) :
    SameRegions y u ∧ { u.mem with regions := y.mem.regions } = { y.mem with delivered := d } ∧ (u.region f.tier.val f.hank.val).HoldsPath (f.line / 64) := by
  have hstep := y.onPath_step f
  have hregion : ∀ t k, u.region t k = (y.onPath f).region t k := fun t k => by unfold Sys.region; rw [hmem]
  refine ⟨fun t k => ?_, ?_, ?_⟩
  · rw [hregion]
    exact hstep.2 t k
  · rw [hmem, hstep.1.mem]
  · rw [hregion]
    exact h.onPath_holdsPath

end Read

/-! The alarm of a failed tag (R250, R366) -/

/-- A partition that its alarm freezes. -/
theorem Sys.freezePart_state (y : Sys) {p : Nat} (hp : p < 80) (args : Bytes) : ((y.freezePart p args).part p).state = .frozen := by
  have hdiscard : ∀ z : Sys, (z.discardSet p).parts = z.parts := fun z => by
    unfold Sys.discardSet
    split
    · split <;> rfl
    · rfl
  unfold Sys.freezePart
  dsimp only
  rw [Sys.part_congr (hdiscard _), Sys.part_setPart_oob, if_pos ⟨rfl, hp⟩]

theorem Partition.freezes_of_policy {P : Partition} (h : fieldN P.policy 0xB 1 % 2 = 0) : P.freezes 1 = true := by
  unfold Partition.freezes
  simp [Nat.testBit_zero, h]

theorem Sys.holder_lt {y : Sys} {hank p : Nat} (h : y.holder hank = some p) : p < 80 := List.mem_range.mp (List.mem_of_find?_eq_some h)

/-- A failed tag freezes the partition that holds the region, where its policy freezes. -/
theorem Sys.memAlarm_freezes {y : Sys} {t h line p : Nat} (hp : y.holder h = some p) (hstanding : (y.part p).standing = true) (hpolicy : fieldN (y.part p).policy 0xB 1 % 2 = 0) :
    ((y.memAlarm t h 0xFF line).part p).state = .frozen := by
  have habsent : (y.part p).state ≠ .absent := fun h => by rw [Partition.standing, h] at hstanding; cases hstanding
  have hact : ((y.part p).standing && (y.part p).freezes 1) = true := by rw [hstanding, Partition.freezes_of_policy hpolicy]; rfl
  unfold Sys.memAlarm
  simp only [hp, if_true]
  unfold Sys.alarm
  simp only [if_neg habsent, hact, if_true]
  exact Sys.freezePart_state _ (Sys.holder_lt hp) _

end Sys2Proof.Machine

/-!
O55, writes: the counters of a line as it is written (R240, R244 to R246), and the bytes and marks that its memory then holds.
-/

namespace Sys2Proof.Machine

/-! Counters advance (R240, R244 to R246) -/

section Advance

variable {z : Seize} {line : Nat}

/-- A region whose items and lines are sound lets a line be written. -/
theorem Seize.writeFails_none (hf : z.failed = []) : z.writeFails line = none := by
  simp [Seize.writeFails, Seize.pathFails, hf]

variable (hlisted : z.listed (line / 64) = false) (hf : z.failed = [])
include hlisted hf

theorem Seize.advance_stuck (hs : line / 64 ∈ z.stuck) : z.advance line = (z, .refused) := by
  simp [Seize.advance, hlisted, Seize.writeFails_none hf, hs]

variable (hs : line / 64 ∉ z.stuck)
include hs

theorem Seize.advance_minor (hm : z.minors.get 0 line < 127) :
    z.advance line = (({ z with minors := z.minors.set 0 line (z.minors.get 0 line + 1) } : Seize).holdPath (line / 64) true, .done) := by
  simp [Seize.advance, hlisted, Seize.writeFails_none hf, hs, Seize.minor, hm]

theorem Seize.advance_end (hm : 127 ≤ z.minors.get 0 line) (he : z.majors.get 0 (line / 64) = 2 ^ 64 - 1) :
    z.advance line = ({ z with stuck := line / 64 :: z.stuck }, .exhausted) := by
  have hle : ¬ z.minors.get 0 line < 127 := by omega
  simp [Seize.advance, hlisted, Seize.writeFails_none hf, hs, Seize.minor, Seize.major, majorEnd, hle, he]

theorem Seize.advance_major (hm : 127 ≤ z.minors.get 0 line) (he : z.majors.get 0 (line / 64) < 2 ^ 64 - 1) :
    z.advance line = (({ z with majors := z.majors.set 0 (line / 64) (z.majors.get 0 (line / 64) + 1)
                                minors := (z.minors.delRange (64 * (line / 64)) 64).set 0 line 1 } : Seize).holdPath (line / 64) true, .reencrypted) := by
  have hle : ¬ z.minors.get 0 line < 127 := by omega
  have hne : z.majors.get 0 (line / 64) ≠ majorEnd := by unfold majorEnd; omega
  simp [Seize.advance, hlisted, Seize.writeFails_none hf, hs, Seize.minor, Seize.major, hle, hne]

end Advance

/-- The minors of a page that was encrypted anew for a write (R245). -/
theorem SMap.get_newMinors (m : SMap Nat) {line l : Nat} (hl : l / 64 = line / 64) :
    ((m.delRange (64 * (line / 64)) 64).set 0 line 1).get 0 l = if l = line then 1 else 0 := by
  rw [SMap.get_set, SMap.get_delRange, if_pos (by omega : 64 * (line / 64) ≤ l ∧ l < 64 * (line / 64) + 64)]

/-- What a write that is performed leaves of a line's counters and of the cache. -/
structure Seize.Written (z w : Seize) (line : Nat) : Prop where
  dirty : w.held.get? (thimbleKey 0 (line / 64)) = some true
  path : w.HoldsPath (line / 64)
  minor : z.minors.get 0 line < 127 → w.minors.get 0 line = z.minors.get 0 line + 1 ∧ (∀ l, l ≠ line → w.minors.get 0 l = z.minors.get 0 l) ∧ w.majors = z.majors
  major : 127 ≤ z.minors.get 0 line → w.majors.get 0 (line / 64) = z.majors.get 0 (line / 64) + 1 ∧ ∀ l, l / 64 = line / 64 → w.minors.get 0 l = if l = line then 1 else 0

section Written

variable {z : Seize} {line : Nat}

/-- The counters of a written line and the cache, from the counters before its path was held. -/
theorem Seize.written_of {q : Seize} (hminor : z.minors.get 0 line < 127 → q.minors.get 0 line = z.minors.get 0 line + 1 ∧ (∀ l, l ≠ line → q.minors.get 0 l = z.minors.get 0 l) ∧ q.majors = z.majors)
    (hmajor : 127 ≤ z.minors.get 0 line → q.majors.get 0 (line / 64) = z.majors.get 0 (line / 64) + 1 ∧ ∀ l, l / 64 = line / 64 → q.minors.get 0 l = if l = line then 1 else 0) :
    z.Written ((q.holdPath (line / 64) true).mended line) line := by
  have hmended : ((q.holdPath (line / 64) true).mended line).held = (q.holdPath (line / 64) true).held := rfl
  have hsame : ((q.holdPath (line / 64) true).mended line).minors = q.minors ∧ ((q.holdPath (line / 64) true).mended line).majors = q.majors := by
    unfold Seize.mended
    rw [(q.holdPath_same (line / 64)).eq]
    exact ⟨rfl, rfl⟩
  refine ⟨by rw [hmended, Seize.holdPath_dirty], fun l hl => q.holdsPath_holdPath (line / 64) l hl, ?_, ?_⟩ <;> rw [hsame.1, hsame.2]
  · exact hminor
  · exact hmajor

/-- The write of a line whose page has counters left. -/
theorem Seize.written_advance (hlisted : z.listed (line / 64) = false) (hf : z.failed = []) (hs : line / 64 ∉ z.stuck)
    (hleft : z.minors.get 0 line < 127 ∨ z.majors.get 0 (line / 64) < 2 ^ 64 - 1) :
    ∃ w o, z.advance line = (w, o) ∧ z.Written (w.mended line) line ∧ (o = .done ∧ z.minors.get 0 line < 127 ∨ o = .reencrypted ∧ 127 ≤ z.minors.get 0 line) := by
  by_cases hm : z.minors.get 0 line < 127
  · refine ⟨_, _, Seize.advance_minor hlisted hf hs hm, Seize.written_of (fun _ => ?_) (fun hge => by omega), .inl ⟨rfl, hm⟩⟩
    exact ⟨SMap.get_set_same 0 z.minors line (z.minors.get 0 line + 1), fun l hl => SMap.get_set_other 0 z.minors (z.minors.get 0 line + 1) hl, rfl⟩
  · have hge : 127 ≤ z.minors.get 0 line := by omega
    refine ⟨_, _, Seize.advance_major hlisted hf hs hge (hleft.resolve_left hm), Seize.written_of (fun hlt => absurd hlt hm) (fun _ => ?_), .inr ⟨rfl, hge⟩⟩
    exact ⟨SMap.get_set_same 0 z.majors (line / 64) (z.majors.get 0 (line / 64) + 1), fun l hl => SMap.get_newMinors _ hl⟩

/-- The counters of a region, before and after items entered and left its cache. -/
theorem Seize.Written.congr {z' w w' : Seize} (h : z'.Written w line) (hz : z.SameButHeld z') (hw : w.SameButHeld w')
    (hdirty : w'.held.get? (thimbleKey 0 (line / 64)) = some true) (hpath : w'.HoldsPath (line / 64)) : z.Written w' line := by
  have hcounters : z'.minors = z.minors ∧ z'.majors = z.majors := ⟨(congrArg Seize.minors hz :), (congrArg Seize.majors hz :)⟩
  have hcounters' : w'.minors = w.minors ∧ w'.majors = w.majors := ⟨(congrArg Seize.minors hw :), (congrArg Seize.majors hw :)⟩
  obtain ⟨-, -, hminor, hmajor⟩ := h
  rw [hcounters.1, hcounters.2] at hminor hmajor
  refine ⟨hdirty, hpath, ?_, ?_⟩ <;> rw [hcounters'.1, hcounters'.2]
  · exact hminor
  · exact hmajor

end Written

/-- A page at the end of its MAJOR is counted. -/
theorem Sys.exhaust_reports (y : Sys) (t h page : Nat) : (y.bump errRotate 1).Reports (y.exhaust t h page) := by
  have hlog := y.logTier_reports t h (4096 * page) 0x0301 h page
  have hbump : (y.bump errRotate 1).Reports ((y.logTier t h (4096 * page) 0x0301 h page).bump errRotate 1) :=
    ⟨hlog.mem, hlog.parts, congrArg (fun c : SMap Nat => c.set 0 errRotate (c.get 0 errRotate + 1)) hlog.counters⟩
  unfold Sys.exhaust
  dsimp only
  split
  · exact hbump.trans (Sys.event_reports ..)
  · exact hbump

/-! The store of a written line (R209, R240) -/

/-- A written line's bytes go to its memory: from its home slice where that holds it, else from the requester. -/
def Sys.storeWritten (x : Sys) (f : TierF) : Sys :=
  if f.tier.val = 0 ∧ (x.mem.line f.hank.val (f.line / 4)).present then
    if (x.mem.line f.hank.val (f.line / 4)).apart then
      { x with mem := { x.mem with data := x.mem.data.copyRange (physKey 0 f.hank.val (64 * f.line)) (physKey 3 f.hank.val (64 * f.line)) 64 } }
    else x
  else x.putLine f.tier.val f.hank.val f.line (sliceB f.data 0 64)

section Store

variable {x : Sys} {f : TierF}

/-- The store changes data alone. -/
theorem Sys.storeWritten_rest : { x.storeWritten f with mem := { (x.storeWritten f).mem with data := x.mem.data } } = x := by
  unfold Sys.storeWritten
  split
  · split <;> rfl
  · next hp =>
    unfold Sys.putLine
    rw [Sys.forMemory_kept fun hs => hp ⟨hs.1, hs.2.1⟩]

/-- The stored bytes as readers outside the copies set apart meet them. -/
theorem Sys.storeWritten_byte (hl : f.line < 218726400) {a : Nat} (ha : keyKind a ≠ 3) :
    (x.storeWritten f).mem.data.byte a
      = if physKey f.tier.val f.hank.val (64 * f.line) ≤ a ∧ a < physKey f.tier.val f.hank.val (64 * f.line) + 64
          ∧ ¬ (f.tier.val = 0 ∧ ((x.mem.line f.hank.val (f.line / 4)).present = true ∨ (x.mem.line f.hank.val (f.line / 4)).apart = true))
        then f.data.getD (a - physKey f.tier.val f.hank.val (64 * f.line)) 0 else x.mem.data.byte a := by
  have houtside : ¬ (physKey 3 f.hank.val (64 * f.line) ≤ a ∧ a < physKey 3 f.hank.val (64 * f.line) + 64) := fun hin =>
    ha (keyKind_of_mem f.hank.isLt (by unfold physKey at hin ⊢; omega) (by unfold physKey at hin ⊢; omega))
  unfold Sys.storeWritten
  by_cases hp : f.tier.val = 0 ∧ (x.mem.line f.hank.val (f.line / 4)).present = true
  · have hslice : ¬ (physKey f.tier.val f.hank.val (64 * f.line) ≤ a ∧ a < physKey f.tier.val f.hank.val (64 * f.line) + 64
        ∧ ¬ (f.tier.val = 0 ∧ ((x.mem.line f.hank.val (f.line / 4)).present = true ∨ (x.mem.line f.hank.val (f.line / 4)).apart = true))) :=
      fun hin => hin.2.2 ⟨hp.1, .inl hp.2⟩
    rw [if_pos hp, if_neg hslice]
    split
    · exact (Mem.byte_copyRange ..).trans (if_neg houtside)
    · rfl
  · rw [if_neg hp]
    unfold Sys.putLine
    rw [Sys.forMemory_kept fun hs => hp ⟨hs.1, hs.2.1⟩]
    refine (Mem.byte_put ..).trans ?_
    have hlen : (sliceB f.data 0 64).length = 64 := by simp [sliceB]
    rw [hlen]
    by_cases ha' : f.tier.val = 0 ∧ (x.mem.line f.hank.val (f.line / 4)).apart = true
    · have hkey : x.memKey f.tier.val f.hank.val f.line = physKey 3 f.hank.val (64 * f.line) := by simp [Sys.memKey, ha'.1, ha'.2]
      rw [hkey, if_neg houtside, if_neg fun hin => hin.2.2 ⟨ha'.1, .inr ha'.2⟩]
    · have hkey : x.memKey f.tier.val f.hank.val f.line = physKey f.tier.val f.hank.val (64 * f.line) :=
        (x.memKey_cases f.tier.val f.hank.val f.line).resolve_right fun h => ha' h.2
      rw [hkey]
      have hcond : ∀ P Q : Prop, (P ∧ Q ∧ ¬ (f.tier.val = 0 ∧ ((x.mem.line f.hank.val (f.line / 4)).present = true ∨ (x.mem.line f.hank.val (f.line / 4)).apart = true))) ↔ P ∧ Q := by
        tauto
      simp only [hcond]
      split
      · next hin =>
        have hj : a - physKey f.tier.val f.hank.val (64 * f.line) < 64 := by omega
        simp [sliceB, hj, List.getD_eq_getElem?_getD]
      · rfl

/-- A line that its home slice holds apart is written back from the slice. -/
theorem Sys.storeWritten_back (ht : f.tier.val = 0) (hp : (x.mem.line f.hank.val (f.line / 4)).present = true) (ha : (x.mem.line f.hank.val (f.line / 4)).apart = true)
    {j : Nat} (hj : j < 64) : (x.storeWritten f).mem.data.byte (physKey 3 f.hank.val (64 * f.line) + j) = x.mem.data.byte (physKey 0 f.hank.val (64 * f.line) + j) := by
  unfold Sys.storeWritten
  rw [if_pos ⟨ht, hp⟩, if_pos ha]
  refine (Mem.byte_copyRange ..).trans ?_
  rw [if_pos (by omega), Nat.add_sub_cancel_left]

end Store

/-! The write of a line (R198, R240) -/

section Write

variable {y : Sys} {f : TierF}

/-- Lines that a write reads without errors let it go on. -/
theorem Sys.readOthers_sound {t h : Nat} (hf : (y.region t h).failed = []) {ls : List (Nat × List (BitVec 144) × BitVec 144)} (hls : ∀ e ∈ ls, e.2 = ([], 0#144)) :
    y.readOthers t h ls = (y, none) := by
  induction ls with
  | nil => rfl
  | cons e rest ih =>
    have he := hls e List.mem_cons_self
    unfold Sys.readOthers
    rw [he, Sys.checkLine_sound hf]
    exact ih fun d hd => hls d (List.mem_cons_of_mem _ hd)

theorem Sys.readBefore_sound (hflips : f.flips = []) (htag : f.tagFlip = 0#144) (hothers : f.others = []) : ∀ e ∈ y.readBefore f, e.2 = ([], 0#144) := by
  intro e he
  unfold Sys.readBefore at he
  rw [hflips, htag, hothers] at he
  dsimp only at he
  split at he
  · obtain ⟨i, -, rfl⟩ := List.mem_map.mp he
    split <;> rfl
  · split at he
    · obtain ⟨i, -, rfl⟩ := List.mem_map.mp he
      split <;> rfl
    · cases he

/-- The region of a write once its path has been read. -/
def Sys.readRegion (y : Sys) (f : TierF) : Seize := (y.region f.tier.val f.hank.val).holdAll ((y.region f.tier.val f.hank.val).missing (f.line / 64))

theorem Sys.readRegion_same (y : Sys) (f : TierF) : (y.region f.tier.val f.hank.val).SameButHeld (y.readRegion f) := Seize.holdAll_same ..

/-- The units once a write's path was read and its region became `w`. -/
def Sys.counted (y : Sys) (f : TierF) (w : Seize) : Sys :=
  ((y.takeItems f.tier.val f.hank.val ((y.region f.tier.val f.hank.val).missing (f.line / 64))).setRegion f.tier.val f.hank.val w).fitThimble 8
    f.tier.val f.hank.val (f.line / 64)

/-- A write whose path and lines are read without errors. -/
theorem TierReady.tierWrite_eq (h : TierReady y f) (hflips : f.flips = []) (htag : f.tagFlip = 0#144) (hothers : f.others = []) {w : Seize} {o : LineOut}
    (ha : (y.readRegion f).advance f.line = (w, o)) :
    y.tierWrite f = if o.wrote then ((y.counted f (w.mended f.line)).lineEffects f.tier.val f.hank.val f.line o).storeWritten f
      else (y.counted f w).lineEffects f.tier.val f.hank.val f.line o := by
  have hstep := y.takeItems_step f.tier.val f.hank.val ((y.region f.tier.val f.hank.val).missing (f.line / 64))
  have hfailed := (hstep.failed f.tier.val f.hank.val).trans h.failed
  have hadvance : ((y.takeItems f.tier.val f.hank.val ((y.region f.tier.val f.hank.val).missing (f.line / 64))).region f.tier.val f.hank.val).advance f.line = (w, o) := by
    rw [Sys.takeItems_region]
    exact ha
  unfold Sys.tierWrite
  simp only [h.usable, Sys.readPath_ok h.listed h.failed h.ctrFlips h.nodeFlips, Bool.not_true, Bool.false_eq_true, if_false,
    Sys.readOthers_sound hfailed (Sys.readBefore_sound hflips htag hothers), Sys.writeLine, hadvance]
  cases o <;> rfl

theorem Sys.counted_onlyRegions (y : Sys) (f : TierF) (w : Seize) : y.OnlyRegions (y.counted f w) :=
  ((Sys.takeItems_step ..).1.trans (Sys.onlyRegions_setRegion ..)).trans (Sys.fitThimble_step ..).1.1

/-- The region of a written line keeps what its write gave it, and what outlasts evictions. -/
theorem Sys.counted_region (y : Sys) (f : TierF) (w : Seize) : w.SameButHeld ((y.counted f w).region f.tier.val f.hank.val)
    ∧ ∀ P, OutlastsEvictions (f.line / 64) P → P w → P ((y.counted f w).region f.tier.val f.hank.val) := by
  unfold Sys.counted
  generalize y.takeItems f.tier.val f.hank.val ((y.region f.tier.val f.hank.val).missing (f.line / 64)) = x
  obtain ⟨hfit, hkeeps⟩ := Sys.fitThimble_step 8 f.tier.val f.hank.val (f.line / 64) (x.setRegion f.tier.val f.hank.val w)
  have hsame := hfit.2 f.tier.val f.hank.val
  rw [Sys.region_setRegion] at hsame hkeeps
  exact ⟨hsame, hkeeps⟩

/-- A region whose write is refused keeps everything but the items of its cache, and so does every other. -/
theorem Sys.counted_sameRegions (y : Sys) (f : TierF) : SameRegions y (y.counted f (y.readRegion f)) := by
  have htake := y.takeItems_step f.tier.val f.hank.val ((y.region f.tier.val f.hank.val).missing (f.line / 64))
  have hregion : (y.takeItems f.tier.val f.hank.val ((y.region f.tier.val f.hank.val).missing (f.line / 64))).region f.tier.val f.hank.val = y.readRegion f := Sys.takeItems_region ..
  refine ((htake.trans (Sys.cacheStep_setRegion ?_)).trans (Sys.fitThimble_step ..).1).2
  rw [hregion]
  exact .refl _

end Write

end Sys2Proof.Machine

/-!
O55, TIER_READ and TIER_WRITE by case, and the obligation.
-/

namespace Sys2Proof.Machine

section Cases

variable {y : Sys} {f : TierF} (hready : TierReady y f)
include hready

theorem TierReady.failed_onPath : ((y.onPath f).region f.tier.val f.hank.val).failed = [] := ((y.onPath_step f).failed ..).trans hready.failed

omit hready in
theorem Sys.memKey_onPath : (y.onPath f).memKey f.tier.val f.hank.val f.line = y.memKey f.tier.val f.hank.val f.line := Sys.memKey_congr (y.onPath_step f).1.cache ..

omit hready in
theorem Sys.lineData_onPath : (y.onPath f).lineData f.tier.val f.hank.val f.line = y.lineData f.tier.val f.hank.val f.line := by
  unfold Sys.lineData
  rw [Sys.memKey_onPath, (y.onPath_step f).1.data]

omit hready in
theorem Sys.marks_onPath (hclean : ∀ i < 4, y.mem.data.mark (y.memKey f.tier.val f.hank.val f.line / 16 + i) = .clean) :
    ∀ i < 4, (y.onPath f).mem.data.mark ((y.onPath f).memKey f.tier.val f.hank.val f.line / 16 + i) = .clean := by
  rw [Sys.memKey_onPath, (y.onPath_step f).1.data]
  exact hclean

omit hready in
theorem Sys.lineData_congr {z : Sys} (h : z.mem = y.mem) (t hank line : Nat) : z.lineData t hank line = y.lineData t hank line := by
  unfold Sys.lineData
  rw [Sys.memKey_congr (congrArg MemSys.cache h), h]

/-- What a read leaves that hands over words of its line, and counts `n` corrections. -/
structure Sys.LineRead (y u : Sys) (f : TierF) (n : Nat) : Prop where
  mem : u.mem = { (y.onPath f).mem with
    delivered := some { kind := f.tier.val, hank := f.hank.val, offset := 64 * f.line, words := y.lineData f.tier.val f.hank.val f.line } }
  parts : u.parts = y.parts
  corrected : u.log.counters.get 0 errCorrected = y.log.counters.get 0 errCorrected + n

variable (hclean : ∀ i < 4, y.mem.data.mark (y.memKey f.tier.val f.hank.val f.line / 16 + i) = .clean)
include hclean

theorem TierReady.tierRead_sound (hflips : f.flips = []) (htag : f.tagFlip = 0#144) : y.LineRead (y.tierRead f) f 0 := by
  have hcheck : (y.onPath f).checkLine f.tier.val f.hank.val f.line f.flips f.tagFlip = .ok (y.onPath f) ((y.onPath f).lineWords f.tier.val f.hank.val f.line []) := by
    rw [hflips, htag, Sys.checkLine_sound hready.failed_onPath]
  have hread := Sys.readData_ok hcheck
  rw [Sys.lineWords_clean (Sys.marks_onPath hclean), List.replicate_succ, Sys.decoded_first (by decide), Sys.lineData_onPath] at hread
  rw [hready.tierRead_eq]
  exact ⟨hread.mem, hread.parts.trans (y.onPath_step f).1.parts, congrArg (SMap.get 0 · errCorrected) (hread.counters.trans (congrArg Log.counters (y.onPath_step f).1.log))⟩

theorem TierReady.tierRead_corrected {j : Nat} {v : BitVec 4} (hj : j < 36) (hv : v ≠ 0#4) (hflips : f.flips = [flipSymbol 0#144 j v]) (htag : f.tagFlip = 0#144) :
    y.LineRead (y.tierRead f) f 1 := by
  have hcheck : (y.onPath f).checkLine f.tier.val f.hank.val f.line f.flips f.tagFlip
      = .ok ((y.onPath f).correctedAt f.tier.val f.hank.val (64 * f.line)) ((.corrected j, 0#128) :: List.replicate 3 (.clean, 0#128)) := by
    rw [hflips, htag, Sys.checkLine_corrected (Sys.marks_onPath hclean) hready.failed_onPath hj hv]
  have hcount := (y.onPath f).correctedAt_reports f.tier.val f.hank.val (64 * f.line)
  have hread := Sys.readData_ok hcheck
  rw [Sys.decoded_first ⟨rfl, by simp⟩] at hread
  have hdata := (Sys.lineData_congr hcount.mem f.tier.val f.hank.val f.line).trans Sys.lineData_onPath
  rw [hdata] at hread
  rw [hready.tierRead_eq]
  have hall := (hcount.handOver ..).trans hread
  refine ⟨hall.mem, hall.parts.trans (y.onPath_step f).1.parts, ?_⟩
  rw [hall.counters]
  refine (Sys.counter_bump (y.onPath f) errCorrected 1 errCorrected).trans ?_
  rw [if_pos rfl, (y.onPath_step f).1.log]

/-- What a read leaves that finds the first codeword of its line lost. -/
theorem TierReady.tierRead_lost {e : BitVec 144} (he : classify (syndrome e) = .bad) (hflips : f.flips = [e]) (htag : f.tagFlip = 0#144)
    (hobjs : ∀ p, y.holder f.hank.val = some p → (y.part p).objs = []) :
    ((((y.onPath f).poisonLine f.tier.val f.hank.val f.line 0 16 .poisoned).bump errPoisoned 1).handOver f.tier.val f.hank.val (64 * f.line)
      ((.poisoned, []) :: (y.lineData f.tier.val f.hank.val f.line).tail)).Reports (y.tierRead f) := by
  have hparts := (y.onPath_step f).1.parts
  have hmirror : (y.onPath f).mirrorLine f.tier.val f.hank.val f.line = none := Sys.mirrorLine_none fun p hp => by
    rw [Sys.holder_congr hparts] at hp
    rw [Sys.part_congr hparts]
    exact hobjs p hp
  have hread := Sys.readData_lost (by rw [hflips, htag]; exact Sys.checkLine_lost (Sys.marks_onPath hclean) he) hmirror
  rw [Sys.decoded_lost, Sys.lineData_onPath] at hread
  rw [hready.tierRead_eq]
  exact (((y.onPath f).lineLost_reports f.tier.val f.hank.val f.line).handOver ..).trans hread

theorem TierReady.tierRead_tagFail (hflips : f.flips = []) (htag : syndrome f.tagFlip = Synd.zero)
    (herr : (f.tagFlip.setWidth 128).extractLsb' (64 * (f.line % 2)) 64 ≠ 0#64) :
    ∃ x : Sys, x.parts = y.parts ∧ y.tierRead f = (x.memAlarm f.tier.val f.hank.val 0xFF f.line).deliverBad f.tier.val f.hank.val f.line .tagFail := by
  have hkeys : (((y.onPath f).region f.tier.val f.hank.val).keysAt (f.line / 64)).isSome = true := by
    rw [(y.onPath_step f).keysAt]
    exact (Bool.and_eq_true_iff.mp hready.usable).2
  obtain ⟨ks, hks⟩ := Option.isSome_iff_exists.mp hkeys
  refine ⟨_, ?_, hready.tierRead_eq.trans (Sys.readData_tagFail (by rw [hflips]; exact Sys.checkLine_tagFail (Sys.marks_onPath hclean) hks htag herr))⟩
  exact (y.onPath_step f).1.parts

end Cases

section Writes

variable {y : Sys} {f : TierF} (hready : TierReady y f) (hflips : f.flips = []) (htag : f.tagFlip = 0#144) (hothers : f.others = [])
include hready

theorem TierReady.readRegion_ready : (y.readRegion f).listed (f.line / 64) = false ∧ (y.readRegion f).failed = [] ∧ (y.readRegion f).stuck = (y.region f.tier.val f.hank.val).stuck
    ∧ (y.readRegion f).minors = (y.region f.tier.val f.hank.val).minors ∧ (y.readRegion f).majors = (y.region f.tier.val f.hank.val).majors := by
  have hlisted := hready.listed
  have hfailed := hready.failed
  rw [(y.readRegion_same f).eq]
  exact ⟨hlisted, hfailed, rfl, rfl, rfl⟩

include hflips htag hothers

/-- A write to a page with counters left. -/
theorem TierReady.tierWrite_written (hs : f.line / 64 ∉ (y.region f.tier.val f.hank.val).stuck)
    (hleft : (y.region f.tier.val f.hank.val).minors.get 0 f.line < 127 ∨ (y.region f.tier.val f.hank.val).majors.get 0 (f.line / 64) < 2 ^ 64 - 1) :
    ∃ x : Sys, y.tierWrite f = x.storeWritten f ∧ x.mem.data = y.mem.data ∧ x.mem.cache = y.mem.cache
      ∧ (y.region f.tier.val f.hank.val).Written (x.region f.tier.val f.hank.val) f.line
      ∧ (127 ≤ (y.region f.tier.val f.hank.val).minors.get 0 f.line → x.log.counters.get 0 errReencrypt = y.log.counters.get 0 errReencrypt + 1) := by
  obtain ⟨hlisted, hfailed, hstuck, hminors, hmajors⟩ := hready.readRegion_ready
  obtain ⟨w, o, ha, hwritten, ho⟩ := Seize.written_advance hlisted hfailed (hstuck ▸ hs) (by rw [hminors, hmajors]; exact hleft)
  obtain ⟨hsame, hkeeps⟩ := y.counted_region f (w.mended f.line)
  have honly := y.counted_onlyRegions f (w.mended f.line)
  have hregion := hwritten.congr (y.readRegion_same f) hsame (hkeeps _ (dirty_outlasts hready.page_lt) hwritten.dirty) (hkeeps _ (holdsPath_outlasts hready.page_lt) hwritten.path)
  have hwrite := hready.tierWrite_eq hflips htag hothers ha
  rw [hminors] at ho
  rcases ho with ⟨rfl, hm⟩ | ⟨rfl, hm⟩
  · exact ⟨_, hwrite, honly.data, honly.cache, hregion, fun hge => by omega⟩
  · refine ⟨_, hwrite, honly.data, honly.cache, hregion, fun _ => ?_⟩
    refine (Sys.counter_bump (y.counted f (w.mended f.line)) errReencrypt 1 errReencrypt).trans ?_
    rw [if_pos rfl, honly.log]

/-- A write at the end of a page's MAJOR. -/
theorem TierReady.tierWrite_exhausted (hs : f.line / 64 ∉ (y.region f.tier.val f.hank.val).stuck)
    (hm : 127 ≤ (y.region f.tier.val f.hank.val).minors.get 0 f.line) (he : (y.region f.tier.val f.hank.val).majors.get 0 (f.line / 64) = 2 ^ 64 - 1) :
    ∃ x : Sys, y.OnlyRegions x ∧ f.line / 64 ∈ (x.region f.tier.val f.hank.val).stuck
      ∧ ((x.poisonLine f.tier.val f.hank.val f.line 0 64 .poisoned).bump errRotate 1).Reports (y.tierWrite f) := by
  obtain ⟨hlisted, hfailed, hstuck, hminors, hmajors⟩ := hready.readRegion_ready
  have ha := Seize.advance_end hlisted hfailed (hstuck ▸ hs) (by rw [hminors]; exact hm) (by rw [hmajors]; exact he)
  rw [hready.tierWrite_eq hflips htag hothers ha]
  refine ⟨_, y.counted_onlyRegions f _, ?_, Sys.exhaust_reports ..⟩
  rw [(y.counted_region f _).1.eq]
  exact List.mem_cons_self

/-- A write to a page that has met the end of its MAJOR before. -/
theorem TierReady.tierWrite_refused (hs : f.line / 64 ∈ (y.region f.tier.val f.hank.val).stuck) :
    ∃ x : Sys, y.CacheStep x ∧ y.tierWrite f = x.poisonLine f.tier.val f.hank.val f.line 0 64 .poisoned := by
  obtain ⟨hlisted, hfailed, hstuck, -, -⟩ := hready.readRegion_ready
  have ha := Seize.advance_stuck hlisted hfailed (hstuck ▸ hs)
  exact ⟨_, ⟨y.counted_onlyRegions f _, y.counted_sameRegions f⟩, hready.tierWrite_eq hflips htag hothers ha⟩

end Writes

/-! The states that the requests leave -/

theorem Sys.bump_mem (y : Sys) (key n : Nat) : (y.bump key n).mem = y.mem := rfl

theorem Sys.handOver_mem (y : Sys) (kind hank off : Nat) (w : List (Mark × Bytes)) :
    (y.handOver kind hank off w).mem = { y.mem with delivered := some { kind := kind, hank := hank, offset := off, words := w } } := rfl

theorem Sys.deliverBad_delivered (y : Sys) (t h line : Nat) (m : Mark) :
    (y.deliverBad t h line m).mem.delivered = some { kind := t, hank := h, offset := 64 * line, words := List.replicate 4 (m, []) } := rfl

theorem Sys.deliverBad_parts (y : Sys) (t h line : Nat) (m : Mark) : (y.deliverBad t h line m).parts = y.parts := rfl

/-- From `y` to `z` the first `n` codewords of a line are poisoned in its memory: no byte changes that any reader meets, and no other mark. -/
structure Sys.LinePoisoned (y z : Sys) (t h line n : Nat) : Prop where
  poisoned : ∀ i < n, z.mem.data.mark (z.memKey t h line / 16 + i) = .poisoned
  bytes : SameBytes y z
  lineBytes : ∀ j < 64, z.mem.data.byte (z.memKey t h line + j) = y.mem.data.byte (y.memKey t h line + j)
  marks : ∀ c, keyKind (16 * c) ≠ 3 → (∀ i < n, c ≠ z.memKey t h line / 16 + i) → z.mem.data.mark c = y.mem.data.mark c

theorem Sys.linePoisoned_of {y x z : Sys} {t h line k n : Nat} (hh : h < 80) (hl : line < 218726400) (hk : k = 16 * n) (hx : y.OnlyRegions x)
    (hdata : z.mem.data = (x.poisonLine t h line 0 k .poisoned).mem.data) (hcache : z.mem.cache = (x.poisonLine t h line 0 k .poisoned).mem.cache) :
    y.LinePoisoned z t h line n := by
  have hkept := Sys.poisonLine_lineKept (y := x) (t := t) hh hl 0 k .poisoned
  have hkey : x.memKey t h line = y.memKey t h line := Sys.memKey_congr hx.cache ..
  have hkey' : z.memKey t h line = (x.poisonLine t h line 0 k .poisoned).memKey t h line := Sys.memKey_congr hcache ..
  have hlen : k % 16 = 0 := by omega
  refine ⟨fun i hi => ?_, fun a ha => ?_, fun j hj => ?_, fun c hc hout => ?_⟩
  · rw [hdata, hkey']
    exact Sys.poisonLine_poisoned rfl hlen _ (by omega)
  · rw [hdata, hkept.bytes a ha, hx.data]
  · rw [hdata, hkey', hkept.line j hj, hkey, hx.data]
  · rw [hdata, Sys.poisonLine_mark hh hl rfl hlen .poisoned hc fun i _ hi => hkey' ▸ hout i (by omega), hx.data]

section States

variable {f : TierF} {s : State} (hready : TierReady s.sys f) (hserved : ¬ (s.sys.tierWaits f.tier.val f.hank.val = true ∨ s.sys.behind f.tier.val f.hank.val = true))
include hready hserved

theorem TierReady.exec_tierRead_words {n : Nat} (h : s.sys.LineRead (s.sys.tierRead f) f n) : ∃ u, exec (.tierRead f) s = .next u
    ∧ (SameRegions s.sys u.sys
      ∧ { u.sys.mem with regions := s.sys.mem.regions } = { s.sys.mem with
          delivered := some { kind := f.tier.val, hank := f.hank.val, offset := 64 * f.line, words := s.sys.lineData f.tier.val f.hank.val f.line } }
      ∧ (∀ l < 8, (u.sys.region f.tier.val f.hank.val).holds l (f.line / 64 / 8 ^ l) = true) ∧ u.sys.parts = s.sys.parts ∧ u.fuses = s.fuses)
    ∧ u.sys.log.counters.get 0 errCorrected = s.sys.log.counters.get 0 errCorrected + n := by
  obtain ⟨u, hexec, hfuses, hmem, hparts, hlog⟩ := exec_tierRead_served hready.line hserved
  obtain ⟨hregions, hrest, hpath⟩ := hready.served (hmem.trans h.mem)
  refine ⟨u, hexec, ⟨hregions, hrest, hpath, hparts.trans h.parts, hfuses⟩, ?_⟩
  rw [hlog, h.corrected]

variable (hclean : ∀ i < 4, s.sys.mem.data.mark (s.sys.memKey f.tier.val f.hank.val f.line / 16 + i) = .clean)

include hclean in
theorem TierReady.exec_tierRead_lost {e : BitVec 144} (he : classify (syndrome e) = .bad) (hflips : f.flips = [e]) (htag : f.tagFlip = 0#144)
    (hobjs : ∀ p, s.sys.holder f.hank.val = some p → (s.sys.part p).objs = []) : ∃ u, exec (.tierRead f) s = .next u
      ∧ u.sys.mem.delivered = some { kind := f.tier.val, hank := f.hank.val, offset := 64 * f.line, words := (.poisoned, []) :: (s.sys.lineData f.tier.val f.hank.val f.line).tail }
      ∧ s.sys.LinePoisoned u.sys f.tier.val f.hank.val f.line 1 ∧ u.sys.log.counters.get 0 errPoisoned = s.sys.log.counters.get 0 errPoisoned + 1 := by
  obtain ⟨u, hexec, -, hmem, -, hlog⟩ := exec_tierRead_served hready.line hserved
  have hread := hready.tierRead_lost hclean he hflips htag hobjs
  have honly := (s.sys.onPath_step f).1
  have hkept := Sys.poisonLine_lineKept (y := s.sys.onPath f) (t := f.tier.val) f.hank.isLt hready.line 0 16 .poisoned
  have hbefore : ((s.sys.onPath f).poisonLine f.tier.val f.hank.val f.line 0 16 .poisoned).log = s.sys.log := (congrArg Sys.log hkept.rest :).trans honly.log
  have hafter := hmem.trans (hread.mem.trans (Sys.handOver_mem ..))
  refine ⟨u, hexec, ?_, Sys.linePoisoned_of (k := 16) f.hank.isLt hready.line rfl honly ?_ ?_, ?_⟩
  · rw [hafter]
  · rw [hafter, Sys.bump_mem]
  · rw [hafter, Sys.bump_mem]
  · rw [hlog, hread.counters, Sys.handOver_log, Sys.counter_bump, if_pos rfl, hbefore]

include hclean in
theorem TierReady.exec_tierRead_tagFail (hflips : f.flips = []) (htag : syndrome f.tagFlip = Synd.zero)
    (herr : (f.tagFlip.setWidth 128).extractLsb' (64 * (f.line % 2)) 64 ≠ 0#64) : ∃ u d, exec (.tierRead f) s = .next u
      ∧ u.sys.mem.delivered = some d ∧ d.words.length = 4 ∧ (∀ w ∈ d.words, w.1.isBad = true ∧ w.2 = [])
      ∧ ∀ p, s.sys.holder f.hank.val = some p → (s.sys.part p).standing = true → fieldN (s.sys.part p).policy 0xB 1 % 2 = 0 → (u.sys.part p).state = .frozen := by
  obtain ⟨u, hexec, -, hmem, hparts, -⟩ := exec_tierRead_served hready.line hserved
  obtain ⟨x, hx, hread⟩ := hready.tierRead_tagFail hclean hflips htag herr
  rw [hread] at hmem hparts
  rw [Sys.deliverBad_parts] at hparts
  refine ⟨u, _, hexec, (congrArg MemSys.delivered hmem).trans (Sys.deliverBad_delivered ..), List.length_replicate, fun w hw => ?_, fun p hp hstanding hpolicy => ?_⟩
  · rw [List.eq_of_mem_replicate hw]
    exact ⟨rfl, rfl⟩
  · rw [← Sys.holder_congr hx] at hp
    rw [← Sys.part_congr hx] at hstanding hpolicy
    rw [Sys.part_congr hparts]
    exact Sys.memAlarm_freezes hp hstanding hpolicy

variable (hflips : f.flips = []) (htag : f.tagFlip = 0#144) (hothers : f.others = [])
include hflips htag hothers

theorem TierReady.exec_tierWrite_exhausted (hs : f.line / 64 ∉ (s.sys.region f.tier.val f.hank.val).stuck)
    (hm : 127 ≤ (s.sys.region f.tier.val f.hank.val).minors.get 0 f.line) (he : (s.sys.region f.tier.val f.hank.val).majors.get 0 (f.line / 64) = 2 ^ 64 - 1) :
    ∃ u, exec (.tierWrite f) s = .next u ∧ u.sys.log.counters.get 0 errRotate = s.sys.log.counters.get 0 errRotate + 1
      ∧ s.sys.LinePoisoned u.sys f.tier.val f.hank.val f.line 4 ∧ f.line / 64 ∈ (u.sys.region f.tier.val f.hank.val).stuck := by
  obtain ⟨u, hexec, -, hmem, hlog⟩ := exec_tierWrite_served hready.line hserved
  obtain ⟨x, honly, hstuck, hwrite⟩ := hready.tierWrite_exhausted hflips htag hothers hs hm he
  have hkept := Sys.poisonLine_lineKept (y := x) (t := f.tier.val) f.hank.isLt hready.line 0 64 .poisoned
  have hbefore : (x.poisonLine f.tier.val f.hank.val f.line 0 64 .poisoned).log = s.sys.log := (congrArg Sys.log hkept.rest :).trans honly.log
  have hafter : u.sys.mem = (x.poisonLine f.tier.val f.hank.val f.line 0 64 .poisoned).mem := hmem.trans hwrite.mem
  have hregions : u.sys.mem.regions = x.mem.regions := by
    rw [hafter]
    exact (congrArg MemSys.regions hkept.mem :)
  refine ⟨u, hexec, ?_, Sys.linePoisoned_of (k := 64) f.hank.isLt hready.line rfl honly (congrArg MemSys.data hafter) (congrArg MemSys.cache hafter), ?_⟩
  · rw [hlog, hwrite.counters, Sys.counter_bump, if_pos rfl, hbefore]
  · rw [Sys.region, hregions]
    exact hstuck

theorem TierReady.exec_tierWrite_refused (hs : f.line / 64 ∈ (s.sys.region f.tier.val f.hank.val).stuck) :
    ∃ u, exec (.tierWrite f) s = .next u ∧ u.sys.log = s.sys.log ∧ SameRegions s.sys u.sys ∧ s.sys.LinePoisoned u.sys f.tier.val f.hank.val f.line 4 := by
  obtain ⟨u, hexec, -, hmem, hlog⟩ := exec_tierWrite_served hready.line hserved
  obtain ⟨x, hstep, hwrite⟩ := hready.tierWrite_refused hflips htag hothers hs
  have hkept := Sys.poisonLine_lineKept (y := x) (t := f.tier.val) f.hank.isLt hready.line 0 64 .poisoned
  rw [hwrite] at hmem hlog
  have hregions : u.sys.mem.regions = x.mem.regions := by
    rw [hmem]
    exact (congrArg MemSys.regions hkept.mem :)
  refine ⟨u, hexec, hlog.trans ((congrArg Sys.log hkept.rest :).trans hstep.1.log), fun t h => ?_,
    Sys.linePoisoned_of (k := 64) f.hank.isLt hready.line rfl hstep.1 (congrArg MemSys.data hmem) (congrArg MemSys.cache hmem)⟩
  have hregion : u.sys.region t h = x.region t h := by
    unfold Sys.region
    rw [hregions]
  rw [hregion]
  exact hstep.2 t h

/-- A performed write: the bytes that readers meet, and the counters. -/
theorem TierReady.exec_tierWrite_written (hs : f.line / 64 ∉ (s.sys.region f.tier.val f.hank.val).stuck)
    (hleft : (s.sys.region f.tier.val f.hank.val).minors.get 0 f.line < 127 ∨ (s.sys.region f.tier.val f.hank.val).majors.get 0 (f.line / 64) < 2 ^ 64 - 1) :
    ∃ u, exec (.tierWrite f) s = .next u ∧ u.fuses = s.fuses
      ∧ (∀ a, keyKind a ≠ 3 → u.sys.mem.data.byte a
          = if physKey f.tier.val f.hank.val (64 * f.line) ≤ a ∧ a < physKey f.tier.val f.hank.val (64 * f.line) + 64
              ∧ ¬ (f.tier.val = 0 ∧ ((s.sys.mem.line f.hank.val (f.line / 4)).present = true ∨ (s.sys.mem.line f.hank.val (f.line / 4)).apart = true))
            then f.data.getD (a - physKey f.tier.val f.hank.val (64 * f.line)) 0 else s.sys.mem.data.byte a)
      ∧ (f.tier.val = 0 → (s.sys.mem.line f.hank.val (f.line / 4)).present = true → (s.sys.mem.line f.hank.val (f.line / 4)).apart = true → ∀ j < 64,
          u.sys.mem.data.byte (physKey 3 f.hank.val (64 * f.line) + j) = s.sys.mem.data.byte (physKey 0 f.hank.val (64 * f.line) + j))
      ∧ (s.sys.region f.tier.val f.hank.val).Written (u.sys.region f.tier.val f.hank.val) f.line
      ∧ (127 ≤ (s.sys.region f.tier.val f.hank.val).minors.get 0 f.line → u.sys.log.counters.get 0 errReencrypt = s.sys.log.counters.get 0 errReencrypt + 1) := by
  obtain ⟨u, hexec, hfuses, hmem, hlog⟩ := exec_tierWrite_served hready.line hserved
  obtain ⟨x, hwrite, hdata, hcache, hwritten, hcount⟩ := hready.tierWrite_written hflips htag hothers hs hleft
  have hrest := x.storeWritten_rest (f := f)
  rw [hwrite] at hmem hlog
  have hline : x.mem.line f.hank.val (f.line / 4) = s.sys.mem.line f.hank.val (f.line / 4) := by
    unfold MemSys.line
    rw [hcache]
  have hregion : u.sys.region f.tier.val f.hank.val = x.region f.tier.val f.hank.val := by
    unfold Sys.region
    rw [hmem]
    exact (congrArg (fun y : Sys => y.region f.tier.val f.hank.val) hrest :)
  have hlog' : u.sys.log = x.log := hlog.trans (congrArg Sys.log hrest :)
  refine ⟨u, hexec, hfuses, fun a ha => ?_, fun ht hp ha j hj => ?_, ?_, fun hge => ?_⟩
  · rw [hmem, Sys.storeWritten_byte hready.line ha, hline, hdata]
  · rw [hmem, Sys.storeWritten_back ht (by rw [hline]; exact hp) (by rw [hline]; exact ha) hj, hdata]
  · rw [hregion]
    exact hwritten
  · rw [hlog']
    exact hcount hge

end States

/-! The obligation -/

/-- A line of a listed page: what its mirror serves, or nothing but poison (R248, R437). -/
theorem exec_tier_listed {f : TierF} {s : State} (hl : f.line < 218726400)
    (hserved : ¬ (s.sys.tierWaits f.tier.val f.hank.val = true ∨ s.sys.behind f.tier.val f.hank.val = true))
    (husable : (s.sys.region f.tier.val f.hank.val).usable (f.line / 64) = true) (hlisted : (s.sys.region f.tier.val f.hank.val).listed (f.line / 64) = true) :
    (s.sys.mirrorLine f.tier.val f.hank.val f.line = none → ∃ u d, exec (.tierRead f) s = .next u ∧ u.sys.mem = { s.sys.mem with delivered := some d } ∧ d.offset = 64 * f.line
      ∧ d.words.length = 4 ∧ ∀ w ∈ d.words, w.1.isBad = true ∧ w.2 = [])
    ∧ (∀ m, s.sys.mirrorLine f.tier.val f.hank.val f.line = some m → ∃ u d, exec (.tierRead f) s = .next u ∧ u.sys.mem = { s.sys.mem with delivered := some d } ∧ d.offset = 64 * f.line
      ∧ (m.1.length = 64 → d.words = (List.range 4).map (fun i => (Mark.clean, (m.1.drop (16 * i)).take 16))))
    ∧ ∃ u, exec (.tierWrite f) s = .next u ∧ u.sys.mem = s.sys.mem ∧ u.fuses = s.fuses := by
  obtain ⟨u, hexec, -, hmem, -, -⟩ := exec_tierRead_served hl hserved
  obtain ⟨u', hexec', hfuses, hmem', -⟩ := exec_tierWrite_served hl hserved
  rw [Sys.tierRead_listed husable hlisted] at hmem
  rw [Sys.tierWrite_listed husable hlisted] at hmem'
  refine ⟨fun hm => ⟨u, _, hexec, hmem.trans (Sys.unknownLine_none hm), rfl, List.length_replicate, fun w hw => ?_⟩,
    fun m hm => ⟨u, _, hexec, hmem.trans (Sys.unknownLine_some hm), rfl, words_ofBytes⟩, u', hexec', hmem'.trans (Sys.logTier_reports ..).mem, hfuses⟩
  rw [List.eq_of_mem_replicate hw]
  exact ⟨rfl, rfl⟩

/-- A page under no key set, or in a region that is not keyed (R226, R241). -/
theorem exec_tier_unusable {f : TierF} {s : State} (hl : f.line < 218726400)
    (hserved : ¬ (s.sys.tierWaits f.tier.val f.hank.val = true ∨ s.sys.behind f.tier.val f.hank.val = true))
    (husable : (s.sys.region f.tier.val f.hank.val).usable (f.line / 64) = false) :
    (∃ u, exec (.tierRead f) s = .next u ∧ u.sys.mem = { s.sys.mem with delivered := none } ∧ u.fuses = s.fuses)
      ∧ ∃ u, exec (.tierWrite f) s = .next u ∧ u.sys.mem = s.sys.mem ∧ u.fuses = s.fuses := by
  obtain ⟨u, hexec, hfuses, hmem, -, -⟩ := exec_tierRead_served hl hserved
  obtain ⟨u', hexec', hfuses', hmem', -⟩ := exec_tierWrite_served hl hserved
  rw [Sys.tierRead_unusable husable] at hmem
  rw [Sys.tierWrite_unusable husable] at hmem'
  exact ⟨⟨u, hexec, hmem, hfuses⟩, u', hexec', hmem', hfuses'⟩

/-- Settles O55: requests that are not served by cases of their page; a served read by what the check of its line gives, a served write by what the counters of its line have left. -/
theorem tierAccess : Obligations.TierAccess := by
  unfold Obligations.TierAccess
  intro f s t h page k km M z line held count words got served lost
  refine ⟨exec_tier_fault, fun hl hheld => exec_tier_held hl hheld, fun hl hserved husable => exec_tier_unusable hl hserved husable,
    fun hl hserved husable hlisted => exec_tier_listed hl hserved husable hlisted, fun hl hserved husable hlisted hfailed hctr hnode hothers => ?_⟩
  have hready : TierReady s.sys f := ⟨hl, husable, hlisted, hfailed, hctr, hnode⟩
  refine ⟨fun hmarks => ?_, fun hflips htag => ⟨fun hs hleft => ?_, fun hs hm he => ?_, fun hs => ?_⟩⟩
  · have hclean : ∀ i < 4, M.data.mark (km / 16 + i) = .clean := fun i hi => (hmarks i hi).2
    refine ⟨fun hflips htag => ?_, fun j v hj hv hflips htag => ?_, fun e hflips he htag hobjs => ?_, fun hflips htag herr => ?_⟩
    · exact hready.exec_tierRead_words hserved (hready.tierRead_sound hclean hflips htag)
    · exact hready.exec_tierRead_words hserved (hready.tierRead_corrected hclean hj hv hflips htag)
    · obtain ⟨u, hexec, hdelivered, hpoison, hcount⟩ := hready.exec_tierRead_lost hserved hclean he hflips htag hobjs
      have hfirst := hpoison.poisoned 0 Nat.one_pos
      rw [Nat.add_zero] at hfirst
      exact ⟨u, hexec, hdelivered, hfirst, hpoison.bytes, hcount,
        fun c hc hne => hpoison.marks c hc fun i hi => by rwa [Nat.lt_one_iff.mp hi, Nat.add_zero], hpoison.lineBytes⟩
    · exact hready.exec_tierRead_tagFail hserved hclean hflips htag herr
  · obtain ⟨u, hexec, hfuses, hbytes, hback, hwritten, hcount⟩ := hready.exec_tierWrite_written hserved hflips htag hothers hs hleft
    refine ⟨u, hexec, hfuses, hbytes, fun ht hp ha j hj => ?_, hwritten.dirty, hwritten.path, hwritten.minor, fun hge => ?_⟩
    · have hkey : km = physKey 3 h (64 * f.line) := by
        show s.sys.memKey t h f.line = _
        unfold Sys.memKey
        rw [show s.sys.mem.line h (f.line / 4) = line from rfl, ha, ht]
        rfl
      rw [hkey, hback ht hp ha j hj, show k = physKey 0 h (64 * f.line) from by rw [← ht]]
    · exact ⟨(hwritten.major hge).1, hcount hge, (hwritten.major hge).2⟩
  · obtain ⟨u, hexec, hcount, hpoison, hstuck⟩ := hready.exec_tierWrite_exhausted hserved hflips htag hothers hs hm he
    exact ⟨u, hexec, hcount, hpoison.poisoned, hstuck, hpoison.bytes⟩
  · obtain ⟨u, hexec, hlog, hregions, hpoison⟩ := hready.exec_tierWrite_refused hserved hflips htag hothers hs
    exact ⟨u, hexec, congrArg (fun g : Log => g.counters.get 0 (dictKey 0x7100 7)) hlog, hpoison.poisoned, hregions, hpoison.bytes⟩

end Sys2Proof.Machine
